-- ==== Sys2Proof/Word.lean ====
section
/-! DEFINITION. The plainest types of the Vorund C8 model: a byte of a frame, a channel number and a chamber
alarm line number. Quantities (mV, mA, W, ms, mA·ms, µJ) are plain `Nat` and `Int`: the manual gives each of them a
range, a clamp or a saturation, and never lets one wrap. -/
namespace Sys2Proof

/-- A byte on the control link or on a stage line. -/
abbrev Byte := BitVec 8

/-- A channel, CH0 to CH7. -/
abbrev Ch := Fin 8

/-- A chamber alarm line, 0 to 3 (R146). -/
abbrev LineNo := Fin 4

end Sys2Proof
end

