-- ==== Sys2Proof/Syntax.lean ====
section
/-! DEFINITION. The commands of the Vorund C8: one constructor of `Instr` per row of spec/opcode_table.json, with the
operands the numbered rules give the row. The table gives no bits, so a command is spelled by its constructor and its
operands, not by a word. The types of the stored settings image stand here too, since the end of a settings save says
what the store now holds. -/
namespace Sys2Proof

/-! ### Settings (R49, R59, R86, R94, R98, R110, R130, R134, R139, R146, R167, R168, R194) -/

/-- A channel's rotation group (R92). -/
inductive Group where
  | low | high
  deriving DecidableEq, Repr, Inhabited

/-- What happens when a wait timer expires (R94, R95). -/
inductive ExcessMode where
  | wait | abort
  deriving DecidableEq, Repr, Inhabited

/-- How a PROFILE step plays the profile queue (R110). -/
inductive ProfileMode where
  | oneShot | repeat
  deriving DecidableEq, Repr, Inhabited

/-- Whether a kind that may be warned of warns or latches (R139). -/
inductive WarnChoice where
  | latch | warn
  deriving DecidableEq, Repr, Inhabited

/-- A chamber alarm line's route (R146). -/
inductive Route where
  | report | localHold | direct
  deriving DecidableEq, Repr, Inhabited

/-- The settings of one channel that SET_CHANNEL carries, in the order R188 lists them. -/
structure ChanSettings where
  periodExp       : Nat
  reversalGap     : Nat
  continuationGap : Nat
  startTimeout    : Nat
  claimLimit      : Nat
  vMax            : Nat
  vMin            : Nat
  iMax            : Nat
  tMax            : Int
  tMin            : Int
  group           : Group
  deferralLimit   : Nat
  excessMode      : ExcessMode
  grantHold       : Nat
  profileMode     : ProfileMode
  lowWater        : Nat
  underrunLimit   : Nat
  pairTolerance   : Nat
  warnTLow        : WarnChoice
  warnMismatch    : WarnChoice
  confTimeout     : Nat
  deriving DecidableEq, Repr, Inhabited

/-- The six calibration values of a channel, each a signed 32-bit number in two's complement (R59). Every value of 32 bits is
in range (R60), so a stored calibration is loaded as it stands. -/
structure Calibration where
  vGain   : BitVec 32
  vOffset : BitVec 32
  iGain   : BitVec 32
  iOffset : BitVec 32
  tGain   : BitVec 32
  tOffset : BitVec 32
  deriving DecidableEq, Repr, Inhabited

/-- The five budget settings (R86): the three ceilings in W, the link efficiency and the credit use in per-mille. -/
structure BudgetSettings where
  cIn   : Nat
  cCurt : Nat
  cRet  : Nat
  eta   : Nat
  u     : Nat
  deriving DecidableEq, Repr, Inhabited

/-- The settings of one chamber alarm line (R146). Bit n of the mask stands for CHn. -/
structure AlarmSettings where
  route    : Route
  mask     : BitVec 8
  debounce : Nat
  deriving DecidableEq, Repr, Inhabited

/-- Everything the settings image holds besides its signature and CRC (R194), as it stands in the store: an image may
hold values outside their ranges. DESIGN CHOICE (log 57): its group, modes, warn choices and routes are codes that name a
value. -/
structure StoredSettings where
  speedCode       : Byte
  budget          : BudgetSettings
  chans           : Vector ChanSettings 8
  cals            : Vector Calibration 8
  alarms          : Vector AlarmSettings 4
  pairs           : Vector Bool 4
  wakeByTimer     : Bool
  wakeByCurtail   : Bool
  curtailDebounce : Nat
  deriving DecidableEq, Repr, Inhabited

/-- Why an image is bad (R195 step 4): the signature did not match, or it matched and the CRC did not. -/
inductive BadReason where
  | signature | check
  deriving DecidableEq, Repr

/-- An image's signature (R194): the C8's, or any other value. The manual gives no value of it, and only whether it is the
C8's matters (log 49). -/
inductive Signature where
  | c8 | other
  deriving DecidableEq, Repr, Inhabited

/-- The settings image in the store: its signature, its CRC-16 and the settings (R194). -/
structure Image where
  signature : Signature
  crc       : BitVec 16
  stored    : StoredSettings
  deriving DecidableEq, Repr, Inhabited

/-! ### Operands -/

/-- The part of a control link request that its kind byte does not give: tag, channel byte and body (R180). -/
structure Request where
  tag     : Byte
  channel : Byte
  body    : List Byte
  deriving DecidableEq, Repr

/-- A whole control link frame without start byte, length and check (R180). -/
structure Frame where
  kind    : Byte
  tag     : Byte
  channel : Byte
  body    : List Byte
  deriving DecidableEq, Repr

/-- Why a control link frame ended as bad other than by a byte gap (R180). -/
inductive BadFrameCause where
  | length | check
  deriving DecidableEq, Repr

/-- Why the stage line receiver counts a line error other than by a byte gap (R155). -/
inductive StageBadCause where
  | length | kind | check | strayByte
  deriving DecidableEq, Repr

/-- The body of a READING as it stands on the stage line (R154, stage line frame layout). -/
structure RawReading where
  rawV  : BitVec 24
  rawI  : BitVec 24
  rawT  : BitVec 16
  reg   : Byte
  flags : Byte
  deriving DecidableEq, Repr

/-- How the write and read-back of a settings save end (R197): the read-back matches the captured image, or it does
not and the store holds what the write left in it. -/
inductive SaveEnd where
  | verified
  | failed (left : Image)
  deriving DecidableEq, Repr

/-- The commands: the rows of spec/opcode_table.json, in the table's order. A request row carries the request the host
sends; a stage line row carries the channel whose line it is on; a timer row names the timer's owner. -/
inductive Instr where
  | powerOn
  | startUpEnd
  | controlFrame (f : Frame)
  | badFrame (cause : BadFrameCause)
  | controlByteGapTimeout
  | controlFrameWhollySent
  | unknownRequest (kind : Byte) (r : Request)
  | identify (r : Request)
  | getStatus (r : Request)
  | getBudget (r : Request)
  | setBudget (r : Request)
  | setAlarmRoute (r : Request)
  | pauseHall (r : Request)
  | resumeHall (r : Request)
  | setWake (r : Request)
  | holdReports (r : Request)
  | saveSettings (r : Request)
  | resetPart (r : Request)
  | writeSteps (r : Request)
  | readSteps (r : Request)
  | setWindow (r : Request)
  | getChannel (r : Request)
  | setChannel (r : Request)
  | setCalibration (r : Request)
  | start (r : Request)
  | stop (r : Request)
  | hold (r : Request)
  | release (r : Request)
  | swap (r : Request)
  | cancelSwap (r : Request)
  | profileAppend (r : Request)
  | profileFlush (r : Request)
  | clearFaults (r : Request)
  | readAccounts (r : Request)
  | clearLifetime (r : Request)
  | setPair (r : Request)
  | unpair (r : Request)
  | resetChannel (r : Request)
  | resetStageLine (r : Request)
  | lineBreakEnd (c : Ch)
  | stageFrameWhollySent (c : Ch)
  | confirm (c : Ch) (tag : Byte)
  | reading (c : Ch) (startedAfterQuery : Bool) (raw : RawReading)
  | stageBadFrame (c : Ch) (cause : StageBadCause)
  | stageByteGapTimeout (c : Ch)
  | confirmationTimerExpiry (c : Ch)
  | periodEvent (c : Ch)
  | gapTimerExpiry (c : Ch)
  | startTimerExpiry (c : Ch)
  | grantHoldExpiry (c : Ch)
  | waitTimerExpiry (c : Ch)
  | underrunTimerExpiry (c : Ch)
  | hallStopAssert
  | hallStopDeassert
  | chamberAlarmLineChange (line : LineNo) (level : Bool)
  | alarmDebounceExpiry (line : LineNo)
  | curtailmentLineChange (level : Bool)
  | curtailDebounceExpiry
  | wakeTimerExpiry
  | reportHoldExpiry
  | settingsSaveEnd (result : SaveEnd)
  | powerLoss
  deriving DecidableEq, Repr

end Sys2Proof
end

