-- ==== Sys2Proof/Config.lean ====
section
/-! DEFINITION. What one board fixes and the manual does not state: the board's own identity, and the free values.
Each is an opaque constant with no body, so no proof can see its value and every theorem holds for every value.
The log entry that declares each is named beside it. -/
namespace Sys2Proof

/-- The board serial number IDENTIFY returns (R185). Fixed per board; the manual gives no value (log 3). -/
opaque Config.serialNumber : Nat

/-- The firmware version's major number (R185, R195). The manual gives no value (log 3). -/
opaque Config.firmwareMajor : Nat

/-- The firmware version's minor number (R185, R195). The manual gives no value (log 3). -/
opaque Config.firmwareMinor : Nat

/-- What a flag or choice byte means when it holds neither 0 nor 1: the manual gives only the codes 0 and 1 and names
no refusal (log 4). -/
opaque Config.flagOfByte : Byte → Bool

/-- What a READING's regulation state byte above 3 stands for: 0 OFF, 1 IDLE, 2 CURRENT, 3 VOLTAGE_LIMITED; the
manual names no other code and does not make the frame bad for it (log 5). -/
opaque Config.regulationOfByte : Byte → Fin 4

/-- Every byte of a settings image except its CRC, in the order the store keeps them, for a signature and the settings:
R194 forms the CRC over these bytes and the manual lays out none of them (log 49). -/
opaque Config.imageBytes : Signature → StoredSettings → List Byte

/-- What the store holds once a power loss has cut an image's write short: R197 says only that the image is bad. Applied to
the fresh-value counter of the state (log 6). -/
opaque Config.cutShort : Nat → Image

/-- The tag recorded with a STAGE_UNSAFE that RESET_CHANNEL offers again (R145) while no OFF demand is outstanding (no
demand, or another one): R137 records "the tag of the unconfirmed OFF demand", and there is none. Applied to the
fresh-value counter (log 7). -/
opaque Config.reofferedTag : Nat → BitVec 4

end Sys2Proof
end

