-- ==== Sys2Proof/Machine/Arith.lean ====
section
/-! DEFINITION. The roundings, clamps and saturations the manual names (scope file, Rounding; R20, R69), over `Nat` and
`Int`, so that every intermediate product is exact. -/
namespace Sys2Proof.Machine

/-- `n ÷ d`, rounded half away from zero (R47, R57, R63). -/
def roundDiv (n : Int) (d : Nat) : Int :=
  let q : Int := (2 * n.natAbs + d) / (2 * d)
  if n < 0 then -q else q

/-- The ceiling of `n ÷ d` (R6, R84). -/
def ceilDiv (n d : Nat) : Nat := (n + (d - 1)) / d

/-- A non-negative value clamped to a range. -/
def clampNat (lo hi n : Nat) : Nat := max lo (min hi n)

/-- A signed value clamped to a range. -/
def clampInt (lo hi n : Int) : Int := max lo (min hi n)

/-- A sum that saturates at a limit. -/
def satAdd (limit a b : Nat) : Nat := min limit (a + b)

/-- The limit of an account: 2^63 − 1 (R69). -/
def accountLimit : Nat := 2 ^ 63 - 1

/-- The limit of step time and of the cycle number: 4,294,967,295 (R20). -/
def countLimit : Nat := 2 ^ 32 - 1

/-- The limit of a 16-bit count: 65,535 (R55, R165, R180, R181, R190). -/
def count16Limit : Nat := 65535

/-- A signed step account after an addition: it saturates at ±(2^63 − 1) (R69). -/
def satAddInt (a b : Int) : Int := clampInt (-(accountLimit : Int)) accountLimit (a + b)

/-- An account as reported: divided by 3,600 and truncated toward zero (R70). -/
def reported (a : Int) : Int := a.tdiv 3600

/-- A non-negative account as reported (R70). -/
def reportedNat (a : Nat) : Nat := a / 3600

/-- The value an `n`-bit two's complement code stands for. -/
def signed (bits n : Nat) : Int := if n < 2 ^ (bits - 1) then n else (n : Int) - 2 ^ bits

end Sys2Proof.Machine
end

