-- ==== Sys2Proof/Machine/Types.lean ====
section
/-! DEFINITION. The pieces of state of the Vorund C8, block by block: step records and windows (schedule store),
channel context, readings and playback (channel unit), demand record and transmitter (stage line port), grants and
entries (budget arbiter), hall record (hall control), alarm lines (protection monitor). -/
namespace Sys2Proof.Machine

/-! ### Step records and windows (R2 to R7) -/

/-- The seven kinds of a step record (R2). -/
inductive StepKind where
  | rest | charge | discharge | chargePower | dischargePower | profile | mark
  deriving DecidableEq, Repr

/-- A step's, grant's or entry's direction (R2, R82). -/
inductive Direction where
  | none | charge | discharge | both
  deriving DecidableEq, Repr

/-- The eight kinds of end condition (R4). -/
inductive CondKind where
  | vAbove | vBelow | iBelow | time | charge | energy | tAbove | vDrop
  deriving DecidableEq, Repr

/-- What a fired end condition does (R4). The goto target is a window index, kept with GOTO only. -/
inductive Action where
  | next
  | goto (target : Nat)
  | endSchedule
  | hold
  deriving DecidableEq, Repr

/-- One end condition as stored (R4). The threshold is a signed 32-bit number in the unit of the kind. -/
structure EndCond where
  kind      : CondKind
  threshold : Int
  action    : Action
  confirm   : Nat
  deriving DecidableEq, Repr

/-- A step record, with the fields its kind keeps and no others (R2, R3, R5). Currents in mA, powers and claims in W,
voltages in mV. -/
inductive StepRecord where
  | rest (conds : List EndCond)
  | charge (current upper : Nat) (claim : Option Nat) (conds : List EndCond)
  | discharge (current lower : Nat) (claim : Option Nat) (conds : List EndCond)
  | chargePower (power upper : Nat) (cap claim : Option Nat) (conds : List EndCond)
  | dischargePower (power lower : Nat) (cap claim : Option Nat) (conds : List EndCond)
  | profile (upper lower : Nat) (cap claim : Option Nat) (conds : List EndCond)
  | mark (loopTarget loopCount : Nat) (countsCycle : Bool)
  deriving DecidableEq, Repr

/-- A window onto the step pool that is not absent (R7). -/
structure Window where
  base   : Nat
  length : Nat
  deriving DecidableEq, Repr

/-! ### The channel context (R20) -/

/-- The ten channel states (R21). -/
inductive ChState where
  | idle | gap | deferred | starting | running | held | stopping | complete | faulted | follower
  deriving DecidableEq, Repr

/-- The five hold causes, as named (R33). -/
inductive HoldCause where
  | host | curtailed | chamber | pause | endHold
  deriving DecidableEq, Repr

/-- A hold cause set: each cause at most once (R20, R33). -/
structure HoldCauses where
  host      : Bool
  curtailed : Bool
  chamber   : Bool
  pause     : Bool
  endHold   : Bool
  deriving DecidableEq, Repr

/-- A MARK's entry in the loop table (R20, R30). -/
structure LoopEntry where
  index   : Nat
  counter : Nat
  deriving DecidableEq, Repr

/-- Four charge and energy accounts, in mA·ms and µJ (R66, R67), or as reported in µAh and µWh (R70). -/
structure Accounts where
  qChg : Nat
  qDis : Nat
  eChg : Nat
  eDis : Nat
  deriving DecidableEq, Repr

/-- The kinds of swap (R39). -/
inductive SwapKind where
  | atCycleEnd | atScheduleEnd
  deriving DecidableEq, Repr

/-- Where a stop leads (R20). -/
inductive StopDest where
  | idle | complete
  deriving DecidableEq, Repr

/-- The resume point (R43). Its window is the active window's base and length, none where that window was absent. -/
structure ResumePoint where
  window      : Option Window
  stepIndex   : Nat
  stepTime    : Nat
  qStep       : Int
  eStep       : Int
  vPeak       : Nat
  loops       : List LoopEntry
  cycleNumber : Nat
  cycle       : Accounts
  lastDir     : Direction
  deriving DecidableEq, Repr

/-- The sixteen fault kinds, in the order of their codes (R137). -/
inductive FaultKind where
  | limitVHigh | limitVLow | limitI | limitTHigh | limitTLow | stageSilent | stageNoAck | stageStartTimeout
  | stageReported | stageUnsafe | profileUnderrun | deferLimit | chamberAlarm | hallStop | pairPartner | pairMismatch
  deriving DecidableEq, Repr

/-- The first-fault record (R140). -/
structure FirstFault where
  kind      : FaultKind
  stepIndex : Nat
  stepTime  : Nat
  value     : Int
  partTime  : Nat
  deriving DecidableEq, Repr

/-! ### Readings (R53, R56, R128) -/

/-- A stage's regulation state (R154). -/
inductive Regulation where
  | off | idle | current | voltageLimited
  deriving DecidableEq, Repr

/-- The last reading a channel took (R53, R56): converted values, raw values, what the stage sent, over-range flags
and the part time of taking. -/
structure Reading where
  v        : Nat
  i        : Int
  t        : Int
  rawV     : Nat
  rawI     : Int
  rawT     : Int
  reg      : Regulation
  fault    : Bool
  derate   : Bool
  interlock : Bool
  overV    : Bool
  overI    : Bool
  overT    : Bool
  takenAt  : Option Nat
  deriving DecidableEq, Repr

/-- The pack reading a pair's leader keeps (R128). -/
structure PackReading where
  v     : Nat
  i     : Int
  t     : Int
  reg   : Regulation
  overV : Bool
  overI : Bool
  overT : Bool
  held  : Bool
  deriving DecidableEq, Repr

/-! ### Drive profiles (R109, R113, R117) -/

/-- A drive profile point (R109). -/
structure Point where
  current  : Int
  duration : Nat
  endFlag  : Bool
  deriving DecidableEq, Repr

/-- The playback record (R113) with the low-water arming flag (R117). The play position is a place in the queue; in
ONE_SHOT mode it is always the head. -/
structure Playback where
  position      : Nat
  inPlay        : Bool
  played        : Nat
  heldCurrent   : Int
  underrun      : Bool
  underrunTimer : Option Nat
  profileEnd    : Bool
  lowArmed      : Bool
  deriving DecidableEq, Repr

/-! ### The stage line port (R156, R157, R164 to R166) -/

/-- A demand's mode (R154). -/
inductive DemandMode where
  | off | idle | regulate
  deriving DecidableEq, Repr

/-- A demand: mode, signed current in mA, upper and lower voltage in mV (R46). -/
structure Demand where
  mode    : DemandMode
  current : Int
  upper   : Nat
  lower   : Nat
  deriving DecidableEq, Repr

/-- A demand that was given a tag (R159). -/
structure Tagged where
  demand : Demand
  tag    : BitVec 4
  deriving DecidableEq, Repr

/-- A frame of the port's transmitter (R154, R156). A QUERY is marked with whether the period it opened is still
open, since only the open period's QUERY sets the query-awaiting flag (R163). -/
inductive StageFrame where
  | demand (d : Tagged)
  | query (ofOpenPeriod : Bool)
  deriving DecidableEq, Repr

/-- Whether a stage is known to be there (R164). -/
inductive Presence where
  | absent | present
  deriving DecidableEq, Repr

/-- A stage line port: the demand record of R157, presence (R164), line errors (R165) and the transmitter (R156,
R166). A running timer holds its time remaining in ms. -/
structure Port where
  presence      : Presence
  outstanding   : Option Tagged
  pending       : Option Demand
  lastConfirmed : Option Demand
  nextTag       : BitVec 4
  confTimer     : Option Nat
  standing      : Option Demand
  queryAwaiting : Bool
  lineErr       : Bool
  lineErrCount  : Nat
  sending       : Option StageFrame
  due           : List StageFrame
  breaking      : Bool
  deriving DecidableEq, Repr

/-! ### A channel -/

/-- All the state one channel has: settings and calibration, windows, context (R20), faults (R137 to R145), readings
(R56), the open period (R51), profile queue and playback (R109, R113) and stage line port (R157). The latched set
is a mask with the bit of a kind's code (R137). -/
structure Channel where
  settings      : ChanSettings
  cal           : Calibration
  active        : Option Window
  staged        : Option Window
  state         : ChState
  holds         : HoldCauses
  heldBefore    : Bool
  stepIndex     : Nat
  stepTime      : Nat
  qStep         : Int
  eStep         : Int
  vPeak         : Nat
  confirms      : List Nat
  loops         : List LoopEntry
  cycleNumber   : Nat
  cycle         : Accounts
  life          : Accounts
  lifeSaturated : Bool
  lastDir       : Direction
  swapPending   : Option SwapKind
  stopDest      : StopDest
  resume        : Option ResumePoint
  clamped       : Bool
  gapTimer      : Option Nat
  startTimer    : Option Nat
  latched       : BitVec 16
  firstFault    : Option FirstFault
  unsafeFlag    : Bool
  warnedTLow    : Bool
  warnedMismatch : Bool
  last          : Reading
  held          : Bool
  missed        : Nat
  derateSeen    : Bool
  taken         : Bool
  pack          : PackReading
  packDone      : Bool
  periodElapsed : Nat
  periodLength  : Nat
  queue         : List Point
  play          : Playback
  port          : Port
  deriving DecidableEq, Repr

/-! ### The budget arbiter (R82, R86, R88, R92, R102) -/

/-- A grant in the grant list (R82). It is idle while its grant-hold timer runs. -/
structure Grant where
  ch     : Ch
  dir    : Direction
  amount : Nat
  live   : Bool
  hold   : Option Nat
  deriving DecidableEq, Repr

/-- The mark of an entry (R88, R95). -/
inductive Mark where
  | new | starved
  deriving DecidableEq, Repr

/-- A waiting entry (R88) or a resume entry (R102, R105). -/
structure Entry where
  ch       : Ch
  dir      : Direction
  claim    : Nat
  mark     : Mark
  timer    : Option Nat
  lodgedAt : Nat
  deriving DecidableEq, Repr

/-- The budget arbiter. `evalDue` is the model's own: it is set while an event being handled calls for an evaluation
(R90) and is clear between commands. -/
structure Arbiter where
  budget  : BudgetSettings
  grants  : List Grant
  waiting : List Entry
  resume  : List Entry
  hp      : Nat
  lp      : Option Ch
  evalDue : Bool
  deriving DecidableEq, Repr

/-- The two tests of the link (R85, R102). -/
inductive BudgetTest where
  | intake | return
  deriving DecidableEq, Repr

/-! ### Hall control (R168, R169) -/

/-- The state of the hall (R168). -/
inductive HallState where
  | active | pausing | paused
  deriving DecidableEq, Repr

/-- Where a pause order entry came from (R170). -/
inductive PauseSource where
  | grant | resume | waiting
  deriving DecidableEq, Repr

/-- An entry of the pause order (R168, R170). -/
structure PauseEntry where
  ch     : Ch
  source : PauseSource
  dir    : Direction
  amount : Nat
  deriving DecidableEq, Repr

/-- The hall control record (R168) and the part time counter (R169). -/
structure Hall where
  state           : HallState
  pauseOrder      : List PauseEntry
  wakeByTimer     : Bool
  wakeByCurtail   : Bool
  wakeTimer       : Option Nat
  curtRaw         : Bool
  curtFiltered    : Bool
  curtTimer       : Option Nat
  curtDebounce    : Nat
  partTime        : Nat
  deriving DecidableEq, Repr

/-- The cause a HALL_STATE report names (R178). -/
inductive HallCause where
  | pauseHall | settled | host | timer | curtailEnd
  deriving DecidableEq, Repr

/-! ### The protection monitor's lines (R146, R147, R152) -/

/-- A chamber alarm line: its settings, levels and debounce timer. -/
structure AlarmLine where
  settings : AlarmSettings
  raw      : Bool
  filtered : Bool
  timer    : Option Nat
  deriving DecidableEq, Repr

/-- The hall lines the protection monitor watches. -/
structure Protection where
  lines    : Vector AlarmLine 4
  hallStop : Bool
  deriving DecidableEq, Repr

/-! ### Part state (R195, R198) -/

/-- Whether the board has power and what the part is doing. `off`: no power. `starting` and `ready`: the part states
of R195. `halted`: a RESET_PART waits for a settings save in flight to end (R198). -/
inductive PartState where
  | off | starting | ready | halted
  deriving DecidableEq, Repr

/-- The cause a STARTED report carries (R195). -/
inductive StartCause where
  | powerOn | resetPart
  deriving DecidableEq, Repr

/-- The four link speeds (R179). -/
inductive LinkSpeed where
  | baud115200 | baud460800 | baud921600 | baud2000000
  deriving DecidableEq, Repr

/-- A settings save in flight: the captured image and the part time of its capture (R197). -/
structure SaveInFlight where
  image      : Image
  capturedAt : Nat
  deriving DecidableEq, Repr

end Sys2Proof.Machine
end

