-- ==== Sys2Proof/Machine/Records.lean ====
section
/-! DEFINITION. The records the board sends on the control link: replies (R184 and the reply each request's rule gives)
and reports (R189), with the fields their rules name, in the order they name them. Charge and energy figures in them
are as reported, in µAh and µWh (R70). -/
namespace Sys2Proof.Machine

/-! ### Refusals (R184) -/

/-- The refusal codes, from 1 in this order (R184). -/
inductive RefusalCode where
  | wrongState | busy | protectedState | invalid | unknownRequest | badLength | hallStopActive | hallPaused | stageAbsent
  | paired | full
  deriving DecidableEq, Repr

/-- The reasons of INVALID, from 1 in this order (the control link chapter's wire layouts). -/
inductive Reason where
  | badChannel | poolRange | badKind | badField | markConditions | badCondition | windowRange | noWindow
  | noWorkingStep | blankStep | targetOutside | loopForward | emptyLoop | tooManyMarks | noEndCondition | voltageRange
  | voltageOrder | noProfileClaim | claimRange | resumeStale | badForm | badPoint | badLine
  deriving DecidableEq, Repr

/-- What a REFUSED reply carries: the code and the detail of R184. A part with no meaning for the code is `none` or
0; on the wire it is 0. -/
structure Refused where
  code    : RefusalCode
  reason  : Option Reason
  index   : Nat
  channel : Nat
  count   : Nat
  deriving DecidableEq, Repr

/-! ### What OK replies show -/

/-- A resume point as GET_CHANNEL shows it, its accounts as reported (R70, R187). -/
structure ResumeView where
  window      : Option Window
  stepIndex   : Nat
  stepTime    : Nat
  qStep       : Int
  eStep       : Int
  vPeak       : Nat
  loops       : List LoopEntry
  cycleNumber : Nat
  cycle       : Accounts
  lastDir     : Direction
  deriving DecidableEq, Repr

/-- What pair a channel belongs to, as GET_STATUS and GET_CHANNEL show it (R186, R187). -/
inductive PairRole where
  | single | leader | follower
  deriving DecidableEq, Repr

/-- The CONTEXT section (R187), with the lifetime-saturated flag that R69 shows in GET_CHANNEL (log 42). -/
structure ContextView where
  state         : ChState
  holds         : HoldCauses
  heldBefore    : Bool
  stepIndex     : Nat
  stepTime      : Nat
  qStep         : Int
  eStep         : Int
  vPeak         : Nat
  confirms      : List Nat
  loops         : List LoopEntry
  cycleNumber   : Nat
  cycle         : Accounts
  lifeSaturated : Bool
  active        : Option Window
  staged        : Option Window
  swapPending   : Option SwapKind
  stopDest      : StopDest
  grant         : Option (Direction × Nat)
  clamped       : Bool
  latched       : BitVec 16
  firstFault    : Option FirstFault
  unsafeFlag    : Bool
  warnedTLow    : Bool
  warnedMismatch : Bool
  resume        : Option ResumeView
  gapTimer      : Option Nat
  startTimer    : Option Nat
  pair          : PairRole
  deriving DecidableEq, Repr

/-- The READING section (R187). -/
structure ReadingView where
  last       : Reading
  held       : Bool
  missed     : Nat
  derateSeen : Bool
  pack       : Option PackReading
  deriving DecidableEq, Repr

/-- The PROFILE section (R122). The duration is that of the point at the play position, when there is one. -/
structure ProfileView where
  mode          : ProfileMode
  count         : Nat
  lowWater      : Nat
  lowArmed      : Bool
  underrunLimit : Nat
  position      : Nat
  inPlay        : Bool
  played        : Nat
  duration      : Option Nat
  heldCurrent   : Int
  underrun      : Bool
  underrunTimer : Option Nat
  profileEnd    : Bool
  deriving DecidableEq, Repr

/-- The STAGE section (R187). -/
structure StageView where
  presence      : Presence
  outstanding   : Option Tagged
  pending       : Option Demand
  lastConfirmed : Option Demand
  nextTag       : BitVec 4
  confTimer     : Option Nat
  standing      : Option Demand
  queryAwaiting : Bool
  lineErr       : Bool
  lineErrCount  : Nat
  deriving DecidableEq, Repr

/-- A channel's line of GET_STATUS (R186). -/
structure ChannelStatus where
  state    : ChState
  latched  : BitVec 16
  presence : Presence
  lineErr  : Bool
  pair     : PairRole
  deriving DecidableEq, Repr

/-- The hall record as GET_STATUS shows it (R168): the pause order only while PAUSING or PAUSED. -/
structure HallView where
  state         : HallState
  wakeByTimer   : Bool
  wakeByCurtail : Bool
  wakeTimer     : Option Nat
  curtRaw       : Bool
  curtFiltered  : Bool
  curtDebounce  : Nat
  pauseOrder    : Option (List PauseEntry)
  deriving DecidableEq, Repr

/-- The GET_STATUS reply (R186). -/
structure StatusView where
  partTime      : Nat
  speed         : LinkSpeed
  hall          : HallView
  hallStop      : Bool
  lines         : List (Bool × Bool)
  channels      : List ChannelStatus
  linkErr       : Bool
  linkErrCount  : Nat
  overrun       : Bool
  overrunCount  : Nat
  lost          : Bool
  reportCount   : Nat
  holdTimer     : Option Nat
  saveInFlight  : Bool
  deriving DecidableEq, Repr

/-- The four sums of R85. -/
structure Sums where
  chgAll  : Nat
  chgLive : Nat
  disAll  : Nat
  disLive : Nat
  deriving DecidableEq, Repr

/-- A grant as GET_BUDGET shows it (R108). -/
structure GrantView where
  ch     : Ch
  dir    : Direction
  amount : Nat
  lc     : Nat
  ld     : Nat
  live   : Bool
  hold   : Option Nat
  deriving DecidableEq, Repr

/-- An entry as GET_BUDGET shows it (R108). -/
structure EntryView where
  ch        : Ch
  dir       : Direction
  claim     : Nat
  mark      : Mark
  waited    : Nat
  remaining : Option Nat
  deriving DecidableEq, Repr

/-- The GET_BUDGET reply (R108). A ring position is a HIGH channel or, as `none`, the LOW slot (R92). -/
structure BudgetView where
  grants    : List GrantView
  resume    : List EntryView
  waiting   : List EntryView
  ring      : List (Option Ch)
  groups    : List Group
  hp        : Nat
  lp        : Option Ch
  sums      : Sums
  intake    : Int
  returned  : Int
  cEff      : Nat
  cRet      : Nat
  curtailed : Bool
  settings  : BudgetSettings
  deriving DecidableEq, Repr

/-- The READ_ACCOUNTS reply (R71). -/
structure AccountsView where
  state         : ChState
  stepIndex     : Nat
  stepTime      : Nat
  qStep         : Int
  eStep         : Int
  vPeak         : Nat
  cycleNumber   : Nat
  cycle         : Accounts
  life          : Accounts
  lifeSaturated : Bool
  partTime      : Nat
  deriving DecidableEq, Repr

/-- What the rest of an OK reply's body holds, request by request. -/
inductive OkData where
  | done
  | identity (maker product : String) (serial firmwareMajor firmwareMinor : Nat) (part : PartState) (speed : LinkSpeed)
      (partTime : Nat)
  | status (v : StatusView)
  | budget (v : BudgetView)
  | budgetSet (settings : BudgetSettings) (cEff : Nat) (curtailed : Bool) (sums : Sums)
  | alarmLines (lines : List (AlarmSettings × Bool × Bool))
  | hall (state : HallState)
  | hallPaused (state : HallState) (order : List PauseEntry)
  | hallResumed (state : HallState) (entries : Nat)
  | wake (byTimer byCurtail : Bool) (timer : Option Nat) (debounce : Nat) (state : HallState)
  | reportHold (held : Bool) (remaining : Option Nat) (queued : Nat)
  | stepsWritten (start count : Nat)
  | steps (records : List (Option StepRecord))
  | windows (active staged : Option Window)
  | context (v : ContextView)
  | reading (v : ReadingView)
  | profile (v : ProfileView)
  | stage (v : StageView)
  | settings (v : ChanSettings) (cal : Calibration)
  | channelSettings (v : ChanSettings)
  | calibration (cal : Calibration)
  | started (state : ChState) (stepIndex : Nat)
  | stateEntered (state : ChState)
  | holds (set : HoldCauses)
  | swapPending (kind : Option SwapKind)
  | appended (count queued : Nat)
  | flushed (count : Nat)
  | faults (cleared remaining named : BitVec 16) (state : ChState)
  | accounts (v : AccountsView)
  | pair (leader follower : Ch)
  deriving DecidableEq, Repr

/-- A reply's kind and body (R184). -/
inductive ReplyBody where
  | ok (data : OkData)
  | refused (r : Refused)
  | starting
  deriving DecidableEq, Repr

/-- A reply: the tag, channel byte and kind of the request it answers, and its body (R184). -/
structure Reply where
  tag     : Byte
  channel : Byte
  request : Byte
  body    : ReplyBody
  deriving DecidableEq, Repr

/-! ### Reports (R189) -/

/-- The end reason of STEP_END (R29): the position and kind of the fired condition, or PROFILE_END. -/
inductive EndReason where
  | condition (position : Nat) (kind : CondKind)
  | profileEnd
  deriving DecidableEq, Repr

/-- SCHEDULE_COMPLETE's continuation (R32). -/
inductive Continuation where
  | stopped | swapped
  deriving DecidableEq, Repr

/-- Why schedule end was reached (R32). -/
inductive ScheduleEnd where
  | endAction | windowEnd
  deriving DecidableEq, Repr

/-- The fields of a report, beside its sequence number and part time (R189). -/
inductive ReportBody where
  | stepEnd (index : Nat) (kind : StepKind) (reason : EndReason) (action : Action) (chosen : Option Nat)
      (stepTime : Nat) (qStep eStep : Int) (cycleNumber : Nat)
  | cycleEnd (cycleNumber : Nat) (cycle : Accounts) (mark : Nat) (swapped : Bool)
  | scheduleComplete (continuation : Continuation) (cycleNumber : Nat) (cycle : Accounts) (reason : ScheduleEnd)
  | fault (kind : FaultKind) (value : Int) (warnOnly : Bool) (stepIndex stepTime : Nat) (latched : BitVec 16)
      (state : ChState)
  | curtailed (dir : Direction) (amount : Nat) (test : BudgetTest)
  | profileLow (count lowWater stepIndex : Nat)
  | stageDerate (v : Nat) (i t : Int)
  | alarm (line : LineNo) (level : Bool) (route : Route) (mask : BitVec 8)
  | hallStopAlarm (level : Bool)
  | curtail (level : Bool) (cEff cIn cCurt : Nat)
  | hallState (now before : HallState) (cause : HallCause) (order : Option (List PauseEntry)) (entries : Option Nat)
      (wakeByTimer wakeByCurtail : Bool) (wakeTimer : Option Nat)
  | settingsSaved (ok : Bool) (capturedAt : Nat)
  | settingsDefaulted (reason : BadReason)
  | reportsLost (lost lostFaults : Nat)
  | started (cause : StartCause) (defaulted : Bool) (firmwareMajor firmwareMinor : Nat)
  deriving DecidableEq, Repr

/-- A report with its sequence number, part time and channel byte (R189). -/
structure Report where
  seq      : BitVec 32
  partTime : Nat
  channel  : Byte
  body     : ReportBody
  deriving DecidableEq, Repr

/-- Only a FAULT report is a fault report for the drop rule (R141, R189). -/
def Report.isFault (r : Report) : Bool :=
  match r.body with
  | .fault _ _ _ _ _ _ _ => true
  | _ => false

/-! ### The link port (R180 to R183, R189 to R193) -/

/-- What the link port's transmitter is sending (R183). -/
inductive LinkFrame where
  | reply (r : Reply)
  | report (r : Report)
  deriving DecidableEq, Repr

/-- The link port: request queue, waiting reply, transmitter, report queue, counters, report hold timer and link speed.
`resetPending` is set from a RESET_PART's taking until its reply has been wholly sent (R198). -/
structure Link where
  speed          : LinkSpeed
  requests       : List Frame
  reply          : Option Reply
  sending        : Option LinkFrame
  reports        : List Report
  nextSeq        : BitVec 32
  lost           : Bool
  lostCount      : Nat
  lostFaultCount : Nat
  linkErr        : Bool
  linkErrCount   : Nat
  overrun        : Bool
  overrunCount   : Nat
  holdTimer      : Option Nat
  resetPending   : Bool
  deriving DecidableEq, Repr

end Sys2Proof.Machine
end

