-- ==== Sys2Proof/Machine/State.lean ====
section
/-! DEFINITION. The state of the Vorund C8 as plain data, why a step can stop, and the state after reset: the power-on
values the rules give, start-up begun, nothing loaded and nothing waiting. -/
namespace Sys2Proof.Machine

/-- Why the machine stops. No rule of the manual stops the board: every event has an effect or none, so there is no
reason, no command raises a fault, and no claim can rest on one (safe). -/
inductive Fault where
  deriving DecidableEq, Repr

/-- Why a command has no meaning in the model. -/
inductive Refusal where
  /-- Raised only by an arm of `exec` whose command has no meaning yet. None is left, so nothing raises it. Safe. -/
  | notModelled (mnemonic : String)
  deriving DecidableEq, Repr

/-- The state of the board.
`image`, `saveInFlight`: settings store. `link`: link port. `pool`: the step records that are not blank, by rising
pool index. `chans`: channel units with their stage line ports and windows. `arb`: budget arbiter. `prot`: protection
monitor. `hall`: hall control. `freeCount` is the model's own counter for fresh free values. `pending` is the queue of
commands that wait, first in, first out. -/
structure State where
  part         : PartState
  startCause   : StartCause
  image        : Image
  saveInFlight : Option SaveInFlight
  link         : Link
  pool         : List (Nat × StepRecord)
  chans        : Vector Channel 8
  arb          : Arbiter
  prot         : Protection
  hall         : Hall
  freeCount    : Nat
  pending      : List Instr
  deriving DecidableEq, Repr

/-! ### Defaults -/

/-- The default channel settings (R20, R49, R6, R134, R92, R94, R98, R110, R130, R139, R167). -/
def ChanSettings.default : ChanSettings where
  periodExp := 1
  reversalGap := 200
  continuationGap := 0
  startTimeout := 500
  claimLimit := 60000
  vMax := 125000
  vMin := 0
  iMax := 420000
  tMax := 600
  tMin := -200
  group := .low
  deferralLimit := 60000
  excessMode := .wait
  grantHold := 0
  profileMode := .oneShot
  lowWater := 64
  underrunLimit := 1000
  pairTolerance := 200
  warnTLow := .latch
  warnMismatch := .latch
  confTimeout := 50

/-- The default calibration (R59). -/
def Calibration.default : Calibration := ⟨2500, 0, 5000, 0, 100, 0⟩

/-- The default budget settings (R86). -/
def BudgetSettings.default : BudgetSettings := ⟨10000, 5000, 10000, 950, 500⟩

/-- The default settings of a chamber alarm line (R146). -/
def AlarmSettings.default : AlarmSettings := ⟨.report, 0, 200⟩

/-- Every setting at its default, as a bad image gives (R194). Speed code 3 is 921,600 baud (R179); no pair is formed
(log 12: R194 gives pairs no default of their own); both wake sources are disabled (R168). -/
def StoredSettings.default : StoredSettings where
  speedCode := 3
  budget := BudgetSettings.default
  chans := Vector.replicate 8 ChanSettings.default
  cals := Vector.replicate 8 Calibration.default
  alarms := Vector.replicate 4 AlarmSettings.default
  pairs := Vector.replicate 4 false
  wakeByTimer := false
  wakeByCurtail := false
  curtailDebounce := 1000

/-! ### Power-on values -/

/-- No hold cause (R20). -/
def HoldCauses.empty : HoldCauses := ⟨false, false, false, false, false⟩

/-- Four accounts at zero (R66, R67). -/
def Accounts.zero : Accounts := ⟨0, 0, 0, 0⟩

/-- The last reading's power-on value (R56). -/
def Reading.powerOn : Reading := ⟨0, 0, 0, 0, 0, 0, .off, false, false, false, false, false, false, none⟩

/-- The pack reading's power-on value (R128: as R56 gives for a last reading). -/
def PackReading.powerOn : PackReading := ⟨0, 0, 0, .off, false, false, false, true⟩

/-- The playback record's power-on value (R113, R117). -/
def Playback.powerOn : Playback := ⟨0, false, 0, 0, false, none, false, false⟩

/-- A stage line port's power-on value (R156, R157, R163 to R166). -/
def Port.powerOn : Port := ⟨.absent, none, none, none, 0, none, none, false, false, 0, none, [], false⟩

/-- A channel's power-on value (R7, R20, R56, R109, R113, R136, R139, R140, R145), with the settings and calibration
loaded. No period is open before start-up ends (R51): its length and time are 0. -/
def Channel.powerOn (settings : ChanSettings) (cal : Calibration) : Channel where
  settings := settings
  cal := cal
  active := none
  staged := none
  state := .idle
  holds := HoldCauses.empty
  heldBefore := false
  stepIndex := 0
  stepTime := 0
  qStep := 0
  eStep := 0
  vPeak := 0
  confirms := [0, 0, 0, 0]
  loops := []
  cycleNumber := 0
  cycle := Accounts.zero
  life := Accounts.zero
  lifeSaturated := false
  lastDir := .none
  swapPending := none
  stopDest := .idle
  resume := none
  clamped := false
  gapTimer := none
  startTimer := none
  latched := 0
  firstFault := none
  unsafeFlag := false
  warnedTLow := false
  warnedMismatch := false
  last := Reading.powerOn
  held := true
  missed := 0
  derateSeen := false
  taken := false
  pack := PackReading.powerOn
  packDone := false
  periodElapsed := 0
  periodLength := 0
  queue := []
  play := Playback.powerOn
  port := Port.powerOn

/-- The link port's power-on value (R180, R181, R189, R190, R193) at a link speed. -/
def Link.powerOn (speed : LinkSpeed) : Link :=
  ⟨speed, [], none, none, [], 0, false, 0, 0, false, 0, false, 0, none, false⟩

/-- The LOW channels in ascending number (R92). -/
def lowChannels (groups : Vector Group 8) : List Ch :=
  (List.finRange 8).filter fun c => groups[c] = .low

/-- The state every start-up begins from (R195): every piece of state at its power-on value, the settings at the values
given, hp at the first position of the ring and lp at the lowest-numbered LOW channel (R92). What lies outside the
board's volatile state is given: the image in the store, the levels of the hall lines, the fresh-value counter and the
waiting commands. -/
def State.powerOn (part : PartState) (cause : StartCause) (loaded : StoredSettings) (speed : LinkSpeed) (image : Image)
    (lines : Vector Bool 4) (hallStop curtailment : Bool) (freeCount : Nat) (pending : List Instr) : State where
  part := part
  startCause := cause
  image := image
  saveInFlight := none
  link := Link.powerOn speed
  pool := []
  chans := Vector.ofFn fun c => Channel.powerOn loaded.chans[c] loaded.cals[c]
  arb :=
    { budget := loaded.budget, grants := [], waiting := [], resume := [], hp := 0,
      lp := (lowChannels (loaded.chans.map ChanSettings.group)).head?, evalDue := false }
  prot :=
    { lines := Vector.ofFn fun l => { settings := loaded.alarms[l], raw := lines[l], filtered := false, timer := none },
      hallStop := hallStop }
  hall :=
    { state := .active, pauseOrder := [], wakeByTimer := loaded.wakeByTimer, wakeByCurtail := loaded.wakeByCurtail,
      wakeTimer := none, curtRaw := curtailment, curtFiltered := false, curtTimer := none,
      curtDebounce := loaded.curtailDebounce, partTime := 0 }
  freeCount := freeCount
  pending := pending

/-- The board right after reset: power just applied, start-up begun, part state STARTING (R195). The manual gives
neither the image a board leaves the factory with nor the levels of the hall lines; log 1 names the ones taken here: an
image whose signature does not match, so that every setting has its default, and every line deasserted. -/
def State.reset : State :=
  State.powerOn .starting .powerOn StoredSettings.default .baud921600 ⟨.other, 0, StoredSettings.default⟩
    (Vector.replicate 4 false) false false 0 []

end Sys2Proof.Machine
end

