-- ==== Sys2Proof/Machine/Wire.lean ====
section
/-! DEFINITION. The byte layouts of the control link chapter's close and the two receivers: little-endian fields, the
CRC-16, the 64-byte step record, the end condition entry, the profile point, the control link frame and the stage line
frame; and how bytes on a line become the commands CONTROL_FRAME, BAD_FRAME, CONFIRM, READING and the rest (R155,
R180). -/
namespace Sys2Proof.Machine

/-! ### Fields -/

/-- The value of little-endian bytes. -/
def leNat : List Byte → Nat
  | [] => 0
  | b :: bs => b.toNat + 256 * leNat bs

/-- The first `size` little-endian bytes of a value. -/
def leBytes : (size n : Nat) → List Byte
  | 0, _ => []
  | size + 1, n => BitVec.ofNat 8 n :: leBytes size (n / 256)

/-- The unsigned field of `size` bytes at an offset. -/
def field (bs : List Byte) (offset size : Nat) : Nat := leNat ((bs.drop offset).take size)

/-- The two's complement field of `size` bytes at an offset. -/
def fieldInt (bs : List Byte) (offset size : Nat) : Int := signed (8 * size) (field bs offset size)

/-- The little-endian two's complement bytes of a signed value. -/
def leBytesInt (size : Nat) (n : Int) : List Byte := leBytes size (n % 2 ^ (8 * size)).toNat

/-- A byte that holds a flag or a two-way choice: 1 set, 0 clear. -/
def flagOf (b : Byte) : Bool :=
  if b = 0 then false else if b = 1 then true else Config.flagOfByte b

/-! ### The check (R154, R180) -/

/-- One bit of the CRC: shift, and subtract the polynomial 0x1021 when a one falls out. -/
def crcShift (crc : BitVec 16) : BitVec 16 :=
  if crc.msb then (crc <<< 1) ^^^ 0x1021#16 else crc <<< 1

/-- The CRC after one more byte. -/
def crcByte (crc : BitVec 16) (b : Byte) : BitVec 16 :=
  crcShift (crcShift (crcShift (crcShift (crcShift (crcShift (crcShift (crcShift
    (crc ^^^ (b.zeroExtend 16 <<< 8)))))))))

/-- CRC-16 with polynomial 0x1021, initial value 0xFFFF, no reflection and no final XOR. -/
def crc16 (bs : List Byte) : BitVec 16 := bs.foldl crcByte 0xFFFF#16

/-! ### Step records -/

/-- The kind a record's kind byte names: 0 is blank, and only a record read back carries it. -/
def stepKindOf (code : Nat) : Option StepKind :=
  match code with
  | 1 => some .rest
  | 2 => some .charge
  | 3 => some .discharge
  | 4 => some .chargePower
  | 5 => some .dischargePower
  | 6 => some .profile
  | 7 => some .mark
  | _ => none

/-- The code of a kind. -/
def StepKind.code : StepKind → Nat
  | .rest => 1
  | .charge => 2
  | .discharge => 3
  | .chargePower => 4
  | .dischargePower => 5
  | .profile => 6
  | .mark => 7

/-- The kind an end condition's kind byte names. -/
def condKindOf (code : Nat) : Option CondKind :=
  match code with
  | 1 => some .vAbove
  | 2 => some .vBelow
  | 3 => some .iBelow
  | 4 => some .time
  | 5 => some .charge
  | 6 => some .energy
  | 7 => some .tAbove
  | 8 => some .vDrop
  | _ => none

/-- The code of an end condition kind. -/
def CondKind.code : CondKind → Nat
  | .vAbove => 1
  | .vBelow => 2
  | .iBelow => 3
  | .time => 4
  | .charge => 5
  | .energy => 6
  | .tAbove => 7
  | .vDrop => 8

/-- The action an end condition's action byte names. A GOTO needs its target's presence bit (R4, R9); with any other
action the target is discarded. -/
def actionOf (code target : Nat) (targetPresent : Bool) : Option Action :=
  match code with
  | 1 => some .next
  | 2 => if targetPresent then some (.goto target) else none
  | 3 => some .endSchedule
  | 4 => some .hold
  | _ => none

/-- The code of an action. -/
def Action.code : Action → Nat
  | .next => 1
  | .goto _ => 2
  | .endSchedule => 3
  | .hold => 4

/-- The goto target an action keeps. -/
def Action.target : Action → Option Nat
  | .goto t => some t
  | _ => none

/-- End condition `i` of a record's bytes, or `none` where its form is at fault (R9 BAD_CONDITION). -/
def condAt (bs : List Byte) (i : Nat) : Option EndCond :=
  let at_ := 32 + 8 * i
  let confirm := field bs (at_ + 2) 1
  match condKindOf (field bs at_ 1),
      actionOf (field bs (at_ + 1) 1) (field bs (at_ + 3) 1) ((field bs 1 1).testBit (2 + i)) with
  | some kind, some action =>
    if 1 ≤ confirm ∧ confirm ≤ 8 then
      some { kind := kind, threshold := fieldInt bs (at_ + 4) 4, action := action, confirm := confirm }
    else none
  | _, _ => none

/-- The end conditions of a record's bytes, or `none` where there are more than 4 or one's form is at fault (R9). -/
def condsOf (bs : List Byte) : Option (List EndCond) :=
  let n := field bs 2 1
  if n ≤ 4 then (List.range n).mapM (condAt bs) else none

/-- A record's current cap, when its presence bit is set. -/
def capOf (bs : List Byte) : Option Nat :=
  if (field bs 1 1).testBit 1 then some (field bs 20 4) else none

/-- A record's declared claim, when its presence bit is set. -/
def declaredClaimOf (bs : List Byte) : Option Nat :=
  if (field bs 1 1).testBit 0 then some (field bs 24 2) else none

/-- Whether a current cap lies outside 1 to 420,000 mA where it is present (R9 BAD_FIELD). -/
def badCap (cap : Option Nat) : Bool :=
  match cap with
  | some c => c < 1 || 420000 < c
  | none => false

/-- The form check of one record (R9): first the kind, then the fields of the kind, then the end conditions. A record
that passes is the record with the fields its kind keeps (R2). DESIGN CHOICE (log 60): a MARK with more than 4 end
conditions is refused MARK_CONDITIONS, the first of the two reasons it meets in R9's table. -/
def recordOf (bs : List Byte) : Except Reason StepRecord :=
  let current := field bs 4 4
  let power := field bs 8 4
  let upper := field bs 12 4
  let lower := field bs 16 4
  let cap := capOf bs
  let claim := declaredClaimOf bs
  let withConds (bad : Bool) (mk : List EndCond → StepRecord) : Except Reason StepRecord :=
    if bad then .error .badField
    else match condsOf bs with
      | some conds => .ok (mk conds)
      | none => .error .badCondition
  match stepKindOf (field bs 0 1) with
  | none => .error .badKind
  | some .rest => withConds false .rest
  | some .charge => withConds (current < 1 || 400000 < current) (.charge current upper claim)
  | some .discharge => withConds (current < 1 || 400000 < current) (.discharge current lower claim)
  | some .chargePower => withConds (power < 1 || 60000 < power || badCap cap) (.chargePower power upper cap claim)
  | some .dischargePower =>
    withConds (power < 1 || 60000 < power || badCap cap) (.dischargePower power lower cap claim)
  | some .profile => withConds (badCap cap) (.profile upper lower cap claim)
  | some .mark =>
    if field bs 2 1 ≠ 0 then .error .markConditions
    else .ok (.mark (field bs 26 1) (field bs 28 2) (flagOf (BitVec.ofNat 8 (field bs 3 1))))

/-- The 8 bytes of an end condition entry. -/
def condBytes (e : EndCond) : List Byte :=
  leBytes 1 e.kind.code ++ leBytes 1 e.action.code ++ leBytes 1 e.confirm ++ leBytes 1 (e.action.target.getD 0)
    ++ leBytesInt 4 e.threshold

/-- The presence bits of end conditions' goto targets, from bit 2. -/
def targetBits : Nat → List EndCond → Nat
  | _, [] => 0
  | bit, e :: es => (if e.action.target.isSome then 2 ^ bit else 0) + targetBits (bit + 1) es

/-- The 64-byte record layout from its fields. -/
def layoutRecord (kind : Nat) (cap claim : Option Nat) (conds : List EndCond) (countsCycle : Bool)
    (current power upper lower loopTarget loopCount : Nat) : List Byte :=
  let presence := (if claim.isSome then 1 else 0) + (if cap.isSome then 2 else 0) + targetBits 2 conds
  let tail := (conds.map condBytes).flatten
  leBytes 1 kind ++ leBytes 1 presence ++ leBytes 1 conds.length ++ leBytes 1 (if countsCycle then 1 else 0)
    ++ leBytes 4 current ++ leBytes 4 power ++ leBytes 4 upper ++ leBytes 4 lower ++ leBytes 4 (cap.getD 0)
    ++ leBytes 2 (claim.getD 0) ++ leBytes 1 loopTarget ++ leBytes 1 0 ++ leBytes 2 loopCount ++ leBytes 2 0
    ++ tail ++ List.replicate (32 - tail.length) 0

/-- A record as READ_STEPS returns it in the record layout (R2, R12): blank as 64 zero bytes, an absent or discarded
field as 0 with its presence bit clear. -/
def recordBytes : Option StepRecord → List Byte
  | none => List.replicate 64 0
  | some (.rest conds) => layoutRecord 1 none none conds false 0 0 0 0 0 0
  | some (.charge current upper claim conds) => layoutRecord 2 none claim conds false current 0 upper 0 0 0
  | some (.discharge current lower claim conds) => layoutRecord 3 none claim conds false current 0 0 lower 0 0
  | some (.chargePower power upper cap claim conds) => layoutRecord 4 cap claim conds false 0 power upper 0 0 0
  | some (.dischargePower power lower cap claim conds) => layoutRecord 5 cap claim conds false 0 power 0 lower 0 0
  | some (.profile upper lower cap claim conds) => layoutRecord 6 cap claim conds false 0 0 upper lower 0 0
  | some (.mark loopTarget loopCount countsCycle) =>
    layoutRecord 7 none none [] countsCycle 0 0 0 0 loopTarget loopCount

/-- A body cut into pieces of `size` bytes, `n` of them. -/
def pieces (size : Nat) : (n : Nat) → List Byte → List (List Byte)
  | 0, _ => []
  | n + 1, bs => bs.take size :: pieces size n (bs.drop size)

/-! ### Profile points -/

/-- A point from its 8 bytes (the profile point layout): the end flag is bit 0 of its byte. -/
def pointOf (bs : List Byte) : Point :=
  { current := fieldInt bs 0 4, duration := field bs 4 2, endFlag := (field bs 6 1).testBit 0 }

/-- The 8 bytes of a point. -/
def pointBytes (p : Point) : List Byte :=
  leBytesInt 4 p.current ++ leBytes 2 p.duration ++ leBytes 1 (if p.endFlag then 1 else 0) ++ leBytes 1 0

/-! ### The control link frame and its receiver (R180) -/

/-- The bytes of a control link frame after the start byte and before the check. -/
def frameCore (f : Frame) : List Byte :=
  leBytes 2 (3 + f.body.length) ++ [f.kind, f.tag, f.channel] ++ f.body

/-- The whole bytes of a control link frame. -/
def frameBytes (f : Frame) : List Byte :=
  0xC3#8 :: frameCore f ++ leBytes 2 (crc16 (frameCore f)).toNat

/-- A receiver's state: hunting for a start byte, or inside a frame with the bytes since its start byte. -/
abbrev RxState := Option (List Byte)

/-- A control link byte met while hunting: the start byte opens a frame, and every other byte is discarded. -/
def controlHunt (b : Byte) : RxState := if b = 0xC3#8 then some [] else none

/-- The bytes of a frame so far, judged (R180): the length when its second byte is there, the check when the frame is
whole. -/
def controlJudge (bs : List Byte) : RxState × List Instr :=
  if bs.length < 2 then (some bs, [])
  else
    let len := leNat (bs.take 2)
    if len < 3 ∨ 1027 < len then (none, [.badFrame .length])
    else if bs.length < len + 4 then (some bs, [])
    else if leNat ((bs.drop (len + 2)).take 2) = (crc16 (bs.take (len + 2))).toNat then
      (none, [.controlFrame
        { kind := bs.getD 2 0, tag := bs.getD 3 0, channel := bs.getD 4 0, body := (bs.drop 5).take (len - 3) }])
    else (none, [.badFrame .check])

/-- The control link receiver taking one byte: its state afterwards and the commands the byte gives rise to. `late`
says that more than 5 ms have passed since the byte before: a frame then ends as bad, and the late byte is hunted. -/
def controlReceive (late : Bool) (rx : RxState) (b : Byte) : RxState × List Instr :=
  match rx with
  | none => (controlHunt b, [])
  | some bs => if late then (controlHunt b, [.controlByteGapTimeout]) else controlJudge (bs ++ [b])

/-- The commands a run of control link bytes gives rise to, no byte late. -/
def controlReceiveAll : RxState → List Byte → RxState × List Instr
  | rx, [] => (rx, [])
  | rx, b :: bs =>
    let one := controlReceive false rx b
    let rest := controlReceiveAll one.1 bs
    (rest.1, one.2 ++ rest.2)

/-! ### The stage line frame and its receiver (R154, R155) -/

/-- A demand's mode on the wire. -/
def DemandMode.code : DemandMode → Nat
  | .off => 0
  | .idle => 1
  | .regulate => 2

/-- The kind byte and body of a frame the port sends (R154). -/
def stageFrameBody : StageFrame → List Byte
  | .query _ => [0x02#8]
  | .demand t =>
    0x01#8 :: leBytes 1 t.demand.mode.code ++ leBytesInt 4 t.demand.current ++ leBytes 4 t.demand.upper
      ++ leBytes 4 t.demand.lower ++ [t.tag.zeroExtend 8]

/-- The whole bytes of a frame the port sends. -/
def stageFrameBytes (f : StageFrame) : List Byte :=
  let core := leBytes 1 (stageFrameBody f).length ++ stageFrameBody f
  0x5A#8 :: core ++ leBytes 2 (crc16 core).toNat

/-- The body length of a record a stage sends, by kind byte: CONFIRM 1, READING 10. A byte that names no record, or
one the port sends, has none. -/
def stageBodyLength (kind : Byte) : Option Nat :=
  if kind = 0x11#8 then some 1 else if kind = 0x12#8 then some 10 else none

/-- A stage line byte met while hunting: the start byte opens a frame, and every other byte is one line error. -/
def stageHunt (c : Ch) (b : Byte) : RxState × List Instr :=
  if b = 0x5A#8 then (some [], []) else (none, [.stageBadFrame c .strayByte])

/-- The bytes of a stage line frame so far, judged (R155). `after` says whether the frame's start byte arrived after
the open period's QUERY was wholly sent (R163). -/
def stageJudge (c : Ch) (after : Bool) (bs : List Byte) : RxState × List Instr :=
  if bs.length < 2 then (some bs, [])
  else
    match stageBodyLength (bs.getD 1 0) with
    | none => (none, [.stageBadFrame c .kind])
    | some n =>
      if field bs 0 1 ≠ n + 1 then (none, [.stageBadFrame c .length])
      else if bs.length < n + 4 then (some bs, [])
      else if field bs (n + 2) 2 ≠ (crc16 (bs.take (n + 2))).toNat then (none, [.stageBadFrame c .check])
      else if n = 1 then (none, [.confirm c (bs.getD 2 0)])
      else
        (none, [.reading c after
          { rawV := BitVec.ofNat 24 (field bs 2 3), rawI := BitVec.ofNat 24 (field bs 5 3),
            rawT := BitVec.ofNat 16 (field bs 8 2), reg := bs.getD 10 0, flags := bs.getD 11 0 }])

/-- A stage line receiver taking one byte. `late` says that more than 2 ms have passed since the byte before. -/
def stageReceive (c : Ch) (after late : Bool) (rx : RxState) (b : Byte) : RxState × List Instr :=
  match rx with
  | none => stageHunt c b
  | some bs =>
    if late then
      let hunted := stageHunt c b
      (hunted.1, .stageByteGapTimeout c :: hunted.2)
    else stageJudge c after (bs ++ [b])

end Sys2Proof.Machine
end

