-- ==== Sys2Proof/Machine/Operands.lean ====
section
/-! DEFINITION. What a request's bytes carry: the request kind codes, the body lengths the layouts give, the channel
byte, and the fields of each body, read at the offsets the layouts give (the control link chapter's wire layouts). In a
body with leave-as-is marks a field whose mask bit is set is carried, and one whose bit is clear is left (log 8). -/
namespace Sys2Proof.Machine

/-- The request kinds (the control link frame layout). -/
inductive ReqKind where
  | identify | getStatus | getBudget | setBudget | setAlarmRoute | pauseHall | resumeHall | setWake | holdReports
  | saveSettings | resetPart
  | writeSteps | readSteps | setWindow
  | getChannel | setChannel | setCalibration | start | stop | hold | release | swap | cancelSwap | profileAppend
  | profileFlush | clearFaults | readAccounts | clearLifetime | setPair | unpair | resetChannel | resetStageLine
  deriving DecidableEq, Repr

/-- A request kind's code: from 0x01, from 0x10 and from 0x20. -/
def ReqKind.code : ReqKind → Byte
  | .identify => 0x01#8
  | .getStatus => 0x02#8
  | .getBudget => 0x03#8
  | .setBudget => 0x04#8
  | .setAlarmRoute => 0x05#8
  | .pauseHall => 0x06#8
  | .resumeHall => 0x07#8
  | .setWake => 0x08#8
  | .holdReports => 0x09#8
  | .saveSettings => 0x0A#8
  | .resetPart => 0x0B#8
  | .writeSteps => 0x10#8
  | .readSteps => 0x11#8
  | .setWindow => 0x12#8
  | .getChannel => 0x20#8
  | .setChannel => 0x21#8
  | .setCalibration => 0x22#8
  | .start => 0x23#8
  | .stop => 0x24#8
  | .hold => 0x25#8
  | .release => 0x26#8
  | .swap => 0x27#8
  | .cancelSwap => 0x28#8
  | .profileAppend => 0x29#8
  | .profileFlush => 0x2A#8
  | .clearFaults => 0x2B#8
  | .readAccounts => 0x2C#8
  | .clearLifetime => 0x2D#8
  | .setPair => 0x2E#8
  | .unpair => 0x2F#8
  | .resetChannel => 0x30#8
  | .resetStageLine => 0x31#8

/-- Every request kind, in the order of the codes. -/
def ReqKind.all : List ReqKind :=
  [.identify, .getStatus, .getBudget, .setBudget, .setAlarmRoute, .pauseHall, .resumeHall, .setWake, .holdReports,
   .saveSettings, .resetPart, .writeSteps, .readSteps, .setWindow, .getChannel, .setChannel, .setCalibration, .start,
   .stop, .hold, .release, .swap, .cancelSwap, .profileAppend, .profileFlush, .clearFaults, .readAccounts,
   .clearLifetime, .setPair, .unpair, .resetChannel, .resetStageLine]

/-- The request kind a kind byte names, if any: codes of replies and reports name none (R182). -/
def ReqKind.ofCode (b : Byte) : Option ReqKind := ReqKind.all.find? fun k => k.code = b

/-- Whether a body has the length the layout of its request gives. DESIGN CHOICE: SET_ALARM_ROUTE's line number
takes 1 byte (log 55), and SET_CHANNEL's claim limit the 2 bytes of a claim, so that its body is 62 bytes long (log 69). -/
def ReqKind.lengthOk (k : ReqKind) (n : Nat) : Bool :=
  match k with
  | .identify | .getBudget | .pauseHall | .resumeHall | .resetPart => n = 0
  | .getStatus | .saveSettings | .getChannel | .start | .swap => n = 1
  | .setBudget => n = 20
  | .setAlarmRoute => n = 7
  | .setWake => n = 14
  | .holdReports => n = 2
  | .writeSteps => 66 ≤ n && n ≤ 962 && (n - 2) % 64 = 0
  | .readSteps => n = 4
  | .setWindow => n = 5
  | .setChannel => n = 62
  | .setCalibration => n = 28
  | .profileAppend => 8 ≤ n && n ≤ 256 && n % 8 = 0
  | .clearFaults => n = 2
  | .stop | .hold | .release | .cancelSwap | .profileFlush | .readAccounts | .clearLifetime | .setPair | .unpair
  | .resetChannel | .resetStageLine => n = 0

/-- The part-wide channel number, 0xFF. -/
def partWide : Byte := 0xFF#8

/-- The channel a request's channel byte names, if it is 0 to 7. -/
def channelOf (b : Byte) : Option Ch := if h : b.toNat < 8 then some ⟨b.toNat, h⟩ else none

/-- The channel byte of a channel. -/
def chByte (c : Ch) : Byte := BitVec.ofNat 8 c.val

/-- A field behind a leave-as-is mask: carried when its bit is set. -/
def carried {α : Type} (mask bit : Nat) (value : α) : Option α := if mask.testBit bit then some value else none

/-- What SET_BUDGET carries (R87). -/
structure BudgetPatch where
  cIn   : Option Nat
  cCurt : Option Nat
  cRet  : Option Nat
  eta   : Option Nat
  u     : Option Nat
  deriving DecidableEq, Repr

/-- SET_BUDGET's body: mask, C_in, C_curt, C_ret (4 bytes each), η, u (2 bytes each). -/
def budgetPatch (bs : List Byte) : BudgetPatch :=
  let m := field bs 0 4
  { cIn := carried m 0 (field bs 4 4), cCurt := carried m 1 (field bs 8 4), cRet := carried m 2 (field bs 12 4),
    eta := carried m 3 (field bs 16 2), u := carried m 4 (field bs 18 2) }

/-- What SET_WAKE carries (R175). The timer field is CANCEL as 0, or a duration in seconds. -/
structure WakePatch where
  byTimer   : Option Bool
  byCurtail : Option Bool
  timer     : Option Nat
  debounce  : Option Nat
  deriving DecidableEq, Repr

/-- SET_WAKE's body: mask, a choice for TIMER and one for CURTAIL_END (1 byte each), the wake timer field and the
curtailment debounce (4 bytes each). -/
def wakePatch (bs : List Byte) : WakePatch :=
  let m := field bs 0 4
  { byTimer := carried m 0 (flagOf (bs.getD 4 0)), byCurtail := carried m 1 (flagOf (bs.getD 5 0)),
    timer := carried m 2 (field bs 6 4), debounce := carried m 3 (field bs 10 4) }

/-- The route a route code names. -/
def routeOf (code : Nat) : Option Route :=
  match code with
  | 1 => some .report
  | 2 => some .localHold
  | 3 => some .direct
  | _ => none

/-- The rotation group a code names. -/
def groupOf (code : Nat) : Option Group :=
  match code with
  | 1 => some .low
  | 2 => some .high
  | _ => none

/-- The excess mode a code names. -/
def excessOf (code : Nat) : Option ExcessMode :=
  match code with
  | 1 => some .wait
  | 2 => some .abort
  | _ => none

/-- The profile mode a code names. -/
def profileModeOf (code : Nat) : Option ProfileMode :=
  match code with
  | 1 => some .oneShot
  | 2 => some .repeat
  | _ => none

/-- The warn choice a code names. -/
def warnOf (code : Nat) : Option WarnChoice :=
  match code with
  | 1 => some .latch
  | 2 => some .warn
  | _ => none

/-- What SET_CHANNEL carries (R188), in the order it lists the settings. Codes are not yet judged. -/
structure ChannelPatch where
  periodExp       : Option Nat
  reversalGap     : Option Nat
  continuationGap : Option Nat
  startTimeout    : Option Nat
  claimLimit      : Option Nat
  vMax            : Option Nat
  vMin            : Option Nat
  iMax            : Option Nat
  tMax            : Option Int
  tMin            : Option Int
  group           : Option Nat
  deferralLimit   : Option Nat
  excessMode      : Option Nat
  grantHold       : Option Nat
  profileMode     : Option Nat
  lowWater        : Option Nat
  underrunLimit   : Option Nat
  pairTolerance   : Option Nat
  warnTLow        : Option Nat
  warnMismatch    : Option Nat
  confTimeout     : Option Nat
  deriving DecidableEq, Repr

/-- SET_CHANNEL's body: a 4-byte mask and a field for every setting in R188's order. DESIGN CHOICE (log 69): the
claim limit takes the 2 bytes of a claim. -/
def channelPatch (bs : List Byte) : ChannelPatch :=
  let m := field bs 0 4
  { periodExp := carried m 0 (field bs 4 1)
    reversalGap := carried m 1 (field bs 5 4)
    continuationGap := carried m 2 (field bs 9 4)
    startTimeout := carried m 3 (field bs 13 4)
    claimLimit := carried m 4 (field bs 17 2)
    vMax := carried m 5 (field bs 19 4)
    vMin := carried m 6 (field bs 23 4)
    iMax := carried m 7 (field bs 27 4)
    tMax := carried m 8 (fieldInt bs 31 2)
    tMin := carried m 9 (fieldInt bs 33 2)
    group := carried m 10 (field bs 35 1)
    deferralLimit := carried m 11 (field bs 36 4)
    excessMode := carried m 12 (field bs 40 1)
    grantHold := carried m 13 (field bs 41 4)
    profileMode := carried m 14 (field bs 45 1)
    lowWater := carried m 15 (field bs 46 2)
    underrunLimit := carried m 16 (field bs 48 4)
    pairTolerance := carried m 17 (field bs 52 4)
    warnTLow := carried m 18 (field bs 56 1)
    warnMismatch := carried m 19 (field bs 57 1)
    confTimeout := carried m 20 (field bs 58 4) }

/-- What SET_CALIBRATION carries: a new gain and offset for each quantity, or nothing (R60). -/
structure CalibrationPatch where
  voltage     : Option (BitVec 32 × BitVec 32)
  current     : Option (BitVec 32 × BitVec 32)
  temperature : Option (BitVec 32 × BitVec 32)
  deriving DecidableEq, Repr

/-- SET_CALIBRATION's body: a mask with one bit per quantity (log 8), then gain and offset of voltage, current and
temperature, 4 bytes each. -/
def calibrationPatch (bs : List Byte) : CalibrationPatch :=
  let m := field bs 0 4
  let value := fun offset => BitVec.ofNat 32 (field bs offset 4)
  { voltage := carried m 0 (value 4, value 8)
    current := carried m 1 (value 12, value 16)
    temperature := carried m 2 (value 20, value 24) }

/-- PROFILE_APPEND's points (R111). -/
def pointsOf (bs : List Byte) : List Point := (pieces 8 (bs.length / 8) bs).map pointOf

/-- WRITE_STEPS' records: 64 bytes each after the 2-byte starting pool index (R8). -/
def recordPieces (bs : List Byte) : List (List Byte) := pieces 64 ((bs.length - 2) / 64) (bs.drop 2)

end Sys2Proof.Machine
end

