-- ==== Sys2Proof/Machine/Flags.lean ====
section
/-! DEFINITION. Sets kept as flags: the latched set with the codes of its kinds (R137), hold cause sets (R33), and the
over-range flags and values of a converted reading (R57, R58). -/
namespace Sys2Proof.Machine

/-- The sixteen kinds in the order of their codes (R137). -/
def FaultKind.all : List FaultKind :=
  [.limitVHigh, .limitVLow, .limitI, .limitTHigh, .limitTLow, .stageSilent, .stageNoAck, .stageStartTimeout,
   .stageReported, .stageUnsafe, .profileUnderrun, .deferLimit, .chamberAlarm, .hallStop, .pairPartner, .pairMismatch]

/-- A kind's code (R137). -/
def FaultKind.code : FaultKind → Nat
  | .limitVHigh => 0
  | .limitVLow => 1
  | .limitI => 2
  | .limitTHigh => 3
  | .limitTLow => 4
  | .stageSilent => 5
  | .stageNoAck => 6
  | .stageStartTimeout => 7
  | .stageReported => 8
  | .stageUnsafe => 9
  | .profileUnderrun => 10
  | .deferLimit => 11
  | .chamberAlarm => 12
  | .hallStop => 13
  | .pairPartner => 14
  | .pairMismatch => 15

/-- Whether a set of kinds holds a kind: the bit of the kind's code. -/
def hasKind (set : BitVec 16) (k : FaultKind) : Bool := set.getLsbD k.code

/-- The set with only one kind. -/
def onlyKind (k : FaultKind) : BitVec 16 := BitVec.twoPow 16 k.code

/-- A set with a kind added. -/
def addKind (set : BitVec 16) (k : FaultKind) : BitVec 16 := set ||| onlyKind k

/-- A set with a kind removed. -/
def dropKind (set : BitVec 16) (k : FaultKind) : BitVec 16 := set &&& ~~~(onlyKind k)

/-- Whether a hold cause set holds a cause. -/
def HoldCauses.has (h : HoldCauses) : HoldCause → Bool
  | .host => h.host
  | .curtailed => h.curtailed
  | .chamber => h.chamber
  | .pause => h.pause
  | .endHold => h.endHold

/-- A hold cause set with a cause added; it holds each cause at most once (R33). -/
def HoldCauses.add (h : HoldCauses) : HoldCause → HoldCauses
  | .host => { h with host := true }
  | .curtailed => { h with curtailed := true }
  | .chamber => { h with chamber := true }
  | .pause => { h with pause := true }
  | .endHold => { h with endHold := true }

/-- A hold cause set with a cause removed. -/
def HoldCauses.drop (h : HoldCauses) : HoldCause → HoldCauses
  | .host => { h with host := false }
  | .curtailed => { h with curtailed := false }
  | .chamber => { h with chamber := false }
  | .pause => { h with pause := false }
  | .endHold => { h with endHold := false }

/-- Whether a channel HELD with these causes keeps a grant idle (R98): HOST, CHAMBER or END_HOLD is among them. -/
def HoldCauses.keepsIdle (h : HoldCauses) : Bool := h.host || h.chamber || h.endHold

/-- A raw code converted: times gain, divided by 65,536 and rounded half away from zero, plus offset (R57). -/
def convert (raw gain offset : Int) : Int := roundDiv (raw * gain) 65536 + offset

/-- A READING's body as the channel takes it: converted, clamped to the range of each quantity, and the over-range
flags set where the sum lay outside it (R57, R58). -/
def takeRaw (cal : Calibration) (raw : RawReading) (now : Nat) : Reading :=
  let v := convert raw.rawV.toNat cal.vGain.toInt cal.vOffset.toInt
  let i := convert raw.rawI.toInt cal.iGain.toInt cal.iOffset.toInt
  let t := convert raw.rawT.toInt cal.tGain.toInt cal.tOffset.toInt
  let reg :=
    match if raw.reg.toNat < 4 then raw.reg.toNat else (Config.regulationOfByte raw.reg).val with
    | 0 => Regulation.off
    | 1 => .idle
    | 2 => .current
    | _ => .voltageLimited
  { v := (clampInt 0 125000 v).toNat
    i := clampInt (-420000) 420000 i
    t := clampInt (-500) 2000 t
    rawV := raw.rawV.toNat
    rawI := raw.rawI.toInt
    rawT := raw.rawT.toInt
    reg := reg
    fault := raw.flags.getLsbD 0
    derate := raw.flags.getLsbD 1
    interlock := raw.flags.getLsbD 2
    overV := v < 0 || 125000 < v
    overI := i < -420000 || 420000 < i
    overT := t < -500 || 2000 < t
    takenAt := some now }

end Sys2Proof.Machine
end

