-- ==== Sys2Proof/Machine/Ops.lean ====
section
/-! DEFINITION. The named operations over the state: one home for reading and writing each block, the step pool as an
addressed buffer in canonical form, and the making of reports with the drop rule of the report queue (R189, R190). -/
namespace Sys2Proof.Machine

/-! ### Reading and writing the blocks -/

/-- A channel. -/
def State.ch (s : State) (c : Ch) : Channel := s.chans[c]

/-- The state with one channel changed. -/
def State.modCh (s : State) (c : Ch) (f : Channel → Channel) : State :=
  { s with chans := s.chans.set c.val (f (s.ch c)) c.isLt }

/-- The state with the link port changed. -/
def State.modLink (s : State) (f : Link → Link) : State := { s with link := f s.link }

/-- The state with the budget arbiter changed. -/
def State.modArb (s : State) (f : Arbiter → Arbiter) : State := { s with arb := f s.arb }

/-- The state with hall control changed. -/
def State.modHall (s : State) (f : Hall → Hall) : State := { s with hall := f s.hall }

/-- The state with the protection monitor changed. -/
def State.modProt (s : State) (f : Protection → Protection) : State := { s with prot := f s.prot }

/-- A chamber alarm line. -/
def State.line (s : State) (l : LineNo) : AlarmLine := s.prot.lines[l]

/-- The state with one chamber alarm line changed. -/
def State.modLine (s : State) (l : LineNo) (f : AlarmLine → AlarmLine) : State :=
  s.modProt fun p => { p with lines := p.lines.set l.val (f p.lines[l]) l.isLt }

/-- All channels in ascending number. -/
def allCh : List Ch := [0, 1, 2, 3, 4, 5, 6, 7]

/-- All chamber alarm lines in ascending number. -/
def allLines : List LineNo := [0, 1, 2, 3]

/-! ### The step pool (R1) -/

/-- The record at a pool index: blank where the list has none. -/
def poolRead (pool : List (Nat × StepRecord)) (i : Nat) : Option StepRecord :=
  match pool with
  | [] => none
  | (j, r) :: rest => if i = j then some r else poolRead rest i

/-- The pool after a record is written at an index. -/
def poolWrite (pool : List (Nat × StepRecord)) (i : Nat) (r : StepRecord) : List (Nat × StepRecord) :=
  match pool with
  | [] => [(i, r)]
  | (j, q) :: rest =>
    if i < j then (i, r) :: (j, q) :: rest
    else if i = j then (i, r) :: rest
    else (j, q) :: poolWrite rest i r

/-- The pool after records are written at consecutive indices (R8, R11). -/
def poolWriteAll (pool : List (Nat × StepRecord)) (i : Nat) : List StepRecord → List (Nat × StepRecord)
  | [] => pool
  | r :: rs => poolWriteAll (poolWrite pool i r) (i + 1) rs

/-- Indices strictly rising, each at least `lo` and at most 1,023. -/
def poolRising (lo : Nat) : List (Nat × StepRecord) → Bool
  | [] => true
  | (i, _) :: rest => decide (lo ≤ i) && decide (i < 1024) && poolRising (i + 1) rest

/-- The canonical form of the pool: indices 0 to 1,023, strictly rising, and no entry for a blank record. -/
def poolWf (pool : List (Nat × StepRecord)) : Bool := poolRising 0 pool

/-! ### States and pairs (R50, R123) -/

/-- GAP, DEFERRED, STARTING, RUNNING, HELD or STOPPING (R21). -/
def ChState.engaged : ChState → Bool
  | .gap | .deferred | .starting | .running | .held | .stopping => true
  | _ => false

/-- GAP, DEFERRED, STARTING, RUNNING or HELD: the states in which a hold cause is recorded (R33) and in which a channel
still needs a grant at a hall wake (R173). -/
def ChState.holdable : ChState → Bool
  | .gap | .deferred | .starting | .running | .held => true
  | _ => false

/-- The other channel of the pair a channel may belong to: CH0 with CH1, CH2 with CH3, CH4 with CH5, CH6 with CH7. -/
def partner (c : Ch) : Ch :=
  match c with
  | 0 => 1
  | 1 => 0
  | 2 => 3
  | 3 => 2
  | 4 => 5
  | 5 => 4
  | 6 => 7
  | 7 => 6

/-- Whether a channel is the even member of its pair, the one that leads. -/
def evenCh (c : Ch) : Bool := c.val % 2 = 0

/-- Whether a channel is in FOLLOWER. -/
def isFollower (s : State) (c : Ch) : Bool := (s.ch c).state = .follower

/-- Whether a channel leads a formed pair: it is even and its partner is in FOLLOWER (R123). -/
def isLeader (s : State) (c : Ch) : Bool := evenCh c && isFollower s (partner c)

/-- Whether a channel is a member of a formed pair. -/
def paired (s : State) (c : Ch) : Bool := isLeader s c || isFollower s c

/-- The channel whose schedule a channel serves: its leader for a follower, itself otherwise. -/
def leaderOf (s : State) (c : Ch) : Ch := if isFollower s c then partner c else c

/-- A channel's pair membership as the status replies show it. -/
def pairRole (s : State) (c : Ch) : PairRole :=
  if isFollower s c then .follower else if isLeader s c then .leader else .single

/-- The ports a channel's demands go to: its own, and its follower's for a leader (R127). -/
def portsOf (s : State) (c : Ch) : List Ch := if isLeader s c then [c, partner c] else [c]

/-! ### Reports (R189, R190) -/

/-- A report queue without its oldest non-fault report, or `none` when every report in it is a fault report. -/
def evictOldest : List Report → Option (List Report)
  | [] => none
  | r :: rest => if r.isFault then (evictOldest rest).map (r :: ·) else some rest

/-- The link port after a report is dropped (R190). -/
def Link.countLost (l : Link) (isFault : Bool) : Link :=
  { l with
    lost := true
    lostCount := satAdd count16Limit l.lostCount 1
    lostFaultCount := if isFault then satAdd count16Limit l.lostFaultCount 1 else l.lostFaultCount }

/-- The link port after a report enters the report queue or is dropped (R190). -/
def Link.accept (l : Link) (r : Report) : Link :=
  if l.reports.length < 64 then { l with reports := l.reports ++ [r] }
  else if r.isFault then
    match evictOldest l.reports with
    | some rest => { l.countLost false with reports := rest ++ [r] }
    | none => l.countLost true
  else l.countLost false

/-- The link port after a report is made: it takes the next sequence number, whether it is queued or dropped (R189). -/
def Link.make (l : Link) (partTime : Nat) (channel : Byte) (body : ReportBody) : Link :=
  { l with nextSeq := l.nextSeq + 1 }.accept { seq := l.nextSeq, partTime := partTime, channel := channel, body := body }

/-- A report about one channel. -/
def reportCh (s : State) (c : Ch) (body : ReportBody) : State :=
  s.modLink fun l => l.make s.hall.partTime (chByte c) body

/-- A report about the board as a whole. -/
def reportPart (s : State) (body : ReportBody) : State :=
  s.modLink fun l => l.make s.hall.partTime partWide body

/-! ### Refused replies (R184) -/

/-- A REFUSED reply whose detail has no meaning. -/
def refuse (code : RefusalCode) : ReplyBody := .refused ⟨code, none, 0, 0, 0⟩

/-- A REFUSED INVALID reply with a reason and an index. -/
def invalid (reason : Reason) (index : Nat) : ReplyBody := .refused ⟨.invalid, some reason, index, 0, 0⟩

/-- A request about the board as a whole: the body length is checked, then the channel byte must be the part-wide
number; then the rule's own checks and effect. -/
def takePart (k : ReqKind) (r : Request) (s : State) (f : State → State × ReplyBody) : State × ReplyBody :=
  if k.lengthOk r.body.length = false then (s, refuse .badLength)
  else if r.channel ≠ partWide then (s, invalid .badChannel 0)
  else f s

/-- A request about one channel: the body length is checked, then the channel byte must be 0 to 7. -/
def takeCh (k : ReqKind) (r : Request) (s : State) (f : Ch → State → State × ReplyBody) : State × ReplyBody :=
  if k.lengthOk r.body.length = false then (s, refuse .badLength)
  else match channelOf r.channel with
    | none => (s, invalid .badChannel 0)
    | some c => f c s

end Sys2Proof.Machine
end

