-- ==== Sys2Proof/Machine/Schedules.lean ====
section
/-! DEFINITION. The schedule store: what a step record says (R2 to R6), windows (R7), validation (R15 to R18), the
protection of records in use (R10), and the taking of WRITE_STEPS, READ_STEPS and SET_WINDOW (R8 to R14). -/
namespace Sys2Proof.Machine

/-! ### What a record says -/

/-- A record's kind (R2). -/
def StepRecord.kind : StepRecord → StepKind
  | .rest _ => .rest
  | .charge _ _ _ _ => .charge
  | .discharge _ _ _ _ => .discharge
  | .chargePower _ _ _ _ _ => .chargePower
  | .dischargePower _ _ _ _ _ => .dischargePower
  | .profile _ _ _ _ _ => .profile
  | .mark _ _ _ => .mark

/-- A kind's direction (R2). -/
def StepKind.dir : StepKind → Direction
  | .rest | .mark => .none
  | .charge | .chargePower => .charge
  | .discharge | .dischargePower => .discharge
  | .profile => .both

/-- A record's direction. -/
def StepRecord.dir (r : StepRecord) : Direction := r.kind.dir

/-- A record's end conditions in list order (R4); a MARK has none. -/
def StepRecord.conds : StepRecord → List EndCond
  | .rest cs => cs
  | .charge _ _ _ cs => cs
  | .discharge _ _ _ cs => cs
  | .chargePower _ _ _ _ cs => cs
  | .dischargePower _ _ _ _ cs => cs
  | .profile _ _ _ _ cs => cs
  | .mark _ _ _ => []

/-- The current cap a record keeps (R3). -/
def StepRecord.cap : StepRecord → Option Nat
  | .chargePower _ _ cap _ _ => cap
  | .dischargePower _ _ cap _ _ => cap
  | .profile _ _ cap _ _ => cap
  | _ => none

/-- The claim a record declares (R3, R6). -/
def StepRecord.declared : StepRecord → Option Nat
  | .charge _ _ claim _ => claim
  | .discharge _ _ claim _ => claim
  | .chargePower _ _ _ claim _ => claim
  | .dischargePower _ _ _ claim _ => claim
  | .profile _ _ _ claim _ => claim
  | _ => none

/-- The voltage fields a record keeps (R2). -/
def StepRecord.voltages : StepRecord → List Nat
  | .charge _ upper _ _ => [upper]
  | .discharge _ lower _ _ => [lower]
  | .chargePower _ upper _ _ _ => [upper]
  | .dischargePower _ lower _ _ _ => [lower]
  | .profile upper lower _ _ _ => [upper, lower]
  | _ => []

/-- Whether a record is a MARK. -/
def StepRecord.isMark (r : StepRecord) : Bool := r.kind = .mark

/-- Whether a record moves energy: any kind but REST and MARK. -/
def StepRecord.moves (r : StepRecord) : Bool := r.dir ≠ .none

/-- A record's claim before any bound, for a channel with a given V_max (R6). A PROFILE record without a declared claim
has none computed. -/
def StepRecord.rawClaim (r : StepRecord) (vMax : Nat) : Nat :=
  match r.declared with
  | some claim => claim
  | none =>
    match r with
    | .charge current upper _ _ => ceilDiv (upper * current) 1000000
    | .discharge current _ _ _ => ceilDiv (vMax * current) 1000000
    | .chargePower power _ _ _ _ => power
    | .dischargePower power _ _ _ _ => power
    | _ => 0

/-- The claim limit of a channel: its own, or the sum of both members' for a pair's leader (R6, R133). -/
def claimLimitOf (s : State) (c : Ch) : Nat :=
  if isLeader s c then (s.ch c).settings.claimLimit + (s.ch (partner c)).settings.claimLimit
  else (s.ch c).settings.claimLimit

/-- The claim a channel uses for a step: that of R6, bounded by the claim limit. DESIGN CHOICE (log 65): where SET_CHANNEL has
lowered V_max to 0 after validation, R6's formula gives a DISCHARGE step without a declared claim 0 W, and that claim is
lodged and granted as it is, though R82 has an amount from 1 W. -/
def claimOf (s : State) (c : Ch) (r : StepRecord) : Nat :=
  min (r.rawClaim (s.ch c).settings.vMax) (claimLimitOf s c)

/-- The record at a window index, which is pool index base + index (R7, R19). -/
def windowRead (s : State) (w : Window) (i : Nat) : Option StepRecord := poolRead s.pool (w.base + i)

/-- The record at a channel's step index in its active window (R19). -/
def currentStep (s : State) (c : Ch) : Option StepRecord :=
  match (s.ch c).active with
  | some w => windowRead s w (s.ch c).stepIndex
  | none => none

/-! ### Validation (R16) -/

/-- The records of a window in order of window index. -/
def windowRecords (s : State) (w : Window) : List (Option StepRecord) := (List.range w.length).map (windowRead s w)

/-- Whether a place in a window holds a record of a kind other than MARK. -/
def isWorking (r : Option StepRecord) : Bool :=
  match r with
  | some r => !r.isMark
  | none => false

/-- Whether a place in a window holds a MARK. -/
def isMarkAt (r : Option StepRecord) : Bool :=
  match r with
  | some r => r.isMark
  | none => false

/-- The targets a record names: the goto targets of its end conditions in list order, or a MARK's loop target. -/
def StepRecord.targets : StepRecord → List Nat
  | .mark t _ _ => [t]
  | r => r.conds.filterMap fun e => e.action.target

/-- The record checks of R16, BLANK_STEP downward, of the record at window index `i`. -/
def recordFault (rs : List (Option StepRecord)) (vMax limit i : Nat) : Option Reason :=
  match rs.getD i none with
  | none => some .blankStep
  | some r =>
    if r.targets.any fun t => rs.length ≤ t then some .targetOutside
    else
      let markFault : Option Reason :=
        match r with
        | .mark t _ _ =>
          if i ≤ t then some .loopForward
          else if ((rs.take (i + 1)).drop t).all fun x => !isWorking x then some .emptyLoop
          else if 8 < ((rs.take (i + 1)).filter isMarkAt).length then some .tooManyMarks
          else none
        | _ => none
      match markFault with
      | some reason => some reason
      | none =>
        if !r.isMark && r.conds.isEmpty then some .noEndCondition
        else if r.voltages.any fun v => 125000 < v then some .voltageRange
        else
          match r with
          | .profile upper lower _ claim _ =>
            if upper < lower then some .voltageOrder
            else
              match claim with
              | none => some .noProfileClaim
              | some g => if g < 1 || limit < g then some .claimRange else none
          | _ =>
            let g := r.rawClaim vMax
            if r.moves && (g < 1 || limit < g) then some .claimRange else none

/-- The first fault of the records from window index `i` on, with its index. -/
def firstRecordFault (rs : List (Option StepRecord)) (vMax limit : Nat) : (n i : Nat) → Option (Reason × Nat)
  | 0, _ => none
  | n + 1, i =>
    match recordFault rs vMax limit i with
    | some reason => some (reason, i)
    | none => firstRecordFault rs vMax limit n (i + 1)

/-- Validation of a window for a channel: nothing, or the first fault with its window index (R15, R16). -/
def validate (s : State) (c : Ch) (w : Option Window) : Option (Reason × Nat) :=
  match w with
  | none => some (.noWindow, 0)
  | some w =>
    let rs := windowRecords s w
    if rs.all fun r => !isWorking r then some (.noWorkingStep, 0)
    else firstRecordFault rs (s.ch c).settings.vMax (claimLimitOf s c) rs.length 0

/-! ### Protection (R10) -/

/-- Whether a window covers a pool index (R7). -/
def Window.covers (w : Window) (i : Nat) : Bool := decide (w.base ≤ i) && decide (i < w.base + w.length)

/-- Whether a window that may be absent covers a pool index. -/
def coversIndex (w : Option Window) (i : Nat) : Bool :=
  match w with
  | some w => w.covers i
  | none => false

/-- Whether a channel protects a pool index: its active window while it is engaged, its staged window while it has a
swap pending (R10). -/
def protects (s : State) (c : Ch) (i : Nat) : Bool :=
  ((s.ch c).state.engaged && coversIndex (s.ch c).active i) ||
  ((s.ch c).swapPending.isSome && coversIndex (s.ch c).staged i)

/-- The lowest protected pool index of a run of them, with the lowest-numbered channel that protects it. -/
def firstProtected (s : State) : (n i : Nat) → Option (Nat × Ch)
  | 0, _ => none
  | n + 1, i =>
    match allCh.find? fun c => protects s c i with
    | some c => some (i, c)
    | none => firstProtected s n (i + 1)

/-! ### Requests -/

/-- The form check over the records of a request in order of pool index: the records, or the first reason with its pool
index (R9). -/
def recordsOf : (i : Nat) → List (List Byte) → Except (Reason × Nat) (List StepRecord)
  | _, [] => .ok []
  | i, bs :: rest =>
    match recordOf bs with
    | .error reason => .error (reason, i)
    | .ok r =>
      match recordsOf (i + 1) rest with
      | .error e => .error e
      | .ok rs => .ok (r :: rs)

/-- WRITE_STEPS is taken (R8, R10, R9, R11, in that order). -/
def takeWriteSteps (r : Request) (s : State) : State × ReplyBody :=
  takePart .writeSteps r s fun s =>
    let start := field r.body 0 2
    let raw := recordPieces r.body
    if 1024 < start + raw.length then (s, invalid .poolRange start)
    else
      match firstProtected s raw.length start with
      | some (i, c) => (s, .refused ⟨.protectedState, none, i, c.val, 0⟩)
      | none =>
        match recordsOf start raw with
        | .error (reason, i) => (s, invalid reason i)
        | .ok records =>
          ({ s with pool := poolWriteAll s.pool start records }, .ok (.stepsWritten start records.length))

/-- READ_STEPS is taken (R12). -/
def takeReadSteps (r : Request) (s : State) : State × ReplyBody :=
  takePart .readSteps r s fun s =>
    let start := field r.body 0 2
    let count := field r.body 2 2
    if count < 1 ∨ 15 < count ∨ 1024 < start + count then (s, invalid .poolRange 0)
    else (s, .ok (.steps ((List.range count).map fun i => poolRead s.pool (start + i))))

/-- SET_WINDOW is taken (R13): choice (1 byte), base and length (2 bytes each), an absent window as length 0. -/
def takeSetWindow (r : Request) (s : State) : State × ReplyBody :=
  takeCh .setWindow r s fun c s =>
    let choice := field r.body 0 1
    let base := field r.body 1 2
    let length := field r.body 3 2
    if choice ≠ 1 ∧ choice ≠ 2 then (s, invalid .badForm 0)
    else if (s.ch c).state = .follower then (s, refuse .paired)
    else if choice = 1 ∧ (s.ch c).state.engaged then (s, refuse .wrongState)
    else if choice = 2 ∧ (s.ch c).swapPending.isSome then (s, refuse .protectedState)
    else if length ≠ 0 ∧ (1023 < base ∨ 256 < length ∨ 1024 < base + length) then (s, invalid .windowRange 0)
    else
      let w : Option Window := if length = 0 then none else some ⟨base, length⟩
      let s := s.modCh c fun ch => if choice = 1 then { ch with active := w } else { ch with staged := w }
      (s, .ok (.windows (s.ch c).active (s.ch c).staged))

end Sys2Proof.Machine
end

