-- ==== Sys2Proof/Machine/StageLine.lean ====
section
/-! DEFINITION. The stage line port's own record: its transmitter (R156), the handing and sending of demands (R158,
R159), the retiring of a confirmed demand (R160), the going on after a confirmation timeout (R161), presence (R164),
line errors (R165) and the port's part of the stage line reset (R166). Everything here is about one port alone; what a
port's events do to its channel stands in the files of the channel unit. -/
namespace Sys2Proof.Machine

/-- The port is settled: no outstanding and no pending demand (R157). -/
def Port.settled (p : Port) : Bool := p.outstanding.isNone && p.pending.isNone

/-- A frame becomes due: it is sent at once when the transmitter is free and no line break is being sent, and waits in
the order of becoming due otherwise (R156). -/
def Port.enqueue (p : Port) (f : StageFrame) : Port :=
  if p.sending.isNone && p.due.isEmpty && !p.breaking then { p with sending := some f }
  else { p with due := p.due ++ [f] }

/-- A free transmitter takes the next waiting frame, unless a line break is being sent (R156, R166). -/
def Port.transmitNext (p : Port) : Port :=
  if p.sending.isSome || p.breaking then p
  else
    match p.due with
    | [] => p
    | f :: rest => { p with sending := some f, due := rest }

/-- A demand becomes the outstanding demand and is sent with the next tag, which advances by 1 from 15 round to 0
(R159). -/
def Port.send (p : Port) (d : Demand) : Port :=
  { p with outstanding := some ⟨d, p.nextTag⟩, nextTag := p.nextTag + 1 }.enqueue (.demand ⟨d, p.nextTag⟩)

/-- The channel unit hands the port a demand (R158): it becomes the standing demand, and the first case that applies
holds it pending (ABSENT), sends it, absorbs it, or makes it the newest pending demand. -/
def Port.hand (p : Port) (d : Demand) : Port :=
  let p := { p with standing := some d }
  if p.presence = .absent then { p with pending := some d }
  else
    match p.outstanding with
    | none => p.send d
    | some t => if t.demand = d then { p with pending := none } else { p with pending := some d }

/-- A demand is handed only where it differs from the last one the port was handed (R46, R127). -/
def Port.handNew (p : Port) (d : Demand) : Port := if p.standing = some d then p else p.hand d

/-- Whether a frame is a DEMAND. -/
def StageFrame.isDemand : StageFrame → Bool
  | .demand _ => true
  | .query _ => false

/-- The outstanding demand is confirmed (R160): it becomes the last confirmed demand, and a pending demand is sent in
its place. DEDUCED (log 64): a DEMAND of the retired demand that was sent again and still waits is no longer due, since at
most one DEMAND is due at a time (R156); one that is being sent is sent to its end. -/
def Port.retire (p : Port) (t : Tagged) : Port :=
  let p :=
    { p with
      confTimer := none
      lastConfirmed := some t.demand
      outstanding := none
      due := p.due.filter fun f => !f.isDemand }
  match p.pending with
  | some d => { p with pending := none }.send d
  | none => p

/-- A pending demand is sent with a new tag in place of the unconfirmed one, or the unconfirmed one is sent again with
its own tag (R161). -/
def Port.pressOn (p : Port) : Port :=
  match p.pending, p.outstanding with
  | some d, _ => { p with pending := none }.send d
  | none, some t => p.enqueue (.demand t)
  | none, none => p

/-- A line error: the flag, and the count, which saturates at 65,535 (R165). -/
def Port.countError (p : Port) : Port :=
  { p with lineErr := true, lineErrCount := satAdd count16Limit p.lineErrCount 1 }

/-- Presence becomes PRESENT (R164): a pending demand that equals the last confirmed one is removed, any other is
sent. -/
def Port.becomePresent (p : Port) : Port :=
  let p := { p with presence := .present }
  match p.pending with
  | none => p
  | some d => if p.lastConfirmed = some d then { p with pending := none } else { p with pending := none }.send d

/-- A QUERY that is due or being sent is no longer the open period's (R163). -/
def StageFrame.age : StageFrame → StageFrame
  | .query _ => .query false
  | f => f

/-- A period opens on the port: the query-awaiting flag is cleared, and the new period's QUERY becomes due (R156,
R163). DESIGN CHOICE (log 67): the QUERY of an earlier period that still waits stays due, as not the open period's, and is
sent before the new one. -/
def Port.openPeriod (p : Port) : Port :=
  { p with queryAwaiting := false, sending := p.sending.map StageFrame.age, due := p.due.map StageFrame.age }.enqueue
    (.query true)

/-- The port's transmitter has wholly sent a frame (R156): a DEMAND starts the confirmation timer with the timeout as
it then stands (R159), while that demand is still the outstanding one; the open period's QUERY sets the query-awaiting
flag (R163). The next waiting frame is then sent. -/
def Port.whollySent (p : Port) (confTimeout : Nat) : Port :=
  match p.sending with
  | none => p
  | some f =>
    let p := { p with sending := none }
    let p :=
      match f with
      | .demand t => if p.outstanding = some t then { p with confTimer := some confTimeout } else p
      | .query ofOpen => if ofOpen then { p with queryAwaiting := true } else p
    p.transmitNext

/-- The port's part of RESET_STAGE_LINE (R166). Frames due or being sent are given up with the line break (log 22). A
standing demand that differs from the last confirmed one becomes the pending demand again. DESIGN CHOICE (log 68): where an
earlier line break is still being sent there is one break in force afterwards, and one LINE_BREAK_END ends it. -/
def Port.resetLine (p : Port) : Port :=
  { p with
    confTimer := none
    outstanding := none
    pending := if p.standing = p.lastConfirmed then none else p.standing
    queryAwaiting := false
    lineErr := false
    lineErrCount := 0
    presence := .absent
    sending := none
    due := []
    breaking := true }

/-- The line break ends, and waiting frames may be sent (R166). -/
def Port.breakEnd (p : Port) : Port := { p with breaking := false }.transmitNext

/-- The state with one channel's port changed. -/
def State.modPort (s : State) (c : Ch) (f : Port → Port) : State := s.modCh c fun ch => { ch with port := f ch.port }

/-- A channel's port. -/
def State.port (s : State) (c : Ch) : Port := (s.ch c).port

end Sys2Proof.Machine
end

