-- ==== Sys2Proof/Machine/Setpoint.lean ====
section
/-! DEFINITION. The demand a channel calls for: mode and voltages (R46), current (R47), clamp (R48), the pack demand and
its division between a pair's members (R126, R127), and the issuing of a demand that differs from the last one. -/
namespace Sys2Proof.Machine

/-- A demand with mode OFF or IDLE: everything else is 0 (R46). -/
def offDemand : Demand := ⟨.off, 0, 0, 0⟩

/-- The IDLE demand (R46). -/
def idleDemand : Demand := ⟨.idle, 0, 0, 0⟩

/-- A channel's latest voltage: that of its last reading, or of the pack reading for a leader (R62, R126). DESIGN CHOICE
(log 47): the pack reading counts as it stands, also before the first one completed since SET_PAIR. -/
def latestVoltage (s : State) (c : Ch) : Nat := if isLeader s c then (s.ch c).pack.v else (s.ch c).last.v

/-- The voltage that divides a power: the larger of the latest voltage and 2,000 mV (R47, R48). -/
def divisorVoltage (s : State) (c : Ch) : Nat := max (latestVoltage s c) 2000

/-- The place in the queue of the play position: the head in ONE_SHOT mode (R113). -/
def playPosition (ch : Channel) : Nat := if ch.settings.profileMode = .repeat then ch.play.position else 0

/-- The point at the play position, if there is one. -/
def playPoint (ch : Channel) : Option Point := ch.queue[playPosition ch]?

/-- The current a PROFILE step asks for: that of the point at the play position, or the held current (R113). -/
def playCurrent (ch : Channel) : Int :=
  match playPoint ch with
  | some p => p.current
  | none => ch.play.heldCurrent

/-- The current of a REGULATE demand before clamping (R47). -/
def rawCurrent (s : State) (c : Ch) (r : StepRecord) : Int :=
  match r with
  | .charge current _ _ _ => current
  | .discharge current _ _ _ => -(current : Int)
  | .chargePower power _ _ _ _ => roundDiv (power * 1000000) (divisorVoltage s c)
  | .dischargePower power _ _ _ _ => -roundDiv (power * 1000000) (divisorVoltage s c)
  | .profile _ _ _ _ _ => playCurrent (s.ch c)
  | _ => 0

/-- A channel's entry in the grant list (R82), of which its grant record is a copy (R20). -/
def grantOf (s : State) (c : Ch) : Option Grant := s.arb.grants.find? fun g => g.ch = c

/-- The cap on a REGULATE current: the record's current cap where it keeps one and I_max otherwise (R48); for a pair,
no more than twice the smaller of the members' I_max (R126). -/
def currentCap (s : State) (c : Ch) (r : StepRecord) : Nat :=
  if isLeader s c then
    let both := 2 * min (s.ch c).settings.iMax (s.ch (partner c)).settings.iMax
    match r.cap with
    | some cap => min cap both
    | none => both
  else r.cap.getD (s.ch c).settings.iMax

/-- The claim current: the grant amount × 1,000,000 ÷ the voltage, rounded down (R48). -/
def claimCurrent (s : State) (c : Ch) : Nat :=
  match grantOf s c with
  | some g => g.amount * 1000000 / divisorVoltage s c
  | none => 0

/-- A current with its magnitude brought down to a limit, the sign kept, and whether that lowered it (R48). -/
def clampCurrent (i : Int) (limit : Nat) : Int × Bool :=
  if limit < i.natAbs then (if i < 0 then -(limit : Int) else limit, true) else (i, false)

/-- The REGULATE demand of a step, and whether the clamp lowered its current (R46 to R48). -/
def regulateDemand (s : State) (c : Ch) (r : StepRecord) : Demand × Bool :=
  let i := clampCurrent (rawCurrent s c r) (min (currentCap s c r) (claimCurrent s c))
  let set := (s.ch c).settings
  match r with
  | .charge _ upper _ _ => (⟨.regulate, i.1, upper, set.vMin⟩, i.2)
  | .chargePower _ upper _ _ _ => (⟨.regulate, i.1, upper, set.vMin⟩, i.2)
  | .discharge _ lower _ _ => (⟨.regulate, i.1, set.vMax, lower⟩, i.2)
  | .dischargePower _ lower _ _ _ => (⟨.regulate, i.1, set.vMax, lower⟩, i.2)
  | .profile upper lower _ _ _ => (⟨.regulate, i.1, upper, lower⟩, i.2)
  | _ => (idleDemand, false)

/-- The demand a channel's state and step call for (R21, R46), and whether its current was clamped. -/
def calledFor (s : State) (c : Ch) : Demand × Bool :=
  match (s.ch c).state with
  | .starting | .running =>
    match currentStep s c with
    | some r => regulateDemand s c r
    | none => (idleDemand, false)
  | .gap | .deferred | .held => (idleDemand, false)
  | _ => (offDemand, false)

/-- The follower's share of a pack demand: half the current, truncated toward zero (R126). -/
def followerShare (d : Demand) : Demand := { d with current := d.current.tdiv 2 }

/-- The leader's share: the current less the follower's share (R126). -/
def leaderShare (d : Demand) : Demand := { d with current := d.current - d.current.tdiv 2 }

/-- The demand a follower's port is handed: its share, or OFF while its latched set is not empty (R127). -/
def followerDemand (latched : BitVec 16) (d : Demand) : Demand :=
  if latched = 0 then followerShare d else offDemand

/-- A channel, not a follower, issues the demand it calls for: to its own port, or each share to its member's port,
where it differs from the last demand that port was handed (R46, R127). A clamp that lowers the current sets the clamp
flag (R48). -/
def issue (s : State) (c : Ch) : State :=
  let d := calledFor s c
  let s' := if d.2 then s.modCh c fun ch => { ch with clamped := true } else s
  if isLeader s c then
    (s'.modPort c fun p => p.handNew (leaderShare d.1)).modPort (partner c) fun p =>
      p.handNew (followerDemand (s.ch (partner c)).latched d.1)
  else s'.modPort c fun p => p.handNew d.1

end Sys2Proof.Machine
end

