-- ==== Sys2Proof/Machine/Arbiter.lean ====
section
/-! DEFINITION. The budget arbiter by itself: link-power figures (R84), sums and tests (R85), the ring and its pointers
(R92, R93), the grants an evaluation makes (R90), the grants shedding removes (R101), and what a channel asks of the
arbiter: lodge, withdraw, release, idle, carry (R88, R89, R97 to R99). What a grant or a shedding does to the channels
stands in Channel.lean and Budget.lean. -/
namespace Sys2Proof.Machine

/-! ### Figures, sums and tests -/

/-- The charge-side figure of an amount: the ceiling of G × 1,000 ÷ η (R84). -/
def lcOf (eta g : Nat) : Nat := ceilDiv (g * 1000) eta

/-- The discharge-side figure of an amount: the floor of G × η ÷ 1,000 (R84). -/
def ldOf (eta g : Nat) : Nat := g * eta / 1000

/-- Whether a direction counts on the charge side (R84). -/
def Direction.onCharge : Direction → Bool
  | .charge | .both => true
  | _ => false

/-- Whether a direction counts on the discharge side (R84). -/
def Direction.onDischarge : Direction → Bool
  | .discharge | .both => true
  | _ => false

/-- The four sums of a grant list (R85): a BOTH grant is never counted among the live ones (R83). -/
def sumsOf (eta : Nat) (gs : List Grant) : Sums where
  chgAll := (gs.map fun g => if g.dir.onCharge then lcOf eta g.amount else 0).sum
  chgLive := (gs.map fun g => if g.live ∧ g.dir = .charge then lcOf eta g.amount else 0).sum
  disAll := (gs.map fun g => if g.dir.onDischarge then ldOf eta g.amount else 0).sum
  disLive := (gs.map fun g => if g.live ∧ g.dir = .discharge then ldOf eta g.amount else 0).sum

/-- The left-hand side of the intake test (R85). -/
def intakeSide (b : BudgetSettings) (gs : List Grant) : Int :=
  ((sumsOf b.eta gs).chgAll : Int) - ((sumsOf b.eta gs).disLive * b.u / 1000 : Nat)

/-- The left-hand side of the return test (R85). -/
def returnSide (b : BudgetSettings) (gs : List Grant) : Int :=
  ((sumsOf b.eta gs).disAll : Int) - ((sumsOf b.eta gs).chgLive * b.u / 1000 : Nat)

/-- The intake test (R85). -/
def intakeOk (b : BudgetSettings) (cEff : Nat) (gs : List Grant) : Bool := intakeSide b gs ≤ cEff

/-- The return test (R85). -/
def returnOk (b : BudgetSettings) (gs : List Grant) : Bool := returnSide b gs ≤ b.cRet

/-- The link is within its ceilings (R85). -/
def withinCeilings (b : BudgetSettings) (cEff : Nat) (gs : List Grant) : Bool := intakeOk b cEff gs && returnOk b gs

/-- The effective intake ceiling: C_curt while the filtered curtailment line is asserted, C_in while it is not
(R85). -/
def cEffOf (s : State) : Nat := if s.hall.curtFiltered then s.arb.budget.cCurt else s.arb.budget.cIn

/-- Both tests hold of the state's grant list (R85). -/
def testsHold (s : State) : Bool := withinCeilings s.arb.budget (cEffOf s) s.arb.grants

/-! ### The ring (R92, R93) -/

/-- A channel's rotation group. -/
def groupOfCh (s : State) (c : Ch) : Group := (s.ch c).settings.group

/-- The LOW channels in ascending number. -/
def lowList (s : State) : List Ch := allCh.filter fun c => groupOfCh s c = .low

/-- The ring: the HIGH channels in ascending number, then, when some channel is LOW, the LOW slot (`none`). -/
def ringOf (s : State) : List (Option Ch) :=
  ((allCh.filter fun c => groupOfCh s c = .high).map some) ++ (if (lowList s).isEmpty then [] else [none])

/-- The LOW channels in ascending number starting at lp and going round. -/
def lowFrom (s : State) : List Ch :=
  match s.arb.lp with
  | none => lowList s
  | some lp => (lowList s).filter (fun c => lp ≤ c) ++ (lowList s).filter (fun c => c < lp)

/-- The walk order an evaluation fixes: once round the ring from hp, the LOW slot standing for the LOW channels from lp
(R93). -/
def walkOrder (s : State) : List Ch :=
  let ring := ringOf s
  ((ring.drop s.arb.hp ++ ring.take s.arb.hp).map fun p =>
    match p with
    | some c => [c]
    | none => lowFrom s).flatten

/-- The initial positions of the pointers: hp at the first position of the ring, lp at the lowest LOW channel (R92). -/
def resetPointers (s : State) : State := s.modArb fun a => { a with hp := 0, lp := (lowList s).head? }

/-- The position after another in a ring of a given size, going round. -/
def nextPosition (size i : Nat) : Nat := if i + 1 < size then i + 1 else 0

/-- The next LOW channel above one, going round. -/
def nextLow (lows : List Ch) (c : Ch) : Option Ch :=
  match lows.find? fun d => c < d with
  | some d => some d
  | none => lows.head?

/-- The pointers after the walk grants an entry of a channel (R93), for a ring and the LOW channels. -/
def movePointers (ring : List (Option Ch)) (lows : List Ch) (c : Ch) (hp : Nat) (lp : Option Ch) : Nat × Option Ch :=
  match ring.findIdx? fun p => p = some c with
  | some i => (nextPosition ring.length i, lp)
  | none =>
    match ring.findIdx? fun p => p = none with
    | some i => (if ring.length = 1 then hp else nextPosition ring.length i, nextLow lows c)
    | none => (hp, lp)

/-! ### Evaluation (R90) -/

/-- The reserved grant an entry asks for. -/
def Entry.grant (e : Entry) : Grant := ⟨e.ch, e.dir, e.claim, false, none⟩

/-- The first stage of an evaluation: the head of the resume queue is granted while it fits. It gives the grant list,
the queue left and the channels granted, in order. -/
def grantResume (b : BudgetSettings) (cEff : Nat) : List Grant → List Entry → List Grant × List Entry × List Ch
  | gs, [] => (gs, [], [])
  | gs, e :: es =>
    if withinCeilings b cEff (gs ++ [e.grant]) then
      let r := grantResume b cEff (gs ++ [e.grant]) es
      (r.1, r.2.1, e.ch :: r.2.2)
    else (gs, e :: es, [])

/-- What the walk of the waiting set carries along: grants, waiting set, pointers and the channels granted. -/
structure Walk where
  grants  : List Grant
  waiting : List Entry
  hp      : Nat
  lp      : Option Ch
  granted : List Ch
  deriving DecidableEq, Repr

/-- The entries without those of a channel. -/
def withoutCh (es : List Entry) (c : Ch) : List Entry := es.filter fun e => e.ch ≠ c

/-- The second stage of an evaluation: the walk of the waiting set in a fixed order. An entry that fits is granted and
the pointers move; one that does not is passed over, unless it is STARVED, which ends the walk (R90, R93, R96). -/
def walkWaiting (b : BudgetSettings) (cEff : Nat) (ring : List (Option Ch)) (lows : List Ch) : List Ch → Walk → Walk
  | [], w => w
  | c :: cs, w =>
    match w.waiting.find? fun e => e.ch = c with
    | none => walkWaiting b cEff ring lows cs w
    | some e =>
      if withinCeilings b cEff (w.grants ++ [e.grant]) then
        let p := movePointers ring lows c w.hp w.lp
        walkWaiting b cEff ring lows cs
          { grants := w.grants ++ [e.grant], waiting := withoutCh w.waiting c, hp := p.1, lp := p.2,
            granted := w.granted ++ [c] }
      else if e.mark = .starved then w
      else walkWaiting b cEff ring lows cs w

/-- One evaluation (R90): the resume queue, then, when it is empty, the waiting set in the rotation order fixed at the
start. It gives the state and the channels granted, in order. -/
def evaluate (s : State) : State × List Ch :=
  let b := s.arb.budget
  let one := grantResume b (cEffOf s) s.arb.grants s.arb.resume
  if one.2.1.isEmpty then
    let w := walkWaiting b (cEffOf s) (ringOf s) (lowList s) (walkOrder s)
      ⟨one.1, s.arb.waiting, s.arb.hp, s.arb.lp, []⟩
    (s.modArb fun a => { a with grants := w.grants, resume := [], waiting := w.waiting, hp := w.hp, lp := w.lp },
      one.2.2 ++ w.granted)
  else (s.modArb fun a => { a with grants := one.1, resume := one.2.1 }, one.2.2)

/-! ### Shedding (R101) -/

/-- A grant list without its newest grant that satisfies a condition, and that grant. -/
def removeNewest (p : Grant → Bool) (gs : List Grant) : Option (Grant × List Grant) :=
  match gs with
  | [] => none
  | g :: rest =>
    match removeNewest p rest with
    | some (h, rest') => some (h, g :: rest')
    | none => if p g then some (g, rest) else none

/-- Step 1 of shedding: while the intake test fails, the newest CHARGE or BOTH grant is removed. The removed grants come
with the test that failed, in order. -/
def shedIntake (b : BudgetSettings) (cEff : Nat) : (fuel : Nat) → List Grant → List Grant × List (Grant × BudgetTest)
  | 0, gs => (gs, [])
  | fuel + 1, gs =>
    if intakeOk b cEff gs then (gs, [])
    else
      match removeNewest (fun g => g.dir.onCharge) gs with
      | none => (gs, [])
      | some (g, rest) =>
        let r := shedIntake b cEff fuel rest
        (r.1, (g, .intake) :: r.2)

/-- Step 2 of shedding: while the return test fails, the newest DISCHARGE or BOTH grant is removed. -/
def shedReturn (b : BudgetSettings) : (fuel : Nat) → List Grant → List Grant × List (Grant × BudgetTest)
  | 0, gs => (gs, [])
  | fuel + 1, gs =>
    if returnOk b gs then (gs, [])
    else
      match removeNewest (fun g => g.dir.onDischarge) gs with
      | none => (gs, [])
      | some (g, rest) =>
        let r := shedReturn b fuel rest
        (r.1, (g, .return) :: r.2)

/-- Shedding (R101): step 1, step 2, and again while a test fails. Every removal takes a grant off the list, so the
list's length bounds the rounds. -/
def shedLoop (b : BudgetSettings) (cEff : Nat) : (fuel : Nat) → List Grant → List Grant × List (Grant × BudgetTest)
  | 0, gs => (gs, [])
  | fuel + 1, gs =>
    if withinCeilings b cEff gs then (gs, [])
    else
      let one := shedIntake b cEff gs.length gs
      let two := shedReturn b one.1.length one.1
      let r := shedLoop b cEff fuel two.1
      (r.1, one.2 ++ two.2 ++ r.2)

/-! ### What a channel asks of the arbiter -/

/-- Whether a channel has an entry in the resume queue. -/
def hasResume (s : State) (c : Ch) : Bool := s.arb.resume.any fun e => e.ch = c

/-- Whether a channel has an entry in the waiting set. -/
def hasWaiting (s : State) (c : Ch) : Bool := s.arb.waiting.any fun e => e.ch = c

/-- A channel's grant changed in place. -/
def modGrant (s : State) (c : Ch) (f : Grant → Grant) : State :=
  s.modArb fun a => { a with grants := a.grants.map fun g => if g.ch = c then f g else g }

/-- A channel releases its grant, if it holds one: it leaves the list and an evaluation is due (R99). -/
def releaseGrant (s : State) (c : Ch) : State :=
  if (grantOf s c).isSome then
    s.modArb fun a => { a with grants := a.grants.filter (fun g => g.ch ≠ c), evalDue := true }
  else s

/-- A channel withdraws its waiting entry, if it has one, and an evaluation is due (R89). -/
def withdrawWaiting (s : State) (c : Ch) : State :=
  if hasWaiting s c then s.modArb fun a => { a with waiting := withoutCh a.waiting c, evalDue := true } else s

/-- A channel withdraws its entry from the waiting set or the resume queue (R89). -/
def withdrawEntries (s : State) (c : Ch) : State :=
  let s := withdrawWaiting s c
  if hasResume s c then s.modArb fun a => { a with resume := withoutCh a.resume c, evalDue := true } else s

/-- A channel tells the arbiter that its grant is no longer live (R83). -/
def grantNotLive (s : State) (c : Ch) : State := modGrant s c fun g => { g with live := false }

/-- A channel tells the arbiter that its grant is live, and an evaluation is due (R27, R83, R90). -/
def grantLive (s : State) (c : Ch) : State :=
  (modGrant s c fun g => { g with live := true }).modArb fun a => { a with evalDue := true }

/-- A channel lodges a request for a step: a NEW waiting entry with a fresh wait timer (R88). -/
def lodge (s : State) (c : Ch) (dir : Direction) (claim : Nat) : State :=
  s.modArb fun a =>
    { a with
      waiting := a.waiting ++ [⟨c, dir, claim, .new, some (s.ch c).settings.deferralLimit, s.hall.partTime⟩]
      evalDue := true }

/-- A NEW resume entry with a fresh wait timer is appended to the resume queue (R102, R105). -/
def appendResume (s : State) (c : Ch) (dir : Direction) (claim : Nat) : State :=
  s.modArb fun a =>
    { a with
      resume := a.resume ++ [⟨c, dir, claim, .new, some (s.ch c).settings.deferralLimit, s.hall.partTime⟩] }

/-- A channel's grant becomes idle (R98): a grant idle already keeps its timer; a grant hold of 0 releases the grant at
once. -/
def idleGrant (s : State) (c : Ch) : State :=
  match grantOf s c with
  | none => s
  | some g =>
    if g.hold.isSome then s
    else if (s.ch c).settings.grantHold = 0 then releaseGrant s c
    else modGrant s c fun g => { g with hold := some (s.ch c).settings.grantHold }

/-- A channel's grant is no longer idle, and its grant-hold timer stops (R98). -/
def unidleGrant (s : State) (c : Ch) : State := modGrant s c fun g => { g with hold := none }

/-- Whether a grant covers a step of a channel: its direction is the step's and its amount is at least the claim
(R21). -/
def covers (s : State) (c : Ch) (g : Grant) (r : StepRecord) : Bool := g.dir = r.dir && claimOf s c r ≤ g.amount

/-- Whether a channel holds a grant that covers a step. -/
def holdsCover (s : State) (c : Ch) (r : StepRecord) : Bool :=
  match grantOf s c with
  | some g => covers s c g r
  | none => false

/-- The arbiter settles a channel's grant for a prepared step (R97): it is carried, kept idle, or released, and in each case
an evaluation is due, once the arbiter has shed if a test fails. `toHeld` says that the channel enters HELD before the
step. -/
def settleOffer (s : State) (c : Ch) (r : StepRecord) (toHeld : Bool) : State :=
  match grantOf s c with
  | none => s
  | some g =>
    let s := s.modArb fun a => { a with evalDue := true }
    if r.moves ∧ r.dir = g.dir ∧ g.dir ≠ .both ∧ claimOf s c r ≤ g.amount then
      let s' := modGrant s c fun g => { g with amount := claimOf s c r }
      if toHeld then idleGrant s' c else unidleGrant s' c
    else if r.kind = .rest ∨ toHeld then idleGrant s c
    else releaseGrant s c

/-- A channel whose grant does not cover its step releases it and lodges a request for the step (R91). -/
def exchangeGrant (s : State) (c : Ch) (r : StepRecord) : State := lodge (releaseGrant s c) c r.dir (claimOf s c r)

/-- A channel settles its grant at a gap start (R22): a covering grant stays, another is released; with no grant and no
entry it lodges a request. -/
def settleAtGap (s : State) (c : Ch) (r : StepRecord) : State :=
  let s := if holdsCover s c r then unidleGrant s c else releaseGrant s c
  if (grantOf s c).isSome || hasResume s c || hasWaiting s c then s else lodge s c r.dir (claimOf s c r)

/-- The arbiter's collections are emptied (R104, R106): every grant and entry goes, and with them their timers. -/
def emptyCollections (s : State) : State := s.modArb fun a => { a with grants := [], waiting := [], resume := [] }

end Sys2Proof.Machine
end

