-- ==== Sys2Proof/Machine/Channel.lean ====
section
/-! DEFINITION. The channel unit's acts: preparing and beginning a step (R22), gaps and the stage start (R26, R27), hold
causes (R33, R34), stopping (R32, R37, R38), and the hall's settling test (R171), which a settled port and a fault call
for. What the acts ask of the budget arbiter is recorded (`evalDue`) and handled by `settle` in Budget.lean. -/
namespace Sys2Proof.Machine

/-! ### Hall state and settling (R171, R178) -/

/-- The hall enters a state, with its HALL_STATE report (R178). -/
def enterHall (s : State) (now : HallState) (cause : HallCause) (order : Option (List PauseEntry))
    (entries : Option Nat) : State :=
  let before := s.hall.state
  let s := s.modHall fun h => { h with state := now }
  reportPart s (.hallState now before cause order entries s.hall.wakeByTimer s.hall.wakeByCurtail s.hall.wakeTimer)

/-- A port is settled for the pause: ABSENT, or settled with a last confirmed demand that is not a REGULATE (R171). -/
def Port.settledForPause (p : Port) : Bool :=
  p.presence = .absent ||
    (p.settled &&
      match p.lastConfirmed with
      | some d => d.mode ≠ .regulate
      | none => true)

/-- A channel outside FOLLOWER is settled for the pause: FAULTED, or its port, or for a leader both ports, are
(R171). -/
def settledForPause (s : State) (c : Ch) : Bool :=
  (s.ch c).state = .faulted || (portsOf s c).all fun d => (s.port d).settledForPause

/-- The settling test (R171): while PAUSING, the hall becomes PAUSED once every channel outside FOLLOWER is settled. -/
def settlingTest (s : State) : State :=
  if s.hall.state = .pausing ∧ allCh.all (fun c => isFollower s c || settledForPause s c) then
    enterHall s .paused .settled none none
  else s

/-! ### Stopping (R32, R37, R38, R44) -/

/-- A port's last confirmed demand is OFF and no demand is outstanding. -/
def Port.offConfirmed (p : Port) : Bool :=
  p.outstanding.isNone &&
    match p.lastConfirmed with
    | some d => d.mode = .off
    | none => false

/-- Whether a channel enters its stop destination at once in place of STOPPING (R32, R37, R127). `absentCounts` is
R44's case: an ABSENT port of a single channel counts too. For a pair an ABSENT port always counts. -/
def restsAtOnce (s : State) (c : Ch) (absentCounts : Bool) : Bool :=
  (portsOf s c).all fun d =>
    (s.port d).offConfirmed || ((isLeader s c || absentCounts) && (s.port d).presence = .absent)

/-- Whether a channel in STOPPING may leave it (R38, R127): each port has the OFF confirmed with nothing outstanding or
pending, or, for a pair, shows ABSENT. -/
def stopConfirmed (s : State) (c : Ch) : Bool :=
  (portsOf s c).all fun d =>
    ((s.port d).offConfirmed && (s.port d).settled) || (isLeader s c && (s.port d).presence = .absent)

/-- The state a stop destination names. -/
def StopDest.state : StopDest → ChState
  | .idle => .idle
  | .complete => .complete

/-- A channel enters its stop destination, and any pending swap is removed (R38). -/
def finishStop (s : State) (c : Ch) : State :=
  s.modCh c fun ch => { ch with state := ch.stopDest.state, swapPending := none }

/-- A channel demands OFF and enters STOPPING, or its destination at once (R32, R37, R44). -/
def enterStopping (s : State) (c : Ch) (dest : StopDest) (absentCounts : Bool) : State :=
  let s := s.modCh c fun ch => { ch with state := .stopping, stopDest := dest }
  let s := issue s c
  if restsAtOnce s c absentCounts then finishStop s c else s

/-- A port tells its channel unit, or its leader's, that its record has become settled (R157): a channel waiting in
STOPPING leaves it (R38), and the settling test is made (R171). -/
def portSettled (s : State) (c : Ch) : State :=
  let l := leaderOf s c
  let s := if (s.ch l).state = .stopping ∧ stopConfirmed s l then finishStop s l else s
  settlingTest s

/-! ### Preparing and beginning a step (R22) -/

/-- A PROFILE step's playback as its preparation sets it up (R113). -/
def Playback.setUp (p : Playback) (mode : ProfileMode) (queueEmpty : Bool) : Playback :=
  { p with
    heldCurrent := 0
    underrun := false
    profileEnd := false
    underrunTimer := none
    played := 0
    position := if mode = .repeat then 0 else p.position
    inPlay := !queueEmpty }

/-- A step other than PROFILE being prepared: the UNDERRUN flag and the profile-end mark clear, the timer stops, and the
rest stands (R113). -/
def Playback.setAside (p : Playback) : Playback :=
  { p with underrun := false, profileEnd := false, underrunTimer := none }

/-- A channel's playback set up for a step, or set aside (R113). -/
def setUpPlayback (ch : Channel) (r : StepRecord) : Channel :=
  { ch with
    play := if r.kind = .profile then ch.play.setUp ch.settings.profileMode ch.queue.isEmpty else ch.play.setAside }

/-- A channel prepares the step at a window index (R22): the figures of the step start from zero, playback is set up,
and a grant held is offered to the arbiter (R97). -/
def prepareStep (s : State) (c : Ch) (k : Nat) (toHeld : Bool) : State :=
  let s := s.modCh c fun ch =>
    { ch with
      stepIndex := k
      stepTime := 0
      qStep := 0
      eStep := 0
      vPeak := 0
      confirms := [0, 0, 0, 0]
      clamped := false }
  match currentStep s c with
  | none => s
  | some r => settleOffer (s.modCh c fun ch => setUpPlayback ch r) c r toHeld

/-- A channel enters STARTING (R27): the last direction becomes the step's, the start timer starts, the grant is no
longer idle, and REGULATE is demanded. -/
def enterStarting (s : State) (c : Ch) (r : StepRecord) : State :=
  let s := s.modCh c fun ch =>
    { ch with state := .starting, lastDir := r.dir, startTimer := some ch.settings.startTimeout, gapTimer := none }
  issue (unidleGrant s c) c

/-- A channel enters DEFERRED (R26, R34). -/
def enterDeferred (s : State) (c : Ch) : State :=
  issue (s.modCh c fun ch => { ch with state := .deferred, gapTimer := none }) c

/-- A channel enters RUNNING on a REST step, with IDLE demanded; a grant it holds is idle (R22, R98). -/
def enterRest (s : State) (c : Ch) : State :=
  idleGrant (issue (s.modCh c fun ch => { ch with state := .running, gapTimer := none }) c) c

/-- The gap timer of a channel in GAP expires (R26): STARTING with a covering grant, otherwise DEFERRED. A channel in
DEFERRED holds no grant (R102). DEDUCED (log 46): a grant that no longer covers the step, because SET_CHANNEL raised the
claim in the gap, is released and a request lodged in its place, as R91 gives for a grant that does not cover. -/
def gapExpires (s : State) (c : Ch) : State :=
  match currentStep s c with
  | none => enterDeferred (releaseGrant s c) c
  | some r =>
    if holdsCover s c r then enterStarting s c r
    else enterDeferred (if (grantOf s c).isSome then exchangeGrant s c r else s) c

/-- The gap a step begins with (R22): the reversal gap when the step's direction differs from the last, when either is
BOTH or the last is NONE; the continuation gap otherwise. -/
def gapFor (ch : Channel) (r : StepRecord) : Nat :=
  if r.dir ≠ ch.lastDir ∨ r.dir = .both ∨ ch.lastDir = .none then ch.settings.reversalGap
  else ch.settings.continuationGap

/-- A channel enters GAP with a gap, settles its grant there, and demands IDLE; a gap of 0 ms expires at once (R22,
R26). -/
def enterGap (s : State) (c : Ch) (r : StepRecord) (gap : Nat) : State :=
  let s := s.modCh c fun ch => { ch with state := .gap, gapTimer := some gap }
  let s := issue (settleAtGap s c r) c
  if gap = 0 then gapExpires s c else s

/-- A channel begins its prepared step (R22). -/
def beginStep (s : State) (c : Ch) : State :=
  match currentStep s c with
  | none => s
  | some r => if r.kind = .rest then enterRest s c else enterGap s c r (gapFor (s.ch c) r)

/-- A channel begins the step a resume point named (R25): a step that is not REST enters GAP with the reversal gap
whatever the last direction. -/
def beginResumed (s : State) (c : Ch) : State :=
  match currentStep s c with
  | none => s
  | some r => if r.kind = .rest then enterRest s c else enterGap s c r (s.ch c).settings.reversalGap

/-- A channel takes up a step: it prepares it and begins it in the same event (R22). -/
def takeUp (s : State) (c : Ch) (k : Nat) : State := beginStep (prepareStep s c k false) c

/-! ### Holds (R33, R34) -/

/-- A channel leaves RUNNING or a stage start: its gap, start and underrun timers stop (R33, R42, R118). -/
def Channel.stopTimers (ch : Channel) : Channel :=
  { ch with gapTimer := none, startTimer := none, play := { ch.play with underrunTimer := none } }

/-- A hold cause is added to a channel (R33). In GAP, DEFERRED, STARTING and RUNNING it stops the timers, withdraws the
waiting entry, tells the arbiter that the grant is no longer live and enters HELD; in HELD it joins the set; in any
other state it is not recorded. A grant kept through HOST, CHAMBER or END_HOLD is idle (R98). -/
def addCause (s : State) (c : Ch) (cause : HoldCause) : State :=
  match (s.ch c).state with
  | .gap | .deferred | .starting | .running =>
    let s := s.modCh c Channel.stopTimers
    let s := grantNotLive (withdrawWaiting s c) c
    let s := s.modCh c fun ch => { ch with holds := ch.holds.add cause, state := .held }
    let s := issue s c
    if (s.ch c).holds.keepsIdle then idleGrant s c else s
  | .held =>
    let s := s.modCh c fun ch => { ch with holds := ch.holds.add cause }
    if (s.ch c).holds.keepsIdle then idleGrant s c else s
  | _ => s

/-- A channel whose hold cause set has emptied leaves HELD by the first case of R34 that applies. -/
def leaveHeld (s : State) (c : Ch) : State :=
  if (s.ch c).heldBefore then beginStep (s.modCh c fun ch => { ch with heldBefore := false }) c
  else
    match currentStep s c with
    | none => s
    | some r =>
      if r.kind = .rest then enterRest s c
      else if holdsCover s c r then enterStarting s c r
      else
        let s := enterDeferred (releaseGrant s c) c
        if hasResume s c then s else lodge s c r.dir (claimOf s c r)

/-- Hold causes are removed from a channel: in HELD, a set that becomes empty lets the channel leave (R34). -/
def removeCauses (s : State) (c : Ch) (f : HoldCauses → HoldCauses) : State :=
  let before := (s.ch c).holds
  let s := s.modCh c fun ch => { ch with holds := f ch.holds }
  if (s.ch c).state = .held ∧ before ≠ HoldCauses.empty ∧ (s.ch c).holds = HoldCauses.empty then leaveHeld s c else s

/-- The arbiter hands a channel the grant it has just made (R91). -/
def handOver (s : State) (c : Ch) : State :=
  match currentStep s c with
  | none => s
  | some r =>
    match (s.ch c).state with
    | .gap => if holdsCover s c r then s else exchangeGrant s c r
    | .deferred => if holdsCover s c r then enterStarting s c r else exchangeGrant s c r
    | .held =>
      let s := s.modCh c fun ch => { ch with holds := ch.holds.drop .curtailed }
      if (s.ch c).holds = HoldCauses.empty then leaveHeld s c
      else if (s.ch c).holds.keepsIdle then idleGrant s c
      else s
    | .running => if r.kind = .rest then idleGrant s c else s
    | _ => s

end Sys2Proof.Machine
end

