-- ==== Sys2Proof/Machine/Budget.lean ====
section
/-! DEFINITION. The arbiter's handling of an event: shedding and what it does to each channel (R100 to R102), then the
evaluation, the handing over of its grants, and the evaluations those call for (R90, R91). A command ends each part of
its work on the arbiter's lists with `settle`, so both tests hold when it has finished (the law of R100). -/
namespace Sys2Proof.Machine

/-- One shed channel, after its grant has left the list (R102): a resume entry, the cause CURTAILED, and its report. -/
def shedOne (s : State) (g : Grant) (test : BudgetTest) : State :=
  let s := appendResume s g.ch g.dir g.amount
  let s := addCause s g.ch .curtailed
  reportCh s g.ch (.curtailed g.dir g.amount test)

/-- The shed channels in the order of shedding. -/
def shedAll (s : State) : List (Grant × BudgetTest) → State
  | [] => s
  | (g, test) :: rest => shedAll (shedOne s g test) rest

/-- The arbiter checks both tests and sheds if one fails; an evaluation is then due (R100 to R102). -/
def shed (s : State) : State :=
  let r := shedLoop s.arb.budget (cEffOf s) (s.arb.grants.length + 1) s.arb.grants
  if r.2.isEmpty then s
  else shedAll (s.modArb fun a => { a with grants := r.1, evalDue := true }) r.2

/-- The grants of an evaluation handed to their channels, in order (R91). -/
def handOverAll (s : State) : List Ch → State
  | [] => s
  | c :: cs => handOverAll (handOver s c) cs

/-- Evaluations while one is due. What the channels ask of the arbiter on being handed a grant is taken after the
evaluation that made it has ended, and the arbiter then evaluates once more (R90). -/
def evaluateDue : (fuel : Nat) → State → State
  | 0, s => s.modArb fun a => { a with evalDue := false }
  | fuel + 1, s =>
    if s.arb.evalDue then
      let e := evaluate (s.modArb fun a => { a with evalDue := false })
      evaluateDue fuel (handOverAll e.1 e.2)
    else s

/-- More rounds than an event can call for: an entry is granted at most once as it stands and at most once more as the
request its channel lodges in its place (R91). -/
def settleFuel (s : State) : Nat := 2 * (s.arb.resume.length + s.arb.waiting.length) + 4

/-- The arbiter handles what an event has changed: it sheds if a test fails and then evaluates if an evaluation is due
(R90, R100). -/
def settle (s : State) : State :=
  let s := shed s
  evaluateDue (settleFuel s) s

/-- The arbiter evaluates, whatever called for it, and handles what follows (R87, R173, R177). -/
def settleEvaluating (s : State) : State := settle (s.modArb fun a => { a with evalDue := true })

/-- A hold cause is added and the arbiter handles it (R33, R89). -/
def holdChannel (s : State) (c : Ch) (cause : HoldCause) : State := settle (addCause s c cause)

/-- Hold causes are removed and the arbiter handles what follows (R34, R88). -/
def unholdChannel (s : State) (c : Ch) (f : HoldCauses → HoldCauses) : State := settle (removeCauses s c f)

end Sys2Proof.Machine
end

