-- ==== Sys2Proof/Machine/Faults.lean ====
section
/-! DEFINITION. Fault offers (R138 to R141), a channel's response to its first fault (R42, R43), a follower's (R131), the
passing of PAIR_PARTNER, what holds a kind against CLEAR_FAULTS (R142 to R145, R150, R153, R132), and CLEAR_FAULTS. -/
namespace Sys2Proof.Machine

/-! ### Offering and latching -/

/-- Whether a channel's warn set holds a kind (R139). -/
def warns (set : ChanSettings) (k : FaultKind) : Bool :=
  match k with
  | .limitTLow => set.warnTLow = .warn
  | .pairMismatch => set.warnMismatch = .warn
  | _ => false

/-- Whether a kind's warned flag is set (R139). -/
def warned (ch : Channel) (k : FaultKind) : Bool :=
  match k with
  | .limitTLow => ch.warnedTLow
  | .pairMismatch => ch.warnedMismatch
  | _ => false

/-- A channel with a kind's warned flag set or cleared (R139). -/
def setWarned (ch : Channel) (k : FaultKind) (w : Bool) : Channel :=
  match k with
  | .limitTLow => { ch with warnedTLow := w }
  | .pairMismatch => { ch with warnedMismatch := w }
  | _ => ch

/-- The resume point a channel's context gives (R43). DESIGN CHOICE (log 41): an engaged channel whose active window is
absent records a point without a window. -/
def resumePointOf (ch : Channel) : ResumePoint :=
  { window := ch.active, stepIndex := ch.stepIndex, stepTime := ch.stepTime, qStep := ch.qStep, eStep := ch.eStep,
    vPeak := ch.vPeak, loops := ch.loops, cycleNumber := ch.cycleNumber, cycle := ch.cycle, lastDir := ch.lastDir }

/-- A channel that is not FAULTED or FOLLOWER responds to its first fault (R42): a resume point where it was engaged,
the grant and the entries given up, swap, causes and timers cleared, OFF demanded, FAULTED. -/
def faultChannel (s : State) (c : Ch) : State :=
  let s := s.modCh c fun ch => if ch.state.engaged then { ch with resume := some (resumePointOf ch) } else ch
  let s := withdrawEntries (releaseGrant (grantNotLive s c) c) c
  let s := s.modCh c fun ch =>
    { ch.stopTimers with
      swapPending := none
      holds := HoldCauses.empty
      heldBefore := false
      state := .faulted }
  issue s c

/-- A channel's response to a kind added to its latched set, by its state (R138): FAULTED stays; a follower's port is
handed OFF (R131); any other state faults. -/
def respond (s : State) (c : Ch) : State :=
  match (s.ch c).state with
  | .faulted => s
  | .follower => s.modPort c fun p => p.handNew offDemand
  | _ => faultChannel s c

/-- A FAULT report (R141): step index and step time at the offer, latched set and state after it. -/
def reportFault (s : State) (c : Ch) (k : FaultKind) (value : Int) (warnOnly : Bool) (stepIndex stepTime : Nat) :
    State :=
  reportCh s c (.fault k value warnOnly stepIndex stepTime (s.ch c).latched (s.ch c).state)

/-- A kind latches newly (R138 case 3): the set, the first-fault record where the set was empty (R140), the response,
the report, and, on an entry to FAULTED, the settling test (R171). -/
def latchKind (s : State) (c : Ch) (k : FaultKind) (value : Int) : State :=
  let before := s.ch c
  let first : FirstFault := ⟨k, before.stepIndex, before.stepTime, value, s.hall.partTime⟩
  let s := s.modCh c fun ch =>
    { ch with latched := addKind ch.latched k, firstFault := if ch.latched = 0 then some first else ch.firstFault }
  let s := reportFault (respond s c) c k value false before.stepIndex before.stepTime
  if before.state ≠ .faulted ∧ (s.ch c).state = .faulted then settlingTest s else s

/-- A kind set to WARN is offered (R139): a warn-only report, once until the kind's check no longer fails. -/
def warnKind (s : State) (c : Ch) (k : FaultKind) (value : Int) : State :=
  if warned (s.ch c) k then s
  else
    reportFault (s.modCh c fun ch => setWarned ch k true) c k value true (s.ch c).stepIndex (s.ch c).stepTime

/-- Whether an offer latches newly (R138). -/
def latchesNewly (s : State) (c : Ch) (k : FaultKind) : Bool :=
  !(warns (s.ch c).settings k) && !(hasKind (s.ch c).latched k)

/-- A kind is offered to one channel (R138), without the passing on of PAIR_PARTNER. -/
def offerOne (s : State) (c : Ch) (k : FaultKind) (value : Int) : State :=
  if warns (s.ch c).settings k then warnKind s c k value
  else if hasKind (s.ch c).latched k then s
  else latchKind s c k value

/-- A kind is offered to a channel (R138): a kind that latches newly in a member of a pair, other than PAIR_PARTNER,
offers PAIR_PARTNER to the other member with its code (R131). The arbiter then handles what was released. -/
def offer (s : State) (c : Ch) (k : FaultKind) (value : Int) : State :=
  let newly := latchesNewly s c k
  let s' := offerOne s c k value
  settle
    (if newly ∧ k ≠ .pairPartner ∧ paired s c then offerOne s' (partner c) .pairPartner k.code else s')

/-- STAGE_UNSAFE is offered: the channel's unsafe flag is set, whether or not the kind latches (R145). -/
def offerUnsafe (s : State) (c : Ch) (tag : BitVec 4) : State :=
  offer (s.modCh c fun ch => { ch with unsafeFlag := true }) c .stageUnsafe tag.toNat

/-! ### What holds a kind (R143) -/

/-- The checks of R135 against a channel's limits, on a voltage, a current and a temperature. -/
def failsCheck (set : ChanSettings) (v : Nat) (i t : Int) (k : FaultKind) : Bool :=
  match k with
  | .limitVHigh => set.vMax < v
  | .limitVLow => v < set.vMin
  | .limitI => set.iMax < i.natAbs
  | .limitTHigh => set.tMax < t
  | .limitTLow => t < set.tMin
  | _ => false

/-- The lowest-numbered DIRECT line that is raw-asserted with a channel in its mask (R150). -/
def directLine (s : State) (c : Ch) : Option LineNo :=
  allLines.find? fun l =>
    decide ((s.line l).settings.route = .direct) && (s.line l).raw && (s.line l).settings.mask.getLsbD c.val

/-- What R143's table, but for its last row, says of a kind latched in a channel. -/
def heldByCause (s : State) (c : Ch) (k : FaultKind) : Bool :=
  let ch := s.ch c
  match k with
  | .limitVHigh | .limitVLow | .limitTHigh | .limitTLow =>
    if isLeader s c then failsCheck ch.settings ch.pack.v ch.pack.i ch.pack.t k
    else failsCheck ch.settings ch.last.v ch.last.i ch.last.t k
  | .limitI => failsCheck ch.settings ch.last.v ch.last.i ch.last.t .limitI
  | .stageReported => ch.last.fault || ch.last.interlock
  | .stageUnsafe => ch.unsafeFlag
  | .chamberAlarm => (directLine s c).isSome
  | .hallStop => s.prot.hallStop
  | .pairPartner => isLeader s c && dropKind (s.ch (partner c)).latched .pairPartner ≠ 0
  | _ => false

/-- The latched kinds CLEAR_FAULTS removes for a set of named ones (R142, R143): those named, latched and held by no
cause, the first-fault kind only when no other kind remains. -/
def clearedKinds (s : State) (c : Ch) (named : BitVec 16) : BitVec 16 :=
  let ch := s.ch c
  let free := FaultKind.all.foldl
    (fun set k => if hasKind named k && hasKind ch.latched k && !heldByCause s c k then addKind set k else set) 0#16
  match ch.firstFault with
  | none => free
  | some f => if dropKind (ch.latched &&& ~~~free) f.kind = 0 then free else dropKind free f.kind

/-- PAIR_PARTNER leaves a follower's set when its leader's set becomes empty and the leader enters IDLE (R132). -/
def dropPartner (ch : Channel) : Channel :=
  let latched := dropKind ch.latched .pairPartner
  { ch with latched := latched, firstFault := if latched = 0 then none else ch.firstFault }

/-- Kinds leave a channel's latched set (R142): an emptied set takes the first-fault record with it, and a channel in
FAULTED enters IDLE (R43); a leader that enters IDLE frees its follower of PAIR_PARTNER (R132). -/
def clearKinds (s : State) (c : Ch) (cleared : BitVec 16) : State :=
  let before := s.ch c
  let s' := s.modCh c fun ch =>
    let latched := ch.latched &&& ~~~cleared
    { ch with
      latched := latched
      firstFault := if latched = 0 then none else ch.firstFault
      state := if latched = 0 ∧ ch.state = .faulted then .idle else ch.state }
  if before.state = .faulted ∧ (s'.ch c).state = .idle ∧ isLeader s c then s'.modCh (partner c) dropPartner else s'

/-- CLEAR_FAULTS is taken (R142). -/
def takeClearFaults (r : Request) (s : State) : State × ReplyBody :=
  takeCh .clearFaults r s fun c s =>
    let named := BitVec.ofNat 16 (field r.body 0 2)
    let cleared := clearedKinds s c named
    let s := clearKinds s c cleared
    (s, .ok (.faults cleared (s.ch c).latched ((s.ch c).latched &&& named) (s.ch c).state))

end Sys2Proof.Machine
end

