-- ==== Sys2Proof/Machine/Steps.lean ====
section
/-! DEFINITION. The end of a step (R29), the walk past MARKs (R30), swaps carried out (R40), schedule end (R32) and the
landing on the next step (R31); and the drive profile's playback (R113 to R119). -/
namespace Sys2Proof.Machine

/-! ### Swaps, cycles, loops -/

/-- Four accounts as reported (R70). -/
def Accounts.reported (a : Accounts) : Accounts :=
  ⟨reportedNat a.qChg, reportedNat a.qDis, reportedNat a.eChg, reportedNat a.eDis⟩

/-- A pending swap is carried out (R40): the windows exchange, the swap is no longer pending and the loop table is
empty. -/
def Channel.carryOutSwap (ch : Channel) : Channel :=
  { ch with active := ch.staged, staged := ch.active, swapPending := none, loops := [] }

/-- The counter of a MARK's loop entry; a MARK without one stands at 0 (R30). -/
def loopCounter (loops : List LoopEntry) (j : Nat) : Nat :=
  match loops.find? fun e => e.index = j with
  | some e => e.counter
  | none => 0

/-- The loop table with a MARK's counter set; an entry is made where there is none (R30). -/
def setLoop (loops : List LoopEntry) (j n : Nat) : List LoopEntry :=
  if loops.any fun e => e.index = j then loops.map fun e => if e.index = j then { e with counter := n } else e
  else loops ++ [⟨j, n⟩]

/-- The second part of a MARK (R30): where the walk goes, and the loop table afterwards. -/
def loopAt (loops : List LoopEntry) (j target count : Nat) : Nat × List LoopEntry :=
  let n := loopCounter loops j
  if count = 0 then (target, setLoop loops j n)
  else if n + 1 < count then (target, setLoop loops j (n + 1))
  else (j + 1, setLoop loops j 0)

/-- The first part of a MARK whose counts-cycle flag is set (R30): CYCLE_END, the cycle accounts to zero, the cycle number
up by one, and a swap pending AT_CYCLE_END carried out. -/
def closeCycle (s : State) (c : Ch) (j : Nat) : State :=
  let ch := s.ch c
  let swaps : Bool := ch.swapPending = some .atCycleEnd
  let s := reportCh s c (.cycleEnd ch.cycleNumber ch.cycle.reported j swaps)
  s.modCh c fun ch =>
    let ch := { ch with cycle := Accounts.zero, cycleNumber := satAdd countLimit ch.cycleNumber 1 }
    if swaps then ch.carryOutSwap else ch

/-- The walk from a window index (R30): the state, and the index of the non-MARK record it lands on, or `none` when it
leaves the window. In a validated window it visits each record at most once before and once after a swap, so the fuel
its callers give it, 1,024, is never used up (log 30). -/
def walkFrom : (fuel : Nat) → State → Ch → Nat → State × Option Nat
  | 0, s, _, _ => (s, none)
  | fuel + 1, s, c, j =>
    match (s.ch c).active with
    | none => (s, none)
    | some w =>
      if w.length ≤ j then (s, none)
      else
        match windowRead s w j with
        | some (.mark target count countsCycle) =>
          let swaps : Bool := countsCycle ∧ (s.ch c).swapPending = some .atCycleEnd
          let s := if countsCycle then closeCycle s c j else s
          if swaps then walkFrom fuel s c 0
          else
            let go := loopAt (s.ch c).loops j target count
            walkFrom fuel (s.modCh c fun ch => { ch with loops := go.2 }) c go.1
        | _ => (s, some j)

/-- The walk lands (R31): the step is prepared, then begun, or held before it begins when a HOLD action led to it. -/
def landOn (s : State) (c : Ch) (k : Nat) (hold : Bool) : State :=
  let s := prepareStep s c k hold
  if hold then addCause (s.modCh c fun ch => { ch with heldBefore := true }) c .endHold
  else beginStep s c

/-- Schedule end with no swap pending (R32): SCHEDULE_COMPLETE, the grant released, OFF demanded, and STOPPING toward
COMPLETE. A resume entry the channel still has is withdrawn, since a channel in STOPPING appears in no collection (the
law of R88; log 29). -/
def completeSchedule (s : State) (c : Ch) (reason : ScheduleEnd) : State :=
  let ch := s.ch c
  let s := reportCh s c (.scheduleComplete .stopped ch.cycleNumber ch.cycle.reported reason)
  let s := withdrawEntries (releaseGrant s c) c
  enterStopping (s.modCh c Channel.stopTimers) c .complete false

/-- Schedule end (R32): a pending swap of either kind is carried out and the walk goes on at index 0 of the new active
window; with none pending the channel stops. DESIGN CHOICE (log 61): SCHEDULE_COMPLETE carries the cycle number, the cycle
accounts and the reason with either continuation. -/
def scheduleEnd (s : State) (c : Ch) (reason : ScheduleEnd) (hold : Bool) : State :=
  let ch := s.ch c
  if ch.swapPending.isSome then
    let s := reportCh s c (.scheduleComplete .swapped ch.cycleNumber ch.cycle.reported reason)
    let w := walkFrom 1024 (s.modCh c Channel.carryOutSwap) c 0
    match w.2 with
    | some k => landOn w.1 c k hold
    | none => completeSchedule w.1 c .windowEnd
  else completeSchedule s c reason

/-- The window index an action chooses, absent for END (R29). -/
def chosenIndex (index : Nat) : Action → Option Nat
  | .goto t => some t
  | .endSchedule => none
  | _ => some (index + 1)

/-- A step ends (R29): the grant is no longer live, STEP_END is reported, and the action chooses where the channel goes.
The arbiter handles the whole step end once the channel has taken up what follows (R97). -/
def endStep (s : State) (c : Ch) (r : StepRecord) (reason : EndReason) (action : Action) : State :=
  let ch := s.ch c
  let chosen := chosenIndex ch.stepIndex action
  let s := grantNotLive s c
  let s := reportCh s c (.stepEnd ch.stepIndex r.kind reason action chosen ch.stepTime (reported ch.qStep)
    (reported ch.eStep) ch.cycleNumber)
  let s := s.modCh c Channel.stopTimers
  let hold : Bool := action = .hold
  settle
    (match chosen with
    | none => scheduleEnd s c .endAction hold
    | some j =>
      let w := walkFrom 1024 s c j
      match w.2 with
      | some k => landOn w.1 c k hold
      | none => scheduleEnd w.1 c .windowEnd hold)

/-! ### Playback (R113 to R119) -/

/-- The low-water arming flag after the queue count or the mark has changed: set when the count stands above the mark
(R117). -/
def Playback.arm (p : Playback) (count mark : Nat) : Playback :=
  if mark < count then { p with lowArmed := true } else p

/-- Steps 1 to 3 of playback (R114, R115): whether the channel was RUNNING at stage 2 decides whether the period is
counted. It gives the channel afterwards and whether a point left the queue. -/
def advancePoint (ch : Channel) (counted : Bool) : Channel × Bool :=
  let p := ch.play
  let played := if p.inPlay && counted then p.played + 1 else p.played
  let ch := { ch with play := { p with played := played } }
  let takeHead (ch : Channel) : Channel :=
    if ch.play.inPlay || (playPoint ch).isNone then ch else { ch with play := { ch.play with inPlay := true } }
  match p.inPlay, playPoint ch with
  | true, some point =>
    if played < point.duration then (ch, false)
    else if ch.settings.profileMode = .repeat then
      let next := if point.endFlag || ch.queue.length ≤ p.position + 1 then 0 else p.position + 1
      ({ ch with play := { ch.play with played := 0, heldCurrent := point.current, position := next } }, false)
    else
      let ch :=
        { ch with
          queue := ch.queue.tail
          play := { ch.play with played := 0, heldCurrent := point.current, inPlay := false } }
      if point.endFlag then ({ ch with play := { ch.play with profileEnd := true } }, true) else (takeHead ch, true)
  | _, _ => (takeHead { ch with play := { ch.play with inPlay := false } }, false)

/-- The low-water test when a point has left the queue (R117): PROFILE_LOW, once per fall through the mark. -/
def lowWaterTest (s : State) (c : Ch) : State :=
  let ch := s.ch c
  if ch.play.lowArmed ∧ ch.queue.length ≤ ch.settings.lowWater then
    reportCh (s.modCh c fun ch => { ch with play := { ch.play with lowArmed := false } }) c
      (.profileLow ch.queue.length ch.settings.lowWater ch.stepIndex)
  else s

/-- A channel goes into underrun (R118): the flag and the timer; a limit of 0 expires at once and offers
PROFILE_UNDERRUN (R119). -/
def goIntoUnderrun (s : State) (c : Ch) : State :=
  let limit := (s.ch c).settings.underrunLimit
  if limit = 0 then
    offer (s.modCh c fun ch => { ch with play := { ch.play with underrun := true, underrunTimer := none } }) c
      .profileUnderrun 0
  else s.modCh c fun ch => { ch with play := { ch.play with underrun := true, underrunTimer := some limit } }

/-- Playback advances (R114, R115): a channel RUNNING a PROFILE step plays on, tests the low-water mark when a point has
left, and goes into underrun when a counted period finds nothing to play. -/
def advancePlayback (s : State) (c : Ch) (counted : Bool) : State :=
  let a := advancePoint (s.ch c) counted
  let s := s.modCh c fun _ => a.1
  let s := if a.2 then lowWaterTest s c else s
  let p := (s.ch c).play
  if counted ∧ !p.inPlay ∧ (playPoint (s.ch c)).isNone ∧ !p.profileEnd ∧ !p.underrun then goIntoUnderrun s c else s

/-- The underrun timer starts again when a stage start completes with the UNDERRUN flag set and the queue still empty
(R118). -/
def restartUnderrun (s : State) (c : Ch) : State :=
  match currentStep s c with
  | some r =>
    if r.kind = .profile ∧ (s.ch c).play.underrun ∧ (s.ch c).queue.isEmpty then goIntoUnderrun s c else s
  | none => s

end Sys2Proof.Machine
end

