-- ==== Sys2Proof/Machine/Samples.lean ====
section
/-! DEFINITION. Periods (R50, R51), the taking of a reading (R53, R135, R136, R163, R164), the pack reading and its
checks (R128 to R130), missed periods (R55), accounts (R63 to R69), end tests (R73 to R79), and the period event's eight
stages (R54). -/
namespace Sys2Proof.Machine

/-! ### Periods (R49 to R51) -/

/-- The working period of a channel: 10 × 2^k ms (R49). -/
def workingPeriod (set : ChanSettings) : Nat := 10 * 2 ^ set.periodExp

/-- The standby period, in ms (R50). -/
def standbyPeriod : Nat := 1000

/-- The period in force on a channel that is not a follower (R50). -/
def periodInForce (s : State) (c : Ch) : Nat :=
  if (s.ch c).state.engaged ∧ s.hall.state ≠ .paused then workingPeriod (s.ch c).settings else standbyPeriod

/-- A period opens on a channel (R51, R52): its QUERY becomes due. -/
def openPeriod (s : State) (c : Ch) (length : Nat) : State :=
  s.modCh c fun ch =>
    { ch with taken := false, packDone := false, periodElapsed := 0, periodLength := length, port := ch.port.openPeriod }

/-- A change of the period in force acts on an open period (R51): a shorter one brings its close forward. -/
def bringForward (before after : State) (c : Ch) : State :=
  if isFollower after c || isFollower before c then after
  else if periodInForce after c < periodInForce before c then
    after.modCh c fun ch =>
      { ch with periodLength := min ch.periodLength (ch.periodElapsed + periodInForce after c) }
  else after

/-- Every channel's open period after a command has changed states (R51). -/
def bringForwardAll (before after : State) : List Ch → State
  | [] => after
  | c :: cs => bringForwardAll before (bringForward before after c) cs

/-! ### Taking a reading (R53) -/

/-- A limit check: a value that fails offers its kind (R135); a check of a kind that does not fail clears its warned flag
(R139). -/
def limitCheck (s : State) (c : Ch) (v : Nat) (i t : Int) (k : FaultKind) (value : Int) : State :=
  if failsCheck (s.ch c).settings v i t k then offer s c k value
  else s.modCh c fun ch => setWarned ch k false

/-- Checks 1 and 2 of R135 on a voltage. -/
def voltageChecks (s : State) (c : Ch) (v : Nat) (i t : Int) : State :=
  limitCheck (limitCheck s c v i t .limitVHigh v) c v i t .limitVLow v

/-- Checks 4 and 5 of R135 on a temperature. -/
def temperatureChecks (s : State) (c : Ch) (v : Nat) (i t : Int) : State :=
  limitCheck (limitCheck s c v i t .limitTHigh t) c v i t .limitTLow t

/-- The limit checks of a taken reading (R135); for a member of a pair only check 3 (R129). -/
def readingChecks (s : State) (c : Ch) (rd : Reading) : State :=
  if paired s c then limitCheck s c rd.v rd.i rd.t .limitI rd.i
  else
    temperatureChecks (limitCheck (voltageChecks s c rd.v rd.i rd.t) c rd.v rd.i rd.t .limitI rd.i) c rd.v rd.i rd.t

/-- The stage flags of a taken reading (R136): STAGE_REPORTED for FAULT or INTERLOCK_OPEN, and one STAGE_DERATE report
each time DERATE rises. -/
def stageFlags (s : State) (c : Ch) (rd : Reading) : State :=
  let s :=
    if rd.fault || rd.interlock then
      offer s c .stageReported ((if rd.fault then 1 else 0) + (if rd.interlock then 2 else 0))
    else s
  let s := if rd.derate && !(s.ch c).derateSeen then reportCh s c (.stageDerate rd.v rd.i rd.t) else s
  s.modCh c fun ch => { ch with derateSeen := rd.derate }

/-- The order OFF, IDLE, CURRENT, VOLTAGE_LIMITED of regulation states (R128). -/
def Regulation.rank : Regulation → Nat
  | .off => 0
  | .idle => 1
  | .current => 2
  | .voltageLimited => 3

/-- The pack reading of two members (R128). -/
def packOf (leader follower : Channel) : PackReading :=
  let a := leader.last
  let b := follower.last
  { v := a.v
    i := a.i + b.i
    t := max a.t b.t
    reg := if a.reg.rank ≤ b.reg.rank then a.reg else b.reg
    overV := a.overV
    overI := a.overI || b.overI
    overT := a.overT || b.overT
    held := leader.held || follower.held }

/-- The pack reading is completed (R128), for a leader and with which members' readings of the period were taken: the
pack limits are checked when either was (R129), and the voltages are compared when both were, neither member's values are
held, and the leader's stage is present (R130). DESIGN CHOICE (log 62): the limit kinds are offered first, PAIR_MISMATCH
after them. -/
def completePack (s : State) (c : Ch) (takenL takenF : Bool) : State :=
  let p := packOf (s.ch c) (s.ch (partner c))
  let vF := (s.ch (partner c)).last.v
  let present : Bool := (s.port c).presence = .present
  let s := s.modCh c fun ch => { ch with pack := p }
  let s := if takenL || takenF then temperatureChecks (voltageChecks s c p.v p.i p.t) c p.v p.i p.t else s
  if takenL && takenF && !p.held && present then
    let difference : Nat := ((p.v : Int) - vF).natAbs
    if (s.ch c).settings.pairTolerance < difference then offer s c .pairMismatch difference
    else s.modCh c fun ch => setWarned ch .pairMismatch false
  else s

/-- Presence becomes PRESENT with a taken reading, and the port acts on its pending demand (R164). -/
def makePresent (s : State) (c : Ch) : State :=
  if (s.port c).presence = .present then s
  else
    let p := s.port c
    let s := s.modPort c Port.becomePresent
    if p.pending.isSome ∧ (s.port c).settled then portSettled s c else s

/-- A READING is taken (R53): converted, kept as the last reading, checked, and counted for presence; the second
member's reading of a period completes the pack reading (R128). A regulation state OFF clears the unsafe flag
(R145). -/
def takeReading (s : State) (c : Ch) (raw : RawReading) : State :=
  let rd := takeRaw (s.ch c).cal raw s.hall.partTime
  let s := s.modCh c fun ch =>
    { ch with
      last := rd
      held := false
      missed := 0
      taken := true
      unsafeFlag := if rd.reg = .off then false else ch.unsafeFlag }
  let s := stageFlags (readingChecks s c rd) c rd
  let s := makePresent s c
  let l := leaderOf s c
  if isLeader s l ∧ (s.ch l).taken ∧ (s.ch (partner l)).taken ∧ !(s.ch l).packDone then
    completePack (s.modCh l fun ch => { ch with packDone := true }) l true true
  else s

/-- A READING arrives (R163): it is taken as the answer to the open period's QUERY, or discarded as a line error. -/
def readingArrives (s : State) (c : Ch) (startedAfterQuery : Bool) (raw : RawReading) : State :=
  if (s.port c).queryAwaiting ∧ startedAfterQuery then
    takeReading (s.modPort c fun p => { p with queryAwaiting := false }) c raw
  else s.modPort c Port.countError

/-! ### Missed periods (R55) -/

/-- A missed period of a channel: the held flag, and, while PRESENT, the count, which offers STAGE_SILENT at 3 or more
(R55). -/
def missPeriod (s : State) (c : Ch) : State :=
  let present : Bool := (s.port c).presence = .present
  let s := s.modCh c fun ch =>
    { ch with held := true, missed := if present then satAdd count16Limit ch.missed 1 else ch.missed }
  if present ∧ 3 ≤ (s.ch c).missed then offer s c .stageSilent (s.ch c).missed else s

/-! ### Accounts (R63 to R69) -/

/-- The instantaneous power of a voltage and a current, in mW (R63). -/
def powerOf (v : Nat) (i : Int) : Int := roundDiv ((v : Int) * i) 1000

/-- Increments sorted into accounts by their signs, saturating (R66, R69). -/
def Accounts.feed (a : Accounts) (dq de : Int) : Accounts where
  qChg := satAdd accountLimit a.qChg dq.toNat
  qDis := satAdd accountLimit a.qDis (-dq).toNat
  eChg := satAdd accountLimit a.eChg de.toNat
  eDis := satAdd accountLimit a.eDis (-de).toNat

/-- Whether an account saturates as the increments are added: its sum would pass the limit (R69). -/
def Accounts.saturates (a : Accounts) (dq de : Int) : Bool :=
  accountLimit < a.qChg + dq.toNat || accountLimit < a.qDis + (-dq).toNat || accountLimit < a.eChg + de.toNat ||
    accountLimit < a.eDis + (-de).toNat

/-- STARTING, RUNNING or HELD: the states that feed the step accounts (R65). -/
def ChState.feedsStep : ChState → Bool
  | .starting | .running | .held => true
  | _ => false

/-- A channel's accounts after a period's increments, each account by the state as it stands (R65 to R68). -/
def Channel.integrate (ch : Channel) (dq de : Int) : Channel :=
  let ch :=
    if ch.state.feedsStep then { ch with qStep := satAddInt ch.qStep dq, eStep := satAddInt ch.eStep de } else ch
  let ch := if ch.state.engaged then { ch with cycle := ch.cycle.feed dq de } else ch
  { ch with
    life := ch.life.feed dq de
    lifeSaturated := ch.lifeSaturated || ch.life.saturates dq de }

/-- Whether a channel's accounts are fed: its stage is PRESENT, and for a leader both stages are (R67, R128). -/
def accountsFed (s : State) (c : Ch) : Bool := (portsOf s c).all fun d => (s.port d).presence = .present

/-- A period's figures: those of the pack reading for a leader, of the last reading otherwise (R54, R128). -/
structure Figures where
  v   : Nat
  i   : Int
  t   : Int
  reg : Regulation
  deriving DecidableEq, Repr

/-- The figures a channel works its period with. -/
def figuresOf (s : State) (c : Ch) : Figures :=
  let ch := s.ch c
  if isLeader s c then ⟨ch.pack.v, ch.pack.i, ch.pack.t, ch.pack.reg⟩ else ⟨ch.last.v, ch.last.i, ch.last.t, ch.last.reg⟩

/-- Stage 3 of a period event: the period's charge and energy go into the accounts (R63, R64, R67). -/
def integratePeriod (s : State) (c : Ch) (length : Nat) : State :=
  if accountsFed s c then
    let f := figuresOf s c
    s.modCh c fun ch => ch.integrate (f.i * length) (powerOf f.v f.i * length)
  else s

/-! ### End tests (R73 to R79) -/

/-- How far a voltage has fallen below V_peak. DESIGN CHOICE (log 43): at the event whose stage 5 completes the stage start
V_peak was not updated at stage 4 (R54, R61), and a voltage above it counts as no drop, since R61 and R75 say the drop is
never negative. -/
def dropFrom (vPeak v : Nat) : Nat := vPeak - v

/-- Whether an end condition holds in a period: `none` where it is not evaluated (R75 to R78). -/
def condHolds (ch : Channel) (f : Figures) (taken : Bool) (e : EndCond) : Option Bool :=
  match e.kind with
  | .vAbove => if taken then some (e.threshold ≤ f.v) else none
  | .vBelow => if taken then some ((f.v : Int) ≤ e.threshold) else none
  | .tAbove => if taken then some (e.threshold ≤ f.t) else none
  | .vDrop => if taken then some (e.threshold ≤ (dropFrom ch.vPeak f.v : Int)) else none
  | .iBelow => if taken then some (f.reg = .voltageLimited && (f.i.natAbs : Int) ≤ e.threshold) else none
  | .time => some (e.threshold ≤ ch.stepTime)
  | .charge => some (e.threshold * 3600 ≤ ch.qStep.natAbs)
  | .energy => some (e.threshold * 3600 ≤ ch.eStep.natAbs)

/-- A confirm counter after the period (R74): up by one where the condition holds, 0 where it does not, as it stood
where it is not evaluated. It stays within 0 to 8 (R20). -/
def stepCounter (held : Option Bool) (n : Nat) : Nat :=
  match held with
  | some true => min 8 (n + 1)
  | some false => 0
  | none => n

/-- The confirm counters of a step's conditions after the period, in list order; the places beyond the list stand as
they are. -/
def stepCounters (ch : Channel) (f : Figures) (taken : Bool) : List EndCond → List Nat → List Nat
  | e :: es, n :: ns => stepCounter (condHolds ch f taken e) n :: stepCounters ch f taken es ns
  | _, ns => ns

/-- The condition at the lowest position whose counter has reached its confirm count (R74). -/
def firstFired : (position : Nat) → List EndCond → List Nat → Option (Nat × EndCond)
  | i, e :: es, n :: ns => if e.confirm ≤ n then some (i, e) else firstFired (i + 1) es ns
  | _, _, _ => none

/-- Stage 7 of a period event (R73, R74, R79): the counters move, the first condition that has reached its count ends the
step, and a played-out ONE_SHOT segment ends it otherwise. -/
def endTests (s : State) (c : Ch) (taken : Bool) : State :=
  match currentStep s c with
  | none => s
  | some r =>
    let ch := s.ch c
    let counters := stepCounters ch (figuresOf s c) taken r.conds ch.confirms
    let s := s.modCh c fun ch => { ch with confirms := counters }
    match firstFired 0 r.conds counters with
    | some (i, e) => endStep s c r (.condition i e.kind) e.action
    | none => if r.kind = .profile ∧ ch.play.profileEnd then endStep s c r .profileEnd .next else s

/-! ### The period event (R54) -/

/-- A channel is RUNNING. -/
def isRunning (s : State) (c : Ch) : Bool := (s.ch c).state = .running

/-- Whether the stage start of a channel is complete (R27, R127): a taken period, each port settled with a REGULATE
confirmed, and a regulating reading. -/
def startComplete (s : State) (c : Ch) (taken : Bool) : Bool :=
  taken &&
    ((portsOf s c).all fun d =>
      (s.port d).settled &&
        match (s.port d).lastConfirmed with
        | some x => x.mode = .regulate
        | none => false) &&
    ((figuresOf s c).reg = .current || (figuresOf s c).reg = .voltageLimited)

/-- Stage 1: the period is settled as taken or missed, each member of a pair on its own, and a pack reading not yet
completed is completed (R54, R55, R128). DESIGN CHOICE (log 59): where both members miss, the leader's STAGE_SILENT is
offered, and PAIR_PARTNER passed on, before the follower's; (log 62): the kinds of the pack reading are offered after
both. -/
def stageSettle (s : State) (c : Ch) (taken partnerTaken packDone : Bool) : State :=
  let s := if taken then s else missPeriod s c
  if isLeader s c then
    let s := if partnerTaken then s else missPeriod s (partner c)
    if packDone then s else completePack s c taken partnerTaken
  else s

/-- Stage 2: step time advances in RUNNING, saturating (R21, R28). -/
def stageTime (s : State) (c : Ch) (length : Nat) : State :=
  if isRunning s c then s.modCh c fun ch => { ch with stepTime := satAdd countLimit ch.stepTime length } else s

/-- Stage 4: V_peak follows a taken period in RUNNING (R61). A channel that stage 5 finds to have completed its stage start is
still STARTING here, so its V_peak is not updated at that event (log 43). -/
def stagePeak (s : State) (c : Ch) (taken : Bool) : State :=
  if isRunning s c ∧ taken then
    let v := (figuresOf s c).v
    s.modCh c fun ch => { ch with vPeak := max ch.vPeak v }
  else s

/-- Stage 5: a stage start completes (R27): the start timer stops, the channel enters RUNNING and its grant is live; an
underrun left by a hold is timed again (R118). -/
def stageStart (s : State) (c : Ch) (taken : Bool) : State :=
  if (s.ch c).state = .starting ∧ startComplete s c taken then
    let s := s.modCh c fun ch => { ch with state := .running, startTimer := none }
    restartUnderrun (settle (grantLive s c)) c
  else s

/-- Stage 6: playback of a PROFILE step advances in RUNNING (R114). -/
def stagePlay (s : State) (c : Ch) (counted : Bool) : State :=
  match currentStep s c with
  | some r => if isRunning s c ∧ r.kind = .profile then advancePlayback s c counted else s
  | none => s

/-- Stage 7: the end tests, in RUNNING (R73). -/
def stageTests (s : State) (c : Ch) (taken : Bool) : State := if isRunning s c then endTests s c taken else s

/-- Stage 8: the setpoint is refreshed in STARTING and RUNNING (R28, R46). -/
def stageRefresh (s : State) (c : Ch) : State :=
  if (s.ch c).state = .starting ∨ (s.ch c).state = .running then issue s c else s

/-- Stages 4 to 8, which work only while the hall is not PAUSED (R54). -/
def stagesLater (s : State) (c : Ch) (taken counted : Bool) : State :=
  if s.hall.state = .paused then s
  else stageRefresh (stageTests (stagePlay (stageStart (stagePeak s c taken) c taken) c counted) c taken) c

/-- The period timer restarts with the period in force, for both members of a pair (R50, R51). -/
def restartPeriod (s : State) (c : Ch) : State :=
  (portsOf s c).foldl (fun t d => t.modCh d fun ch => { ch with periodLength := periodInForce s c }) s

/-- The period event of a channel outside FOLLOWER (R51, R52, R54): the open period closes, the next one opens with its
QUERY, on the follower's port too for a leader, and the stages are worked in order, each under the state as it stands. The
length of the period that opens is the period in force once they have been worked: a channel that a stage has faulted
samples at the standby period from then on (log 37). -/
def periodEventOf (s : State) (c : Ch) : State :=
  let length := (s.ch c).periodLength
  let taken := (s.ch c).taken
  let packDone := (s.ch c).packDone
  let partnerTaken := (s.ch (partner c)).taken
  let leads := isLeader s c
  let next := periodInForce s c
  let s := openPeriod s c next
  let s := if leads then openPeriod s (partner c) next else s
  let s := stageSettle s c taken partnerTaken packDone
  let counted := isRunning s c
  let s := if s.hall.state = .paused then s else stageTime s c length
  let s := integratePeriod s c length
  restartPeriod (stagesLater s c (if leads then taken && partnerTaken else taken) counted) c

end Sys2Proof.Machine
end

