-- ==== Sys2Proof/Machine/HallLines.lean ====
section
/-! DEFINITION. The chamber alarm lines (R146 to R151), the hall stop line (R152, R153), the curtailment line (R176,
R177), and the pause and wake of the hall (R170 to R178), with the requests SET_ALARM_ROUTE, PAUSE_HALL, RESUME_HALL and
SET_WAKE. -/
namespace Sys2Proof.Machine

/-! ### LOCAL lines (R148) -/

/-- Whether a line's mask names a channel, or for a leader either member of its pair. -/
def maskNames (s : State) (mask : BitVec 8) (c : Ch) : Bool :=
  mask.getLsbD c.val || (isLeader s c && mask.getLsbD (partner c).val)

/-- Whether a channel is covered: it is in the mask of some LOCAL line whose filtered level is asserted (R148). -/
def covered (s : State) (c : Ch) : Bool :=
  !isFollower s c && allLines.any fun l =>
    decide ((s.line l).settings.route = .localHold) && (s.line l).filtered && maskNames s (s.line l).settings.mask c

/-- CHAMBER is added to each channel of a list that is covered now and was not before, and removed from each that holds
it and is covered no longer (R148, R151). DESIGN CHOICE (log 50): in ascending number, the arbiter handling each before the
next. -/
def followCover (before : Ch → Bool) (s : State) : List Ch → State
  | [] => s
  | c :: cs =>
    let s :=
      if covered s c && !before c then holdChannel s c .chamber
      else if !covered s c && (s.ch c).holds.chamber then unholdChannel s c fun h => h.drop .chamber
      else s
    followCover before s cs

/-! ### DIRECT lines (R150) -/

/-- CHAMBER_ALARM is offered for a line to each channel of a list that satisfies a condition (R150). -/
def offerAlarm (line : LineNo) (p : Ch → Bool) (s : State) : List Ch → State
  | [] => s
  | c :: cs => offerAlarm line p (if p c then offer s c .chamberAlarm line.val else s) cs

/-- The debounce timer of a line after its raw level has become another (R147): it starts when the raw level comes to
differ from the filtered level and stops when it returns. -/
def AlarmLine.setRaw (l : AlarmLine) (level : Bool) : AlarmLine :=
  { l with raw := level, timer := if level = l.filtered then none else some l.settings.debounce }

/-- A chamber alarm line's raw level changes (R147): the debounce timer starts or stops, and a DIRECT line offers
CHAMBER_ALARM to its masked channels on assertion (R150). A change to the level the line has is none. -/
def alarmRawChange (s : State) (line : LineNo) (level : Bool) : State :=
  if (s.line line).raw = level then s
  else
    let s := s.modLine line fun l => l.setRaw level
    if level ∧ (s.line line).settings.route = .direct then
      let mask := (s.line line).settings.mask
      offerAlarm line (fun c => mask.getLsbD c.val) s allCh
    else s

/-- A line's debounce timer expires (R147): the filtered level takes the raw level, ALARM is reported, and a LOCAL
line's cover follows (R148). DESIGN CHOICE (log 63): ALARM enters the report queue before the CURTAILED reports of a
shedding that the same change causes. -/
def alarmDebounceExpires (s : State) (line : LineNo) : State :=
  if (s.line line).timer.isNone then s
  else
    let before := covered s
    let s := s.modLine line fun l => { l with filtered := l.raw, timer := none }
    let l := s.line line
    let s := reportPart s (.alarm line l.filtered l.settings.route l.settings.mask)
    followCover before s allCh

/-- The settings and levels of the four lines, as SET_ALARM_ROUTE replies them (R146). -/
def alarmLinesView (s : State) : List (AlarmSettings × Bool × Bool) :=
  allLines.map fun l => ((s.line l).settings, (s.line l).raw, (s.line l).filtered)

/-- SET_ALARM_ROUTE is taken (R146, R151): line, route, mask (1 byte each) and debounce (4 bytes). A changed route or
mask acts on the channels as though the line had just taken its present levels. DESIGN CHOICE (log 55): the line number
is 1 byte; (log 51): cover is followed before CHAMBER_ALARM is offered. -/
def takeSetAlarmRoute (r : Request) (s : State) : State × ReplyBody :=
  takePart .setAlarmRoute r s fun s =>
    let lineNo := field r.body 0 1
    if h : lineNo < 4 then
      match routeOf (field r.body 1 1) with
      | none => (s, invalid .badForm 0)
      | some route =>
        let line : LineNo := ⟨lineNo, h⟩
        let old := (s.line line).settings
        let mask := BitVec.ofNat 8 (field r.body 2 1)
        let before := covered s
        let s := s.modLine line fun l =>
          { l with settings := ⟨route, mask, clampNat 10 5000 (field r.body 3 4)⟩ }
        let s := if route ≠ old.route ∨ mask ≠ old.mask then followCover before s allCh else s
        let s :=
          if route = .direct ∧ (s.line line).raw then
            offerAlarm line
              (fun c => mask.getLsbD c.val && (decide (old.route ≠ .direct) || !old.mask.getLsbD c.val)) s allCh
          else s
        (s, .ok (.alarmLines (alarmLinesView s)))
    else (s, invalid .badLine 0)

/-! ### The hall stop line (R152, R153) -/

/-- HALL_STOP is offered to channels in turn, PAIR_PARTNER not yet passed on (R152). It gives the channels in which the
kind latched newly. DESIGN CHOICE (log 71): in PAUSING each entry to FAULTED makes the settling test (R171), which passes as
soon as every channel is settled, though R172 has it pass at the last entry. -/
def offerHallStop (s : State) : List Ch → State × List Ch
  | [] => (s, [])
  | c :: cs =>
    let newly := latchesNewly s c .hallStop
    let r := offerHallStop (offerOne s c .hallStop 0) cs
    (r.1, if newly then c :: r.2 else r.2)

/-- PAIR_PARTNER is passed on for the channels of a list that are members of a pair and in which HALL_STOP latched
(R152). DESIGN CHOICE (log 52): in each pair the even member's kind is passed to the odd member first. -/
def passHallStop (newly : List Ch) (s : State) : List Ch → State
  | [] => s
  | c :: cs =>
    let s :=
      if newly.contains c && paired s c then offerOne s (partner c) .pairPartner FaultKind.hallStop.code else s
    passHallStop newly s cs

/-- The hall stop line is taken as asserting (R152, R106): the arbiter's collections empty, ALARM is reported, HALL_STOP
is offered to CH0 to CH7 in turn, and then PAIR_PARTNER pair by pair. -/
def hallStopActs (s : State) : State :=
  let s := reportPart (emptyCollections s) (.hallStopAlarm true)
  let r := offerHallStop s allCh
  settle (passHallStop r.2 r.1 allCh)

/-- The hall stop line asserts (R152). An assertion of an asserted line is none. -/
def hallStopAsserts (s : State) : State :=
  if s.prot.hallStop then s else hallStopActs (s.modProt fun p => { p with hallStop := true })

/-- The hall stop line deasserts (R153): an ALARM report, and nothing else changes. -/
def hallStopDeasserts (s : State) : State :=
  if s.prot.hallStop then reportPart (s.modProt fun p => { p with hallStop := false }) (.hallStopAlarm false) else s

/-! ### Pausing the hall (R170) -/

/-- The pause order the arbiter's collections give (R170 step 1): grants oldest first, the resume queue head first, the
waiting set in ascending channel number. -/
def pauseOrderOf (s : State) : List PauseEntry :=
  s.arb.grants.map (fun g => ⟨g.ch, .grant, g.dir, g.amount⟩) ++
  s.arb.resume.map (fun e => ⟨e.ch, .resume, e.dir, e.claim⟩) ++
  (allCh.map fun c => (s.arb.waiting.filter fun e => e.ch = c).map fun e =>
    (⟨e.ch, .waiting, e.dir, e.claim⟩ : PauseEntry)).flatten

/-- PAUSE is added to each channel of a list that records a cause (R170 step 4). -/
def pauseAll (s : State) : List Ch → State
  | [] => s
  | c :: cs => pauseAll (addCause s c .pause) cs

/-- The hall is paused (R170 steps 1 to 5). -/
def pauseHall (s : State) : State :=
  let order := pauseOrderOf s
  let s := emptyCollections (s.modHall fun h => { h with pauseOrder := order })
  let s := enterHall s .pausing .pauseHall (some order) none
  settlingTest (settle (pauseAll s allCh))

/-- PAUSE_HALL is taken (R170). -/
def takePauseHall (r : Request) (s : State) : State × ReplyBody :=
  takePart .pauseHall r s fun s =>
    if s.hall.state = .active then
      let order := pauseOrderOf s
      let s := pauseHall s
      (s, .ok (.hallPaused s.hall.state order))
    else (s, .ok (.hall s.hall.state))

/-! ### Waking the hall (R173) -/

/-- The entries of a pause order whose channels still need a grant (R173 step 2). -/
def stillNeeded (s : State) (order : List PauseEntry) : List PauseEntry :=
  order.filter fun e => (s.ch e.ch).state.holdable

/-- A resume entry appended for each entry of a pause order (R105, R173 step 2). -/
def appendAll (s : State) : List PauseEntry → State
  | [] => s
  | e :: es => appendAll (appendResume s e.ch e.dir e.amount) es

/-- PAUSE removed from each channel of a list (R173 step 3). -/
def unpauseAll (s : State) : List Ch → State
  | [] => s
  | c :: cs => unpauseAll (removeCauses s c fun h => h.drop .pause) cs

/-- The hall wakes from a source (R173 steps 1 to 5): ACTIVE and the wake timer stopped; resume entries in pause order;
PAUSE removed; one evaluation, and what it calls for; and the HALL_STATE report with the number of entries. -/
def wakeHall (s : State) (cause : HallCause) : State :=
  let before := s.hall.state
  let needed := stillNeeded s s.hall.pauseOrder
  let s := s.modHall fun h => { h with state := .active, wakeTimer := none, pauseOrder := [] }
  let s := unpauseAll (appendAll s needed) allCh
  let s := settleEvaluating s
  reportPart s
    (.hallState .active before cause none (some needed.length) s.hall.wakeByTimer s.hall.wakeByCurtail
      s.hall.wakeTimer)

/-- RESUME_HALL is taken (R174). -/
def takeResumeHall (r : Request) (s : State) : State × ReplyBody :=
  takePart .resumeHall r s fun s =>
    if s.hall.state = .active then (s, .ok (.hall .active))
    else
      let n := (stillNeeded s s.hall.pauseOrder).length
      (wakeHall s .host, .ok (.hallResumed .active n))

/-- The wake timer expires (R175): it stops, and wakes a PAUSING or PAUSED hall when TIMER is enabled. -/
def wakeTimerExpires (s : State) : State :=
  if s.hall.wakeTimer.isNone then s
  else
    let s := s.modHall fun h => { h with wakeTimer := none }
    if s.hall.state ≠ .active ∧ s.hall.wakeByTimer then wakeHall s .timer else s

/-- SET_WAKE is taken (R175): each carried choice, the timer started afresh or cancelled, and the debounce, clamped. -/
def takeSetWake (r : Request) (s : State) : State × ReplyBody :=
  takePart .setWake r s fun s =>
    let p := wakePatch r.body
    let s := s.modHall fun h =>
      { h with
        wakeByTimer := p.byTimer.getD h.wakeByTimer
        wakeByCurtail := p.byCurtail.getD h.wakeByCurtail
        wakeTimer :=
          match p.timer with
          | none => h.wakeTimer
          | some 0 => none
          | some n => some (1000 * clampNat 1 604800 n)
        curtDebounce :=
          match p.debounce with
          | none => h.curtDebounce
          | some n => clampNat 0 10000 n }
    (s, .ok (.wake s.hall.wakeByTimer s.hall.wakeByCurtail s.hall.wakeTimer s.hall.curtDebounce s.hall.state))

/-! ### The curtailment line (R176, R177) -/

/-- The filtered curtailment level takes the raw level (R177): CURTAIL is reported, C_eff follows, the arbiter sheds or
evaluates, and a deassertion wakes a paused hall when CURTAIL_END is enabled. -/
def curtailChanges (s : State) : State :=
  let was := cEffOf s
  let level := s.hall.curtRaw
  let s := s.modHall fun h => { h with curtFiltered := level, curtTimer := none }
  let now := cEffOf s
  let s := reportPart s (.curtail level now s.arb.budget.cIn s.arb.budget.cCurt)
  let s := if was < now then settleEvaluating s else if now < was then settle s else s
  if !level ∧ s.hall.wakeByCurtail ∧ s.hall.state ≠ .active then wakeHall s .curtailEnd else s

/-- The curtailment line's debounce timer expires (R176). -/
def curtailDebounceExpires (s : State) : State := if s.hall.curtTimer.isNone then s else curtailChanges s

/-- The curtailment debounce timer follows the raw level (R176): it starts when the level comes to differ from the
filtered one, a debounce of 0 ms expiring at once, and stops when it returns. -/
def curtailFollows (s : State) : State :=
  if s.hall.curtRaw = s.hall.curtFiltered then s.modHall fun h => { h with curtTimer := none }
  else if s.hall.curtDebounce = 0 then curtailChanges s
  else s.modHall fun h => { h with curtTimer := some h.curtDebounce }

/-- The curtailment line's raw level changes (R176). A change to the level the line has is none. -/
def curtailRawChange (s : State) (level : Bool) : State :=
  if s.hall.curtRaw = level then s else curtailFollows (s.modHall fun h => { h with curtRaw := level })

end Sys2Proof.Machine
end

