-- ==== Sys2Proof/Machine/Settings.lean ====
section
/-! DEFINITION. Settings: the range of each (R6, R20, R49, R86, R94, R98, R110, R130, R134, R146, R167, R168), the taking of
SET_CHANNEL (R188), SET_CALIBRATION (R60) and SET_BUDGET (R87), the loading of an image (R194, R195) and the capture of
one (R197). -/
namespace Sys2Proof.Machine

/-! ### Ranges -/

/-- A channel's settings brought into their ranges, with V_min and T_min taken against V_max and T_max (R134). -/
def ChanSettings.clamp (x : ChanSettings) : ChanSettings :=
  let vMax := clampNat 0 125000 x.vMax
  let tMax := clampInt (-500) 2000 x.tMax
  { x with
    periodExp := clampNat 0 4 x.periodExp
    reversalGap := clampNat 20 10000 x.reversalGap
    continuationGap := clampNat 0 10000 x.continuationGap
    startTimeout := clampNat 100 5000 x.startTimeout
    claimLimit := clampNat 1 60000 x.claimLimit
    vMax := vMax
    vMin := min (clampNat 0 125000 x.vMin) vMax
    iMax := clampNat 0 420000 x.iMax
    tMax := tMax
    tMin := min (clampInt (-500) 2000 x.tMin) tMax
    deferralLimit := clampNat 1000 3600000 x.deferralLimit
    grantHold := clampNat 0 600000 x.grantHold
    lowWater := clampNat 0 511 x.lowWater
    underrunLimit := clampNat 0 10000 x.underrunLimit
    pairTolerance := clampNat 10 5000 x.pairTolerance
    confTimeout := clampNat 5 500 x.confTimeout }

/-- The budget settings brought into their ranges, with C_curt taken against C_in (R86). -/
def BudgetSettings.clamp (b : BudgetSettings) : BudgetSettings where
  cIn := clampNat 0 400000 b.cIn
  cCurt := min b.cCurt (clampNat 0 400000 b.cIn)
  cRet := clampNat 0 400000 b.cRet
  eta := clampNat 800 1000 b.eta
  u := clampNat 0 1000 b.u

/-- A chamber alarm line's settings with the debounce brought into its range (R146). -/
def AlarmSettings.clamp (a : AlarmSettings) : AlarmSettings := { a with debounce := clampNat 10 5000 a.debounce }

/-- A good image's settings as loading takes them (R194): each value outside its range is clamped as a request would. -/
def StoredSettings.clamp (x : StoredSettings) : StoredSettings :=
  { x with
    budget := BudgetSettings.clamp x.budget
    chans := x.chans.map ChanSettings.clamp
    alarms := x.alarms.map AlarmSettings.clamp
    curtailDebounce := clampNat 0 10000 x.curtailDebounce }

/-! ### The image (R179, R194, R197) -/

/-- The speed a stored speed code gives: 921,600 baud where it names none of the four (R179). -/
def speedOfCode (code : Nat) : LinkSpeed :=
  match code with
  | 1 => .baud115200
  | 2 => .baud460800
  | 4 => .baud2000000
  | _ => .baud921600

/-- A speed's code. -/
def LinkSpeed.code : LinkSpeed → Nat
  | .baud115200 => 1
  | .baud460800 => 2
  | .baud921600 => 3
  | .baud2000000 => 4

/-- The CRC an image's bytes call for: over every byte of the image except the CRC itself, by the control link's CRC
(R194). -/
def Image.crcOf (signature : Signature) (stored : StoredSettings) : BitVec 16 := crc16 (Config.imageBytes signature stored)

/-- An image judged (R194, R195 step 4): good (`none`) when its signature is the C8's and its CRC matches, and otherwise bad,
for the signature first. -/
def Image.judge (x : Image) : Option BadReason :=
  if x.signature ≠ .c8 then some .signature
  else if x.crc ≠ Image.crcOf x.signature x.stored then some .check
  else none

/-- An image of settings with a fresh signature and CRC (R197). -/
def Image.fresh (stored : StoredSettings) : Image := ⟨.c8, Image.crcOf .c8 stored, stored⟩

/-- What a write cut short by a power loss leaves in the store: a free image, which is bad (R197, log 6). -/
def Image.cutShort (n : Nat) : Image :=
  let x := Config.cutShort n
  if (Image.judge x).isSome then x else { x with signature := .other }

/-- The settings an image gives: a good one's, clamped, or every default (R194). -/
def Image.load (x : Image) : StoredSettings :=
  match Image.judge x with
  | some _ => StoredSettings.default
  | none => StoredSettings.clamp x.stored

/-- The link speed an image gives: 921,600 baud when it is bad (R179, R195). -/
def Image.speed (x : Image) : LinkSpeed :=
  match Image.judge x with
  | some _ => .baud921600
  | none => speedOfCode x.stored.speedCode.toNat

/-- The pair a number 0 to 3 stands for, as its odd member. -/
def oddMember (p : Fin 4) : Ch := ⟨2 * p.val + 1, by omega⟩

/-- The settings in force as an image holds them, with a speed code (R194, R197). -/
def capture (s : State) (speedCode : Byte) : StoredSettings where
  speedCode := speedCode
  budget := s.arb.budget
  chans := s.chans.map Channel.settings
  cals := s.chans.map Channel.cal
  alarms := s.prot.lines.map AlarmLine.settings
  pairs := Vector.ofFn fun p => isFollower s (oddMember p)
  wakeByTimer := s.hall.wakeByTimer
  wakeByCurtail := s.hall.wakeByCurtail
  curtailDebounce := s.hall.curtDebounce

/-! ### SET_CHANNEL (R188) -/

/-- Whether a carried code names no value of its setting. -/
def badCode {α : Type} (f : Nat → Option α) (code : Option Nat) : Bool :=
  match code with
  | none => false
  | some n => (f n).isNone

/-- Check 3 of R188: a carried group, excess mode, profile mode or warn choice whose code names no value. -/
def ChannelPatch.badForm (p : ChannelPatch) : Bool :=
  badCode groupOf p.group || badCode excessOf p.excessMode || badCode profileModeOf p.profileMode ||
    badCode warnOf p.warnTLow || badCode warnOf p.warnMismatch

/-- Check 4 of R188: whether a request carries a setting that a follower does not take. -/
def ChannelPatch.forLeader (p : ChannelPatch) : Bool :=
  p.periodExp.isSome || p.group.isSome || p.deferralLimit.isSome || p.excessMode.isSome || p.grantHold.isSome ||
    p.profileMode.isSome || p.lowWater.isSome || p.underrunLimit.isSome || p.warnTLow.isSome || p.warnMismatch.isSome

/-- Check 5 of R188: whether a request carries a setting that an engaged channel does not take. -/
def ChannelPatch.forResting (p : ChannelPatch) : Bool :=
  p.periodExp.isSome || p.group.isSome || p.profileMode.isSome

/-- A carried code's value, or the setting as it stands. -/
def codeOr {α : Type} (f : Nat → Option α) (code : Option Nat) (old : α) : α := (code.bind f).getD old

/-- A channel's settings with every carried one set, and each brought into its range (R188). -/
def ChannelPatch.apply (p : ChannelPatch) (x : ChanSettings) : ChanSettings :=
  ChanSettings.clamp
    { periodExp := p.periodExp.getD x.periodExp
      reversalGap := p.reversalGap.getD x.reversalGap
      continuationGap := p.continuationGap.getD x.continuationGap
      startTimeout := p.startTimeout.getD x.startTimeout
      claimLimit := p.claimLimit.getD x.claimLimit
      vMax := p.vMax.getD x.vMax
      vMin := p.vMin.getD x.vMin
      iMax := p.iMax.getD x.iMax
      tMax := p.tMax.getD x.tMax
      tMin := p.tMin.getD x.tMin
      group := codeOr groupOf p.group x.group
      deferralLimit := p.deferralLimit.getD x.deferralLimit
      excessMode := codeOr excessOf p.excessMode x.excessMode
      grantHold := p.grantHold.getD x.grantHold
      profileMode := codeOr profileModeOf p.profileMode x.profileMode
      lowWater := p.lowWater.getD x.lowWater
      underrunLimit := p.underrunLimit.getD x.underrunLimit
      pairTolerance := p.pairTolerance.getD x.pairTolerance
      warnTLow := codeOr warnOf p.warnTLow x.warnTLow
      warnMismatch := codeOr warnOf p.warnMismatch x.warnMismatch
      confTimeout := p.confTimeout.getD x.confTimeout }

/-- A channel whose settings become others: a changed profile mode returns the REPEAT play position to the first point
(R110), and a changed low-water mark arms or disarms the report (R117). -/
def Channel.takeSettings (ch : Channel) (x : ChanSettings) : Channel :=
  let play := if x.profileMode ≠ ch.settings.profileMode then { ch.play with position := 0 } else ch.play
  let play :=
    if x.lowWater ≠ ch.settings.lowWater then { play with lowArmed := decide (x.lowWater < ch.queue.length) } else play
  { ch with settings := x, play := play }

/-- A channel's settings become others: a changed group sets both rotation pointers to their initial positions (R92). -/
def setSettings (s : State) (c : Ch) (x : ChanSettings) : State :=
  let old := (s.ch c).settings.group
  let s := s.modCh c fun ch => ch.takeSettings x
  if x.group ≠ old then resetPointers s else s

/-- SET_CHANNEL is taken (R188). -/
def takeSetChannel (r : Request) (s : State) : State × ReplyBody :=
  takeCh .setChannel r s fun c s =>
    let p := channelPatch r.body
    if p.badForm then (s, invalid .badForm 0)
    else if isFollower s c && p.forLeader then (s, refuse .paired)
    else if (s.ch c).state.engaged && p.forResting then (s, refuse .wrongState)
    else
      let s := setSettings s c (p.apply (s.ch c).settings)
      (s, .ok (.channelSettings (s.ch c).settings))

/-! ### SET_CALIBRATION (R60) -/

/-- A calibration with each carried quantity's gain and offset set; none is clamped. -/
def CalibrationPatch.apply (p : CalibrationPatch) (x : Calibration) : Calibration :=
  let v := p.voltage.getD (x.vGain, x.vOffset)
  let i := p.current.getD (x.iGain, x.iOffset)
  let t := p.temperature.getD (x.tGain, x.tOffset)
  ⟨v.1, v.2, i.1, i.2, t.1, t.2⟩

/-- SET_CALIBRATION is taken (R60). -/
def takeSetCalibration (r : Request) (s : State) : State × ReplyBody :=
  takeCh .setCalibration r s fun c s =>
    let s := s.modCh c fun ch => { ch with cal := (calibrationPatch r.body).apply ch.cal }
    (s, .ok (.calibration (s.ch c).cal))

/-! ### SET_BUDGET (R87) -/

/-- The budget settings with every carried one set, and each brought into its range. -/
def BudgetPatch.apply (p : BudgetPatch) (b : BudgetSettings) : BudgetSettings :=
  BudgetSettings.clamp
    { cIn := p.cIn.getD b.cIn, cCurt := p.cCurt.getD b.cCurt, cRet := p.cRet.getD b.cRet, eta := p.eta.getD b.eta,
      u := p.u.getD b.u }

/-- SET_BUDGET is taken (R87): the new values take effect together, and the arbiter sheds and evaluates. -/
def takeSetBudget (r : Request) (s : State) : State × ReplyBody :=
  takePart .setBudget r s fun s =>
    let s := s.modArb fun a => { a with budget := (budgetPatch r.body).apply a.budget }
    let s := settleEvaluating s
    (s, .ok (.budgetSet s.arb.budget (cEffOf s) s.hall.curtFiltered (sumsOf s.arb.budget.eta s.arb.grants)))

end Sys2Proof.Machine
end

