-- ==== Sys2Proof/Machine/Runs.lean ====
section
/-! DEFINITION. The host's requests to one channel: START (R23 to R25), STOP (R37), HOLD and RELEASE (R35, R36), SWAP and
CANCEL_SWAP (R39, R41), PROFILE_APPEND and PROFILE_FLUSH (R111, R112, R119), CLEAR_LIFETIME (R45), SET_PAIR and UNPAIR
(R123, R124), RESET_CHANNEL (R44, R132, R145, R150, R153) and RESET_STAGE_LINE (R166). -/
namespace Sys2Proof.Machine

/-! ### START -/

/-- Whether an entry of a recorded loop table no longer fits the record at its index (R23 check 8): the record is not a
MARK, or its loop count is above 0 and not above the counter. -/
def loopStale (s : State) (w : Window) (e : LoopEntry) : Bool :=
  match windowRead s w e.index with
  | some (.mark _ count _) => decide (0 < count ∧ count ≤ e.counter)
  | _ => true

/-- Whether a channel's resume point is stale (R14, R23 check 8): it has none, its active window is absent or is not the
one recorded, the recorded step is now a MARK, or a loop entry no longer fits. A step index beyond the window, which no run
records (R31), counts as stale too. -/
def resumeStale (s : State) (c : Ch) : Bool :=
  match (s.ch c).resume, (s.ch c).active with
  | some p, some w =>
    decide (p.window ≠ some w ∨ w.length ≤ p.stepIndex) || isMarkAt (windowRead s w p.stepIndex) ||
      p.loops.any fun e => loopStale s w e
  | _, _ => true

/-- A channel's context as an accepted START in form BEGIN leaves it before the first step is taken up (R24). -/
def Channel.beginRun (ch : Channel) : Channel :=
  { ch with
    resume := none
    cycleNumber := 1
    cycle := Accounts.zero
    lastDir := .none
    loops := []
    holds := HoldCauses.empty
    heldBefore := false
    stopDest := .idle }

/-- A channel's context as an accepted START in form RESUME_POINT restores it (R25). -/
def Channel.restore (ch : Channel) (p : ResumePoint) : Channel :=
  { ch with
    resume := none
    stepIndex := p.stepIndex
    stepTime := p.stepTime
    qStep := p.qStep
    eStep := p.eStep
    vPeak := p.vPeak
    loops := p.loops
    cycleNumber := p.cycleNumber
    cycle := p.cycle
    lastDir := p.lastDir
    holds := HoldCauses.empty
    heldBefore := false
    confirms := [0, 0, 0, 0]
    clamped := false
    stopDest := .idle }

/-- An accepted START in form BEGIN (R24): index 0 of the active window is taken up. -/
def startBegin (s : State) (c : Ch) : State := settle (takeUp (s.modCh c Channel.beginRun) c 0)

/-- An accepted START in form RESUME_POINT (R25): the step recorded is begun; a PROFILE step has its playback set up
(R113). -/
def startResume (s : State) (c : Ch) (p : ResumePoint) : State :=
  let s := s.modCh c fun ch => ch.restore p
  let s :=
    match currentStep s c with
    | some r => if r.kind = .profile then s.modCh c fun ch => setUpPlayback ch r else s
    | none => s
  settle (beginResumed s c)

/-- A covered channel that has taken up its step is held (R148). -/
def coverStarted (s : State) (c : Ch) : State := if covered s c then holdChannel s c .chamber else s

/-- Checks 2 to 7 of R23 for a START with a form code: the refusal, if one fails. -/
def startRefusal (s : State) (c : Ch) (form : Nat) : Option ReplyBody :=
  if isFollower s c then some (refuse .paired)
  else if s.prot.hallStop then some (refuse .hallStopActive)
  else if s.hall.state ≠ .active then some (refuse .hallPaused)
  else if form ≠ 1 ∧ form ≠ 2 then some (invalid .badForm 0)
  else if (s.ch c).state ≠ .idle ∧ ¬(form = 1 ∧ (s.ch c).state = .complete) then some (refuse .wrongState)
  else if (portsOf s c).any fun d => (s.port d).presence = .absent then some (refuse .stageAbsent)
  else none

/-- START is taken (R23): form 1 is BEGIN and form 2 RESUME_POINT. The reply shows the state at the end of the event
(log 13). -/
def takeStart (r : Request) (s : State) : State × ReplyBody :=
  takeCh .start r s fun c s =>
    let form := field r.body 0 1
    match startRefusal s c form with
    | some refusal => (s, refusal)
    | none =>
      if form = 2 ∧ resumeStale s c then (s, invalid .resumeStale 0)
      else
        match validate s c (s.ch c).active with
        | some (reason, index) => (s, invalid reason index)
        | none =>
          let s :=
            match if form = 2 then (s.ch c).resume else none with
            | some p => startResume s c p
            | none => startBegin s c
          let s := coverStarted s c
          (s, .ok (.started (s.ch c).state (s.ch c).stepIndex))

/-! ### STOP -/

/-- A channel's run is stopped (R37): grant and entries given up, timers stopped, causes emptied, OFF demanded, and
STOPPING toward IDLE or IDLE at once. DESIGN CHOICE (log 54): the arbiter evaluates where a grant or an entry was removed. -/
def stopChannel (s : State) (c : Ch) : State :=
  let s := withdrawEntries (releaseGrant s c) c
  let s := s.modCh c fun ch => { ch.stopTimers with holds := HoldCauses.empty, heldBefore := false }
  settle (enterStopping s c .idle false)

/-- STOP is taken (R37). DESIGN CHOICE (log 45): the OK of a STOP taken in STOPPING carries that state, as every other OK of
STOP carries the state entered. -/
def takeStop (r : Request) (s : State) : State × ReplyBody :=
  takeCh .stop r s fun c s =>
    match (s.ch c).state with
    | .follower => (s, refuse .paired)
    | .idle | .complete | .faulted => (s, refuse .wrongState)
    | .stopping => (s, .ok (.stateEntered .stopping))
    | _ =>
      let s := stopChannel s c
      (s, .ok (.stateEntered (s.ch c).state))

/-! ### HOLD and RELEASE -/

/-- The checks of HOLD and RELEASE after the channel field (R35, R36). -/
def holdRefusal (s : State) (c : Ch) : Option ReplyBody :=
  if isFollower s c then some (refuse .paired)
  else if (s.ch c).state.holdable then none
  else some (refuse .wrongState)

/-- HOLD is taken (R35): HOST is added unless the channel holds it. -/
def takeHold (r : Request) (s : State) : State × ReplyBody :=
  takeCh .hold r s fun c s =>
    match holdRefusal s c with
    | some refusal => (s, refusal)
    | none =>
      let s := if (s.ch c).holds.host then s else holdChannel s c .host
      (s, .ok (.holds (s.ch c).holds))

/-- RELEASE is taken (R36): HOST and END_HOLD are removed. -/
def takeRelease (r : Request) (s : State) : State × ReplyBody :=
  takeCh .release r s fun c s =>
    match holdRefusal s c with
    | some refusal => (s, refusal)
    | none =>
      let s := unholdChannel s c fun h => { h with host := false, endHold := false }
      (s, .ok (.holds (s.ch c).holds))

/-! ### SWAP and CANCEL_SWAP -/

/-- The swap kind a code names (R39). -/
def swapKindOf (code : Nat) : Option SwapKind :=
  match code with
  | 1 => some .atCycleEnd
  | 2 => some .atScheduleEnd
  | _ => none

/-- SWAP is taken (R39): an IDLE channel exchanges its windows, and an engaged one has the swap pending. -/
def takeSwap (r : Request) (s : State) : State × ReplyBody :=
  takeCh .swap r s fun c s =>
    let ch := s.ch c
    if ch.state = .follower then (s, refuse .paired)
    else if ch.state = .complete ∨ ch.state = .faulted then (s, refuse .wrongState)
    else
      match swapKindOf (field r.body 0 1) with
      | none => (s, invalid .badForm 0)
      | some kind =>
        match validate s c ch.staged with
        | some (reason, index) => (s, invalid reason index)
        | none =>
          if ch.state = .idle then
            let s := s.modCh c fun ch => { ch with active := ch.staged, staged := ch.active }
            (s, .ok (.windows (s.ch c).active (s.ch c).staged))
          else (s.modCh c fun ch => { ch with swapPending := some kind }, .ok .done)

/-- CANCEL_SWAP is taken (R41). -/
def takeCancelSwap (r : Request) (s : State) : State × ReplyBody :=
  takeCh .cancelSwap r s fun c s =>
    if isFollower s c then (s, refuse .paired)
    else (s.modCh c fun ch => { ch with swapPending := none }, .ok (.swapPending none))

/-! ### PROFILE_APPEND and PROFILE_FLUSH -/

/-- Whether a channel's step index designates a PROFILE record. -/
def onProfile (s : State) (c : Ch) : Bool :=
  match currentStep s c with
  | some r => r.kind = .profile
  | none => false

/-- Whether a point is at fault (R111 check 5). -/
def badPoint (p : Point) : Bool := p.duration = 0 || p.current < -840000 || 840000 < p.current

/-- A profile queue holds at most 512 points (R109). -/
def queueLimit : Nat := 512

/-- A channel after points that fit are appended (R111): at least one raises the count for the arming flag (R117) and
ends an underrun (R119). -/
def Channel.append (ch : Channel) (points : List Point) : Channel :=
  if points.isEmpty then ch
  else
    let queue := ch.queue ++ points
    { ch with
      queue := queue
      play := { ch.play.arm queue.length ch.settings.lowWater with underrun := false, underrunTimer := none } }

/-- PROFILE_APPEND is taken (R111): the points that fit are appended; any that do not are refused FULL. -/
def takeProfileAppend (r : Request) (s : State) : State × ReplyBody :=
  takeCh .profileAppend r s fun c s =>
    let ch := s.ch c
    let points := pointsOf r.body
    if isFollower s c then (s, refuse .paired)
    else if ch.settings.profileMode = .repeat ∧ ch.state.engaged ∧ onProfile s c then (s, refuse .protectedState)
    else
      match points.findIdx? badPoint with
      | some i => (s, invalid .badPoint i)
      | none =>
        let fitting := points.take (queueLimit - ch.queue.length)
        let s := s.modCh c fun ch => ch.append fitting
        let count := (s.ch c).queue.length
        if fitting.length = points.length then (s, .ok (.appended fitting.length count))
        else (s, .refused ⟨.full, none, count, 0, fitting.length⟩)

/-- PROFILE_FLUSH is taken (R112): the queue empties and the playback record is reset. -/
def takeProfileFlush (r : Request) (s : State) : State × ReplyBody :=
  takeCh .profileFlush r s fun c s =>
    let ch := s.ch c
    if isFollower s c then (s, refuse .paired)
    else if (ch.state = .running ∨ ch.state = .held) ∧ onProfile s c then (s, refuse .wrongState)
    else (s.modCh c fun ch => { ch with queue := [], play := Playback.powerOn }, .ok (.flushed ch.queue.length))

/-! ### CLEAR_LIFETIME -/

/-- CLEAR_LIFETIME is taken (R45). -/
def takeClearLifetime (r : Request) (s : State) : State × ReplyBody :=
  takeCh .clearLifetime r s fun c s =>
    if isFollower s c then (s, refuse .paired)
    else if (s.ch c).state.engaged then (s, refuse .wrongState)
    else (s.modCh c fun ch => { ch with life := Accounts.zero, lifeSaturated := false }, .ok .done)

/-! ### SET_PAIR and UNPAIR -/

/-- The even member of the pair a channel may belong to. -/
def evenMember (c : Ch) : Ch := if evenCh c then c else partner c

/-- A pair is formed (R123): the odd member enters FOLLOWER, and both resume points are discarded. No pack reading of this
pair has been completed for the leader's open period (R128). -/
def formPair (s : State) (l : Ch) : State :=
  (s.modCh l fun ch => { ch with resume := none, packDone := false }).modCh (partner l) fun ch =>
    { ch with resume := none, state := .follower }

/-- SET_PAIR is taken (R123). -/
def takeSetPair (r : Request) (s : State) : State × ReplyBody :=
  takeCh .setPair r s fun c s =>
    let l := evenMember c
    if isLeader s l then (s, .ok (.pair l (partner l)))
    else if (s.ch l).state ≠ .idle ∨ (s.ch (partner l)).state ≠ .idle then (s, refuse .wrongState)
    else (formPair s l, .ok (.pair l (partner l)))

/-- A pair is parted (R124): the follower enters IDLE, its first period of its own opens with the standby period, and the
leader's resume point is discarded. -/
def partPair (s : State) (l : Ch) : State :=
  let s := s.modCh l fun ch => { ch with resume := none }
  openPeriod (s.modCh (partner l) fun ch => { ch with state := .idle }) (partner l) standbyPeriod

/-- UNPAIR is taken (R124). -/
def takeUnpair (r : Request) (s : State) : State × ReplyBody :=
  takeCh .unpair r s fun c s =>
    let l := evenMember c
    if isLeader s l = false then (s, .ok .done)
    else if (s.ch l).state ≠ .idle then (s, refuse .wrongState)
    else (partPair s l, .ok .done)

/-! ### RESET_CHANNEL -/

/-- What RESET_CHANNEL clears in a follower: latched set and first-fault record, step and cycle accounts, loop table and
profile queue (R132) with its playback record (R113), and the confirm counters (R80). -/
def Channel.clearFollower (ch : Channel) : Channel :=
  { ch with
    latched := 0
    firstFault := none
    qStep := 0
    eStep := 0
    vPeak := 0
    confirms := [0, 0, 0, 0]
    cycle := Accounts.zero
    loops := []
    queue := []
    play := Playback.powerOn }

/-- What RESET_CHANNEL clears in a channel outside FOLLOWER (R44), its timers with it. -/
def Channel.clearRun (ch : Channel) : Channel :=
  { ch.clearFollower with
    resume := none
    swapPending := none
    holds := HoldCauses.empty
    heldBefore := false
    stepIndex := 0
    stepTime := 0
    cycleNumber := 0
    lastDir := .none
    clamped := false
    gapTimer := none
    startTimer := none }

/-- The tag recorded with a STAGE_UNSAFE offered again (R137, R145): that of the outstanding OFF demand, or a free value
where there is none (log 7). -/
def reofferTag (s : State) (c : Ch) : BitVec 4 :=
  match (s.port c).outstanding with
  | some t => if t.demand.mode = .off then t.tag else Config.reofferedTag s.freeCount
  | none => Config.reofferedTag s.freeCount

/-- The kinds a reset channel is offered again after the reset's own work: STAGE_UNSAFE while its unsafe flag is set
(R145), CHAMBER_ALARM while a DIRECT line covers it (R150), HALL_STOP while the line is asserted (R153). -/
def reoffer (s : State) (c : Ch) : State :=
  let s :=
    if (s.ch c).unsafeFlag then offerUnsafe { s with freeCount := s.freeCount + 1 } c (reofferTag s c) else s
  let s :=
    match directLine s c with
    | some line => offer s c .chamberAlarm line.val
    | none => s
  if s.prot.hallStop then offer s c .hallStop 0 else s

/-- A channel outside FOLLOWER is reset with its follower, if it leads a pair (R44, R132). DESIGN CHOICE (log 54): the arbiter
evaluates where a grant or an entry of the channel was removed (R90), and not otherwise. -/
def resetChannel (s : State) (c : Ch) : State :=
  let members := portsOf s c
  let s := withdrawEntries (releaseGrant s c) c
  let s := if isLeader s c then s.modCh (partner c) Channel.clearFollower else s
  let s := settle (enterStopping (s.modCh c Channel.clearRun) c .idle true)
  members.foldl reoffer s

/-- RESET_CHANNEL is taken (R44). For a member of a pair it acts on both (R132). The reply shows the addressed channel's own
state at the end of the event (log 13). DESIGN CHOICE (log 44): for a follower that is FOLLOWER, not its leader's state. -/
def takeResetChannel (r : Request) (s : State) : State × ReplyBody :=
  takeCh .resetChannel r s fun c s =>
    let s := resetChannel s (leaderOf s c)
    (s, .ok (.stateEntered (s.ch c).state))

/-! ### RESET_STAGE_LINE -/

/-- RESET_STAGE_LINE is taken (R166): the port's part, the channel unit's part (R55, R56, R136), and the settling test
(R171). -/
def takeResetStageLine (r : Request) (s : State) : State × ReplyBody :=
  takeCh .resetStageLine r s fun c s =>
    if (s.ch (leaderOf s c)).state.engaged then (s, refuse .wrongState)
    else
      let s := s.modCh c fun ch =>
        { ch with port := ch.port.resetLine, held := true, missed := 0, derateSeen := false }
      (settlingTest s, .ok .done)

end Sys2Proof.Machine
end

