-- ==== Sys2Proof/Machine/Views.lean ====
section
/-! DEFINITION. The requests that read, and the part-wide requests that touch no channel: GET_CHANNEL (R122, R187),
READ_ACCOUNTS (R71), IDENTIFY (R185), GET_STATUS (R168, R186), GET_BUDGET (R108), HOLD_REPORTS (R193), SAVE_SETTINGS
(R197) and RESET_PART (R198). All the figures of a reply are taken in the event of taking the request. -/
namespace Sys2Proof.Machine

/-! ### GET_CHANNEL -/

/-- A resume point with its accounts as reported (R70). -/
def ResumePoint.view (p : ResumePoint) : ResumeView where
  window := p.window
  stepIndex := p.stepIndex
  stepTime := p.stepTime
  qStep := reported p.qStep
  eStep := reported p.eStep
  vPeak := p.vPeak
  loops := p.loops
  cycleNumber := p.cycleNumber
  cycle := p.cycle.reported
  lastDir := p.lastDir

/-- The CONTEXT section (R69, R187, log 42). -/
def contextView (s : State) (c : Ch) : ContextView :=
  let ch := s.ch c
  { state := ch.state
    holds := ch.holds
    heldBefore := ch.heldBefore
    stepIndex := ch.stepIndex
    stepTime := ch.stepTime
    qStep := reported ch.qStep
    eStep := reported ch.eStep
    vPeak := ch.vPeak
    confirms := ch.confirms
    loops := ch.loops
    cycleNumber := ch.cycleNumber
    cycle := ch.cycle.reported
    lifeSaturated := ch.lifeSaturated
    active := ch.active
    staged := ch.staged
    swapPending := ch.swapPending
    stopDest := ch.stopDest
    grant := (grantOf s c).map fun g => (g.dir, g.amount)
    clamped := ch.clamped
    latched := ch.latched
    firstFault := ch.firstFault
    unsafeFlag := ch.unsafeFlag
    warnedTLow := ch.warnedTLow
    warnedMismatch := ch.warnedMismatch
    resume := ch.resume.map ResumePoint.view
    gapTimer := ch.gapTimer
    startTimer := ch.startTimer
    pair := pairRole s c }

/-- The READING section (R187): for a leader the pack reading as well. -/
def readingView (s : State) (c : Ch) : ReadingView :=
  let ch := s.ch c
  { last := ch.last
    held := ch.held
    missed := ch.missed
    derateSeen := ch.derateSeen
    pack := if isLeader s c then some ch.pack else none }

/-- The PROFILE section (R122). -/
def profileView (s : State) (c : Ch) : ProfileView :=
  let ch := s.ch c
  { mode := ch.settings.profileMode
    count := ch.queue.length
    lowWater := ch.settings.lowWater
    lowArmed := ch.play.lowArmed
    underrunLimit := ch.settings.underrunLimit
    position := playPosition ch
    inPlay := ch.play.inPlay
    played := ch.play.played
    duration := (playPoint ch).map Point.duration
    heldCurrent := ch.play.heldCurrent
    underrun := ch.play.underrun
    underrunTimer := ch.play.underrunTimer
    profileEnd := ch.play.profileEnd }

/-- The STAGE section (R187). -/
def stageView (s : State) (c : Ch) : StageView :=
  let p := s.port c
  { presence := p.presence
    outstanding := p.outstanding
    pending := p.pending
    lastConfirmed := p.lastConfirmed
    nextTag := p.nextTag
    confTimer := p.confTimer
    standing := p.standing
    queryAwaiting := p.queryAwaiting
    lineErr := p.lineErr
    lineErrCount := p.lineErrCount }

/-- GET_CHANNEL is taken (R187): section 1 CONTEXT, 2 READING, 3 PROFILE, 4 STAGE, 5 SETTINGS. -/
def takeGetChannel (r : Request) (s : State) : State × ReplyBody :=
  takeCh .getChannel r s fun c s =>
    match field r.body 0 1 with
    | 1 => (s, .ok (.context (contextView s c)))
    | 2 => (s, .ok (.reading (readingView s c)))
    | 3 => (s, .ok (.profile (profileView s c)))
    | 4 => (s, .ok (.stage (stageView s c)))
    | 5 => (s, .ok (.settings (s.ch c).settings (s.ch c).cal))
    | _ => (s, invalid .badForm 0)

/-! ### READ_ACCOUNTS -/

/-- The READ_ACCOUNTS reply's fields (R71). -/
def accountsView (s : State) (c : Ch) : AccountsView :=
  let ch := s.ch c
  { state := ch.state
    stepIndex := ch.stepIndex
    stepTime := ch.stepTime
    qStep := reported ch.qStep
    eStep := reported ch.eStep
    vPeak := ch.vPeak
    cycleNumber := ch.cycleNumber
    cycle := ch.cycle.reported
    life := ch.life.reported
    lifeSaturated := ch.lifeSaturated
    partTime := s.hall.partTime }

/-- READ_ACCOUNTS is taken (R71). -/
def takeReadAccounts (r : Request) (s : State) : State × ReplyBody :=
  takeCh .readAccounts r s fun c s => (s, .ok (.accounts (accountsView s c)))

/-! ### IDENTIFY -/

/-- IDENTIFY is taken (R185), in STARTING too (R196). -/
def takeIdentify (r : Request) (s : State) : State × ReplyBody :=
  takePart .identify r s fun s =>
    (s, .ok (.identity "Brestal" "Vorund C8" Config.serialNumber Config.firmwareMajor Config.firmwareMinor s.part
      s.link.speed s.hall.partTime))

/-! ### GET_STATUS -/

/-- The hall record GET_STATUS shows (R168). -/
def hallView (s : State) : HallView where
  state := s.hall.state
  wakeByTimer := s.hall.wakeByTimer
  wakeByCurtail := s.hall.wakeByCurtail
  wakeTimer := s.hall.wakeTimer
  curtRaw := s.hall.curtRaw
  curtFiltered := s.hall.curtFiltered
  curtDebounce := s.hall.curtDebounce
  pauseOrder := if s.hall.state = .active then none else some s.hall.pauseOrder

/-- A channel's line of GET_STATUS (R186). -/
def channelStatus (s : State) (c : Ch) : ChannelStatus :=
  { state := (s.ch c).state
    latched := (s.ch c).latched
    presence := (s.port c).presence
    lineErr := (s.port c).lineErr
    pair := pairRole s c }

/-- The GET_STATUS reply's figures (R186). -/
def statusView (s : State) : StatusView where
  partTime := s.hall.partTime
  speed := s.link.speed
  hall := hallView s
  hallStop := s.prot.hallStop
  lines := allLines.map fun l => ((s.line l).raw, (s.line l).filtered)
  channels := allCh.map (channelStatus s)
  linkErr := s.link.linkErr
  linkErrCount := s.link.linkErrCount
  overrun := s.link.overrun
  overrunCount := s.link.overrunCount
  lost := s.link.lost
  reportCount := s.link.reports.length
  holdTimer := s.link.holdTimer
  saveInFlight := s.saveInFlight.isSome

/-- The link error and overrun flags and counts are cleared (R186). -/
def Link.clearCounters (l : Link) : Link :=
  { l with linkErr := false, linkErrCount := 0, overrun := false, overrunCount := 0 }

/-- GET_STATUS is taken (R186): the counters are cleared, when asked, after the reply has taken their values. -/
def takeGetStatus (r : Request) (s : State) : State × ReplyBody :=
  takePart .getStatus r s fun s =>
    (if flagOf (r.body.getD 0 0) then s.modLink Link.clearCounters else s, .ok (.status (statusView s)))

/-! ### GET_BUDGET -/

/-- A grant as GET_BUDGET shows it (R108). -/
def grantView (eta : Nat) (g : Grant) : GrantView :=
  ⟨g.ch, g.dir, g.amount, lcOf eta g.amount, ldOf eta g.amount, g.live, g.hold⟩

/-- An entry as GET_BUDGET shows it (R108). -/
def entryView (now : Nat) (e : Entry) : EntryView := ⟨e.ch, e.dir, e.claim, e.mark, now - e.lodgedAt, e.timer⟩

/-- The waiting set in the walk order the next evaluation would fix (R108). -/
def waitingInOrder (s : State) : List Entry :=
  ((walkOrder s).map fun c => s.arb.waiting.filter fun e => e.ch = c).flatten

/-- The GET_BUDGET reply's figures (R108). -/
def budgetView (s : State) : BudgetView :=
  let b := s.arb.budget
  { grants := s.arb.grants.map (grantView b.eta)
    resume := s.arb.resume.map (entryView s.hall.partTime)
    waiting := (waitingInOrder s).map (entryView s.hall.partTime)
    ring := ringOf s
    groups := allCh.map (groupOfCh s)
    hp := s.arb.hp
    lp := s.arb.lp
    sums := sumsOf b.eta s.arb.grants
    intake := intakeSide b s.arb.grants
    returned := returnSide b s.arb.grants
    cEff := cEffOf s
    cRet := b.cRet
    curtailed := s.hall.curtFiltered
    settings := b }

/-- GET_BUDGET is taken (R108). -/
def takeGetBudget (r : Request) (s : State) : State × ReplyBody :=
  takePart .getBudget r s fun s => (s, .ok (.budget (budgetView s)))

/-! ### HOLD_REPORTS -/

/-- HOLD_REPORTS is taken (R193). -/
def takeHoldReports (r : Request) (s : State) : State × ReplyBody :=
  takePart .holdReports r s fun s =>
    let n := field r.body 0 2
    let s := s.modLink fun l => { l with holdTimer := if n = 0 then none else some n }
    (s, .ok (.reportHold s.link.holdTimer.isSome s.link.holdTimer s.link.reports.length))

/-! ### SAVE_SETTINGS and RESET_PART -/

/-- SAVE_SETTINGS is taken (R197). -/
def takeSaveSettings (r : Request) (s : State) : State × ReplyBody :=
  takePart .saveSettings r s fun s =>
    let code := field r.body 0 1
    if 4 < code then (s, invalid .badForm 0)
    else if s.saveInFlight.isSome then (s, refuse .busy)
    else
      let stored := capture s (BitVec.ofNat 8 (if code = 0 then s.link.speed.code else code))
      ({ s with saveInFlight := some ⟨Image.fresh stored, s.hall.partTime⟩ }, .ok .done)

/-- RESET_PART is taken (R198): nothing of the reset happens before the reply has been wholly sent. DESIGN CHOICE (log 58):
until then the board's other events act as they always do. -/
def takeResetPart (r : Request) (s : State) : State × ReplyBody :=
  takePart .resetPart r s fun s => (s.modLink fun l => { l with resetPending := true }, .ok .done)

end Sys2Proof.Machine
end

