-- ==== Sys2Proof/Machine/StartUp.lean ====
section
/-! DEFINITION. Power and start-up: power loss (R197), the beginning of a start-up (R195, R198), its end (R195), and the
end of a settings save (R197, R198). -/
namespace Sys2Proof.Machine

/-! ### Power loss and the beginning of start-up -/

/-- The raw levels of the four chamber alarm lines. -/
def rawLevels (s : State) : Vector Bool 4 := s.prot.lines.map AlarmLine.raw

/-- A start-up begins (R195): every piece of state takes its power-on value and the settings are loaded from the image.
The levels of the hall lines are the lines' own. -/
def beginStartUp (s : State) (cause : StartCause) : State :=
  State.powerOn .starting cause (Image.load s.image) (Image.speed s.image) s.image (rawLevels s) s.prot.hallStop s.hall.curtRaw
    s.freeCount s.pending

/-- The supply fails (R197): all volatile state is lost, and a save in flight leaves the stored image bad, with contents the
manual does not give (log 6). -/
def losePower (s : State) : State :=
  let cut := s.saveInFlight.isSome
  let image := if cut then Image.cutShort s.freeCount else s.image
  State.powerOn .off .powerOn (Image.load image) (Image.speed image) image (rawLevels s) s.prot.hallStop s.hall.curtRaw
    (if cut then s.freeCount + 1 else s.freeCount) s.pending

/-- Power is applied (R195). A board that has power has lost it first. -/
def applyPower (s : State) : State := beginStartUp (losePower s) .powerOn

/-! ### The end of start-up (R195) -/

/-- Step 1: the odd member of each stored pair enters FOLLOWER (R123). -/
def formStored (stored : StoredSettings) (s : State) : List (Fin 4) → State
  | [] => s
  | p :: ps =>
    formStored stored
      (if stored.pairs[p] then s.modCh (oddMember p) fun ch => { ch with state := .follower } else s) ps

/-- Step 2: every channel's first standby period opens (R51, R52). -/
def openFirst (s : State) : List Ch → State
  | [] => s
  | c :: cs => openFirst (openPeriod s c standbyPeriod) cs

/-- A chamber alarm line found asserted when the monitor begins to watch is treated as having just asserted (R147). -/
def watchLine (s : State) (line : LineNo) : State :=
  if (s.line line).raw then alarmRawChange (s.modLine line fun l => { l with raw := false }) line true else s

/-- Step 3: the hall stop line, the chamber alarm lines and the curtailment line begin to be watched (R147, R152,
R176). DESIGN CHOICE (log 53): the chamber alarm lines found asserted act in ascending line number. -/
def watchLines (s : State) : State :=
  let s := if s.prot.hallStop then hallStopActs s else s
  let s := allLines.foldl watchLine s
  curtailFollows s

/-- Steps 4 and 5: SETTINGS_DEFAULTED where the image was bad, and STARTED. -/
def reportStarted (s : State) : State :=
  match Image.judge s.image with
  | some reason =>
    reportPart (reportPart s (.settingsDefaulted reason))
      (.started s.startCause true Config.firmwareMajor Config.firmwareMinor)
  | none => reportPart s (.started s.startCause false Config.firmwareMajor Config.firmwareMinor)

/-- Start-up ends (R195), steps 1 to 6 in order. -/
def endStartUp (s : State) : State :=
  let s := formStored (Image.load s.image) s [0, 1, 2, 3]
  let s := s.modHall fun h => { h with partTime := 0 }
  let s := reportStarted (watchLines (openFirst s allCh))
  { s with part := .ready }

/-! ### The part reset and the end of a save -/

/-- The reply to a RESET_PART has been wholly sent (R198): the start-up begins, or, while a save is in flight, the blocks
stop and wait for its end. Waiting requests are discarded and reports are not sent. -/
def resetPartNow (s : State) : State :=
  if s.saveInFlight.isSome then
    { s with
      part := .halted
      link := { s.link with requests := [], reply := none, sending := none, resetPending := false } }
  else beginStartUp s .resetPart

/-- What the store holds when a save ends (R197). -/
def SaveEnd.image (result : SaveEnd) (captured : Image) : Image :=
  match result with
  | .verified => captured
  | .failed left => left

/-- Whether a save ended verified. -/
def SaveEnd.ok (result : SaveEnd) : Bool :=
  match result with
  | .verified => true
  | .failed _ => false

/-- The write of a settings save ends (R197): SETTINGS_SAVED, or, where a RESET_PART waits for it, the start-up and no
report (R198). -/
def endSave (s : State) (result : SaveEnd) : State :=
  match s.saveInFlight with
  | none => s
  | some save =>
    let s' := { s with image := SaveEnd.image result save.image, saveInFlight := none }
    if s.part = .halted then beginStartUp s' .resetPart
    else reportPart s' (.settingsSaved (SaveEnd.ok result) save.capturedAt)

end Sys2Proof.Machine
end

