-- ==== Sys2Proof/Machine/LinkPort.lean ====
section
/-! DEFINITION. The link port: the request queue and the taking of its head (R181, R182, R196), the transmitter (R183) with
the recovery of the report queue (R191), and what ends every event: open periods brought forward (R51) and the next
frame chosen. -/
namespace Sys2Proof.Machine

/-! ### Taking a request -/

/-- A request of a kind is handed to the block that owns its state, which acts on it and forms the reply (R182). -/
def takeKind (k : ReqKind) (r : Request) (s : State) : State × ReplyBody :=
  match k with
  | .identify => takeIdentify r s
  | .getStatus => takeGetStatus r s
  | .getBudget => takeGetBudget r s
  | .setBudget => takeSetBudget r s
  | .setAlarmRoute => takeSetAlarmRoute r s
  | .pauseHall => takePauseHall r s
  | .resumeHall => takeResumeHall r s
  | .setWake => takeSetWake r s
  | .holdReports => takeHoldReports r s
  | .saveSettings => takeSaveSettings r s
  | .resetPart => takeResetPart r s
  | .writeSteps => takeWriteSteps r s
  | .readSteps => takeReadSteps r s
  | .setWindow => takeSetWindow r s
  | .getChannel => takeGetChannel r s
  | .setChannel => takeSetChannel r s
  | .setCalibration => takeSetCalibration r s
  | .start => takeStart r s
  | .stop => takeStop r s
  | .hold => takeHold r s
  | .release => takeRelease r s
  | .swap => takeSwap r s
  | .cancelSwap => takeCancelSwap r s
  | .profileAppend => takeProfileAppend r s
  | .profileFlush => takeProfileFlush r s
  | .clearFaults => takeClearFaults r s
  | .readAccounts => takeReadAccounts r s
  | .clearLifetime => takeClearLifetime r s
  | .setPair => takeSetPair r s
  | .unpair => takeUnpair r s
  | .resetChannel => takeResetChannel r s
  | .resetStageLine => takeResetStageLine r s

/-- A frame's request. -/
def Frame.request (f : Frame) : Request := ⟨f.tag, f.channel, f.body⟩

/-- A frame is taken: while STARTING only IDENTIFY is executed (R196), and a kind byte that names no request kind is
refused UNKNOWN_REQUEST (R182). -/
def takeFrame (f : Frame) (s : State) : State × ReplyBody :=
  match ReqKind.ofCode f.kind with
  | some k => if s.part = .starting ∧ k ≠ .identify then (s, .starting) else takeKind k (Frame.request f) s
  | none => if s.part = .starting then (s, .starting) else (s, refuse .unknownRequest)

/-- A frame is taken and its reply waits to be sent: it carries the request's tag, channel byte and kind (R184). -/
def answer (f : Frame) (s : State) : State :=
  let a := takeFrame f s
  a.1.modLink fun l => { l with reply := some ⟨f.tag, f.channel, f.kind, a.2⟩ }

/-- Whether no reply is waiting to be sent or being sent (R182). -/
def Link.replyFree (l : Link) : Bool :=
  l.reply.isNone &&
    match l.sending with
    | some (.reply _) => false
    | _ => true

/-- The head of the request queue is taken when no reply is outstanding (R182). -/
def takeNext (s : State) : State :=
  match s.link.requests with
  | [] => s
  | f :: rest => if s.link.replyFree then answer f (s.modLink fun l => { l with requests := rest }) else s

/-! ### The transmitter -/

/-- A report has left the queue: with the count at 48 and the lost flag set, REPORTS_LOST is made and the flag and counts
clear (R191). -/
def Link.recover (l : Link) (now : Nat) : Link :=
  if l.reports.length = 48 ∧ l.lost then
    { l.make now partWide (.reportsLost l.lostCount l.lostFaultCount) with
      lost := false, lostCount := 0, lostFaultCount := 0 }
  else l

/-- A free transmitter chooses the next frame (R183): a waiting reply, or else the head of the report queue when reports
are not held back (R193) and start-up has ended (R196). -/
def pump (s : State) : State :=
  if s.link.sending.isSome then s
  else
    match s.link.reply with
    | some r => s.modLink fun l => { l with reply := none, sending := some (.reply r) }
    | none =>
      if s.part = .ready ∧ s.link.holdTimer.isNone then
        match s.link.reports with
        | [] => s
        | r :: rest =>
          s.modLink fun l => { l with reports := rest, sending := some (.report r) }.recover s.hall.partTime
      else s

/-! ### Events -/

/-- An event's end: the open periods of channels whose period in force has become shorter are brought forward (R51), and
a free transmitter chooses a frame that has become due (R183). -/
def finish (before after : State) : State :=
  pump (if before.part = .ready ∧ after.part = .ready then bringForwardAll before after allCh else after)

/-- An event that acts only in READY (log 14): what it does, and the event's end. -/
def whenReady (s : State) (f : State → State) : State := if s.part = .ready then finish s (f s) else s

/-- Whether the link port is at work: in STARTING and READY (R196, R198). -/
def linkUp (s : State) : Bool := s.part = .starting || s.part = .ready

/-- A bad frame (R180): the link error flag and count. -/
def Link.countError (l : Link) : Link :=
  { l with linkErr := true, linkErrCount := satAdd count16Limit l.linkErrCount 1 }

/-- A frame is discarded because the request queue holds 4 (R181). -/
def Link.countOverrun (l : Link) : Link :=
  { l with overrun := true, overrunCount := satAdd count16Limit l.overrunCount 1 }

/-- A frame joins the request queue, or is discarded with an overrun (R181). -/
def Link.enqueue (l : Link) (f : Frame) : Link :=
  if l.requests.length < 4 then { l with requests := l.requests ++ [f] } else l.countOverrun

/-- A whole frame ends on the control link (R181, R182): it is queued, and taken at once where it finds the queue empty
and no reply outstanding. A body longer than a frame can hold makes a bad frame (R180). -/
def arrive (f : Frame) (s : State) : State :=
  if linkUp s then
    if 1024 < f.body.length then s.modLink Link.countError
    else finish s (takeNext (s.modLink fun l => l.enqueue f))
  else s

/-- The transmitter has wholly sent a frame (R183): it chooses the next frame, and then, with no reply outstanding, the
next request is taken. The reply to a RESET_PART begins the reset (R198). -/
def frameSent (s : State) : State :=
  match s.link.sending with
  | none => s
  | some f =>
    let s' := s.modLink fun l => { l with sending := none }
    let isReply : Bool :=
      match f with
      | .reply _ => true
      | .report _ => false
    if isReply && s.link.resetPending then resetPartNow s' else finish s (takeNext (pump s'))

end Sys2Proof.Machine
end

