-- ==== Sys2Proof/Machine/Timers.lean ====
section
/-! DEFINITION. What the frames of a stage line and the expiries of a channel's timers do: confirmations (R160), the
confirmation timeout (R161), the frames the port has sent (R156), and the gap, start, grant-hold, wait and underrun
timers (R26, R27, R95, R98, R119). A timer that is not running does not expire (log 15). -/
namespace Sys2Proof.Machine

/-- A CONFIRM arrives (R160): a matching tag retires the outstanding demand, and a port that is then settled tells its
channel unit (R157); any other CONFIRM counts as one line error. -/
def confirmArrives (s : State) (c : Ch) (tag : Byte) : State :=
  match (s.port c).outstanding with
  | none => s.modPort c Port.countError
  | some t =>
    if tag = t.tag.zeroExtend 8 then
      let s := s.modPort c fun p => p.retire t
      if (s.port c).settled then portSettled s c else s
    else s.modPort c Port.countError

/-- The confirmation timer expires (R161): STAGE_NO_ACK is offered, STAGE_UNSAFE as well where the demand was OFF, and the
port presses on with its newest demand. -/
def confirmationExpires (s : State) (c : Ch) : State :=
  match (s.port c).confTimer, (s.port c).outstanding with
  | some _, some t =>
    let s := s.modPort c fun p => { p with confTimer := none }
    let s := offer s c .stageNoAck t.tag.toNat
    let s := if t.demand.mode = .off then offerUnsafe s c t.tag else s
    s.modPort c Port.pressOn
  | _, _ => s

/-- A frame has left the stage line transmitter (R156). -/
def stageFrameSent (s : State) (c : Ch) : State :=
  s.modCh c fun ch => { ch with port := ch.port.whollySent ch.settings.confTimeout }

/-- The line break ends (R166). -/
def lineBreakEnds (s : State) (c : Ch) : State :=
  if (s.port c).breaking then s.modPort c Port.breakEnd else s

/-- The gap timer expires (R26). Where the channel gives up a grant that no longer covers its step, the arbiter evaluates
(R88, R99; log 46). -/
def gapTimerExpires (s : State) (c : Ch) : State :=
  if (s.ch c).state = .gap ∧ (s.ch c).gapTimer.isSome then
    let t := gapExpires s c
    if (grantOf s c).isSome ∧ (grantOf t c).isNone then settle t else t
  else s

/-- The start timer expires with the channel still in STARTING (R27): STAGE_START_TIMEOUT is offered with the start
timeout in force (R137). -/
def startTimerExpires (s : State) (c : Ch) : State :=
  if (s.ch c).state = .starting ∧ (s.ch c).startTimer.isSome then
    offer (s.modCh c fun ch => { ch with startTimer := none }) c .stageStartTimeout (s.ch c).settings.startTimeout
  else s

/-- The grant-hold timer of an idle grant expires (R98): the grant is released, and the arbiter evaluates. -/
def grantHoldExpires (s : State) (c : Ch) : State :=
  match grantOf s c with
  | none => s
  | some g => if g.hold.isSome then settle (releaseGrant s c) else s

/-- Whether an entry of a channel has its wait timer running. -/
def Entry.timed (c : Ch) (e : Entry) : Bool := e.ch = c && e.timer.isSome

/-- An entry of a channel whose wait timer has expired in WAIT mode (R95): STARVED, where it is. DESIGN CHOICE (log 48): its
timer no longer runs, and GET_BUDGET shows no time remaining. -/
def Entry.starve (c : Ch) (e : Entry) : Entry :=
  if e.ch = c && e.timer.isSome then { e with mark := .starved, timer := none } else e

/-- The wait timer of a channel's entry expires (R95): STARVED in WAIT mode; in ABORT mode DEFER_LIMIT is offered with the
deferral limit (R137), and the channel's fault withdraws the entry. -/
def waitTimerExpires (s : State) (c : Ch) : State :=
  if s.arb.waiting.any (Entry.timed c) || s.arb.resume.any (Entry.timed c) then
    match (s.ch c).settings.excessMode with
    | .wait =>
      s.modArb fun a => { a with waiting := a.waiting.map (Entry.starve c), resume := a.resume.map (Entry.starve c) }
    | .abort => offer s c .deferLimit (s.ch c).settings.deferralLimit
  else s

/-- The underrun timer expires (R119): PROFILE_UNDERRUN is offered with the underrun limit in force (R137). -/
def underrunExpires (s : State) (c : Ch) : State :=
  if (s.ch c).play.underrunTimer.isSome then
    offer (s.modCh c fun ch => { ch with play := { ch.play with underrunTimer := none } }) c .profileUnderrun
      (s.ch c).settings.underrunLimit
  else s

/-- A channel's period timer expires; a follower has none (R50, R51). -/
def periodExpires (s : State) (c : Ch) : State := if isFollower s c then s else periodEventOf s c

/-- The report hold timer expires (R193). -/
def reportHoldExpires (s : State) : State :=
  if s.link.holdTimer.isSome then s.modLink fun l => { l with holdTimer := none } else s

end Sys2Proof.Machine
end

