-- ==== Sys2Proof/Machine/Requests.lean ====
section
/-! DEFINITION. The meanings of the request rows. A request row is the request's frame ending whole on the control link
(log 2): it joins the request queue, and it is taken in the same event where the queue is empty and no reply is
outstanding (R182). What each request then does stands in the `take` definition its rule has. -/
namespace Sys2Proof.Machine

/-- The frame a request of a kind makes. -/
def ReqKind.frame (k : ReqKind) (r : Request) : Frame := ⟨k.code, r.tag, r.channel, r.body⟩

/-- The outcome of a command that always has a next state. -/
abbrev Next := Host.Outcome State Fault Refusal

/-- UNKNOWN_REQUEST (R182). -/
def execUnknownRequest (kind : Byte) (r : Request) (s : State) : Next :=
  .next (arrive ⟨kind, r.tag, r.channel, r.body⟩ s)

/-- IDENTIFY (R185). -/
def execIdentify (r : Request) (s : State) : Next := .next (arrive (ReqKind.identify.frame r) s)

/-- GET_STATUS (R186). -/
def execGetStatus (r : Request) (s : State) : Next := .next (arrive (ReqKind.getStatus.frame r) s)

/-- GET_BUDGET (R108). -/
def execGetBudget (r : Request) (s : State) : Next := .next (arrive (ReqKind.getBudget.frame r) s)

/-- SET_BUDGET (R87). -/
def execSetBudget (r : Request) (s : State) : Next := .next (arrive (ReqKind.setBudget.frame r) s)

/-- SET_ALARM_ROUTE (R146, R151). -/
def execSetAlarmRoute (r : Request) (s : State) : Next := .next (arrive (ReqKind.setAlarmRoute.frame r) s)

/-- PAUSE_HALL (R170). -/
def execPauseHall (r : Request) (s : State) : Next := .next (arrive (ReqKind.pauseHall.frame r) s)

/-- RESUME_HALL (R174). -/
def execResumeHall (r : Request) (s : State) : Next := .next (arrive (ReqKind.resumeHall.frame r) s)

/-- SET_WAKE (R175). -/
def execSetWake (r : Request) (s : State) : Next := .next (arrive (ReqKind.setWake.frame r) s)

/-- HOLD_REPORTS (R193). -/
def execHoldReports (r : Request) (s : State) : Next := .next (arrive (ReqKind.holdReports.frame r) s)

/-- SAVE_SETTINGS (R197). -/
def execSaveSettings (r : Request) (s : State) : Next := .next (arrive (ReqKind.saveSettings.frame r) s)

/-- RESET_PART (R198). -/
def execResetPart (r : Request) (s : State) : Next := .next (arrive (ReqKind.resetPart.frame r) s)

/-- WRITE_STEPS (R8 to R11). -/
def execWriteSteps (r : Request) (s : State) : Next := .next (arrive (ReqKind.writeSteps.frame r) s)

/-- READ_STEPS (R12). -/
def execReadSteps (r : Request) (s : State) : Next := .next (arrive (ReqKind.readSteps.frame r) s)

/-- SET_WINDOW (R13, R14). -/
def execSetWindow (r : Request) (s : State) : Next := .next (arrive (ReqKind.setWindow.frame r) s)

/-- GET_CHANNEL (R187). -/
def execGetChannel (r : Request) (s : State) : Next := .next (arrive (ReqKind.getChannel.frame r) s)

/-- SET_CHANNEL (R188). -/
def execSetChannel (r : Request) (s : State) : Next := .next (arrive (ReqKind.setChannel.frame r) s)

/-- SET_CALIBRATION (R60). -/
def execSetCalibration (r : Request) (s : State) : Next := .next (arrive (ReqKind.setCalibration.frame r) s)

/-- START (R23 to R25). -/
def execStart (r : Request) (s : State) : Next := .next (arrive (ReqKind.start.frame r) s)

/-- STOP (R37). -/
def execStop (r : Request) (s : State) : Next := .next (arrive (ReqKind.stop.frame r) s)

/-- HOLD (R35). -/
def execHold (r : Request) (s : State) : Next := .next (arrive (ReqKind.hold.frame r) s)

/-- RELEASE (R36). -/
def execRelease (r : Request) (s : State) : Next := .next (arrive (ReqKind.release.frame r) s)

/-- SWAP (R39). -/
def execSwap (r : Request) (s : State) : Next := .next (arrive (ReqKind.swap.frame r) s)

/-- CANCEL_SWAP (R41). -/
def execCancelSwap (r : Request) (s : State) : Next := .next (arrive (ReqKind.cancelSwap.frame r) s)

/-- PROFILE_APPEND (R111, R119). -/
def execProfileAppend (r : Request) (s : State) : Next := .next (arrive (ReqKind.profileAppend.frame r) s)

/-- PROFILE_FLUSH (R112). -/
def execProfileFlush (r : Request) (s : State) : Next := .next (arrive (ReqKind.profileFlush.frame r) s)

/-- CLEAR_FAULTS (R142, R143). -/
def execClearFaults (r : Request) (s : State) : Next := .next (arrive (ReqKind.clearFaults.frame r) s)

/-- READ_ACCOUNTS (R71). -/
def execReadAccounts (r : Request) (s : State) : Next := .next (arrive (ReqKind.readAccounts.frame r) s)

/-- CLEAR_LIFETIME (R45). -/
def execClearLifetime (r : Request) (s : State) : Next := .next (arrive (ReqKind.clearLifetime.frame r) s)

/-- SET_PAIR (R123). -/
def execSetPair (r : Request) (s : State) : Next := .next (arrive (ReqKind.setPair.frame r) s)

/-- UNPAIR (R124). -/
def execUnpair (r : Request) (s : State) : Next := .next (arrive (ReqKind.unpair.frame r) s)

/-- RESET_CHANNEL (R44, R132). -/
def execResetChannel (r : Request) (s : State) : Next := .next (arrive (ReqKind.resetChannel.frame r) s)

/-- RESET_STAGE_LINE (R166). -/
def execResetStageLine (r : Request) (s : State) : Next := .next (arrive (ReqKind.resetStageLine.frame r) s)

end Sys2Proof.Machine
end

