-- ==== Sys2Proof/Machine/Events.lean ====
section
/-! DEFINITION. The meanings of the rows that are not requests: power and start-up, the control link, the stage lines, the
timers and the hall lines. Outside READY an event of the stage lines, the timers or the hall lines changes nothing but
the raw level of a hall line (log 14). -/
namespace Sys2Proof.Machine

/-! ### Power and start-up -/

/-- POWER_ON (R195). -/
def execPowerOn (s : State) : Next := .next (applyPower s)

/-- START_UP_END (R195): the end of a start-up in progress. -/
def execStartUpEnd (s : State) : Next := .next (if s.part = .starting then pump (endStartUp s) else s)

/-- POWER_LOSS (R197). -/
def execPowerLoss (s : State) : Next := .next (losePower s)

/-- SETTINGS_SAVE_END (R197, R198). -/
def execSettingsSaveEnd (result : SaveEnd) (s : State) : Next := .next (pump (endSave s result))

/-! ### The control link -/

/-- CONTROL_FRAME (R181): a whole good frame ends. -/
def execControlFrame (f : Frame) (s : State) : Next := .next (arrive f s)

/-- BAD_FRAME (R180), whatever the cause. -/
def execBadFrame (_cause : BadFrameCause) (s : State) : Next :=
  .next (if linkUp s then s.modLink Link.countError else s)

/-- CONTROL_BYTE_GAP_TIMEOUT (R180). -/
def execControlByteGapTimeout (s : State) : Next := .next (if linkUp s then s.modLink Link.countError else s)

/-- CONTROL_FRAME_WHOLLY_SENT (R183). -/
def execControlFrameWhollySent (s : State) : Next := .next (frameSent s)

/-- REPORT_HOLD_EXPIRY (R193). -/
def execReportHoldExpiry (s : State) : Next := .next (whenReady s reportHoldExpires)

/-! ### The stage lines -/

/-- LINE_BREAK_END (R166). -/
def execLineBreakEnd (c : Ch) (s : State) : Next := .next (whenReady s fun s => lineBreakEnds s c)

/-- STAGE_FRAME_WHOLLY_SENT (R156). -/
def execStageFrameWhollySent (c : Ch) (s : State) : Next := .next (whenReady s fun s => stageFrameSent s c)

/-- CONFIRM (R160). -/
def execConfirm (c : Ch) (tag : Byte) (s : State) : Next := .next (whenReady s fun s => confirmArrives s c tag)

/-- READING (R163). -/
def execReading (c : Ch) (startedAfterQuery : Bool) (raw : RawReading) (s : State) : Next :=
  .next (whenReady s fun s => readingArrives s c startedAfterQuery raw)

/-- STAGE_BAD_FRAME (R155), whatever the cause. -/
def execStageBadFrame (c : Ch) (_cause : StageBadCause) (s : State) : Next :=
  .next (whenReady s fun s => s.modPort c Port.countError)

/-- STAGE_BYTE_GAP_TIMEOUT (R155). -/
def execStageByteGapTimeout (c : Ch) (s : State) : Next := .next (whenReady s fun s => s.modPort c Port.countError)

/-- CONFIRMATION_TIMER_EXPIRY (R161). -/
def execConfirmationTimerExpiry (c : Ch) (s : State) : Next := .next (whenReady s fun s => confirmationExpires s c)

/-! ### The channel timers -/

/-- PERIOD_EVENT (R54). -/
def execPeriodEvent (c : Ch) (s : State) : Next := .next (whenReady s fun s => periodExpires s c)

/-- GAP_TIMER_EXPIRY (R26). -/
def execGapTimerExpiry (c : Ch) (s : State) : Next := .next (whenReady s fun s => gapTimerExpires s c)

/-- START_TIMER_EXPIRY (R27). -/
def execStartTimerExpiry (c : Ch) (s : State) : Next := .next (whenReady s fun s => startTimerExpires s c)

/-- GRANT_HOLD_EXPIRY (R98). -/
def execGrantHoldExpiry (c : Ch) (s : State) : Next := .next (whenReady s fun s => grantHoldExpires s c)

/-- WAIT_TIMER_EXPIRY (R95). -/
def execWaitTimerExpiry (c : Ch) (s : State) : Next := .next (whenReady s fun s => waitTimerExpires s c)

/-- UNDERRUN_TIMER_EXPIRY (R119). -/
def execUnderrunTimerExpiry (c : Ch) (s : State) : Next := .next (whenReady s fun s => underrunExpires s c)

/-! ### The hall lines and hall timers -/

/-- HALL_STOP_ASSERT (R152). -/
def execHallStopAssert (s : State) : Next :=
  .next (if s.part = .ready then finish s (hallStopAsserts s) else s.modProt fun p => { p with hallStop := true })

/-- HALL_STOP_DEASSERT (R153). -/
def execHallStopDeassert (s : State) : Next :=
  .next (if s.part = .ready then finish s (hallStopDeasserts s) else s.modProt fun p => { p with hallStop := false })

/-- CHAMBER_ALARM_LINE_CHANGE (R147, R150). -/
def execChamberAlarmLineChange (line : LineNo) (level : Bool) (s : State) : Next :=
  .next
    (if s.part = .ready then finish s (alarmRawChange s line level)
    else s.modLine line fun l => { l with raw := level })

/-- ALARM_DEBOUNCE_EXPIRY (R147, R148). -/
def execAlarmDebounceExpiry (line : LineNo) (s : State) : Next :=
  .next (whenReady s fun s => alarmDebounceExpires s line)

/-- CURTAILMENT_LINE_CHANGE (R176). -/
def execCurtailmentLineChange (level : Bool) (s : State) : Next :=
  .next
    (if s.part = .ready then finish s (curtailRawChange s level) else s.modHall fun h => { h with curtRaw := level })

/-- CURTAIL_DEBOUNCE_EXPIRY (R177). -/
def execCurtailDebounceExpiry (s : State) : Next := .next (whenReady s curtailDebounceExpires)

/-- WAKE_TIMER_EXPIRY (R175). -/
def execWakeTimerExpiry (s : State) : Next := .next (whenReady s wakeTimerExpires)

end Sys2Proof.Machine
end

