-- ==== Sys2Proof/Machine/Dispatch.lean ====
section
/-! DEFINITION. The dispatch of commands: one arm per constructor of `Instr`, each one call of the command's meaning. -/
namespace Sys2Proof.Machine

def exec (i : Instr) (s : State) : Host.Outcome State Fault Refusal :=
  match i with
  | .powerOn => Sys2Proof.Machine.execPowerOn s
  | .startUpEnd => Sys2Proof.Machine.execStartUpEnd s
  | .controlFrame f => Sys2Proof.Machine.execControlFrame f s
  | .badFrame cause => Sys2Proof.Machine.execBadFrame cause s
  | .controlByteGapTimeout => Sys2Proof.Machine.execControlByteGapTimeout s
  | .controlFrameWhollySent => Sys2Proof.Machine.execControlFrameWhollySent s
  | .unknownRequest kind r => Sys2Proof.Machine.execUnknownRequest kind r s
  | .identify r => Sys2Proof.Machine.execIdentify r s
  | .getStatus r => Sys2Proof.Machine.execGetStatus r s
  | .getBudget r => Sys2Proof.Machine.execGetBudget r s
  | .setBudget r => Sys2Proof.Machine.execSetBudget r s
  | .setAlarmRoute r => Sys2Proof.Machine.execSetAlarmRoute r s
  | .pauseHall r => Sys2Proof.Machine.execPauseHall r s
  | .resumeHall r => Sys2Proof.Machine.execResumeHall r s
  | .setWake r => Sys2Proof.Machine.execSetWake r s
  | .holdReports r => Sys2Proof.Machine.execHoldReports r s
  | .saveSettings r => Sys2Proof.Machine.execSaveSettings r s
  | .resetPart r => Sys2Proof.Machine.execResetPart r s
  | .writeSteps r => Sys2Proof.Machine.execWriteSteps r s
  | .readSteps r => Sys2Proof.Machine.execReadSteps r s
  | .setWindow r => Sys2Proof.Machine.execSetWindow r s
  | .getChannel r => Sys2Proof.Machine.execGetChannel r s
  | .setChannel r => Sys2Proof.Machine.execSetChannel r s
  | .setCalibration r => Sys2Proof.Machine.execSetCalibration r s
  | .start r => Sys2Proof.Machine.execStart r s
  | .stop r => Sys2Proof.Machine.execStop r s
  | .hold r => Sys2Proof.Machine.execHold r s
  | .release r => Sys2Proof.Machine.execRelease r s
  | .swap r => Sys2Proof.Machine.execSwap r s
  | .cancelSwap r => Sys2Proof.Machine.execCancelSwap r s
  | .profileAppend r => Sys2Proof.Machine.execProfileAppend r s
  | .profileFlush r => Sys2Proof.Machine.execProfileFlush r s
  | .clearFaults r => Sys2Proof.Machine.execClearFaults r s
  | .readAccounts r => Sys2Proof.Machine.execReadAccounts r s
  | .clearLifetime r => Sys2Proof.Machine.execClearLifetime r s
  | .setPair r => Sys2Proof.Machine.execSetPair r s
  | .unpair r => Sys2Proof.Machine.execUnpair r s
  | .resetChannel r => Sys2Proof.Machine.execResetChannel r s
  | .resetStageLine r => Sys2Proof.Machine.execResetStageLine r s
  | .lineBreakEnd c => Sys2Proof.Machine.execLineBreakEnd c s
  | .stageFrameWhollySent c => Sys2Proof.Machine.execStageFrameWhollySent c s
  | .confirm c tag => Sys2Proof.Machine.execConfirm c tag s
  | .reading c startedAfterQuery raw => Sys2Proof.Machine.execReading c startedAfterQuery raw s
  | .stageBadFrame c cause => Sys2Proof.Machine.execStageBadFrame c cause s
  | .stageByteGapTimeout c => Sys2Proof.Machine.execStageByteGapTimeout c s
  | .confirmationTimerExpiry c => Sys2Proof.Machine.execConfirmationTimerExpiry c s
  | .periodEvent c => Sys2Proof.Machine.execPeriodEvent c s
  | .gapTimerExpiry c => Sys2Proof.Machine.execGapTimerExpiry c s
  | .startTimerExpiry c => Sys2Proof.Machine.execStartTimerExpiry c s
  | .grantHoldExpiry c => Sys2Proof.Machine.execGrantHoldExpiry c s
  | .waitTimerExpiry c => Sys2Proof.Machine.execWaitTimerExpiry c s
  | .underrunTimerExpiry c => Sys2Proof.Machine.execUnderrunTimerExpiry c s
  | .hallStopAssert => Sys2Proof.Machine.execHallStopAssert s
  | .hallStopDeassert => Sys2Proof.Machine.execHallStopDeassert s
  | .chamberAlarmLineChange line level => Sys2Proof.Machine.execChamberAlarmLineChange line level s
  | .alarmDebounceExpiry line => Sys2Proof.Machine.execAlarmDebounceExpiry line s
  | .curtailmentLineChange level => Sys2Proof.Machine.execCurtailmentLineChange level s
  | .curtailDebounceExpiry => Sys2Proof.Machine.execCurtailDebounceExpiry s
  | .wakeTimerExpiry => Sys2Proof.Machine.execWakeTimerExpiry s
  | .reportHoldExpiry => Sys2Proof.Machine.execReportHoldExpiry s
  | .settingsSaveEnd result => Sys2Proof.Machine.execSettingsSaveEnd result s
  | .powerLoss => Sys2Proof.Machine.execPowerLoss s

end Sys2Proof.Machine
end

