-- ==== Sys2Proof/Machine/Clock.lean ====
section
/-! DEFINITION. The passing of a millisecond, which the board does on its own between commands: part time and the open
periods run on and the running timers run down. A timer run down to 0 stays there, still running, until the command of
its expiry is taken (log 2). -/
namespace Sys2Proof.Machine

/-- A timer's remaining time one millisecond later. -/
def runDown (t : Option Nat) : Option Nat := t.map fun n => n - 1

/-- A channel one millisecond later. A follower's open period is timed by its leader (R50). -/
def Channel.tick (ch : Channel) : Channel :=
  { ch with
    periodElapsed := if ch.state = .follower then ch.periodElapsed else ch.periodElapsed + 1
    gapTimer := runDown ch.gapTimer
    startTimer := runDown ch.startTimer
    play := { ch.play with underrunTimer := runDown ch.play.underrunTimer }
    port := { ch.port with confTimer := runDown ch.port.confTimer } }

/-- The budget arbiter one millisecond later: its wait timers and grant-hold timers (R94, R98). -/
def Arbiter.tick (a : Arbiter) : Arbiter :=
  { a with
    grants := a.grants.map fun g => { g with hold := runDown g.hold }
    waiting := a.waiting.map fun e => { e with timer := runDown e.timer }
    resume := a.resume.map fun e => { e with timer := runDown e.timer } }

/-- Hall control one millisecond later (R168, R169). -/
def Hall.tick (h : Hall) : Hall :=
  { h with partTime := h.partTime + 1, wakeTimer := runDown h.wakeTimer, curtTimer := runDown h.curtTimer }

/-- A chamber alarm line one millisecond later (R147). -/
def AlarmLine.tick (l : AlarmLine) : AlarmLine := { l with timer := runDown l.timer }

/-- The board one millisecond later: in READY time runs on; in the other part states nothing is timed that the state
holds. -/
def tick (s : State) : State :=
  if s.part = .ready then
    { s with
      link := { s.link with holdTimer := runDown s.link.holdTimer }
      chans := s.chans.map Channel.tick
      arb := s.arb.tick
      prot := { s.prot with lines := s.prot.lines.map AlarmLine.tick }
      hall := s.hall.tick }
  else s

end Sys2Proof.Machine
end

