-- ==== Sys2Proof/Machine/Step.lean ====
section
/-! DEFINITION. One step of the board: the command at the front of the queue is taken; with none waiting a millisecond
passes. -/
namespace Sys2Proof.Machine

/-- The command at the front of the queue, with the rest of the queue waiting; on an empty queue a millisecond passes
(log 2). -/
def step (s : State) : Host.Outcome State Fault Refusal :=
  match s.pending with
  | i :: rest => exec i { s with pending := rest }
  | [] => .next (tick s)

/-- The state with the command a word spells put at the front of the queue; the same state where it spells none. -/
def State.withFetchWord (s : State) (nbits w : Nat) : State :=
  match decodeTableWord nbits w with
  | some i => { s with pending := i :: s.pending }
  | none => s

end Sys2Proof.Machine
end

