-- ==== Sys2Proof/Machine/Sending.lean ====
section
/-! DEFINITION. The bytes of the frames the board sends on the control link: the kind codes of replies and reports, the
leading bytes of their bodies (R184, R189), the REFUSED detail, and the bodies whose every field has a place and a size in
the manual. The bytes of a body are `none` where the manual does not fix them (log 16): a list whose length field is not
given, an absent field whose form is not given, a name or a number whose size is not given. In the frame they are then a
free value. -/

/-- The bytes of an OK reply's data that the manual does not lay out (log 16). -/
opaque Sys2Proof.Config.replyFields : Sys2Proof.Machine.ReplyBody → List Sys2Proof.Byte

/-- The bytes of a report's own fields that the manual does not lay out (log 16). -/
opaque Sys2Proof.Config.reportFields : Sys2Proof.Machine.ReportBody → List Sys2Proof.Byte

namespace Sys2Proof.Machine

/-! ### Codes (R184 and the control link chapter's wire layouts) -/

/-- A channel state's code. -/
def ChState.code : ChState → Nat
  | .idle => 1
  | .gap => 2
  | .deferred => 3
  | .starting => 4
  | .running => 5
  | .held => 6
  | .stopping => 7
  | .complete => 8
  | .faulted => 9
  | .follower => 10

/-- A refusal code. -/
def RefusalCode.code : RefusalCode → Nat
  | .wrongState => 1
  | .busy => 2
  | .protectedState => 3
  | .invalid => 4
  | .unknownRequest => 5
  | .badLength => 6
  | .hallStopActive => 7
  | .hallPaused => 8
  | .stageAbsent => 9
  | .paired => 10
  | .full => 11

/-- The code of a reason of INVALID. -/
def Reason.code : Reason → Nat
  | .badChannel => 1
  | .poolRange => 2
  | .badKind => 3
  | .badField => 4
  | .markConditions => 5
  | .badCondition => 6
  | .windowRange => 7
  | .noWindow => 8
  | .noWorkingStep => 9
  | .blankStep => 10
  | .targetOutside => 11
  | .loopForward => 12
  | .emptyLoop => 13
  | .tooManyMarks => 14
  | .noEndCondition => 15
  | .voltageRange => 16
  | .voltageOrder => 17
  | .noProfileClaim => 18
  | .claimRange => 19
  | .resumeStale => 20
  | .badForm => 21
  | .badPoint => 22
  | .badLine => 23

/-- A hold cause set's mask. -/
def HoldCauses.mask (h : HoldCauses) : Nat :=
  (if h.host then 1 else 0) + (if h.curtailed then 2 else 0) + (if h.chamber then 4 else 0) +
    (if h.pause then 8 else 0) + (if h.endHold then 16 else 0)

/-- The swap pending field's code. -/
def swapCode : Option SwapKind → Nat
  | none => 0
  | some .atCycleEnd => 1
  | some .atScheduleEnd => 2

/-- A rotation group's code. -/
def groupCode : Group → Nat
  | .low => 1
  | .high => 2

/-- An excess mode's code. -/
def excessCode : ExcessMode → Nat
  | .wait => 1
  | .abort => 2

/-- A profile mode's code. -/
def profileModeCode : ProfileMode → Nat
  | .oneShot => 1
  | .repeat => 2

/-- A warn choice's code. -/
def warnCode : WarnChoice → Nat
  | .latch => 1
  | .warn => 2

/-- An alarm route's code. -/
def routeCode : Route → Nat
  | .report => 1
  | .localHold => 2
  | .direct => 3

/-- A direction's code. -/
def directionCode : Direction → Nat
  | .none => 0
  | .charge => 1
  | .discharge => 2
  | .both => 3

/-- The code of the test a CURTAILED report names. -/
def testCode : BudgetTest → Nat
  | .intake => 1
  | .return => 2

/-- A hall state's code. -/
def HallState.code : HallState → Nat
  | .active => 1
  | .pausing => 2
  | .paused => 3

/-- The code of the cause a HALL_STATE report names. -/
def HallCause.code : HallCause → Nat
  | .pauseHall => 1
  | .settled => 2
  | .host => 3
  | .timer => 4
  | .curtailEnd => 5

/-! ### Replies (R184) -/

/-- A flag or level. -/
def flagByte (b : Bool) : List Byte := leBytes 1 (if b then 1 else 0)

/-- A window: an absent one is carried as base 0 and length 0. -/
def windowBytes : Option Window → List Byte
  | none => leBytes 2 0 ++ leBytes 2 0
  | some w => leBytes 2 w.base ++ leBytes 2 w.length

/-- Four reported accounts of 8 bytes each. -/
def accountsBytes (a : Accounts) : List Byte := leBytes 8 a.qChg ++ leBytes 8 a.qDis ++ leBytes 8 a.eChg ++ leBytes 8 a.eDis

/-- Every channel setting in R188's order. DESIGN CHOICE (log 69): the claim limit takes the 2 bytes of a claim. -/
def chanSettingsBytes (x : ChanSettings) : List Byte :=
  leBytes 1 x.periodExp ++ leBytes 4 x.reversalGap ++ leBytes 4 x.continuationGap ++ leBytes 4 x.startTimeout
    ++ leBytes 2 x.claimLimit ++ leBytes 4 x.vMax ++ leBytes 4 x.vMin ++ leBytes 4 x.iMax ++ leBytesInt 2 x.tMax
    ++ leBytesInt 2 x.tMin ++ leBytes 1 (groupCode x.group) ++ leBytes 4 x.deferralLimit
    ++ leBytes 1 (excessCode x.excessMode) ++ leBytes 4 x.grantHold ++ leBytes 1 (profileModeCode x.profileMode)
    ++ leBytes 2 x.lowWater ++ leBytes 4 x.underrunLimit ++ leBytes 4 x.pairTolerance
    ++ leBytes 1 (warnCode x.warnTLow) ++ leBytes 1 (warnCode x.warnMismatch) ++ leBytes 4 x.confTimeout

/-- The six calibration values. -/
def calibrationBytes (x : Calibration) : List Byte :=
  leBytes 4 x.vGain.toNat ++ leBytes 4 x.vOffset.toNat ++ leBytes 4 x.iGain.toNat ++ leBytes 4 x.iOffset.toNat
    ++ leBytes 4 x.tGain.toNat ++ leBytes 4 x.tOffset.toNat

/-- A chamber alarm line of SET_ALARM_ROUTE's reply (R146). DESIGN CHOICE (log 56): the five fields of one line stand
together, line by line. -/
def alarmLineBytes (l : AlarmSettings × Bool × Bool) : List Byte :=
  leBytes 1 (routeCode l.1.route) ++ leBytes 1 l.1.mask.toNat ++ leBytes 4 l.1.debounce ++ flagByte l.2.1 ++ flagByte l.2.2

/-- The READ_ACCOUNTS reply (R71). -/
def accountsViewBytes (v : AccountsView) : List Byte :=
  leBytes 1 v.state.code ++ leBytes 2 v.stepIndex ++ leBytes 4 v.stepTime ++ leBytesInt 8 v.qStep ++ leBytesInt 8 v.eStep
    ++ leBytes 4 v.vPeak ++ leBytes 4 v.cycleNumber ++ accountsBytes v.cycle ++ accountsBytes v.life
    ++ flagByte v.lifeSaturated ++ leBytes 8 v.partTime

/-- A wake mask: bit 0 TIMER, bit 1 CURTAIL_END. -/
def wakeMask (byTimer byCurtail : Bool) : Nat := (if byTimer then 1 else 0) + if byCurtail then 2 else 0

/-- The rest of an OK reply's body, where the manual fixes it. A time remaining takes the 4 bytes of a millisecond duration,
and a timer that is stopped has no form, so its reply's bytes are free (log 16). DESIGN CHOICE (log 56): the alarm lines of
SET_ALARM_ROUTE's reply stand line by line. DESIGN CHOICE (log 66): the pair in SET_PAIR's reply is the leader's number and
then the follower's, 1 byte each. DEDUCED (log 70): a sum of SET_BUDGET's reply takes the 4 bytes of a power. -/
def OkData.bytes : OkData → Option (List Byte)
  | .done => some []
  | .alarmLines lines => some (lines.map alarmLineBytes).flatten
  | .hall state => some (leBytes 1 state.code)
  | .stepsWritten start count => some (leBytes 2 start ++ leBytes 2 count)
  | .steps records => some (records.map recordBytes).flatten
  | .windows active staged => some (windowBytes active ++ windowBytes staged)
  | .settings v cal => some (chanSettingsBytes v ++ calibrationBytes cal)
  | .channelSettings v => some (chanSettingsBytes v)
  | .calibration cal => some (calibrationBytes cal)
  | .started state stepIndex => some (leBytes 1 state.code ++ leBytes 2 stepIndex)
  | .stateEntered state => some (leBytes 1 state.code)
  | .holds set => some (leBytes 1 set.mask)
  | .swapPending kind => some (leBytes 1 (swapCode kind))
  | .appended count queued => some (leBytes 2 count ++ leBytes 2 queued)
  | .flushed count => some (leBytes 2 count)
  | .faults cleared remaining named state =>
    some (leBytes 2 cleared.toNat ++ leBytes 2 remaining.toNat ++ leBytes 2 named.toNat ++ leBytes 1 state.code)
  | .accounts v => some (accountsViewBytes v)
  | .pair leader follower => some (leBytes 1 leader.val ++ leBytes 1 follower.val)
  | .budgetSet b cEff curtailed sums =>
    some (leBytes 4 b.cIn ++ leBytes 4 b.cCurt ++ leBytes 4 b.cRet ++ leBytes 2 b.eta ++ leBytes 2 b.u ++ leBytes 4 cEff
      ++ flagByte curtailed ++ leBytes 4 sums.chgAll ++ leBytes 4 sums.chgLive ++ leBytes 4 sums.disAll
      ++ leBytes 4 sums.disLive)
  | .wake byTimer byCurtail (some timer) debounce state =>
    some (leBytes 1 (wakeMask byTimer byCurtail) ++ leBytes 4 timer ++ leBytes 4 debounce ++ leBytes 1 state.code)
  | .reportHold held (some remaining) queued => some (flagByte held ++ leBytes 4 remaining ++ leBytes 2 queued)
  | .identity _ _ _ _ _ _ _ _ | .status _ | .budget _ | .hallPaused _ _ | .hallResumed _ _ | .wake _ _ none _ _
  | .reportHold _ none _ | .context _ | .reading _ | .profile _ | .stage _ => none

/-- A reply's kind. -/
def ReplyBody.kind : ReplyBody → Byte
  | .ok _ => 0x80#8
  | .refused _ => 0x81#8
  | .starting => 0x82#8

/-- A refusal code and its six-byte detail: reason, index, channel, count (R184). -/
def Refused.bytes (r : Refused) : List Byte :=
  let reason := match r.reason with
    | some x => x.code
    | none => 0
  leBytes 1 r.code.code ++ leBytes 1 reason ++ leBytes 2 r.index ++ leBytes 1 r.channel ++ leBytes 2 r.count

/-- A reply's body after the request's kind. -/
def ReplyBody.rest : ReplyBody → Option (List Byte)
  | .ok data => data.bytes
  | .refused r => some r.bytes
  | .starting => some []

/-- A reply's frame (R184): the tag and channel byte of the request, and the request's kind as the body's first byte. -/
def Reply.frame (r : Reply) : Frame where
  kind := r.body.kind
  tag := r.tag
  channel := r.channel
  body := r.request :: r.body.rest.getD (Config.replyFields r.body)

/-! ### Reports (R189) -/

/-- A report's kind: from 0xA0 in the order of R189's table. -/
def ReportBody.kind : ReportBody → Byte
  | .stepEnd _ _ _ _ _ _ _ _ _ => 0xA0#8
  | .cycleEnd _ _ _ _ => 0xA1#8
  | .scheduleComplete _ _ _ _ => 0xA2#8
  | .fault _ _ _ _ _ _ _ => 0xA3#8
  | .curtailed _ _ _ => 0xA4#8
  | .profileLow _ _ _ => 0xA5#8
  | .stageDerate _ _ _ => 0xA6#8
  | .alarm _ _ _ _ => 0xA7#8
  | .hallStopAlarm _ => 0xA7#8
  | .curtail _ _ _ _ => 0xA8#8
  | .hallState _ _ _ _ _ _ _ _ => 0xA9#8
  | .settingsSaved _ _ => 0xAA#8
  | .settingsDefaulted _ => 0xAB#8
  | .reportsLost _ _ => 0xAC#8
  | .started _ _ _ _ => 0xAD#8

/-- The end reason's two bytes: position and condition kind, or 255 and 0 for PROFILE_END. -/
def endReasonBytes : EndReason → List Byte
  | .condition position kind => leBytes 1 position ++ leBytes 1 kind.code
  | .profileEnd => leBytes 1 255 ++ leBytes 1 0

/-- How many bytes the value of a FAULT report takes: the size of the quantity R137 records for the kind, where the layouts
give that quantity one. A voltage, a current and a millisecond duration take 4, a temperature 2 and a kind's code 1. DEDUCED
(log 16): the missed-period count takes the 2 bytes of a 16-bit count, a tag the 1 byte it has in the frames, and the 1, 2 or
3 of STAGE_REPORTED the 1 byte of a code. DESIGN CHOICE (log 55): a line number takes 1 byte. The 0 of HALL_STOP is of no
quantity, so its size is open. -/
def FaultKind.valueSize : FaultKind → Option Nat
  | .limitVHigh | .limitVLow | .limitI | .stageStartTimeout | .profileUnderrun | .deferLimit | .pairMismatch => some 4
  | .limitTHigh | .limitTLow | .stageSilent => some 2
  | .stageNoAck | .stageReported | .stageUnsafe | .chamberAlarm | .pairPartner => some 1
  | .hallStop => none

/-- A report's own fields, where the manual fixes them. A HALL_STATE with neither the list of a pause nor the
count of a wake, which R178 gives those changes alone, has its bytes while the wake timer runs (log 16). DEDUCED (log 70): the
amount of CURTAILED takes the 4 bytes of a power. DESIGN CHOICE (log 55): the line number of ALARM is 1 byte. -/
def ReportBody.bytes : ReportBody → Option (List Byte)
  | .stepEnd index kind reason action (some chosen) stepTime qStep eStep cycleNumber =>
    some (leBytes 2 index ++ leBytes 1 kind.code ++ endReasonBytes reason ++ leBytes 1 action.code ++ leBytes 2 chosen
      ++ leBytes 4 stepTime ++ leBytesInt 8 qStep ++ leBytesInt 8 eStep ++ leBytes 4 cycleNumber)
  | .cycleEnd cycleNumber cycle mark swapped =>
    some (leBytes 4 cycleNumber ++ accountsBytes cycle ++ leBytes 2 mark ++ flagByte swapped)
  | .scheduleComplete continuation cycleNumber cycle reason =>
    some (leBytes 1 (if continuation = .stopped then 1 else 2) ++ leBytes 4 cycleNumber ++ accountsBytes cycle
      ++ leBytes 1 (if reason = .endAction then 1 else 2))
  | .fault kind value warnOnly stepIndex stepTime latched state =>
    kind.valueSize.map fun size => leBytes 1 kind.code ++ leBytesInt size value ++ flagByte warnOnly ++ leBytes 2 stepIndex
      ++ leBytes 4 stepTime ++ leBytes 2 latched.toNat ++ leBytes 1 state.code
  | .curtailed dir amount test => some (leBytes 1 (directionCode dir) ++ leBytes 4 amount ++ leBytes 1 (testCode test))
  | .profileLow count lowWater stepIndex => some (leBytes 2 count ++ leBytes 2 lowWater ++ leBytes 2 stepIndex)
  | .stageDerate v i t => some (leBytes 4 v ++ leBytesInt 4 i ++ leBytesInt 2 t)
  | .alarm line level route mask =>
    some (leBytes 1 line.val ++ flagByte level ++ leBytes 1 (routeCode route) ++ leBytes 1 mask.toNat)
  | .curtail level cEff cIn cCurt => some (flagByte level ++ leBytes 4 cEff ++ leBytes 4 cIn ++ leBytes 4 cCurt)
  | .hallState now before cause none none byTimer byCurtail (some timer) =>
    some (leBytes 1 now.code ++ leBytes 1 before.code ++ leBytes 1 cause.code ++ leBytes 1 (wakeMask byTimer byCurtail)
      ++ leBytes 4 timer)
  | .settingsSaved ok capturedAt => some (leBytes 1 (if ok then 1 else 2) ++ leBytes 8 capturedAt)
  | .settingsDefaulted reason => some (leBytes 1 (if reason = .signature then 1 else 2))
  | .reportsLost lost lostFaults => some (leBytes 2 lost ++ leBytes 2 lostFaults)
  | _ => none

/-- A report's frame (R189): tag 0, the report's channel byte, and its sequence number and part time before its own
fields. -/
def Report.frame (r : Report) : Frame where
  kind := r.body.kind
  tag := 0#8
  channel := r.channel
  body := leBytes 4 r.seq.toNat ++ leBytes 8 r.partTime ++ r.body.bytes.getD (Config.reportFields r.body)

/-- The frame the transmitter sends for what it has chosen (R183). -/
def LinkFrame.frame : LinkFrame → Frame
  | .reply r => r.frame
  | .report r => r.frame

end Sys2Proof.Machine
end

