-- ==== Sys2Proof/Safety.lean ====
section
/-! DEFINITION. The terms claims about the board are stated in: when a request is taken as its frame ends, what an answer
is, what a command leaves alone, and the invariants of the board. -/
namespace Sys2Proof.Safety

open Sys2Proof.Machine

/-! ### Requests and answers -/

/-- The board is READY, no request waits and no reply is outstanding: a request whose frame now ends is taken in the same
event (R182). The transmitter may be free or sending a report. -/
structure LinkFree (s : State) : Prop where
  ready    : s.part = .ready
  requests : s.link.requests = []
  reply    : s.link.reply = none
  sending  : ∀ r, s.link.sending ≠ some (.reply r)

/-- The reply of a request (R184). -/
def replyTo (k : ReqKind) (r : Request) (body : ReplyBody) : Reply := ⟨r.tag, r.channel, k.code, body⟩

/-- The state with a reply on its way and nothing else changed: it is sent at once by a free transmitter and waits behind
a report being sent (R183). -/
def replied (s : State) (x : Reply) : State :=
  s.modLink fun l => if l.sending.isNone then { l with sending := some (.reply x) } else { l with reply := some x }

/-- After a command that took a request in `s`, its reply is on its way in `t` (R183, R184). -/
def Answered (s t : State) (x : Reply) : Prop :=
  if s.link.sending = none then t.link.sending = some (.reply x) ∧ t.link.reply = none
  else t.link.sending = s.link.sending ∧ t.link.reply = some x

/-- A request to a channel that is taken as its frame ends, with a body of the length given. -/
structure ToChannel (s : State) (r : Request) (c : Ch) (length : Nat) : Prop where
  free    : LinkFree s
  channel : r.channel = chByte c
  length  : r.body.length = length

/-- A request to the board as a whole that is taken as its frame ends, with a body of the length given. -/
structure ToPart (s : State) (r : Request) (length : Nat) : Prop where
  free    : LinkFree s
  channel : r.channel = partWide
  length  : r.body.length = length

/-- The requests to the board as a whole; every other kind names a channel. -/
def partWideKinds : List ReqKind :=
  [.identify, .getStatus, .getBudget, .setBudget, .setAlarmRoute, .pauseHall, .resumeHall, .setWake, .holdReports,
   .saveSettings, .resetPart, .writeSteps, .readSteps]

/-- No frame is due at the transmitter: it is sending, or it is free with no reply waiting and no report it may send
(R183). -/
def NoFrameDue (s : State) : Prop :=
  s.link.sending ≠ none ∨ (s.link.reply = none ∧ (s.link.holdTimer ≠ none ∨ s.link.reports = []))

/-- The arbiter has nothing to do: both tests hold and no evaluation is due (R90, R100). -/
def ArbiterQuiet (s : State) : Prop := testsHold s = true ∧ s.arb.evalDue = false

/-- A channel appears in none of the arbiter's collections (R88). -/
def Unlisted (s : State) (c : Ch) : Prop :=
  (∀ g ∈ s.arb.grants, g.ch ≠ c) ∧ (∀ e ∈ s.arb.waiting, e.ch ≠ c) ∧ ∀ e ∈ s.arb.resume, e.ch ≠ c

/-! ### Step records -/

/-- An end condition the record layout can hold (R4, R9). -/
structure StorableCond (e : EndCond) : Prop where
  threshold : -2 ^ 31 ≤ e.threshold ∧ e.threshold < 2 ^ 31
  confirm   : 1 ≤ e.confirm ∧ e.confirm ≤ 8
  target    : ∀ n, e.action = .goto n → n < 256

/-- A list of end conditions a record can keep (R4). -/
def StorableConds (cs : List EndCond) : Prop := cs.length ≤ 4 ∧ ∀ e ∈ cs, StorableCond e

/-- A claim or cap a record can keep (R3, R9). -/
def StorableClaim (claim : Option Nat) : Prop := ∀ n, claim = some n → n < 2 ^ 16

/-- A current cap a record can keep (R3, R9). -/
def StorableCap (cap : Option Nat) : Prop := ∀ n, cap = some n → 1 ≤ n ∧ n ≤ 420000

/-- A record whose fields are in the ranges of R9 and fit the record layout. -/
def Storable : StepRecord → Prop
  | .rest cs => StorableConds cs
  | .charge i v claim cs => 1 ≤ i ∧ i ≤ 400000 ∧ v < 2 ^ 32 ∧ StorableClaim claim ∧ StorableConds cs
  | .discharge i v claim cs => 1 ≤ i ∧ i ≤ 400000 ∧ v < 2 ^ 32 ∧ StorableClaim claim ∧ StorableConds cs
  | .chargePower p v cap claim cs =>
    1 ≤ p ∧ p ≤ 60000 ∧ v < 2 ^ 32 ∧ StorableCap cap ∧ StorableClaim claim ∧ StorableConds cs
  | .dischargePower p v cap claim cs =>
    1 ≤ p ∧ p ≤ 60000 ∧ v < 2 ^ 32 ∧ StorableCap cap ∧ StorableClaim claim ∧ StorableConds cs
  | .profile u l cap claim cs => u < 2 ^ 32 ∧ l < 2 ^ 32 ∧ StorableCap cap ∧ StorableClaim claim ∧ StorableConds cs
  | .mark target count _ => target < 256 ∧ count < 2 ^ 16

/-! ### Power-on -/

/-- A channel at its power-on values, its settings and calibration apart (R7, R20, R51, R55, R56, R69, R109, R113, R117, R128,
R136, R139, R140, R145, R156, R157, R163 to R166). No period is open. -/
structure Fresh (ch : Channel) : Prop where
  windows   : ch.active = none ∧ ch.staged = none
  state     : ch.state = .idle
  holds     : ch.holds = ⟨false, false, false, false, false⟩ ∧ ch.heldBefore = false
  step      : ch.stepIndex = 0 ∧ ch.stepTime = 0 ∧ ch.qStep = 0 ∧ ch.eStep = 0 ∧ ch.vPeak = 0 ∧ ch.confirms = [0, 0, 0, 0]
  cycle     : ch.loops = [] ∧ ch.cycleNumber = 0 ∧ ch.cycle = ⟨0, 0, 0, 0⟩ ∧ ch.lastDir = .none
  life      : ch.life = ⟨0, 0, 0, 0⟩ ∧ ch.lifeSaturated = false
  ends      : ch.swapPending = none ∧ ch.stopDest = .idle ∧ ch.resume = none ∧ ch.clamped = false
  timers    : ch.gapTimer = none ∧ ch.startTimer = none
  faults    : ch.latched = 0 ∧ ch.firstFault = none ∧ ch.unsafeFlag = false
  warned    : ch.warnedTLow = false ∧ ch.warnedMismatch = false
  last      : ch.last.v = 0 ∧ ch.last.i = 0 ∧ ch.last.t = 0 ∧ ch.last.rawV = 0 ∧ ch.last.rawI = 0 ∧ ch.last.rawT = 0 ∧
                ch.last.reg = .off ∧ ch.last.takenAt = none
  lastFlags : ch.last.fault = false ∧ ch.last.derate = false ∧ ch.last.interlock = false ∧ ch.last.overV = false ∧
                ch.last.overI = false ∧ ch.last.overT = false
  readings  : ch.held = true ∧ ch.missed = 0 ∧ ch.derateSeen = false ∧ ch.taken = false
  pack      : ch.pack.v = 0 ∧ ch.pack.i = 0 ∧ ch.pack.t = 0 ∧ ch.pack.reg = .off ∧ ch.pack.held = true ∧
                ch.pack.overV = false ∧ ch.pack.overI = false ∧ ch.pack.overT = false ∧ ch.packDone = false
  period    : ch.periodElapsed = 0 ∧ ch.periodLength = 0
  queue     : ch.queue = []
  playback  : ch.play.position = 0 ∧ ch.play.inPlay = false ∧ ch.play.played = 0 ∧ ch.play.heldCurrent = 0 ∧
                ch.play.underrun = false ∧ ch.play.underrunTimer = none ∧ ch.play.profileEnd = false ∧
                ch.play.lowArmed = false
  demands   : ch.port.outstanding = none ∧ ch.port.pending = none ∧ ch.port.lastConfirmed = none ∧
                ch.port.nextTag = 0 ∧ ch.port.confTimer = none ∧ ch.port.standing = none
  line      : ch.port.presence = .absent ∧ ch.port.queryAwaiting = false ∧ ch.port.lineErr = false ∧
                ch.port.lineErrCount = 0 ∧ ch.port.sending = none ∧ ch.port.due = [] ∧ ch.port.breaking = false

/-- The board at the start of a start-up with the settings of an image (R1, R88, R92, R168, R180, R181, R189, R190, R193,
R195, R198). The settings are loaded in that same event (the model's choice, log 19). -/
structure Begun (image : Image) (t : State) : Prop where
  stored   : t.image = image
  save     : t.saveInFlight = none
  blank    : ∀ i, poolRead t.pool i = none
  fresh    : ∀ c, Fresh (t.ch c)
  settings : ∀ c, (t.ch c).settings = (Image.load image).chans[c] ∧ (t.ch c).cal = (Image.load image).cals[c]
  budget   : t.arb.budget = (Image.load image).budget
  arbiter  : t.arb.grants = [] ∧ t.arb.waiting = [] ∧ t.arb.resume = [] ∧ t.arb.evalDue = false
  pointers : t.arb.hp = 0 ∧ t.arb.lp = (lowList t).head?
  lines    : ∀ l, (t.line l).settings = (Image.load image).alarms[l] ∧ (t.line l).filtered = false ∧
               (t.line l).timer = none
  hall     : t.hall.state = .active ∧ t.hall.pauseOrder = [] ∧ t.hall.wakeTimer = none ∧ t.hall.curtFiltered = false ∧
               t.hall.curtTimer = none ∧ t.hall.partTime = 0
  wake     : t.hall.wakeByTimer = (Image.load image).wakeByTimer ∧ t.hall.wakeByCurtail = (Image.load image).wakeByCurtail ∧
               t.hall.curtDebounce = (Image.load image).curtailDebounce
  queues   : t.link.requests = [] ∧ t.link.reply = none ∧ t.link.sending = none ∧ t.link.reports = []
  counters : t.link.nextSeq = 0 ∧ t.link.lost = false ∧ t.link.lostCount = 0 ∧ t.link.lostFaultCount = 0 ∧
               t.link.linkErr = false ∧ t.link.linkErrCount = 0 ∧ t.link.overrun = false ∧ t.link.overrunCount = 0
  waits    : t.link.holdTimer = none ∧ t.link.resetPending = false
  speed    : t.link.speed = Image.speed image

/-! ### What a command leaves alone -/

/-- What the acts of the channel unit, the arbiter and the fault path leave of a channel: its settings, calibration,
lifetime accounts, profile queue and readings, its open period but for the close being brought forward, and of its port
the presence, the last confirmed demand, the line errors and the line break. -/
structure ChFrame (a b : Channel) : Prop where
  settings      : b.settings = a.settings
  cal           : b.cal = a.cal
  life          : b.life = a.life
  lifeSaturated : b.lifeSaturated = a.lifeSaturated
  queue         : b.queue = a.queue
  last          : b.last = a.last
  held          : b.held = a.held
  missed        : b.missed = a.missed
  taken         : b.taken = a.taken
  pack          : b.pack = a.pack
  elapsed       : b.periodElapsed = a.periodElapsed
  presence      : b.port.presence = a.port.presence
  lastConfirmed : b.port.lastConfirmed = a.port.lastConfirmed
  lineErr       : b.port.lineErr = a.port.lineErr
  lineErrCount  : b.port.lineErrCount = a.port.lineErrCount
  breaking      : b.port.breaking = a.port.breaking

/-- What the budget arbiter's handling of other channels leaves of a channel's run: windows, step and cycle figures, loop
table, swap, resume point, faults, playback but for its timer, and the causes HOST, CHAMBER, PAUSE and END_HOLD. Its state
may move only among GAP, DEFERRED, STARTING, RUNNING and HELD. -/
structure RunFrame (a b : Channel) : Prop where
  active      : b.active = a.active
  staged      : b.staged = a.staged
  stepIndex   : b.stepIndex = a.stepIndex
  stepTime    : b.stepTime = a.stepTime
  qStep       : b.qStep = a.qStep
  eStep       : b.eStep = a.eStep
  vPeak       : b.vPeak = a.vPeak
  confirms    : b.confirms = a.confirms
  loops       : b.loops = a.loops
  cycleNumber : b.cycleNumber = a.cycleNumber
  cycle       : b.cycle = a.cycle
  swapPending : b.swapPending = a.swapPending
  stopDest    : b.stopDest = a.stopDest
  resume      : b.resume = a.resume
  latched     : b.latched = a.latched
  firstFault  : b.firstFault = a.firstFault
  unsafeFlag  : b.unsafeFlag = a.unsafeFlag
  warnedTLow  : b.warnedTLow = a.warnedTLow
  warnedMismatch : b.warnedMismatch = a.warnedMismatch
  derateSeen  : b.derateSeen = a.derateSeen
  position    : b.play.position = a.play.position
  inPlay      : b.play.inPlay = a.play.inPlay
  played      : b.play.played = a.play.played
  heldCurrent : b.play.heldCurrent = a.play.heldCurrent
  underrun    : b.play.underrun = a.play.underrun
  profileEnd  : b.play.profileEnd = a.play.profileEnd
  lowArmed    : b.play.lowArmed = a.play.lowArmed
  host        : b.holds.host = a.holds.host
  chamber     : b.holds.chamber = a.holds.chamber
  pause       : b.holds.pause = a.holds.pause
  endHold     : b.holds.endHold = a.holds.endHold
  holdable    : b.state.holdable = a.state.holdable
  still       : a.state.holdable = false → b.state = a.state

/-- What they leave of the board: part state, image and save in flight, step pool, the five budget settings, hall lines
and their settings, the hall record but for the hall state, every channel's frame, and the link's requests, counters and
report hold. -/
structure BoardFrame (s t : State) : Prop where
  part         : t.part = s.part
  image        : t.image = s.image
  saveInFlight : t.saveInFlight = s.saveInFlight
  pool         : t.pool = s.pool
  budget       : t.arb.budget = s.arb.budget
  prot         : t.prot = s.prot
  hall         : t.hall = { s.hall with state := t.hall.state }
  chans        : ∀ c, ChFrame (s.ch c) (t.ch c)
  requests     : t.link.requests = s.link.requests
  counters     : t.link.linkErrCount = s.link.linkErrCount ∧ t.link.overrunCount = s.link.overrunCount
  holdTimer    : t.link.holdTimer = s.link.holdTimer
  pending      : t.pending = s.pending

/-- A kind that latches newly in a channel outside a pair that is not FAULTED has been dealt with (R42, R138, R140, R141): the
set, the first-fault record, the resume point of an engaged channel (without a window where it has none, the model's choice,
log 41), no cause, swap or running timer of the run, no grant and no entry, OFF demanded, FAULTED, and a FAULT report, the
first the event makes. -/
structure FaultTaken (s t : State) (c : Ch) (k : FaultKind) (value : Int) : Prop where
  latched  : (t.ch c).latched = addKind (s.ch c).latched k
  first    : (t.ch c).firstFault = if (s.ch c).latched = 0 then
               some ⟨k, (s.ch c).stepIndex, (s.ch c).stepTime, value, s.hall.partTime⟩ else (s.ch c).firstFault
  state    : (t.ch c).state = .faulted
  resume   : (t.ch c).resume = if (s.ch c).state ∈ [.gap, .deferred, .starting, .running, .held, .stopping] then
               some ⟨(s.ch c).active, (s.ch c).stepIndex, (s.ch c).stepTime, (s.ch c).qStep, (s.ch c).eStep, (s.ch c).vPeak,
                 (s.ch c).loops, (s.ch c).cycleNumber, (s.ch c).cycle, (s.ch c).lastDir⟩ else (s.ch c).resume
  cleared  : (t.ch c).holds = ⟨false, false, false, false, false⟩ ∧ (t.ch c).heldBefore = false ∧
               (t.ch c).swapPending = none ∧ (t.ch c).gapTimer = none ∧ (t.ch c).startTimer = none ∧
               (t.ch c).play.underrunTimer = none
  unlisted : Unlisted t c
  demand   : (t.ch c).port.standing = some ⟨.off, 0, 0, 0⟩
  report   : s.link.sending ≠ none → s.link.reports.length ≤ 32 → ∃ rest, t.link.reports = s.link.reports ++
               ⟨s.link.nextSeq, s.hall.partTime, chByte c, .fault k value false (s.ch c).stepIndex (s.ch c).stepTime
                 (addKind (s.ch c).latched k) .faulted⟩ :: rest

/-- A kind other than PAIR_PARTNER that latches newly in the member a of a pair, b being the other and l the leader, both
latched sets empty before, has been passed on (R131): the kind in a and PAIR_PARTNER in b, each with its first-fault record,
the second with the kind's code; the leader FAULTED as R42 gives, the resume point of an engaged one without a window where it
has none (the model's choice, log 41), the follower FOLLOWER still, OFF handed to both ports; and
two FAULT reports, the first the event makes, where no pause is settling. -/
structure PairFaultTaken (s t : State) (l a b : Ch) (k : FaultKind) (value : Int) : Prop where
  kind     : (t.ch a).latched = addKind 0 k ∧
               (t.ch a).firstFault = some ⟨k, (s.ch a).stepIndex, (s.ch a).stepTime, value, s.hall.partTime⟩
  passed   : (t.ch b).latched = addKind 0 .pairPartner ∧ (t.ch b).firstFault =
               some ⟨.pairPartner, (s.ch b).stepIndex, (s.ch b).stepTime, k.code, s.hall.partTime⟩
  states   : (t.ch l).state = .faulted ∧ (t.ch (partner l)).state = .follower
  resume   : (t.ch l).resume = if (s.ch l).state ∈ [.gap, .deferred, .starting, .running, .held, .stopping] then
               some ⟨(s.ch l).active, (s.ch l).stepIndex, (s.ch l).stepTime, (s.ch l).qStep, (s.ch l).eStep, (s.ch l).vPeak,
                 (s.ch l).loops, (s.ch l).cycleNumber, (s.ch l).cycle, (s.ch l).lastDir⟩ else (s.ch l).resume
  cleared  : (t.ch l).holds = ⟨false, false, false, false, false⟩ ∧ (t.ch l).heldBefore = false ∧
               (t.ch l).swapPending = none ∧ (t.ch l).gapTimer = none ∧ (t.ch l).startTimer = none ∧
               (t.ch l).play.underrunTimer = none
  unlisted : Unlisted t l
  demands  : ∀ d, d = l ∨ d = partner l → (t.ch d).port.standing = some ⟨.off, 0, 0, 0⟩
  reports  : s.hall.state ≠ .pausing → s.link.sending ≠ none → s.link.reports.length ≤ 32 → ∃ rest,
               t.link.reports = s.link.reports ++
                 ⟨s.link.nextSeq, s.hall.partTime, chByte a, .fault k value false (s.ch a).stepIndex (s.ch a).stepTime
                   (t.ch a).latched (t.ch a).state⟩ ::
                 ⟨s.link.nextSeq + 1, s.hall.partTime, chByte b, .fault .pairPartner k.code false (s.ch b).stepIndex
                   (s.ch b).stepTime (t.ch b).latched (t.ch b).state⟩ :: rest

/-! ### Invariants -/

/-- A port's demand record hangs together: an ABSENT port has no outstanding demand (R158, R164, R166), and the
confirmation timer runs only for an outstanding demand (R159, R160). -/
structure PortSound (p : Port) : Prop where
  absent : p.presence = .absent → p.outstanding = none
  timed  : p.confTimer ≠ none → p.outstanding ≠ none

/-- The bounded collections are within their bounds: 4 requests (R181), 64 reports (R190), 512 profile points a channel
(R109); and the step pool keeps its canonical form, with indices below 1,024 (R1). -/
structure Bounded (s : State) : Prop where
  requests : s.link.requests.length ≤ 4
  reports  : s.link.reports.length ≤ 64
  queues   : ∀ c, (s.ch c).queue.length ≤ 512
  pool     : poolWf s.pool = true

/-- Every port's demand record hangs together. -/
def PortsSound (s : State) : Prop := ∀ c, PortSound (s.port c)

/-- A channel's settings are within their ranges, V_min and T_min not above V_max and T_max (R6, R20, R49, R94, R98,
R110, R130, R134, R167). -/
structure InRange (x : ChanSettings) : Prop where
  periodExp       : x.periodExp ≤ 4
  reversalGap     : 20 ≤ x.reversalGap ∧ x.reversalGap ≤ 10000
  continuationGap : x.continuationGap ≤ 10000
  startTimeout    : 100 ≤ x.startTimeout ∧ x.startTimeout ≤ 5000
  claimLimit      : 1 ≤ x.claimLimit ∧ x.claimLimit ≤ 60000
  voltage         : x.vMin ≤ x.vMax ∧ x.vMax ≤ 125000
  iMax            : x.iMax ≤ 420000
  temperature     : -500 ≤ x.tMin ∧ x.tMin ≤ x.tMax ∧ x.tMax ≤ 2000
  deferralLimit   : 1000 ≤ x.deferralLimit ∧ x.deferralLimit ≤ 3600000
  grantHold       : x.grantHold ≤ 600000
  lowWater        : x.lowWater ≤ 511
  underrunLimit   : x.underrunLimit ≤ 10000
  pairTolerance   : 10 ≤ x.pairTolerance ∧ x.pairTolerance ≤ 5000
  confTimeout     : 5 ≤ x.confTimeout ∧ x.confTimeout ≤ 500

/-- The budget settings are within their ranges, C_curt not above C_in (R86). -/
structure BudgetInRange (b : BudgetSettings) : Prop where
  cIn   : b.cIn ≤ 400000
  cCurt : b.cCurt ≤ b.cIn
  cRet  : b.cRet ≤ 400000
  eta   : 800 ≤ b.eta ∧ b.eta ≤ 1000
  u     : b.u ≤ 1000

/-- Every setting in force is within its range (R86, R134, R146, R168, R188, R194). -/
structure SettingsInRange (s : State) : Prop where
  chans    : ∀ c, InRange (s.ch c).settings
  budget   : BudgetInRange s.arb.budget
  alarms   : ∀ l, 10 ≤ (s.line l).settings.debounce ∧ (s.line l).settings.debounce ≤ 5000
  debounce : s.hall.curtDebounce ≤ 10000

/-- A channel's fault record hangs together. Outside FOLLOWER a channel is FAULTED exactly while its latched set is not empty
(R138, R43), and a set that is not empty holds the first-fault kind (R138, R142). Only an odd channel is a follower (R123);
its set is empty while its leader is not FAULTED, and while it holds more than PAIR_PARTNER its leader holds PAIR_PARTNER
(R131, R132, R143). While the hall stop line is asserted in READY every channel holds HALL_STOP (R152, R153), and in STARTING
every channel is IDLE (R195). -/
structure FaultsSound (s : State) : Prop where
  faulted  : ∀ c, (s.ch c).state ≠ .follower → ((s.ch c).state = .faulted ↔ (s.ch c).latched ≠ 0)
  first    : ∀ c, (s.ch c).latched ≠ 0 → ∃ f, (s.ch c).firstFault = some f ∧ hasKind (s.ch c).latched f.kind = true
  noFirst  : ∀ c, (s.ch c).latched = 0 → (s.ch c).firstFault = none
  follower : ∀ c, (s.ch c).state = .follower → c.val % 2 = 1 ∧
               ((s.ch (partner c)).state ≠ .faulted → (s.ch c).latched = 0) ∧
               (dropKind (s.ch c).latched .pairPartner ≠ 0 → hasKind (s.ch (partner c)).latched .pairPartner = true)
  hallStop : s.part = .ready → s.prot.hallStop = true → ∀ c, hasKind (s.ch c).latched .hallStop = true
  starting : s.part = .starting → ∀ c, (s.ch c).state = .idle

/-- The channels that appear in the arbiter's collections, once for each grant, waiting entry and resume entry. -/
def listed (s : State) : List Ch := s.arb.grants.map Grant.ch ++ s.arb.waiting.map Entry.ch ++ s.arb.resume.map Entry.ch

/-- The arbiter between events: both tests hold and no evaluation is due (the laws of R85 and R100); a channel appears at
most once across the collections, and only in GAP, DEFERRED, STARTING, RUNNING or HELD (the law of R88), in the waiting set
only in GAP or DEFERRED (R88, R89); and outside an ACTIVE hall the collections are empty, the pause order names a channel
once, and every channel that could need a grant is HELD with PAUSE (R170, R171). -/
structure ArbiterSound (s : State) : Prop where
  tests  : testsHold s = true
  quiet  : s.arb.evalDue = false
  once   : (listed s).Nodup
  states : ∀ c ∈ listed s, (s.ch c).state ∈ [.gap, .deferred, .starting, .running, .held]
  waits  : ∀ e ∈ s.arb.waiting, (s.ch e.ch).state ∈ [.gap, .deferred]
  paused : s.hall.state ≠ .active → listed s = [] ∧ (s.hall.pauseOrder.map PauseEntry.ch).Nodup ∧
             ∀ c, (s.ch c).state ∈ [.gap, .deferred, .starting, .running, .held] →
               (s.ch c).state = .held ∧ (s.ch c).holds.pause = true

/-- Every pool index of a window holds a record. -/
def Filled (s : State) (w : Window) : Prop := ∀ k, k < w.length → poolRead s.pool (w.base + k) ≠ none

/-- A channel's run hangs together. A window that is not absent lies in the pool, 1 to 256 records long (R7). The active
window of a channel in GAP, DEFERRED, STARTING, RUNNING or HELD, and the staged window of one with a swap pending, hold no
blank record (R10, R16, R39); a swap is pending only while the channel is engaged (R38, R39, R42). In those five states the
step index lies within the active window and designates a step that is not a MARK (the law of R31). The counter of a loop
entry at a MARK stays below a loop count above 0 while the channel is engaged (the law of R30). -/
structure RunsSound (s : State) : Prop where
  windows : ∀ c w, (s.ch c).active = some w ∨ (s.ch c).staged = some w →
              1 ≤ w.length ∧ w.length ≤ 256 ∧ w.base + w.length ≤ 1024
  active  : ∀ c w, (s.ch c).state ∈ [.gap, .deferred, .starting, .running, .held] → (s.ch c).active = some w → Filled s w
  swap    : ∀ c, (s.ch c).swapPending ≠ none →
              (s.ch c).state ∈ [.gap, .deferred, .starting, .running, .held, .stopping]
  staged  : ∀ c w, (s.ch c).swapPending ≠ none → (s.ch c).staged = some w → Filled s w
  index   : ∀ c, (s.ch c).state ∈ [.gap, .deferred, .starting, .running, .held] → ∃ w x, (s.ch c).active = some w ∧
              (s.ch c).stepIndex < w.length ∧ poolRead s.pool (w.base + (s.ch c).stepIndex) = some x ∧ x.kind ≠ .mark
  loops   : ∀ c w e target count cyc, (s.ch c).state ∈ [.gap, .deferred, .starting, .running, .held, .stopping] →
              (s.ch c).active = some w → e ∈ (s.ch c).loops → e.index < w.length →
              poolRead s.pool (w.base + e.index) = some (.mark target count cyc) → 0 < count → e.counter < count

/-- A channel is STARTING, or RUNNING a step that is not REST. -/
def Working (s : State) (c : Ch) : Prop :=
  (s.ch c).state = .starting ∨ (s.ch c).state = .running ∧ ∃ x, currentStep s c = some x ∧ x.kind ≠ .rest

/-- A channel that is STARTING or RUNNING a step that is not REST holds a grant, which is not idle; and the demand last handed
to a port is a REGULATE only while the port's channel, or its leader, is one of those (the law of R46). -/
structure DemandsSound (s : State) : Prop where
  granted : ∀ c, Working s c → ∃ g, grantOf s c = some g ∧ g.hold = none
  demands : ∀ c d, (s.ch c).port.standing = some d → d.mode = .regulate → Working s (leaderOf s c)

/-- An account within the limit of R69 has not fallen and is still within it. -/
def Grown (a b : Nat) : Prop := min a accountLimit ≤ b ∧ (a ≤ accountLimit → b ≤ accountLimit)

/-- No account within its limit has fallen. -/
structure AccountsLe (a b : Accounts) : Prop where
  qChg : Grown a.qChg b.qChg
  qDis : Grown a.qDis b.qDis
  eChg : Grown a.eChg b.eChg
  eDis : Grown a.eDis b.eDis

/-! ### The end of a step -/

/-- The figures a channel outside a pair works its period with, those of its last reading (R54). -/
def lastFigures (ch : Channel) : Figures := ⟨ch.last.v, ch.last.i, ch.last.t, ch.last.reg⟩

/-- A RUNNING channel outside a pair, its stage PRESENT, as the opening of the next period and stages 1 to 4 leave it, its
period taken or missed without STAGE_SILENT (R51, R54, R55, R61, R64 to R68). -/
def worked (ch : Channel) : Channel :=
  let dq : Int := ch.last.i * ch.periodLength
  let de : Int := powerOf ch.last.v ch.last.i * ch.periodLength
  { ch with
    stepTime := min 4294967295 (ch.stepTime + ch.periodLength)
    qStep := satAddInt ch.qStep dq
    eStep := satAddInt ch.eStep de
    cycle := ch.cycle.feed dq de
    life := ch.life.feed dq de
    lifeSaturated := ch.lifeSaturated || ch.life.saturates dq de
    vPeak := if ch.taken then max ch.vPeak ch.last.v else ch.vPeak
    held := if ch.taken then ch.held else true
    missed := if ch.taken then ch.missed else ch.missed + 1
    taken := false
    packDone := false
    periodElapsed := 0
    periodLength := 10 * 2 ^ ch.settings.periodExp
    port := ch.port.openPeriod }

/-- A leader RUNNING with both stages PRESENT, as stages 2 to 4 leave it on a pack reading, its pack period taken or missed
(R54, R61, R64 to R68, R128). -/
def workedPack (ch : Channel) (p : PackReading) (taken : Bool) : Channel :=
  let dq : Int := p.i * ch.periodLength
  let de : Int := powerOf p.v p.i * ch.periodLength
  { ch with
    stepTime := min 4294967295 (ch.stepTime + ch.periodLength)
    qStep := satAddInt ch.qStep dq
    eStep := satAddInt ch.eStep de
    cycle := ch.cycle.feed dq de
    life := ch.life.feed dq de
    lifeSaturated := ch.lifeSaturated || ch.life.saturates dq de
    vPeak := if taken then max ch.vPeak p.v else ch.vPeak }

/-- A period event ends the step x of a channel outside a pair (R29, R54, R74): RUNNING with its stage PRESENT in an ACTIVE
hall, its period taken or missed without STAGE_SILENT, and the condition e at position i the first in the list whose counter
has reached its count. A PROFILE step's point goes on playing. -/
structure StepFires (s : State) (c : Ch) (w : Window) (x : StepRecord) (i : Nat) (e : EndCond) : Prop where
  ready   : s.part = .ready
  single  : paired s c = false
  running : (s.ch c).state = .running
  hall    : s.hall.state = .active
  settled : (s.ch c).taken = true ∨ (s.ch c).missed < 2
  present : (s.ch c).port.presence = .present
  window  : (s.ch c).active = some w
  step    : currentStep s c = some x
  plays   : x.kind = .profile → (s.ch c).play.inPlay = true ∧
              ∃ p, playPoint (s.ch c) = some p ∧ (s.ch c).play.played + 1 < p.duration
  fires   : firstFired 0 x.conds (stepCounters (worked (s.ch c)) (lastFigures (s.ch c)) (s.ch c).taken x.conds
              (s.ch c).confirms) = some (i, e)
  arbiter : ArbiterSound s

/-- Both tests hold without the credit of a channel's grant (R83, R85), so that the end of its step sheds nothing (R97). -/
def CreditSpared (s : State) (c : Ch) : Prop :=
  withinCeilings s.arb.budget (cEffOf s)
    (s.arb.grants.map fun g => if g.ch = c then { g with live := false } else g) = true

/-- A step end of a channel, `a` with its period worked, has landed on the step y at window index k, which is prepared (R22):
its figures start from zero and the last direction stands until the step starts. After a HOLD action the channel is HELD
before the step with END_HOLD; otherwise a REST step is RUNNING, and any other is in GAP with the gap of R22, a gap of 0
ending at once (R26): STARTING where a grant covers the step, and DEFERRED with an entry otherwise. -/
structure Landed (a : Channel) (t : State) (c : Ch) (k : Nat) (y : StepRecord) (hold : Prop) : Prop where
  index   : (t.ch c).stepIndex = k
  figures : (t.ch c).stepTime = 0 ∧ (t.ch c).qStep = 0 ∧ (t.ch c).eStep = 0 ∧ (t.ch c).vPeak = 0 ∧
              (t.ch c).confirms = [0, 0, 0, 0]
  dir     : (t.ch c).lastDir = if (t.ch c).state = .starting then y.dir else a.lastDir
  demand  : (t.ch c).state ≠ .starting → (t.ch c).clamped = false ∧ (t.ch c).port.standing = some ⟨.idle, 0, 0, 0⟩
  before  : (t.ch c).heldBefore = true ↔ hold ∨ a.heldBefore = true
  holds   : hold → (t.ch c).state = .held ∧ (t.ch c).holds.endHold = true
  rest    : ¬hold → y.kind = .rest → (t.ch c).state = .running
  gap     : ¬hold → y.kind ≠ .rest → gapFor a y ≠ 0 → (t.ch c).state = .gap ∧ (t.ch c).gapTimer = some (gapFor a y)
  noGap   : ¬hold → y.kind ≠ .rest → gapFor a y = 0 → (t.ch c).gapTimer = none ∧
              ((t.ch c).state = .starting ∧ holdsCover t c y = true ∨
                (t.ch c).state = .deferred ∧ ∃ e ∈ t.arb.waiting ++ t.arb.resume, e.ch = c)
  stands  : (t.ch c).latched = a.latched ∧ (t.ch c).queue = a.queue ∧ (t.ch c).last = a.last ∧ (t.ch c).life = a.life ∧
              (t.ch c).settings = a.settings

end Sys2Proof.Safety
end

