-- ==== Sys2Proof/WellFormed.lean ====
section
/-! DEFINITION. The commands that can be sent: a frame's body is one a frame can hold (R180), and the kind byte of
UNKNOWN_REQUEST names no request (R182). The rest of a command's operands are of types that have no other value. -/
namespace Sys2Proof.WellFormed

open Sys2Proof.Machine

/-- The largest body a control link frame can hold (R180). -/
def bodyLimit : Nat := 1024

/-- A body a frame can hold. -/
def bodyFits (body : List Byte) : Bool := decide (body.length ≤ bodyLimit)

/-- A kind byte that names no request kind. -/
def kindUnknown (kind : Byte) : Bool := (ReqKind.ofCode kind).isNone

/-- Whether a command can be sent. -/
def instr : Instr → Bool
  | .controlFrame f => bodyFits f.body
  | .unknownRequest kind r => kindUnknown kind && bodyFits r.body
  | .identify r => bodyFits r.body
  | .getStatus r => bodyFits r.body
  | .getBudget r => bodyFits r.body
  | .setBudget r => bodyFits r.body
  | .setAlarmRoute r => bodyFits r.body
  | .pauseHall r => bodyFits r.body
  | .resumeHall r => bodyFits r.body
  | .setWake r => bodyFits r.body
  | .holdReports r => bodyFits r.body
  | .saveSettings r => bodyFits r.body
  | .resetPart r => bodyFits r.body
  | .writeSteps r => bodyFits r.body
  | .readSteps r => bodyFits r.body
  | .setWindow r => bodyFits r.body
  | .getChannel r => bodyFits r.body
  | .setChannel r => bodyFits r.body
  | .setCalibration r => bodyFits r.body
  | .start r => bodyFits r.body
  | .stop r => bodyFits r.body
  | .hold r => bodyFits r.body
  | .release r => bodyFits r.body
  | .swap r => bodyFits r.body
  | .cancelSwap r => bodyFits r.body
  | .profileAppend r => bodyFits r.body
  | .profileFlush r => bodyFits r.body
  | .clearFaults r => bodyFits r.body
  | .readAccounts r => bodyFits r.body
  | .clearLifetime r => bodyFits r.body
  | .setPair r => bodyFits r.body
  | .unpair r => bodyFits r.body
  | .resetChannel r => bodyFits r.body
  | .resetStageLine r => bodyFits r.body
  | .powerOn | .startUpEnd | .badFrame _ | .controlByteGapTimeout | .controlFrameWhollySent | .lineBreakEnd _
  | .stageFrameWhollySent _ | .confirm _ _ | .reading _ _ _ | .stageBadFrame _ _ | .stageByteGapTimeout _
  | .confirmationTimerExpiry _ | .periodEvent _ | .gapTimerExpiry _ | .startTimerExpiry _ | .grantHoldExpiry _
  | .waitTimerExpiry _ | .underrunTimerExpiry _ | .hallStopAssert | .hallStopDeassert | .chamberAlarmLineChange _ _
  | .alarmDebounceExpiry _ | .curtailmentLineChange _ | .curtailDebounceExpiry | .wakeTimerExpiry | .reportHoldExpiry
  | .settingsSaveEnd _ | .powerLoss => true

end Sys2Proof.WellFormed
end

