-- ==== Sys2Proof/Certificates/Slice0/Obligations.lean ====
section
/-! DEFINITION. The statements for the provers. Each is a proposition about the model, named for what it states; its
docstring names the rule of spec/ it formalises, and says where a clause is the model's own choice. -/

open Sys2Proof Sys2Proof.Machine Sys2Proof.Safety

/-! ### Steps, power and start-up -/

/-- A step takes the command at the front of the queue and gives `exec` the rest. On an empty queue a millisecond passes (the
model's choice, log 2): in READY part time advances by 1 (R169), every running timer runs down and stays at 0, those of the
channels, the ports, the lines, the hall, the link, and the arbiter's wait timers and grant-hold timers (R94, R98), and
nothing else moves but the open periods; outside READY nothing changes. -/
def Obligations.StepTakesFront : Prop :=
  (∀ (i : Instr) (q : List Instr) (s : State), step { s with pending := i :: q } = exec i { s with pending := q }) ∧
  (∀ s : State, s.pending = [] → s.part ≠ .ready → step s = .next s) ∧
  (∀ s : State, s.pending = [] → s.part = .ready → ∃ t, step s = .next t ∧
    t.hall = { s.hall with
      partTime := s.hall.partTime + 1
      wakeTimer := s.hall.wakeTimer.map (· - 1)
      curtTimer := s.hall.curtTimer.map (· - 1) } ∧
    t.link = { s.link with holdTimer := s.link.holdTimer.map (· - 1) } ∧
    t.pool = s.pool ∧ t.image = s.image ∧ t.saveInFlight = s.saveInFlight ∧ t.part = .ready ∧ t.pending = [] ∧
    t.startCause = s.startCause ∧ t.freeCount = s.freeCount ∧ t.prot.hallStop = s.prot.hallStop ∧
    t.arb = { s.arb with
      grants := s.arb.grants.map fun g => { g with hold := g.hold.map (· - 1) }
      waiting := s.arb.waiting.map fun e => { e with timer := e.timer.map (· - 1) }
      resume := s.arb.resume.map fun e => { e with timer := e.timer.map (· - 1) } } ∧
    (∀ l, t.line l = { s.line l with timer := (s.line l).timer.map (· - 1) }) ∧
    (∀ c, t.ch c = { s.ch c with
      periodElapsed := if (s.ch c).state = .follower then (s.ch c).periodElapsed else (s.ch c).periodElapsed + 1
      gapTimer := (s.ch c).gapTimer.map (· - 1)
      startTimer := (s.ch c).startTimer.map (· - 1)
      play := { (s.ch c).play with underrunTimer := (s.ch c).play.underrunTimer.map (· - 1) }
      port := { (s.ch c).port with confTimer := (s.ch c).port.confTimer.map (· - 1) } }))

/-- Every command has a next state and leaves the commands that wait as they are: none faults and none is refused. -/
def Obligations.EveryCommandCompletes : Prop :=
  ∀ (i : Instr) (s : State), ∃ t, exec i s = .next t ∧ t.pending = s.pending

/-- POWER_ON and POWER_LOSS. The supply failing loses everything but the store; a save it cuts short leaves the image bad
(R197), with contents the manual does not give (log 6). Power applied begins a start-up: every piece of state takes its
power-on value and the settings are loaded from the image (R195), in that same event (the model's choice, log 19). A board
that has power is taken to have lost it first (the model's choice, log 17). The levels of the hall lines are the lines' own
(log 14). START_UP_END (R195): the odd members of the stored pairs are in FOLLOWER, part time stands at 0, every channel has
a standby period of 1,000 ms open, and the part is READY, whatever the hall lines show. With every hall line deasserted the
reports made are SETTINGS_DEFAULTED, where the image was bad, and STARTED, numbered in that order, and the transmitter takes
up the first. Outside STARTING the command changes nothing (the model's choice, log 14). An image is judged by its signature,
then by its CRC-16 over every other byte of it (R194); the bytes are not laid out by the manual (log 49). -/
def Obligations.PowerAndStartUp : Prop :=
  ((∀ s : State, s.saveInFlight = none →
    (∃ t, exec .powerOn s = .next t ∧ t.part = .starting ∧ t.startCause = .powerOn ∧ Begun s.image t) ∧
    (∃ t, exec .powerLoss s = .next t ∧ t.part = .off ∧ Begun s.image t)) ∧
  (∀ (s : State) (x : SaveInFlight), s.saveInFlight = some x →
    (∃ t, exec .powerOn s = .next t ∧ t.part = .starting ∧ t.startCause = .powerOn ∧ Image.judge t.image ≠ none ∧
      Begun t.image t) ∧
    (∃ t, exec .powerLoss s = .next t ∧ t.part = .off ∧ Image.judge t.image ≠ none ∧ Begun t.image t)) ∧
  (∀ s t : State, exec .powerOn s = .next t ∨ exec .powerLoss s = .next t →
    t.prot.hallStop = s.prot.hallStop ∧ t.hall.curtRaw = s.hall.curtRaw ∧ ∀ l, (t.line l).raw = (s.line l).raw)) ∧
  ((∀ s : State, s.part ≠ .starting → exec .startUpEnd s = .next s) ∧
  (∀ s : State, s.part = .starting → ∃ t, exec .startUpEnd s = .next t ∧
    t.part = .ready ∧ t.hall.partTime = 0 ∧ t.pool = s.pool ∧ t.image = s.image ∧
    (∀ c, (t.ch c).periodLength = 1000 ∧ (t.ch c).periodElapsed = 0 ∧ (t.ch c).taken = false) ∧
    (∀ p : Fin 4, (Image.load s.image).pairs[p] = true → (t.ch (oddMember p)).state = .follower) ∧
    (∀ c, (t.ch c).state = .follower → (s.ch c).state = .follower ∨
      ∃ p : Fin 4, c = oddMember p ∧ (Image.load s.image).pairs[p] = true)) ∧
  (∀ x : Image, Image.judge x =
    if x.signature ≠ .c8 then some .signature
    else if x.crc ≠ crc16 (Config.imageBytes x.signature x.stored) then some .check else none) ∧
  (∀ s : State, s.part = .starting → s.link.reports = [] → s.link.reply = none → s.link.sending = none →
    s.link.holdTimer = none → s.link.lost = false → s.prot.hallStop = false → (∀ l, (s.line l).raw = false) →
    s.hall.curtRaw = s.hall.curtFiltered → ∃ t, exec .startUpEnd s = .next t ∧
      (∀ reason, Image.judge s.image = some reason →
        t.link.sending = some (.report ⟨s.link.nextSeq, 0, partWide, .settingsDefaulted reason⟩) ∧
        t.link.reports = [⟨s.link.nextSeq + 1, 0, partWide,
          .started s.startCause true Config.firmwareMajor Config.firmwareMinor⟩]) ∧
      (Image.judge s.image = none →
        t.link.sending = some (.report ⟨s.link.nextSeq, 0, partWide,
          .started s.startCause false Config.firmwareMajor Config.firmwareMinor⟩) ∧
        t.link.reports = [])))

/-! ### The control link -/

/-- CONTROL_FRAME while a reply is outstanding and the transmitter is busy: the frame joins the request queue at its tail
while the queue holds fewer than 4, and is discarded otherwise, with the overrun flag set and the overrun count up by one,
saturating at 65,535 (R181). BAD_FRAME and CONTROL_BYTE_GAP_TIMEOUT set the link error flag and add 1 to the link error
count, which saturates at 65,535, and change nothing else (R180). A board without power, or halted by a RESET_PART that waits
for a save, counts nothing (the model's choice for the first, log 14; R198 for the second). STAGE_BAD_FRAME, whatever the
cause, and STAGE_BYTE_GAP_TIMEOUT in READY: the line error flag is set and the count goes up by one, saturating at 65,535,
and nothing else changes (R155, R165). -/
def Obligations.FramesArrive : Prop :=
  (∀ (f : Frame) (s : State), (s.part = .ready ∨ s.part = .starting) → f.body.length ≤ 1024 →
    ((∃ x, s.link.sending = some (.reply x)) ∨ (s.link.sending ≠ none ∧ s.link.reply ≠ none)) →
    exec (.controlFrame f) s = .next (s.modLink fun l =>
      if l.requests.length < 4 then { l with requests := l.requests ++ [f] }
      else { l with overrun := true, overrunCount := min 65535 (l.overrunCount + 1) })) ∧
  ((∀ (cause : BadFrameCause) (s : State),
    (s.part = .ready ∨ s.part = .starting →
      exec (.badFrame cause) s =
        .next (s.modLink fun l => { l with linkErr := true, linkErrCount := min 65535 (l.linkErrCount + 1) }) ∧
      exec .controlByteGapTimeout s =
        .next (s.modLink fun l => { l with linkErr := true, linkErrCount := min 65535 (l.linkErrCount + 1) })) ∧
    (s.part = .off ∨ s.part = .halted →
      exec (.badFrame cause) s = .next s ∧ exec .controlByteGapTimeout s = .next s)) ∧
  (∀ (s : State) (c : Ch) (cause : StageBadCause), s.part = .ready → NoFrameDue s →
    let t := s.modCh c fun ch =>
      { ch with port := { ch.port with lineErr := true, lineErrCount := min 65535 (ch.port.lineErrCount + 1) } }
    exec (.stageBadFrame c cause) s = .next t ∧ exec (.stageByteGapTimeout c) s = .next t))

/-- CONTROL_FRAME_WHOLLY_SENT with no request waiting: the transmitter sends the waiting reply first; otherwise, in READY
with reports not held back, the report at the head of the queue; otherwise it stays idle (R183, R193, R196). A report that
leaves 48 behind it while the lost flag is set makes REPORTS_LOST, which carries both counts, clears them and enters at the
tail (R191). CONTROL_FRAME_WHOLLY_SENT with requests waiting: the head of the queue is taken once no reply is outstanding,
and its reply carries its tag, channel byte and kind (R182, R184); while a reply is still to be sent, that reply goes and no
request is taken. The request taken does what it does when its frame arrives on a link with no request waiting: the event is
the transmitter's own choice of the next frame, as above, and then that frame's CONTROL_FRAME, the rest of the queue
standing. A report that waits is sent before the reply of the request taken in the same event (the model's choice, log 18).
-/
def Obligations.FrameSent : Prop :=
  (∀ (s : State) (f : LinkFrame), s.link.sending = some f → s.link.resetPending = false → s.link.requests = [] →
    (∀ y, s.link.reply = some y →
      exec .controlFrameWhollySent s =
        .next (s.modLink fun l => { l with reply := none, sending := some (.reply y) })) ∧
    (s.link.reply = none → (s.part ≠ .ready ∨ s.link.holdTimer ≠ none ∨ s.link.reports = []) →
      exec .controlFrameWhollySent s = .next (s.modLink fun l => { l with sending := none })) ∧
    (∀ r rest, s.link.reply = none → s.part = .ready → s.link.holdTimer = none → s.link.reports = r :: rest →
      (rest.length ≠ 48 ∨ s.link.lost = false) →
      exec .controlFrameWhollySent s =
        .next (s.modLink fun l => { l with reports := rest, sending := some (.report r) })) ∧
    (∀ r rest, s.link.reply = none → s.part = .ready → s.link.holdTimer = none → s.link.reports = r :: rest →
      rest.length = 48 → s.link.lost = true →
      exec .controlFrameWhollySent s =
        .next (s.modLink fun l =>
          { l with
            reports := rest ++ [⟨l.nextSeq, s.hall.partTime, partWide, .reportsLost l.lostCount l.lostFaultCount⟩]
            nextSeq := l.nextSeq + 1
            lost := false
            lostCount := 0
            lostFaultCount := 0
            sending := some (.report r) }))) ∧
  (∀ (s : State) (f : LinkFrame) (g : Frame) (rest : List Frame), s.part = .ready → s.link.sending = some f →
    s.link.resetPending = false → s.link.requests = g :: rest →
    (s.link.reply = none → ∃ t body, exec .controlFrameWhollySent s = .next t ∧ t.link.requests = rest ∧
      if s.link.holdTimer = none ∧ s.link.reports ≠ [] then
        (∃ r, s.link.reports.head? = some r ∧ t.link.sending = some (.report r)) ∧
        t.link.reply = some ⟨g.tag, g.channel, g.kind, body⟩
      else t.link.sending = some (.reply ⟨g.tag, g.channel, g.kind, body⟩) ∧ t.link.reply = none) ∧
    (∀ y, s.link.reply = some y → ∃ t, exec .controlFrameWhollySent s = .next t ∧ t.link.requests = g :: rest ∧
      t.link.sending = some (.reply y) ∧ t.link.reply = none)) ∧
  (∀ (s : State) (f : LinkFrame) (g : Frame) (rest : List Frame), s.part = .ready ∨ s.part = .starting →
    s.link.sending = some f → s.link.resetPending = false → s.link.reply = none → s.link.requests = g :: rest →
    g.body.length ≤ 1024 →
    ∃ u, exec .controlFrameWhollySent (s.modLink fun l => { l with requests := [] }) = .next u ∧
      ∃ t, exec (.controlFrame g) u = .next t ∧
      exec .controlFrameWhollySent s = .next (t.modLink fun l => { l with requests := rest }))

/-- RESET_PART: the reply is OK and nothing else happens before it has been wholly sent; then the start-up begins with cause
RESET_PART, from power-on values and the image in the store, waiting requests and reports gone; while a save is in flight the
board halts instead and waits for the write to end (R198). The settings are loaded in the event that begins the start-up (the
model's choice, log 19). -/
def Obligations.ResetPart : Prop :=
  (∀ (r : Request) (s : State), ToPart s r 0 →
    exec (.resetPart r) s =
      .next (replied (s.modLink fun l => { l with resetPending := true }) (replyTo .resetPart r (.ok .done)))) ∧
  (∀ (s : State) (x : Reply), s.link.sending = some (.reply x) → s.link.resetPending = true →
    (s.saveInFlight = none → ∃ t, exec .controlFrameWhollySent s = .next t ∧ t.part = .starting ∧
      t.startCause = .resetPart ∧ Begun s.image t) ∧
    (∀ y, s.saveInFlight = some y → ∃ t, exec .controlFrameWhollySent s = .next t ∧ t.part = .halted ∧
      t.saveInFlight = some y ∧ t.link.requests = [] ∧ t.link.sending = none))

/-- A report that is made takes the next sequence number, whether it is queued or dropped (R189), and enters the report queue
by the drop rule (R190): at the tail while the queue holds fewer than 64; at 64 a non-fault report is dropped, a fault report
removes the oldest non-fault report, and a fault report that finds none is dropped. A drop sets the lost flag and adds to the
counts, which saturate at 65,535. HOLD_REPORTS (R193) and REPORT_HOLD_EXPIRY: a duration from 1 holds reports back for it, 0
ends any hold, and the reply carries the hold state, the time remaining and the queue count; at the expiry the hold ends and
a free transmitter with nothing else to send begins on the head of the queue. -/
def Obligations.ReportQueue : Prop :=
  (∀ (l : Link) (now : Nat) (channel : Byte) (body : ReportBody),
    let r : Report := ⟨l.nextSeq, now, channel, body⟩
    let t := l.make now channel body
    t.nextSeq = l.nextSeq + 1 ∧
    (l.reports.length < 64 → t.reports = l.reports ++ [r] ∧ t.lost = l.lost ∧ t.lostCount = l.lostCount ∧
      t.lostFaultCount = l.lostFaultCount) ∧
    (64 ≤ l.reports.length → t.lost = true ∧ t.lostCount = min 65535 (l.lostCount + 1) ∧
      (r.isFault = false → t.reports = l.reports ∧ t.lostFaultCount = l.lostFaultCount) ∧
      (∀ a x b, r.isFault = true → l.reports = a ++ x :: b → (∀ y ∈ a, y.isFault = true) → x.isFault = false →
        t.reports = a ++ b ++ [r] ∧ t.lostFaultCount = l.lostFaultCount) ∧
      (r.isFault = true → (∀ y ∈ l.reports, y.isFault = true) →
        t.reports = l.reports ∧ t.lostFaultCount = min 65535 (l.lostFaultCount + 1)))) ∧
  ((∀ (r : Request) (s : State), ToPart s r 2 →
    let n := field r.body 0 2
    let timer := if n = 0 then none else some n
    exec (.holdReports r) s = .next (replied (s.modLink fun l => { l with holdTimer := timer })
      (replyTo .holdReports r (.ok (.reportHold (decide (n ≠ 0)) timer s.link.reports.length))))) ∧
  (∀ s : State, s.part = .ready → s.link.holdTimer ≠ none →
    (s.link.sending ≠ none ∨ s.link.reports = [] ∧ s.link.reply = none →
      exec .reportHoldExpiry s = .next (s.modLink fun l => { l with holdTimer := none })) ∧
    (∀ r rest, s.link.sending = none → s.link.reply = none → s.link.reports = r :: rest → rest.length ≠ 48 →
      exec .reportHoldExpiry s = .next (s.modLink fun l =>
        { l with holdTimer := none, reports := rest, sending := some (.report r) }))))

/-! ### Requests in general -/

/-- A request row is the frame of that request ending whole on the control link (the model's reading of the rows, log 2): its
kind byte is the code the control link chapter's frame layout gives the request. A kind byte names a request exactly when it
is 0x01 to 0x0B, 0x10 to 0x12 or 0x20 to 0x31. UNKNOWN_REQUEST, taken at once on a free link: the reply is REFUSED with code
UNKNOWN_REQUEST, with the kind, tag and channel byte echoed, and nothing else changes (R182, R184). In STARTING every request
but IDENTIFY, and every unknown kind, is answered STARTING and not executed (R196). -/
def Obligations.RequestFrames : Prop :=
  (∀ (r : Request) (s : State),
    let frame := fun kind : Byte => exec (.controlFrame ⟨kind, r.tag, r.channel, r.body⟩) s
    exec (.identify r) s = frame 0x01 ∧ exec (.getStatus r) s = frame 0x02 ∧ exec (.getBudget r) s = frame 0x03 ∧
    exec (.setBudget r) s = frame 0x04 ∧ exec (.setAlarmRoute r) s = frame 0x05 ∧ exec (.pauseHall r) s = frame 0x06 ∧
    exec (.resumeHall r) s = frame 0x07 ∧ exec (.setWake r) s = frame 0x08 ∧ exec (.holdReports r) s = frame 0x09 ∧
    exec (.saveSettings r) s = frame 0x0A ∧ exec (.resetPart r) s = frame 0x0B ∧
    exec (.writeSteps r) s = frame 0x10 ∧ exec (.readSteps r) s = frame 0x11 ∧ exec (.setWindow r) s = frame 0x12 ∧
    exec (.getChannel r) s = frame 0x20 ∧ exec (.setChannel r) s = frame 0x21 ∧ exec (.setCalibration r) s = frame 0x22 ∧
    exec (.start r) s = frame 0x23 ∧ exec (.stop r) s = frame 0x24 ∧ exec (.hold r) s = frame 0x25 ∧
    exec (.release r) s = frame 0x26 ∧ exec (.swap r) s = frame 0x27 ∧ exec (.cancelSwap r) s = frame 0x28 ∧
    exec (.profileAppend r) s = frame 0x29 ∧ exec (.profileFlush r) s = frame 0x2A ∧
    exec (.clearFaults r) s = frame 0x2B ∧ exec (.readAccounts r) s = frame 0x2C ∧
    exec (.clearLifetime r) s = frame 0x2D ∧ exec (.setPair r) s = frame 0x2E ∧ exec (.unpair r) s = frame 0x2F ∧
    exec (.resetChannel r) s = frame 0x30 ∧ exec (.resetStageLine r) s = frame 0x31 ∧
    ∀ kind, exec (.unknownRequest kind r) s = frame kind) ∧
  ((∀ kind : Byte, ReqKind.ofCode kind = none ↔
    ¬(0x01 ≤ kind.toNat ∧ kind.toNat ≤ 0x0B ∨ 0x10 ≤ kind.toNat ∧ kind.toNat ≤ 0x12 ∨
      0x20 ≤ kind.toNat ∧ kind.toNat ≤ 0x31)) ∧
  (∀ (kind : Byte) (r : Request) (s : State), ReqKind.ofCode kind = none → r.body.length ≤ 1024 →
    (LinkFree s → exec (.unknownRequest kind r) s =
      .next (replied s ⟨r.tag, r.channel, kind, .refused ⟨.unknownRequest, none, 0, 0, 0⟩⟩))) ∧
  (∀ (f : Frame) (s : State), f.body.length ≤ 1024 → s.part = .starting → s.link.requests = [] → s.link.reply = none →
    (∀ x, s.link.sending ≠ some (.reply x)) → f.kind ≠ 0x01 →
    exec (.controlFrame f) s = .next (replied s ⟨f.tag, f.channel, f.kind, .starting⟩)))

/-- The first checks of every request (R8 to R198 where they name them, R184 otherwise): a body whose length is not the
layout's is refused BAD_LENGTH; then a request to the board must carry channel byte 0xFF and a request to a channel 0 to 7,
or it is refused INVALID with reason BAD_CHANNEL. Nothing but the reply changes. The index 0 of these refusals is log 24's
(R184), and the 7 bytes of SET_ALARM_ROUTE are log 55's, the layout giving a line number no size, and the 62 bytes of
SET_CHANNEL, with 2 for the claim limit, log 69's, the model's choices. A request that is answered REFUSED changes nothing
but its reply, for every kind; FULL is the one exception, where R111 gives the part that was done (R184). -/
def Obligations.RequestsRefused : Prop :=
  (∀ (k : ReqKind) (r : Request) (s : State), LinkFree s → r.body.length ≤ 1024 →
    (k.lengthOk r.body.length = false → exec (.controlFrame (k.frame r)) s =
      .next (replied s (replyTo k r (.refused ⟨.badLength, none, 0, 0, 0⟩)))) ∧
    (k.lengthOk r.body.length = true →
      (k ∈ partWideKinds ∧ r.channel ≠ 0xFF) ∨ (k ∉ partWideKinds ∧ 8 ≤ r.channel.toNat) →
      exec (.controlFrame (k.frame r)) s =
        .next (replied s (replyTo k r (.refused ⟨.invalid, some .badChannel, 0, 0, 0⟩))))) ∧
  (∀ (k : ReqKind) (r : Request) (s t : State) (d : Refused), LinkFree s → r.body.length ≤ 1024 →
    exec (.controlFrame (k.frame r)) s = .next t → Answered s t (replyTo k r (.refused d)) → d.code ≠ .full →
    t = replied s (replyTo k r (.refused d)))

/-! ### Requests that read -/

/-- IDENTIFY (R185) in READY and in STARTING: the reply carries the names, the serial number, the firmware version, the part
state, the link speed in force and the part time, and nothing changes. GET_STATUS (R186): the reply holds the figures as they
stand, each channel's part in a pair among them, and a request that asks for it (1 in its byte) clears the link error and
overrun flags and counts after the reply has taken their values; nothing else changes. GET_BUDGET (R108): the reply holds the
grant list oldest first with each grant's figures of R84, the resume queue head first, the waiting set whole and in the order
the next walk would take, the ring, each channel's group, both pointers, the sums of R85, both left-hand sides, the ceilings
and the settings; nothing changes. The ring is the HIGH channels in ascending number and then, when some channel is LOW, the
LOW slot; the walk goes once round it from hp, the slot standing for the LOW channels from lp (R92, R93). An entry whose wait
timer has run out shows no time remaining (the model's choice, log 48). READ_STEPS (R12), with the checks of the length, the
channel byte and the range: the reply carries the records at the consecutive pool indices as they stand, and nothing changes.
In the reply each record stands in the 64-byte record layout: a blank one as zeros, and of any other the presence bits show
the claim, the cap and the goto targets it keeps and no others; a claim reads as it was written, and 0 where it was absent.
The index 0 of a refusal is the model's choice (log 24). -/
def Obligations.BoardReads : Prop :=
  ((∀ (r : Request) (s : State), r.channel = 0xFF → r.body = [] → (s.part = .ready ∨ s.part = .starting) →
     s.link.requests = [] → s.link.reply = none → (∀ x, s.link.sending ≠ some (.reply x)) →
     exec (.identify r) s = .next (replied s (replyTo .identify r (.ok (.identity "Brestal" "Vorund C8"
       Config.serialNumber Config.firmwareMajor Config.firmwareMinor s.part s.link.speed s.hall.partTime))))) ∧
   (∀ (r : Request) (s : State), ToPart s r 1 → ∃ v : StatusView,
     v.partTime = s.hall.partTime ∧ v.speed = s.link.speed ∧ v.hall.state = s.hall.state ∧
     v.hall.wakeByTimer = s.hall.wakeByTimer ∧ v.hall.wakeByCurtail = s.hall.wakeByCurtail ∧
     v.hall.wakeTimer = s.hall.wakeTimer ∧ v.hall.curtRaw = s.hall.curtRaw ∧
     v.hall.curtFiltered = s.hall.curtFiltered ∧ v.hall.curtDebounce = s.hall.curtDebounce ∧
     (s.hall.state = .active → v.hall.pauseOrder = none) ∧
     (s.hall.state ≠ .active → v.hall.pauseOrder = some s.hall.pauseOrder) ∧
     v.hallStop = s.prot.hallStop ∧
     v.lines = [((s.line 0).raw, (s.line 0).filtered), ((s.line 1).raw, (s.line 1).filtered),
       ((s.line 2).raw, (s.line 2).filtered), ((s.line 3).raw, (s.line 3).filtered)] ∧
     v.channels.length = 8 ∧
     (∀ c : Ch, ∃ x, v.channels[c.val]? = some x ∧ x.state = (s.ch c).state ∧ x.latched = (s.ch c).latched ∧
       x.presence = (s.ch c).port.presence ∧ x.lineErr = (s.ch c).port.lineErr ∧
       x.pair = (if (s.ch c).state = .follower then .follower
         else if c.val % 2 = 0 ∧ (s.ch (partner c)).state = .follower then .leader else .single)) ∧
     v.linkErr = s.link.linkErr ∧ v.linkErrCount = s.link.linkErrCount ∧ v.overrun = s.link.overrun ∧
     v.overrunCount = s.link.overrunCount ∧ v.lost = s.link.lost ∧ v.reportCount = s.link.reports.length ∧
     v.holdTimer = s.link.holdTimer ∧ v.saveInFlight = s.saveInFlight.isSome ∧
     (r.body = [0] → exec (.getStatus r) s = .next (replied s (replyTo .getStatus r (.ok (.status v))))) ∧
     (r.body = [1] → exec (.getStatus r) s =
       .next (replied (s.modLink fun l =>
         { l with linkErr := false, linkErrCount := 0, overrun := false, overrunCount := 0 })
         (replyTo .getStatus r (.ok (.status v))))))) ∧
  (∀ (r : Request) (s : State), ToPart s r 0 → ∃ v : BudgetView,
     let all : List Ch := [0, 1, 2, 3, 4, 5, 6, 7]
     let inGroup := fun g => all.filter fun c => (s.ch c).settings.group = g
     let ring : List (Option Ch) := (inGroup .high).map some ++ (if inGroup .low = [] then [] else [none])
     let lowTurn :=
       match s.arb.lp with
       | none => inGroup .low
       | some p => (inGroup .low).filter (fun c => p ≤ c) ++ (inGroup .low).filter (fun c => c < p)
     let walk := ((ring.drop s.arb.hp ++ ring.take s.arb.hp).map fun p =>
       match p with
       | some c => [c]
       | none => lowTurn).flatten
     let shown := fun e : Entry => (⟨e.ch, e.dir, e.claim, e.mark, s.hall.partTime - e.lodgedAt, e.timer⟩ : EntryView)
     v.grants = s.arb.grants.map (fun g => ⟨g.ch, g.dir, g.amount, lcOf s.arb.budget.eta g.amount,
       ldOf s.arb.budget.eta g.amount, g.live, g.hold⟩) ∧
     v.resume = s.arb.resume.map shown ∧
     v.waiting = (walk.map fun c => (s.arb.waiting.filter fun e => e.ch = c).map shown).flatten ∧
     (∀ e ∈ s.arb.waiting, shown e ∈ v.waiting) ∧ v.ring = ring ∧
     v.groups = all.map (fun c => (s.ch c).settings.group) ∧
     v.hp = s.arb.hp ∧ v.lp = s.arb.lp ∧ v.sums = sumsOf s.arb.budget.eta s.arb.grants ∧
     v.intake = (v.sums.chgAll : Int) - (v.sums.disLive * s.arb.budget.u / 1000 : Nat) ∧
     v.returned = (v.sums.disAll : Int) - (v.sums.chgLive * s.arb.budget.u / 1000 : Nat) ∧
     v.cEff = (if s.hall.curtFiltered then s.arb.budget.cCurt else s.arb.budget.cIn) ∧ v.cRet = s.arb.budget.cRet ∧
     v.curtailed = s.hall.curtFiltered ∧ v.settings = s.arb.budget ∧
     exec (.getBudget r) s = .next (replied s (replyTo .getBudget r (.ok (.budget v))))) ∧
  ((∀ (r : Request) (s : State), LinkFree s → r.body.length ≤ 1024 →
     let start := field r.body 0 2
     let count := field r.body 2 2
     exec (.readSteps r) s = .next (replied s (replyTo .readSteps r
       (if r.body.length ≠ 4 then .refused ⟨.badLength, none, 0, 0, 0⟩
       else if r.channel ≠ 0xFF then .refused ⟨.invalid, some .badChannel, 0, 0, 0⟩
       else if 1 ≤ count ∧ count ≤ 15 ∧ start + count ≤ 1024 then
         .ok (.steps ((List.range count).map fun i => poolRead s.pool (start + i)))
       else .refused ⟨.invalid, some .poolRange, 0, 0, 0⟩)))) ∧
   (∀ rs : List (Option StepRecord), (ReplyBody.ok (.steps rs)).rest = some (rs.map recordBytes).flatten) ∧
   recordBytes none = List.replicate 64 0 ∧
   (∀ x : StepRecord, (recordBytes (some x)).take 2 =
     [BitVec.ofNat 8 x.kind.code,
       BitVec.ofNat 8 ((if x.declared.isSome then 1 else 0) + (if x.cap.isSome then 2 else 0) + targetBits 2 x.conds)] ∧
     (x.declared = none → field (recordBytes (some x)) 24 2 = 0) ∧
     (∀ n, x.declared = some n → n < 65536 → field (recordBytes (some x)) 24 2 = n)))

/-- READ_ACCOUNTS (R71), with its checks in order: the channel's accounts as they stand, each charge and energy figure
divided by 3,600 and truncated toward zero (R70); nothing changes, in any channel state. GET_CHANNEL (R187, R122): each of
the five sections shows every figure the rules list for it, as it stands; the lifetime-saturated flag stands in CONTEXT (R69
names no section; the model's choice, log 42); a resume point recorded without a window shows none (log 41); any other
section code is refused INVALID with reason BAD_FORM, with index 0 (R184; log 24); nothing changes. -/
def Obligations.ChannelReads : Prop :=
  (∀ (r : Request) (s : State), LinkFree s → r.body.length ≤ 1024 →
    let answers := fun body => exec (.readAccounts r) s = .next (replied s (replyTo .readAccounts r body))
    if r.body.length ≠ 0 then answers (.refused ⟨.badLength, none, 0, 0, 0⟩)
    else (8 ≤ r.channel.toNat → answers (.refused ⟨.invalid, some .badChannel, 0, 0, 0⟩)) ∧
      ∀ c : Ch, r.channel = chByte c →
        let ch := s.ch c
        answers (.ok (.accounts
          { state := ch.state, stepIndex := ch.stepIndex, stepTime := ch.stepTime, qStep := ch.qStep.tdiv 3600,
            eStep := ch.eStep.tdiv 3600, vPeak := ch.vPeak, cycleNumber := ch.cycleNumber,
            cycle := ⟨ch.cycle.qChg / 3600, ch.cycle.qDis / 3600, ch.cycle.eChg / 3600, ch.cycle.eDis / 3600⟩,
            life := ⟨ch.life.qChg / 3600, ch.life.qDis / 3600, ch.life.eChg / 3600, ch.life.eDis / 3600⟩,
            lifeSaturated := ch.lifeSaturated, partTime := s.hall.partTime }))) ∧
  (∀ (r : Request) (s : State) (c : Ch), ToChannel s r c 1 →
    let ch := s.ch c
    let p := ch.port
    let leads : Bool := c.val % 2 = 0 ∧ (s.ch (partner c)).state = .follower
    let position := if ch.settings.profileMode = .repeat then ch.play.position else 0
    let shown := fun a : Accounts => (⟨a.qChg / 3600, a.qDis / 3600, a.eChg / 3600, a.eDis / 3600⟩ : Accounts)
    let answers := fun body => exec (.getChannel r) s = .next (replied s (replyTo .getChannel r body))
    (r.body = [1] → answers (.ok (.context
      { state := ch.state, holds := ch.holds, heldBefore := ch.heldBefore, stepIndex := ch.stepIndex,
        stepTime := ch.stepTime, qStep := ch.qStep.tdiv 3600, eStep := ch.eStep.tdiv 3600, vPeak := ch.vPeak,
        confirms := ch.confirms, loops := ch.loops, cycleNumber := ch.cycleNumber, cycle := shown ch.cycle,
        lifeSaturated := ch.lifeSaturated, active := ch.active, staged := ch.staged, swapPending := ch.swapPending,
        stopDest := ch.stopDest,
        grant := (s.arb.grants.find? fun g => g.ch = c).map fun g => (g.dir, g.amount), clamped := ch.clamped,
        latched := ch.latched, firstFault := ch.firstFault, unsafeFlag := ch.unsafeFlag, warnedTLow := ch.warnedTLow,
        warnedMismatch := ch.warnedMismatch,
        resume := ch.resume.map fun x =>
          { window := x.window, stepIndex := x.stepIndex, stepTime := x.stepTime, qStep := x.qStep.tdiv 3600,
            eStep := x.eStep.tdiv 3600, vPeak := x.vPeak, loops := x.loops, cycleNumber := x.cycleNumber,
            cycle := shown x.cycle, lastDir := x.lastDir },
        gapTimer := ch.gapTimer, startTimer := ch.startTimer,
        pair := if ch.state = .follower then .follower else if leads then .leader else .single }))) ∧
    (r.body = [2] → answers (.ok (.reading
      ⟨ch.last, ch.held, ch.missed, ch.derateSeen, if leads then some ch.pack else none⟩))) ∧
    (r.body = [3] → answers (.ok (.profile
      { mode := ch.settings.profileMode, count := ch.queue.length, lowWater := ch.settings.lowWater,
        lowArmed := ch.play.lowArmed, underrunLimit := ch.settings.underrunLimit, position := position,
        inPlay := ch.play.inPlay, played := ch.play.played, duration := ch.queue[position]?.map Point.duration,
        heldCurrent := ch.play.heldCurrent, underrun := ch.play.underrun, underrunTimer := ch.play.underrunTimer,
        profileEnd := ch.play.profileEnd }))) ∧
    (r.body = [4] → answers (.ok (.stage ⟨p.presence, p.outstanding, p.pending, p.lastConfirmed, p.nextTag, p.confTimer,
      p.standing, p.queryAwaiting, p.lineErr, p.lineErrCount⟩))) ∧
    (r.body = [5] → answers (.ok (.settings ch.settings ch.cal))) ∧
    (∀ x : Byte, r.body = [x] → x = 0 ∨ 6 ≤ x.toNat → answers (.refused ⟨.invalid, some .badForm, 0, 0, 0⟩)))

/-! ### The schedule store -/

/-- WRITE_STEPS (R8, R9, R11): with the start and the records in range, no index protected and every record's form good, each
index from the start on holds its record and every other index stands; and the refusals, in the order of the checks. The form
of a record's 64 bytes is judged by R9's table: BAD_KIND, then BAD_FIELD by the kind, then MARK_CONDITIONS or BAD_CONDITION;
a MARK with any end conditions, more than 4 among them, is MARK_CONDITIONS (the model's choice, log 60); a record of good
form has the kind of its byte. The index 0 of BAD_CHANNEL is log 24's (R184). The law of R10: whatever command is taken, a
record in the active window of an engaged channel, or in the staged window of a channel with a swap pending, is not changed,
unless the board starts up or loses power. -/
def Obligations.WriteSteps : Prop :=
  ((∀ bs : List Byte,
    let kind := field bs 0 1
    let count := field bs 2 1
    let outside := fun low high n : Nat => n < low ∨ high < n
    let badCap : Prop := (field bs 1 1).testBit 1 = true ∧ outside 1 420000 (field bs 20 4)
    let badField : Prop := (kind = 2 ∨ kind = 3) ∧ outside 1 400000 (field bs 4 4) ∨
      (kind = 4 ∨ kind = 5) ∧ (outside 1 60000 (field bs 8 4) ∨ badCap) ∨ kind = 6 ∧ badCap
    let badCondition : Prop := 4 < count ∨ ∃ i : Fin 4, i.val < count ∧
      (outside 1 8 (field bs (32 + 8 * i) 1) ∨ outside 1 4 (field bs (33 + 8 * i) 1) ∨
        outside 1 8 (field bs (34 + 8 * i) 1) ∨
        field bs (33 + 8 * i) 1 = 2 ∧ (field bs 1 1).testBit (2 + i) = false)
    let faults := fun reason => recordOf bs = .error reason
    (faults .badKind ↔ outside 1 7 kind) ∧ (faults .badField ↔ badField) ∧
    (faults .markConditions ↔ kind = 7 ∧ count ≠ 0) ∧
    (faults .badCondition ↔ 1 ≤ kind ∧ kind ≤ 6 ∧ ¬badField ∧ badCondition) ∧
    (¬outside 1 7 kind → ¬badField → ¬(kind = 7 ∧ count ≠ 0) → ¬(kind ≠ 7 ∧ badCondition) →
      ∃ x, recordOf bs = .ok x ∧ x.kind.code = kind)) ∧
  ∀ (r : Request) (s : State) (n : Nat), LinkFree s → r.channel = 0xFF → poolWf s.pool = true → 1 ≤ n → n ≤ 15 →
    r.body.length = 2 + 64 * n →
    let start := field r.body 0 2
    let answers := fun body => exec (.writeSteps r) s = .next (replied s (replyTo .writeSteps r body))
    (1024 < start + n → answers (.refused ⟨.invalid, some .poolRange, start, 0, 0⟩)) ∧
    (∀ (i : Nat) (c : Ch), start + n ≤ 1024 → start ≤ i → i < start + n → protects s c i = true →
      (∀ j d, start ≤ j → j < i → protects s d j = false) → (∀ d, d < c → protects s d i = false) →
      answers (.refused ⟨.protectedState, none, i, c.val, 0⟩)) ∧
    (start + n ≤ 1024 → (∀ i c, start ≤ i → i < start + n → protects s c i = false) →
      (∀ (k : Nat) (reason : Reason), k < n → recordOf ((r.body.drop (2 + 64 * k)).take 64) = .error reason →
        (∀ j < k, ∃ x, recordOf ((r.body.drop (2 + 64 * j)).take 64) = .ok x) →
        answers (.refused ⟨.invalid, some reason, start + k, 0, 0⟩)) ∧
      (∀ records : List StepRecord, records.length = n →
        (∀ k x, records[k]? = some x → recordOf ((r.body.drop (2 + 64 * k)).take 64) = .ok x) →
        ∃ pool, exec (.writeSteps r) s =
            .next (replied { s with pool := pool } (replyTo .writeSteps r (.ok (.stepsWritten start n)))) ∧
          ∀ i, poolRead pool i =
            if start ≤ i ∧ i < start + n then records[i - start]? else poolRead s.pool i))) ∧
  (∀ (i : Instr) (s t : State) (c : Ch) (w : Window) (k : Nat), poolWf s.pool = true → exec i s = .next t →
    ((s.ch c).state ∈ [.gap, .deferred, .starting, .running, .held, .stopping] ∧ (s.ch c).active = some w ∨
      (s.ch c).swapPending ≠ none ∧ (s.ch c).staged = some w) →
    w.base ≤ k → k < w.base + w.length →
    poolRead t.pool k = poolRead s.pool k ∨ t.part = .starting ∨ t.part = .off)

/-- Validation (R15, R16) and claims (R6). An absent window is NO_WINDOW; one without a record of a kind other than MARK is
NO_WORKING_STEP at index 0; otherwise the first record, by window index, that fails a check of the table gives its first
failing reason and its index, and a window none of whose records fails passes. A claim is the declared one, or that of R6's
table with the quotient rounded up; the channel uses no more than its claim limit, a leader no more than both members'
(R133). -/
def Obligations.Validation : Prop :=
  ∀ (s : State) (c : Ch),
    let set := (s.ch c).settings
    let limit := if isLeader s c then set.claimLimit + (s.ch (partner c)).settings.claimLimit else set.claimLimit
    let claim : StepRecord → Nat := fun x => x.declared.getD
      (match x with
      | .charge i upper _ _ => (upper * i + 999999) / 1000000
      | .discharge i _ _ _ => (set.vMax * i + 999999) / 1000000
      | .chargePower p _ _ _ _ => p
      | .dischargePower p _ _ _ _ => p
      | _ => 0)
    let outside : Nat → Option Reason := fun n => if n < 1 ∨ limit < n then some .claimRange else none
    (∀ x : StepRecord, claimOf s c x = min (claim x) limit) ∧ validate s c none = some (.noWindow, 0) ∧
    ∀ w : Window,
      let row := fun k => poolRead s.pool (w.base + k)
      let works := fun k : Nat => (row k).any fun x => decide (x.kind ≠ .mark)
      let marks := fun k : Nat => (row k).any fun x => decide (x.kind = .mark)
      let targets : StepRecord → List Nat := fun x =>
        match x with
        | .mark target _ _ => [target]
        | _ => (x.conds.map fun e => match e.action with | .goto n => [n] | _ => []).flatten
      let fault : Nat → Option Reason := fun k =>
        match row k with
        | none => some .blankStep
        | some x =>
          if (targets x).any fun n => decide (w.length ≤ n) then some .targetOutside
          else
            match x with
            | .mark target _ _ =>
              if k ≤ target then some .loopForward
              else if ∀ j, j < k → target ≤ j → works j = false then some .emptyLoop
              else if 8 < ((List.range (k + 1)).filter marks).length then some .tooManyMarks
              else none
            | _ =>
              if x.conds = [] then some .noEndCondition
              else if x.voltages.any fun v => decide (125000 < v) then some .voltageRange
              else
                match x with
                | .rest _ => none
                | .profile upper lower _ declared _ =>
                  if upper < lower then some .voltageOrder
                  else if declared = none then some .noProfileClaim
                  else outside (claim x)
                | _ => outside (claim x)
      ((∀ k, k < w.length → works k = false) → validate s c (some w) = some (.noWorkingStep, 0)) ∧
      ((∃ k, k < w.length ∧ works k = true) →
        ((∀ k, k < w.length → fault k = none) → validate s c (some w) = none) ∧
        ∀ i reason, i < w.length → fault i = some reason → (∀ j, j < i → fault j = none) →
          validate s c (some w) = some (reason, i))

/-- SET_WINDOW (R13), with its checks in order: the chosen window takes the new value, a length of 0 making it absent
whatever the base, and the reply carries both windows as they then stand. Nothing is validated and nothing else changes. The
index 0 of an INVALID refusal is log 24's (R184). SWAP (R39) and CANCEL_SWAP (R41), with their checks in order. An IDLE
channel exchanges its windows; an engaged one has the swap pending with the kind carried. CANCEL_SWAP leaves none pending.
Nothing else changes. An accepted SWAP of an engaged channel is answered OK without data (the model's choice, log 16), and
the index 0 of BAD_FORM is log 24's (R184). -/
def Obligations.Windows : Prop :=
  (∀ (r : Request) (s : State), LinkFree s → r.body.length = 5 →
    let choice := field r.body 0 1
    let base := field r.body 1 2
    let length := field r.body 3 2
    let answers := fun t body => exec (.setWindow r) s = .next (replied t (replyTo .setWindow r body))
    (8 ≤ r.channel.toNat → answers s (.refused ⟨.invalid, some .badChannel, 0, 0, 0⟩)) ∧
    ∀ c : Ch, r.channel = chByte c →
      let w : Option Window := if length = 0 then none else some ⟨base, length⟩
      let ch := s.ch c
      if choice ≠ 1 ∧ choice ≠ 2 then answers s (.refused ⟨.invalid, some .badForm, 0, 0, 0⟩)
      else if ch.state = .follower then answers s (.refused ⟨.paired, none, 0, 0, 0⟩)
      else if choice = 1 ∧ ch.state ∈ [.gap, .deferred, .starting, .running, .held, .stopping] then
        answers s (.refused ⟨.wrongState, none, 0, 0, 0⟩)
      else if choice = 2 ∧ ch.swapPending ≠ none then answers s (.refused ⟨.protectedState, none, 0, 0, 0⟩)
      else if length ≠ 0 ∧ (1023 < base ∨ 256 < length ∨ 1024 < base + length) then
        answers s (.refused ⟨.invalid, some .windowRange, 0, 0, 0⟩)
      else if choice = 1 then
        answers (s.modCh c fun ch => { ch with active := w }) (.ok (.windows w ch.staged))
      else answers (s.modCh c fun ch => { ch with staged := w }) (.ok (.windows ch.active w))) ∧
  ((∀ (r : Request) (s : State) (c : Ch), ToChannel s r c 1 →
    let ch := s.ch c
    let code := field r.body 0 1
    let answers := fun t body => exec (.swap r) s = .next (replied t (replyTo .swap r body))
    if ch.state = .follower then answers s (.refused ⟨.paired, none, 0, 0, 0⟩)
    else if ch.state = .complete ∨ ch.state = .faulted then answers s (.refused ⟨.wrongState, none, 0, 0, 0⟩)
    else if code ≠ 1 ∧ code ≠ 2 then answers s (.refused ⟨.invalid, some .badForm, 0, 0, 0⟩)
    else (∀ reason index, validate s c ch.staged = some (reason, index) →
        answers s (.refused ⟨.invalid, some reason, index, 0, 0⟩)) ∧
      (validate s c ch.staged = none → ch.state = .idle →
        answers (s.modCh c fun ch => { ch with active := ch.staged, staged := ch.active })
          (.ok (.windows ch.staged ch.active))) ∧
      (validate s c ch.staged = none → ch.state ≠ .idle →
        answers (s.modCh c fun ch =>
          { ch with swapPending := some (if code = 1 then .atCycleEnd else .atScheduleEnd) }) (.ok .done))) ∧
  (∀ (r : Request) (s : State) (c : Ch), ToChannel s r c 0 →
    let answers := fun t body => exec (.cancelSwap r) s = .next (replied t (replyTo .cancelSwap r body))
    if (s.ch c).state = .follower then answers s (.refused ⟨.paired, none, 0, 0, 0⟩)
    else answers (s.modCh c fun ch => { ch with swapPending := none }) (.ok (.swapPending none))))

/-! ### Settings -/

/-- SET_CHANNEL (R188, and R6, R20, R49, R94, R98, R110, R130, R134, R167 for the ranges): its refusals in order; otherwise
each carried number is clamped to its range, V_min and T_min against V_max and T_max, each carried choice taken, and what is
not carried stands as clamping leaves it; the reply shows the settings in force. No other channel and nothing of the channel
but its playback record changes (R110, R117). A group that becomes another sets hp to the first position of the ring and lp
to the lowest-numbered LOW channel; one equal to the present one moves neither (R92). A setting is carried when its bit of
the mask is set (the model's reading of the layout, log 8); the body is 62 bytes long, with a claim limit of 2 bytes (the
model's choice, log 69). An INVALID refusal carries index 0 (R184; log 24). -/
def Obligations.SetChannel : Prop :=
  ∀ (r : Request) (s : State) (c : Ch), ToChannel s r c 62 → InRange (s.ch c).settings →
    let p := channelPatch r.body
    let carries := fun bit place size =>
      if (field r.body 0 4).testBit bit then some (field r.body place size) else none
    p = { periodExp := carries 0 4 1, reversalGap := carries 1 5 4, continuationGap := carries 2 9 4,
          startTimeout := carries 3 13 4, claimLimit := carries 4 17 2, vMax := carries 5 19 4, vMin := carries 6 23 4,
          iMax := carries 7 27 4, tMax := if (field r.body 0 4).testBit 8 then some (fieldInt r.body 31 2) else none,
          tMin := if (field r.body 0 4).testBit 9 then some (fieldInt r.body 33 2) else none, group := carries 10 35 1,
          deferralLimit := carries 11 36 4, excessMode := carries 12 40 1, grantHold := carries 13 41 4,
          profileMode := carries 14 45 1, lowWater := carries 15 46 2, underrunLimit := carries 16 48 4,
          pairTolerance := carries 17 52 4, warnTLow := carries 18 56 1, warnMismatch := carries 19 57 1,
          confTimeout := carries 20 58 4 } ∧
    let badForm : Bool := [p.group, p.excessMode, p.profileMode, p.warnTLow, p.warnMismatch].any fun code =>
      decide (code ≠ none ∧ code ≠ some 1 ∧ code ≠ some 2)
    let old := (s.ch c).settings
    let refused := fun code reason => exec (.setChannel r) s =
      .next (replied s (replyTo .setChannel r (.refused ⟨code, reason, 0, 0, 0⟩)))
    let leaderOnly := p.periodExp.isSome || p.group.isSome || p.deferralLimit.isSome || p.excessMode.isSome ||
      p.grantHold.isSome || p.profileMode.isSome || p.lowWater.isSome || p.underrunLimit.isSome || p.warnTLow.isSome ||
      p.warnMismatch.isSome
    if badForm then refused .invalid (some .badForm)
    else if (s.ch c).state = .follower ∧ leaderOnly then refused .paired none
    else if (s.ch c).state ∈ [.gap, .deferred, .starting, .running, .held, .stopping] ∧
        (p.periodExp.isSome || p.group.isSome || p.profileMode.isSome) then refused .wrongState none
    else ∃ (new : ChanSettings) (play : Playback) (hp : Nat) (lp : Option Ch),
      exec (.setChannel r) s =
        .next (replied ((s.modCh c fun ch => { ch with settings := new, play := play }).modArb fun a =>
          { a with hp := hp, lp := lp }) (replyTo .setChannel r (.ok (.channelSettings new)))) ∧
      new.periodExp = min 4 (p.periodExp.getD old.periodExp) ∧
      new.reversalGap = max 20 (min 10000 (p.reversalGap.getD old.reversalGap)) ∧
      new.continuationGap = min 10000 (p.continuationGap.getD old.continuationGap) ∧
      new.startTimeout = max 100 (min 5000 (p.startTimeout.getD old.startTimeout)) ∧
      new.claimLimit = max 1 (min 60000 (p.claimLimit.getD old.claimLimit)) ∧
      new.vMax = min 125000 (p.vMax.getD old.vMax) ∧
      new.vMin = min (min 125000 (p.vMin.getD old.vMin)) new.vMax ∧
      new.iMax = min 420000 (p.iMax.getD old.iMax) ∧
      new.tMax = max (-500) (min 2000 (p.tMax.getD old.tMax)) ∧
      new.tMin = min (max (-500) (min 2000 (p.tMin.getD old.tMin))) new.tMax ∧
      new.deferralLimit = max 1000 (min 3600000 (p.deferralLimit.getD old.deferralLimit)) ∧
      new.grantHold = min 600000 (p.grantHold.getD old.grantHold) ∧
      new.lowWater = min 511 (p.lowWater.getD old.lowWater) ∧
      new.underrunLimit = min 10000 (p.underrunLimit.getD old.underrunLimit) ∧
      new.pairTolerance = max 10 (min 5000 (p.pairTolerance.getD old.pairTolerance)) ∧
      new.confTimeout = max 5 (min 500 (p.confTimeout.getD old.confTimeout)) ∧
      (p.group = none → new.group = old.group) ∧
      (p.group = some 1 → new.group = .low) ∧ (p.group = some 2 → new.group = .high) ∧
      (p.excessMode = none → new.excessMode = old.excessMode) ∧
      (p.excessMode = some 1 → new.excessMode = .wait) ∧ (p.excessMode = some 2 → new.excessMode = .abort) ∧
      (p.profileMode = none → new.profileMode = old.profileMode) ∧
      (p.profileMode = some 1 → new.profileMode = .oneShot) ∧ (p.profileMode = some 2 → new.profileMode = .repeat) ∧
      (p.warnTLow = none → new.warnTLow = old.warnTLow) ∧
      (p.warnTLow = some 1 → new.warnTLow = .latch) ∧ (p.warnTLow = some 2 → new.warnTLow = .warn) ∧
      (p.warnMismatch = none → new.warnMismatch = old.warnMismatch) ∧
      (p.warnMismatch = some 1 → new.warnMismatch = .latch) ∧ (p.warnMismatch = some 2 → new.warnMismatch = .warn) ∧
      (new.group = old.group → hp = s.arb.hp ∧ lp = s.arb.lp) ∧
      (new.group ≠ old.group → hp = 0 ∧ lp = ([0, 1, 2, 3, 4, 5, 6, 7] : List Ch).find? fun d =>
        (if d = c then new.group else (s.ch d).settings.group) = .low) ∧
      play.inPlay = (s.ch c).play.inPlay ∧ play.played = (s.ch c).play.played ∧
      play.heldCurrent = (s.ch c).play.heldCurrent ∧ play.underrun = (s.ch c).play.underrun ∧
      play.underrunTimer = (s.ch c).play.underrunTimer ∧ play.profileEnd = (s.ch c).play.profileEnd ∧
      play.position = (if new.profileMode ≠ old.profileMode then 0 else (s.ch c).play.position) ∧
      play.lowArmed = (if new.lowWater ≠ old.lowWater then decide (new.lowWater < (s.ch c).queue.length)
        else (s.ch c).play.lowArmed)

/-- SET_CALIBRATION (R60), accepted in every channel state: each quantity carried takes its gain and offset unclamped, the
others stand, and the reply carries all six values; nothing else changes. A quantity is carried when its bit of the mask is
set (the model's reading of the layout, log 8). SET_WAKE (R175): each carried choice, the wake timer started afresh with a
duration clamped to 1 to 604,800 s, cancelled by 0 or left, and the debounce clamped to 0 to 10,000 ms; the reply carries
them; nothing else changes. -/
def Obligations.CalibrationAndWake : Prop :=
  (∀ (r : Request) (s : State) (c : Ch), ToChannel s r c 28 →
    let m := field r.body 0 4
    let old := (s.ch c).cal
    let value := fun offset => BitVec.ofNat 32 (field r.body offset 4)
    let new : Calibration :=
      { vGain := if m.testBit 0 then value 4 else old.vGain
        vOffset := if m.testBit 0 then value 8 else old.vOffset
        iGain := if m.testBit 1 then value 12 else old.iGain
        iOffset := if m.testBit 1 then value 16 else old.iOffset
        tGain := if m.testBit 2 then value 20 else old.tGain
        tOffset := if m.testBit 2 then value 24 else old.tOffset }
    exec (.setCalibration r) s = .next (replied (s.modCh c fun ch => { ch with cal := new })
      (replyTo .setCalibration r (.ok (.calibration new))))) ∧
  (∀ (r : Request) (s : State), ToPart s r 14 →
    let m := field r.body 0 4
    let seconds := field r.body 6 4
    let byTimer := if m.testBit 0 then flagOf (r.body.getD 4 0) else s.hall.wakeByTimer
    let byCurtail := if m.testBit 1 then flagOf (r.body.getD 5 0) else s.hall.wakeByCurtail
    let timer := if m.testBit 2 then (if seconds = 0 then none else some (1000 * min 604800 seconds)) else s.hall.wakeTimer
    let debounce := if m.testBit 3 then min 10000 (field r.body 10 4) else s.hall.curtDebounce
    exec (.setWake r) s = .next (replied (s.modHall fun h =>
        { h with wakeByTimer := byTimer, wakeByCurtail := byCurtail, wakeTimer := timer, curtDebounce := debounce })
      (replyTo .setWake r (.ok (.wake byTimer byCurtail timer debounce s.hall.state)))))

/-- SET_BUDGET (R87, R86): each carried value is clamped to its range and C_curt then taken against C_in, all in the event of
the request; the arbiter then sheds and evaluates with the new values (the operation `BudgetTests` is about). Between events
both tests hold and no evaluation is due again (R100); where both tests hold with the new values every grant stays; where one
fails the channels shed are HELD with CURTAILED or hold a grant or an entry again, or had an idle one again and gave it up at
once, their grant hold being 0 (R98). The reply carries the settings in force, C_eff, the filtered curtailment level and the
sums that result; every channel's run stands (the frame). A field is carried when its bit of the mask is set (the model's
reading of the layout, log 8). -/
def Obligations.SetBudget : Prop :=
  ∀ (r : Request) (s : State), ToPart s r 20 →
    let p := budgetPatch r.body
    let carries := fun bit place size =>
      if (field r.body 0 4).testBit bit then some (field r.body place size) else none
    let old := s.arb.budget
    let cIn := min 400000 (p.cIn.getD old.cIn)
    let new : BudgetSettings :=
      ⟨cIn, min (p.cCurt.getD old.cCurt) cIn, min 400000 (p.cRet.getD old.cRet),
        max 800 (min 1000 (p.eta.getD old.eta)), min 1000 (p.u.getD old.u)⟩
    let cEff := if s.hall.curtFiltered then new.cCurt else new.cIn
    p = ⟨carries 0 4 4, carries 1 8 4, carries 2 12 4, carries 3 16 2, carries 4 18 2⟩ ∧
    ∃ t, exec (.setBudget r) s = .next t ∧
      Answered s t (replyTo .setBudget r (.ok (.budgetSet new cEff s.hall.curtFiltered
        (sumsOf new.eta t.arb.grants)))) ∧
      t.arb.budget = new ∧ t.arb = (settleEvaluating (s.modArb fun a => { a with budget := new })).arb ∧
      (ArbiterSound s → testsHold t = true ∧ t.arb.evalDue = false ∧
        (withinCeilings new cEff s.arb.grants = true → ∀ g ∈ s.arb.grants, g ∈ t.arb.grants) ∧
        ∀ x ∈ (shedLoop new cEff (s.arb.grants.length + 1) s.arb.grants).2,
          ((t.ch x.1.ch).state = .held ∧ (t.ch x.1.ch).holds.curtailed = true ∧ ∃ e ∈ t.arb.resume, e.ch = x.1.ch) ∨
            (∃ g ∈ t.arb.grants, g.ch = x.1.ch) ∨ (∃ e ∈ t.arb.waiting, e.ch = x.1.ch) ∨
            (t.ch x.1.ch).holds.curtailed = false ∧ (s.ch x.1.ch).settings.grantHold = 0) ∧
      BoardFrame (s.modArb fun a => { a with budget := new }) t ∧ t.hall = s.hall ∧ ∀ c, RunFrame (s.ch c) (t.ch c)

/-- SET_ALARM_ROUTE (R146, R151): its refusals; otherwise the line takes route, mask and clamped debounce, its levels and
timer stand, the other lines stand, and the reply shows all four lines. Where route and mask are as they were nothing else
changes; a LOCAL line whose filtered level is asserted holds with CHAMBER each channel in GAP, DEFERRED, STARTING, RUNNING or
HELD that its mask now covers and no line covered before; where route or mask changes, no channel that no line covers holds
CHAMBER any longer, and a line DIRECT now with its raw level asserted latches CHAMBER_ALARM in each channel outside a pair
that it masks and did not mask as a DIRECT line before, which is FAULTED. The indices 0 of the refusals are log 24's; that
the line number is 1 byte of a 7-byte body, which places the route, the mask and the debounce, is log 55's; that cover is
followed before the offers is log 51's. -/
def Obligations.SetAlarmRoute : Prop :=
  ∀ (r : Request) (s : State), ToPart s r 7 →
    let n := field r.body 0 1
    let route := routeOf (field r.body 1 1)
    let mask := BitVec.ofNat 8 (field r.body 2 1)
    let debounce := max 10 (min 5000 (field r.body 3 4))
    let refused := fun reason => exec (.setAlarmRoute r) s =
      .next (replied s (replyTo .setAlarmRoute r (.refused ⟨.invalid, some reason, 0, 0, 0⟩)))
    (4 ≤ n → refused .badLine) ∧
    (n < 4 → route = none → refused .badForm) ∧
    ∀ (line : LineNo) (x : Route), n = line.val → route = some x →
      ∃ t, exec (.setAlarmRoute r) s = .next t ∧
        Answered s t (replyTo .setAlarmRoute r (.ok (.alarmLines
          ([0, 1, 2, 3].map fun l => ((t.line l).settings, (t.line l).raw, (t.line l).filtered))))) ∧
        t.line line = { s.line line with settings := ⟨x, mask, debounce⟩ } ∧
        (∀ l, l ≠ line → t.line l = s.line l) ∧
        BoardFrame (s.modLine line fun l => { l with settings := ⟨x, mask, debounce⟩ }) t ∧
        (x = (s.line line).settings.route → mask = (s.line line).settings.mask →
          (t.chans = s.chans ∧ t.arb = s.arb ∧ t.hall = s.hall)) ∧
        (x = .localHold → (s.line line).filtered = true → ∀ c, mask.getLsbD c.val = true → covered s c = false →
          (s.ch c).state ∈ [.gap, .deferred, .starting, .running, .held] →
          (t.ch c).state = .held ∧ (t.ch c).holds.chamber = true) ∧
        (x ≠ (s.line line).settings.route ∨ mask ≠ (s.line line).settings.mask → ∀ c, covered t c = false →
          (t.ch c).holds.chamber = false) ∧
        (x = .direct → (s.line line).raw = true → ∀ c, mask.getLsbD c.val = true →
          ((s.line line).settings.route ≠ .direct ∨ (s.line line).settings.mask.getLsbD c.val = false) →
          paired s c = false → hasKind (s.ch c).latched .chamberAlarm = false →
          hasKind (t.ch c).latched .chamberAlarm = true ∧ (t.ch c).state = .faulted)

/-! ### The settings store -/

/-- SAVE_SETTINGS (R197): a speed code above 4 is refused INVALID with reason BAD_FORM, and while a save is in flight the
request is refused BUSY; otherwise the settings in force are captured with the chosen speed code, 0 standing for the speed in
force, and a save is in flight. Nothing else changes. SETTINGS_SAVE_END (R197): in READY the save is no longer in flight, the
store holds the captured image or what the write left, and a SETTINGS_SAVED report with the outcome and the part time of the
capture is made; while a RESET_PART waits for it, the start-up begins from that image and no report is made (R198), the
settings loaded in that event (the model's choice, log 19). With no save in flight nothing is saved (log 39). The captured
image has a fresh signature and CRC, which make it good (R194, R197; its bytes are not laid out, log 49). The index 0 of the
INVALID refusal is log 24's. -/
def Obligations.SettingsSave : Prop :=
  (∀ (r : Request) (s : State), ToPart s r 1 →
    let code := field r.body 0 1
    let refused := fun c reason => exec (.saveSettings r) s =
      .next (replied s (replyTo .saveSettings r (.refused ⟨c, reason, 0, 0, 0⟩)))
    if 4 < code then refused .invalid (some .badForm)
    else if s.saveInFlight ≠ none then refused .busy none
    else ∃ x : StoredSettings,
      exec (.saveSettings r) s =
        .next (replied { s with
          saveInFlight := some ⟨⟨.c8, crc16 (Config.imageBytes .c8 x), x⟩, s.hall.partTime⟩ }
          (replyTo .saveSettings r (.ok .done))) ∧
      Image.judge ⟨.c8, crc16 (Config.imageBytes .c8 x), x⟩ = none ∧
      x.speedCode.toNat = (if code = 0 then s.link.speed.code else code) ∧ x.budget = s.arb.budget ∧
      (∀ c : Ch, x.chans[c] = (s.ch c).settings ∧ x.cals[c] = (s.ch c).cal) ∧
      (∀ l : LineNo, x.alarms[l] = (s.line l).settings) ∧
      (∀ p : Fin 4, x.pairs[p] = true ↔ (s.ch (oddMember p)).state = .follower) ∧
      x.wakeByTimer = s.hall.wakeByTimer ∧ x.wakeByCurtail = s.hall.wakeByCurtail ∧
      x.curtailDebounce = s.hall.curtDebounce) ∧
  (∀ (result : SaveEnd) (s : State),
    let image := fun x : SaveInFlight =>
      match result with
      | .verified => x.image
      | .failed left => left
    (∀ x, s.saveInFlight = some x → s.part ≠ .halted → s.link.sending ≠ none →
      exec (.settingsSaveEnd result) s = .next
        { s with
          image := image x
          saveInFlight := none
          link := s.link.make s.hall.partTime 0xFF (.settingsSaved (decide (result = .verified)) x.capturedAt) }) ∧
    (∀ x, s.saveInFlight = some x → s.part = .halted → ∃ t, exec (.settingsSaveEnd result) s = .next t ∧
      t.part = .starting ∧ t.startCause = .resetPart ∧ Begun (image x) t) ∧
    (s.saveInFlight = none → NoFrameDue s → exec (.settingsSaveEnd result) s = .next s))

/-! ### Runs -/

/-- START (R23), its checks 2 to 9 in order: each refuses, and a refused START changes nothing. Form 1 is BEGIN and form 2
RESUME_POINT. Check 8 refuses a channel without a resume point, an active window that is absent or not the recorded one, a
recorded step that lies outside it (the model's choice, log 41) or is now a MARK, and a recorded loop entry that no longer
fits; check 9 refuses any window that validation faults. Index 0 of the refusals of check 5 is log 24's. START accepted in
form BEGIN (R24, R22): cycle number 1, cycle accounts, loop table, resume point and step figures cleared, index 0 of the
active window taken up, lifetime accounts kept, no cause held but CHAMBER where a line covers the channel. With no chamber
line covering the channel and no grant or entry of its own, a first step of kind REST enters RUNNING and any other GAP with
the reversal gap; a covered channel is HELD with CHAMBER (R148). The reply shows the state at the end of the event (the
model's choice, log 13). START accepted in form RESUME_POINT (R25): step index, step time, step accounts, V_peak, loop table,
cycle number, cycle accounts and last direction are those of the resume point, which is discarded; the confirm counters are
zero, no cause is held but CHAMBER where a line covers the channel, and the lifetime accounts stand (the frame). The step is
begun and not prepared: REST enters RUNNING, and any other step GAP with the reversal gap, whatever the last direction; a gap
of 0, which no setting in range gives, ends at once in STARTING or DEFERRED (R26); a PROFILE step has its playback set up
(R113); a covered channel is HELD with CHAMBER (R148). The reply shows the state at the end of the event (the model's choice,
log 13). -/
def Obligations.Start : Prop :=
  (∀ (r : Request) (s : State) (c : Ch), ToChannel s r c 1 →
    let form := field r.body 0 1
    let ch := s.ch c
    let refused := fun code reason index => exec (.start r) s =
      .next (replied s (replyTo .start r (.refused ⟨code, reason, index, 0, 0⟩)))
    if ch.state = .follower then refused .paired none 0
    else if s.prot.hallStop = true then refused .hallStopActive none 0
    else if s.hall.state ≠ .active then refused .hallPaused none 0
    else if form ≠ 1 ∧ form ≠ 2 then refused .invalid (some .badForm) 0
    else if ch.state ≠ .idle ∧ (form = 2 ∨ ch.state ≠ .complete) then refused .wrongState none 0
    else if ch.port.presence = .absent ∨
        (c.val % 2 = 0 ∧ (s.ch (partner c)).state = .follower ∧ (s.ch (partner c)).port.presence = .absent) then
      refused .stageAbsent none 0
    else if form = 2 ∧ (ch.resume = none ∨ ch.active = none ∨
        ch.resume.bind ResumePoint.window ≠ ch.active) then
      refused .invalid (some .resumeStale) 0
    else
      let fits : Prop := ∀ p w, ch.resume = some p → ch.active = some w → p.stepIndex < w.length ∧
        (∀ target count counts, poolRead s.pool (w.base + p.stepIndex) ≠ some (.mark target count counts)) ∧
        ∀ e ∈ p.loops, ∃ target count counts, poolRead s.pool (w.base + e.index) = some (.mark target count counts) ∧
          (count = 0 ∨ e.counter < count)
      (form = 2 → ¬fits → refused .invalid (some .resumeStale) 0) ∧
      (form = 1 ∨ fits → ∀ reason index, validate s c ch.active = some (reason, index) →
        refused .invalid (some reason) index) ∧
      (form = 1 → ch.active = none → refused .invalid (some .noWindow) 0)) ∧
  (∀ (r : Request) (s : State) (c : Ch) (w : Window) (x : StepRecord), ToChannel s r c 1 → r.body = [1] →
    ((s.ch c).state = .idle ∨ (s.ch c).state = .complete) → s.prot.hallStop = false → s.hall.state = .active →
    (s.ch c).port.presence = .present → (isLeader s c = true → (s.ch (partner c)).port.presence = .present) →
    (s.ch c).active = some w → validate s c (some w) = none → poolRead s.pool w.base = some x → Unlisted s c →
    ∃ t, exec (.start r) s = .next t ∧
      Answered s t (replyTo .start r (.ok (.started (t.ch c).state 0))) ∧
      (t.ch c).stepIndex = 0 ∧ (t.ch c).stepTime = 0 ∧ (t.ch c).qStep = 0 ∧ (t.ch c).eStep = 0 ∧ (t.ch c).vPeak = 0 ∧
      (t.ch c).confirms = [0, 0, 0, 0] ∧ (t.ch c).cycleNumber = 1 ∧ (t.ch c).cycle = ⟨0, 0, 0, 0⟩ ∧
      (t.ch c).loops = [] ∧ (t.ch c).resume = none ∧ (t.ch c).active = some w ∧
      (t.ch c).holds = ⟨false, false, covered s c, false, false⟩ ∧ (t.ch c).heldBefore = false ∧
      (covered s c = false → x.kind = .rest → (t.ch c).state = .running) ∧
      (covered s c = false → x.kind ≠ .rest → (s.ch c).settings.reversalGap ≠ 0 →
        (t.ch c).state = .gap ∧ (t.ch c).gapTimer = some (s.ch c).settings.reversalGap) ∧
      (covered s c = false → x.kind ≠ .rest → (s.ch c).settings.reversalGap = 0 → (t.ch c).gapTimer = none ∧
        ((t.ch c).state = .starting ∧ holdsCover t c x = true ∨ (t.ch c).state = .deferred)) ∧
      (covered s c = true → (t.ch c).state = .held ∧ (t.ch c).holds.chamber = true) ∧
      BoardFrame s t ∧ ∀ d, d ≠ c → RunFrame (s.ch d) (t.ch d)) ∧
  (∀ (r : Request) (s : State) (c : Ch) (w : Window) (p : ResumePoint) (x : StepRecord), ToChannel s r c 1 → r.body = [2] →
    (s.ch c).state = .idle → s.prot.hallStop = false → s.hall.state = .active → (s.ch c).port.presence = .present →
    (isLeader s c = true → (s.ch (partner c)).port.presence = .present) → (s.ch c).active = some w →
    (s.ch c).resume = some p → p.window = some w → p.stepIndex < w.length →
    poolRead s.pool (w.base + p.stepIndex) = some x → x.kind ≠ .mark →
    (∀ e ∈ p.loops, ∃ target count counts, poolRead s.pool (w.base + e.index) = some (.mark target count counts) ∧
      (count = 0 ∨ e.counter < count)) →
    validate s c (some w) = none → Unlisted s c →
    ∃ t, exec (.start r) s = .next t ∧
      Answered s t (replyTo .start r (.ok (.started (t.ch c).state p.stepIndex))) ∧
      (t.ch c).stepIndex = p.stepIndex ∧ (t.ch c).stepTime = p.stepTime ∧ (t.ch c).qStep = p.qStep ∧
      (t.ch c).eStep = p.eStep ∧ (t.ch c).vPeak = p.vPeak ∧ (t.ch c).loops = p.loops ∧
      (t.ch c).cycleNumber = p.cycleNumber ∧ (t.ch c).cycle = p.cycle ∧ (t.ch c).resume = none ∧
      (t.ch c).confirms = [0, 0, 0, 0] ∧ (t.ch c).holds = ⟨false, false, covered s c, false, false⟩ ∧
      (t.ch c).heldBefore = false ∧ (t.ch c).stopDest = .idle ∧ (t.ch c).active = some w ∧
      (x.kind = .profile → (t.ch c).play.played = 0 ∧ (t.ch c).play.heldCurrent = 0 ∧
        (t.ch c).play.underrun = false ∧ (t.ch c).play.profileEnd = false ∧ (t.ch c).play.underrunTimer = none ∧
        (t.ch c).play.inPlay = decide ((s.ch c).queue ≠ [])) ∧
      (covered s c = false → x.kind = .rest → (t.ch c).state = .running ∧ (t.ch c).lastDir = p.lastDir) ∧
      (covered s c = false → x.kind ≠ .rest → (s.ch c).settings.reversalGap ≠ 0 →
        (t.ch c).state = .gap ∧ (t.ch c).gapTimer = some (s.ch c).settings.reversalGap ∧
          (t.ch c).lastDir = p.lastDir) ∧
      (covered s c = false → x.kind ≠ .rest → (s.ch c).settings.reversalGap = 0 → (t.ch c).gapTimer = none ∧
        ((t.ch c).state = .starting ∧ (t.ch c).lastDir = x.dir ∧ holdsCover t c x = true ∨
          (t.ch c).state = .deferred ∧ (t.ch c).lastDir = p.lastDir)) ∧
      (covered s c = true → (t.ch c).state = .held ∧ (t.ch c).holds.chamber = true) ∧
      BoardFrame s t ∧ ∀ d, d ≠ c → RunFrame (s.ch d) (t.ch d))

/-- STOP (R37): refused PAIRED or WRONG_STATE where the rule says, and OK with no change in STOPPING, with that state (the
model's choice, log 45). In GAP, DEFERRED, STARTING, RUNNING and HELD the channel leaves every collection of the arbiter, its
timers stop, the underrun timer among them (R118), its causes empty, its stop destination is IDLE, and it enters STOPPING, or
IDLE; a pending swap stays in STOPPING. A channel outside a pair whose stage is PRESENT with a demand other than OFF standing
enters STOPPING. The reply shows the state at the end of the event (the model's choice, log 13). -/
def Obligations.Stop : Prop :=
  ∀ (r : Request) (s : State) (c : Ch), ToChannel s r c 0 →
    let ch := s.ch c
    let answers := fun body => exec (.stop r) s = .next (replied s (replyTo .stop r body))
    (ch.state = .follower → answers (.refused ⟨.paired, none, 0, 0, 0⟩)) ∧
    (ch.state ∈ [.idle, .complete, .faulted] → answers (.refused ⟨.wrongState, none, 0, 0, 0⟩)) ∧
    (ch.state = .stopping → answers (.ok (.stateEntered .stopping))) ∧
    (ch.state ∈ [.gap, .deferred, .starting, .running, .held] → ∃ t, exec (.stop r) s = .next t ∧
      Answered s t (replyTo .stop r (.ok (.stateEntered (t.ch c).state))) ∧
      ((t.ch c).state = .stopping ∧ (t.ch c).swapPending = ch.swapPending ∨ (t.ch c).state = .idle) ∧
      (isLeader s c = false → ch.port.presence = .present → ch.port.standing ≠ some ⟨.off, 0, 0, 0⟩ →
        (t.ch c).state = .stopping) ∧
      (t.ch c).holds = ⟨false, false, false, false, false⟩ ∧ (t.ch c).heldBefore = false ∧
      (t.ch c).gapTimer = none ∧ (t.ch c).startTimer = none ∧ (t.ch c).play.underrunTimer = none ∧
      (t.ch c).stopDest = .idle ∧ Unlisted t c ∧
      (t.ch c).stepIndex = ch.stepIndex ∧ (t.ch c).stepTime = ch.stepTime ∧ (t.ch c).cycle = ch.cycle ∧
      BoardFrame s t ∧ ∀ d, d ≠ c → RunFrame (s.ch d) (t.ch d))

/-- HOLD (R35, R33): its refusals; a channel that holds HOST already is left as it was; any other accepted HOLD adds HOST and
leaves the channel HELD with its gap and start timers stopped, its step and figures standing. The reply carries the cause
set. RELEASE (R36, R34): refused as HOLD is; otherwise HOST and END_HOLD leave the set and CHAMBER and PAUSE stand; a channel
HELD by one of those stays HELD. One HELD by nothing else leaves by R34's cases: held before its step, it begins the step,
RUNNING on REST and otherwise in GAP with the gap of R22; on a REST step it is RUNNING; with a grant that covers the step it
is STARTING; otherwise it waits in DEFERRED on an entry, or is granted at once and STARTING. The cause set the replies carry
is that at the end of the event (the model's choice, log 13). -/
def Obligations.HoldAndRelease : Prop :=
  (∀ (r : Request) (s : State) (c : Ch), ToChannel s r c 0 →
    let ch := s.ch c
    let answers := fun body => exec (.hold r) s = .next (replied s (replyTo .hold r body))
    (ch.state = .follower → answers (.refused ⟨.paired, none, 0, 0, 0⟩)) ∧
    (ch.state ∈ [.idle, .stopping, .complete, .faulted] → answers (.refused ⟨.wrongState, none, 0, 0, 0⟩)) ∧
    (ch.state ∈ [.gap, .deferred, .starting, .running, .held] → ch.holds.host = true →
      answers (.ok (.holds ch.holds))) ∧
    (ch.state ∈ [.gap, .deferred, .starting, .running, .held] → ch.holds.host = false → ∃ t,
      exec (.hold r) s = .next t ∧ Answered s t (replyTo .hold r (.ok (.holds (t.ch c).holds))) ∧
      (t.ch c).state = .held ∧ (t.ch c).holds.host = true ∧ (t.ch c).holds.chamber = ch.holds.chamber ∧
      (t.ch c).holds.pause = ch.holds.pause ∧ (t.ch c).holds.endHold = ch.holds.endHold ∧
      (ch.state ≠ .held → (t.ch c).gapTimer = none ∧ (t.ch c).startTimer = none) ∧
      (t.ch c).stepIndex = ch.stepIndex ∧ (t.ch c).stepTime = ch.stepTime ∧ (t.ch c).qStep = ch.qStep ∧
      (t.ch c).confirms = ch.confirms ∧ (t.ch c).loops = ch.loops ∧ (t.ch c).cycle = ch.cycle ∧
      BoardFrame s t ∧ ∀ d, d ≠ c → RunFrame (s.ch d) (t.ch d))) ∧
  (∀ (r : Request) (s : State) (c : Ch), ToChannel s r c 0 →
    let ch := s.ch c
    let answers := fun body => exec (.release r) s = .next (replied s (replyTo .release r body))
    (ch.state = .follower → answers (.refused ⟨.paired, none, 0, 0, 0⟩)) ∧
    (ch.state ∈ [.idle, .stopping, .complete, .faulted] → answers (.refused ⟨.wrongState, none, 0, 0, 0⟩)) ∧
    (ch.state ∈ [.gap, .deferred, .starting, .running, .held] → ∃ t, exec (.release r) s = .next t ∧
      Answered s t (replyTo .release r (.ok (.holds (t.ch c).holds))) ∧
      (t.ch c).holds.host = false ∧ (t.ch c).holds.endHold = false ∧ (t.ch c).holds.chamber = ch.holds.chamber ∧
      (t.ch c).holds.pause = ch.holds.pause ∧
      (ch.state = .held → ch.holds.chamber = true ∨ ch.holds.pause = true → (t.ch c).state = .held) ∧
      (∀ x, ch.state = .held → ch.holds.curtailed = false → ch.holds.chamber = false → ch.holds.pause = false →
        (ch.holds.host = true ∨ ch.holds.endHold = true) → currentStep s c = some x → testsHold s = true →
        let gap := if x.dir ≠ ch.lastDir ∨ x.dir = .both ∨ ch.lastDir = .none then ch.settings.reversalGap
          else ch.settings.continuationGap
        (t.ch c).heldBefore = false ∧ (t.ch c).holds = ⟨false, false, false, false, false⟩ ∧
        (x.kind = .rest → (t.ch c).state = .running) ∧
        (x.kind ≠ .rest → ch.heldBefore = true → gap ≠ 0 → (t.ch c).state = .gap ∧ (t.ch c).gapTimer = some gap) ∧
        (x.kind ≠ .rest → ch.heldBefore = false → holdsCover s c x = true →
          (t.ch c).state = .starting ∧ (t.ch c).lastDir = x.dir ∧ (t.ch c).startTimer = some ch.settings.startTimeout) ∧
        (x.kind ≠ .rest → ch.heldBefore = false → holdsCover s c x = false → ArbiterSound s →
          ((t.ch c).state = .deferred ∧ ∃ e ∈ t.arb.waiting ++ t.arb.resume, e.ch = c) ∨
            ((t.ch c).state = .starting ∧ holdsCover t c x = true))) ∧
      (t.ch c).stepIndex = ch.stepIndex ∧ (t.ch c).stepTime = ch.stepTime ∧ (t.ch c).loops = ch.loops ∧
      (t.ch c).cycle = ch.cycle ∧ BoardFrame s t ∧ ∀ d, d ≠ c → RunFrame (s.ch d) (t.ch d)))

/-- PROFILE_APPEND (R111, R117, R119): its checks in order; the points that fit, up to 512 in the queue, are appended at the
tail in order, and one that is appended ends an underrun and arms the low-water report where the count stands above the mark;
the reply is OK, or FULL with the number appended and the count. PROFILE_FLUSH (R112): refused PAIRED for a follower and
WRONG_STATE while RUNNING or HELD on a PROFILE step; otherwise the queue is empty and the playback record reset, the reply
carries the number of points removed, and nothing else changes: no PROFILE_LOW report is made. The parts of a refusal that
the rules do not name are 0 (log 24). -/
def Obligations.ProfileQueue : Prop :=
  (∀ (r : Request) (s : State) (c : Ch) (n : Nat), ToChannel s r c (8 * n) → 1 ≤ n → n ≤ 32 →
    let ch := s.ch c
    let points := (List.range n).map fun k => pointOf ((r.body.drop (8 * k)).take 8)
    let room := 512 - ch.queue.length
    let bad := fun p : Point => p.duration = 0 ∨ p.current < -840000 ∨ 840000 < p.current
    let queue := ch.queue ++ points.take room
    let answers := fun t body => exec (.profileAppend r) s = .next (replied t (replyTo .profileAppend r body))
    let done := fun body => answers (if room = 0 then s else s.modCh c fun ch =>
      { ch with
        queue := queue
        play :=
          { ch.play with
            underrun := false
            underrunTimer := none
            lowArmed := if ch.settings.lowWater < queue.length then true else ch.play.lowArmed } }) body
    if ch.state = .follower then answers s (.refused ⟨.paired, none, 0, 0, 0⟩)
    else if ch.settings.profileMode = .repeat ∧ ch.state ∈ [.gap, .deferred, .starting, .running, .held, .stopping] ∧
        onProfile s c = true then answers s (.refused ⟨.protectedState, none, 0, 0, 0⟩)
    else (∀ k p, points[k]? = some p → bad p → (∀ j q, j < k → points[j]? = some q → ¬bad q) →
        answers s (.refused ⟨.invalid, some .badPoint, k, 0, 0⟩)) ∧
      ((∀ p ∈ points, ¬bad p) → n ≤ room → done (.ok (.appended n queue.length))) ∧
      ((∀ p ∈ points, ¬bad p) → room < n → done (.refused ⟨.full, none, queue.length, 0, room⟩))) ∧
  (∀ (r : Request) (s : State) (c : Ch), ToChannel s r c 0 →
    let ch := s.ch c
    let answers := fun t body => exec (.profileFlush r) s = .next (replied t (replyTo .profileFlush r body))
    if ch.state = .follower then answers s (.refused ⟨.paired, none, 0, 0, 0⟩)
    else if (ch.state = .running ∨ ch.state = .held) ∧ onProfile s c = true then
      answers s (.refused ⟨.wrongState, none, 0, 0, 0⟩)
    else answers (s.modCh c fun ch =>
      { ch with
        queue := []
        play :=
          { position := 0, inPlay := false, played := 0, heldCurrent := 0, underrun := false, underrunTimer := none,
            profileEnd := false, lowArmed := false } }) (.ok (.flushed ch.queue.length)))

/-- The lifetime accounts of a channel (R67, R69, R45): whatever command is taken, accounts within the limit of 2^63 − 1 stay
within it and do not fall. They are set to zero only by a loss of power or a start-up, or by a CLEAR_LIFETIME for the
channel, in IDLE, COMPLETE or FAULTED: one at the head of the request queue, or one that the command itself brings on a link
with no request waiting. CLEAR_LIFETIME (R45): refused PAIRED for a follower and WRONG_STATE for an engaged channel;
otherwise the four lifetime accounts are zero and the saturated flag is clear, and nothing else changes. A channel byte of 8
or more is refused, with index 0 (log 24). -/
def Obligations.LifetimeAccounts : Prop :=
  (∀ (i : Instr) (s t : State) (c : Ch), exec i s = .next t →
     let a := (s.ch c).life
     let b := (t.ch c).life
     let limit := 2 ^ 63 - 1
     let clears := fun f : Frame => f.kind = 0x2D ∧ f.channel = chByte c ∧ f.body = []
     a.qChg ≤ limit → a.qDis ≤ limit → a.eChg ≤ limit → a.eDis ≤ limit →
     b = ⟨0, 0, 0, 0⟩ ∧ (t.part = .starting ∨ t.part = .off ∨
       (s.ch c).state ∈ [.idle, .complete, .faulted] ∧
         ((∃ f, s.link.requests.head? = some f ∧ clears f) ∨
           s.link.requests = [] ∧ ∃ f, exec i s = exec (.controlFrame f) s ∧ clears f)) ∨
       (a.qChg ≤ b.qChg ∧ b.qChg ≤ limit ∧ a.qDis ≤ b.qDis ∧ b.qDis ≤ limit ∧ a.eChg ≤ b.eChg ∧ b.eChg ≤ limit ∧
         a.eDis ≤ b.eDis ∧ b.eDis ≤ limit)) ∧
  (∀ (r : Request) (s : State), LinkFree s → r.body = [] →
     let answers := fun t body => exec (.clearLifetime r) s = .next (replied t (replyTo .clearLifetime r body))
     (8 ≤ r.channel.toNat → answers s (.refused ⟨.invalid, some .badChannel, 0, 0, 0⟩)) ∧
     ∀ c : Ch, r.channel = chByte c →
       if (s.ch c).state = .follower then answers s (.refused ⟨.paired, none, 0, 0, 0⟩)
       else if (s.ch c).state ∈ [.gap, .deferred, .starting, .running, .held, .stopping] then
         answers s (.refused ⟨.wrongState, none, 0, 0, 0⟩)
       else answers (s.modCh c fun ch => { ch with life := ⟨0, 0, 0, 0⟩, lifeSaturated := false }) (.ok .done))

/-! ### Faults -/

/-- CLEAR_FAULTS (R142, R143): of the kinds named, each that is latched, held by no cause and not kept back as the first
fault leaves the latched set, and no other. The first-fault kind is kept back exactly while some other latched kind remains,
being not named or held by a cause; once it leaves, the set is empty. An emptied set takes the first-fault record with it and
brings a FAULTED channel to IDLE (R43). The reply carries the kinds cleared, those that remain, those that remain and were
named, and the state. Nothing else of the channel or the board changes, but that the follower of a leader brought to IDLE
loses PAIR_PARTNER (R132). What holds a kind is R143's table, its last row apart. -/
def Obligations.ClearFaults : Prop :=
  (∀ (s : State) (c : Ch),
    let ch := s.ch c
    let v := if isLeader s c then ch.pack.v else ch.last.v
    let temp := if isLeader s c then ch.pack.t else ch.last.t
    let held := fun k (cause : Prop) => heldByCause s c k = true ↔ cause
    held .limitVHigh (ch.settings.vMax < v) ∧ held .limitVLow (v < ch.settings.vMin) ∧
    held .limitTHigh (ch.settings.tMax < temp) ∧ held .limitTLow (temp < ch.settings.tMin) ∧
    held .limitI (ch.settings.iMax < ch.last.i.natAbs) ∧
    held .stageReported (ch.last.fault = true ∨ ch.last.interlock = true) ∧ held .stageUnsafe (ch.unsafeFlag = true) ∧
    held .chamberAlarm (∃ l, (s.line l).raw = true ∧ (s.line l).settings.route = .direct ∧
      (s.line l).settings.mask.getLsbD c.val = true) ∧
    held .hallStop (s.prot.hallStop = true) ∧
    held .pairPartner (isLeader s c = true ∧ ∃ k, k ≠ .pairPartner ∧ hasKind (s.ch (partner c)).latched k = true) ∧
    ∀ k ∈ [FaultKind.stageSilent, .stageNoAck, .stageStartTimeout, .profileUnderrun, .deferLimit, .pairMismatch],
      heldByCause s c k = false) ∧
  ∀ (r : Request) (s : State) (c : Ch), ToChannel s r c 2 →
    let named := BitVec.ofNat 16 (field r.body 0 2)
    let ch := s.ch c
    let free := fun k => hasKind named k = true ∧ hasKind ch.latched k = true ∧ heldByCause s c k = false
    ∃ (t : State) (cleared : BitVec 16), exec (.clearFaults r) s = .next t ∧
      Answered s t (replyTo .clearFaults r (.ok (.faults cleared (t.ch c).latched ((t.ch c).latched &&& named)
        (t.ch c).state))) ∧
      (t.ch c).latched = ch.latched &&& ~~~cleared ∧
      (∀ k, hasKind cleared k = true ↔ free k ∧ ∀ f, ch.firstFault = some f → f.kind = k →
        ∀ j, j ≠ k → hasKind ch.latched j = true → free j) ∧
      (∀ f, ch.firstFault = some f → hasKind cleared f.kind = true → (t.ch c).latched = 0 ∧
        (t.ch c).firstFault = none ∧ (ch.state = .faulted → (t.ch c).state = .idle)) ∧
      t.ch c = { ch with
        latched := (t.ch c).latched
        firstFault := if (t.ch c).latched = 0 then none else ch.firstFault
        state := if (t.ch c).latched = 0 ∧ ch.state = .faulted then .idle else ch.state } ∧
      (∀ d, d ≠ c → (d ≠ partner c ∨ isLeader s c = false ∨ ch.state ≠ .faulted ∨ (t.ch c).latched ≠ 0) →
        t.ch d = s.ch d) ∧
      (isLeader s c = true → ch.state = .faulted → (t.ch c).latched = 0 →
        (t.ch (partner c)).latched = dropKind (s.ch (partner c)).latched .pairPartner) ∧
      t.pool = s.pool ∧ t.arb = s.arb ∧ t.prot = s.prot ∧ t.hall = s.hall ∧ t.image = s.image

/-- START_TIMER_EXPIRY in STARTING (R27) and UNDERRUN_TIMER_EXPIRY (R119) of a channel outside a pair: STAGE_START_TIMEOUT,
with the start timeout in force (the model's reading of the value, log 33), and PROFILE_UNDERRUN, with the underrun limit in
force, latch newly and are dealt with as R138, R140 to R142 and R42 give: the latched set and first-fault record, a resume
point (without a window where the channel has none, log 41), no grant and no entry, no swap, cause or running timer, OFF
demanded, FAULTED, and a FAULT report; the profile queue and the UNDERRUN flag stand. A timer that is not running, and a
channel out of STARTING, do nothing (log 15). -/
def Obligations.TimeoutsFault : Prop :=
  ((∀ (s : State) (c : Ch), NoFrameDue s → (s.ch c).state ≠ .starting ∨ (s.ch c).startTimer = none →
    exec (.startTimerExpiry c) s = .next s) ∧
  (∀ (s : State) (c : Ch), s.part = .ready → (s.ch c).state = .starting → (s.ch c).startTimer ≠ none →
    hasKind (s.ch c).latched .stageStartTimeout = false → paired s c = false →
    ∃ t, exec (.startTimerExpiry c) s = .next t ∧
      FaultTaken s t c .stageStartTimeout (s.ch c).settings.startTimeout ∧ BoardFrame s t ∧
      ∀ d, d ≠ c → RunFrame (s.ch d) (t.ch d))) ∧
  ((∀ (s : State) (c : Ch), NoFrameDue s → (s.ch c).play.underrunTimer = none →
    exec (.underrunTimerExpiry c) s = .next s) ∧
  (∀ (s : State) (c : Ch), s.part = .ready → (s.ch c).play.underrunTimer ≠ none → (s.ch c).state ≠ .faulted →
    paired s c = false → hasKind (s.ch c).latched .profileUnderrun = false →
    ∃ t, exec (.underrunTimerExpiry c) s = .next t ∧
      FaultTaken s t c .profileUnderrun (s.ch c).settings.underrunLimit ∧
      (t.ch c).play.underrun = (s.ch c).play.underrun ∧ BoardFrame s t ∧ ∀ d, d ≠ c → RunFrame (s.ch d) (t.ch d)))

/-! ### Pairs -/

/-- SET_PAIR (R123) and UNPAIR (R124), on either member. A pair that is formed already, or parted already, is left as it is
and answered OK; a member out of IDLE refuses WRONG_STATE; otherwise the odd member enters or leaves FOLLOWER, the resume
points go as the rules say, a pair that is formed has no pack reading completed in the leader's open period, and on parting
the follower's standby period opens. On parting, the follower's query-awaiting flag clears and the old QUERY is no longer the
open period's (the model's reading, log 25); where it still waits it stays due and is sent before the new one (the model's
choice, log 67). Nothing else changes. The law of R126: the shares of a pack demand carry its mode and voltages, their
currents sum to the pack current and differ by at most 1 mA, and a share's current never exceeds in magnitude half a cap of
twice the smaller limit. -/
def Obligations.Pairs : Prop :=
  (∀ (r : Request) (s : State) (c l f : Ch), ToChannel s r c 0 → l.val % 2 = 0 → f.val = l.val + 1 → (c = l ∨ c = f) →
    let set := fun t body => exec (.setPair r) s = .next (replied t (replyTo .setPair r body))
    let part := fun t body => exec (.unpair r) s = .next (replied t (replyTo .unpair r body))
    ((s.ch f).state = .follower → set s (.ok (.pair l f))) ∧
    ((s.ch f).state ≠ .follower → (s.ch l).state ≠ .idle ∨ (s.ch f).state ≠ .idle →
      set s (.refused ⟨.wrongState, none, 0, 0, 0⟩)) ∧
    ((s.ch l).state = .idle → (s.ch f).state = .idle →
      set ((s.modCh l fun ch => { ch with resume := none, packDone := false }).modCh f fun ch =>
        { ch with resume := none, state := .follower }) (.ok (.pair l f))) ∧
    ((s.ch f).state ≠ .follower → part s (.ok .done)) ∧
    ((s.ch f).state = .follower → (s.ch l).state ≠ .idle → part s (.refused ⟨.wrongState, none, 0, 0, 0⟩)) ∧
    ((s.ch f).state = .follower → (s.ch l).state = .idle →
      part ((s.modCh l fun ch => { ch with resume := none }).modCh f fun ch =>
        { ch with
          state := .idle, taken := false, packDone := false, periodElapsed := 0, periodLength := 1000,
          port := ch.port.openPeriod }) (.ok .done))) ∧
  (∀ (d : Demand) (limit : Nat), d.current.natAbs ≤ 2 * limit →
    (leaderShare d).current + (followerShare d).current = d.current ∧
    ((leaderShare d).current - (followerShare d).current).natAbs ≤ 1 ∧
    (followerShare d).current = d.current.tdiv 2 ∧
    (leaderShare d).current.natAbs ≤ limit ∧ (followerShare d).current.natAbs ≤ limit ∧
    (leaderShare d).mode = d.mode ∧ (followerShare d).mode = d.mode ∧
    (leaderShare d).upper = d.upper ∧ (followerShare d).upper = d.upper ∧
    (leaderShare d).lower = d.lower ∧ (followerShare d).lower = d.lower)

/-- A kind that latches in a member of a pair (R131). START_TIMER_EXPIRY, UNDERRUN_TIMER_EXPIRY and WAIT_TIMER_EXPIRY in
ABORT mode of a leader, and CONFIRMATION_TIMER_EXPIRY of a demand other than OFF on either member's port, with both latched
sets empty: the kind latches in that member and PAIR_PARTNER in the other, with the kind's code; each writes its first-fault
record and makes its FAULT report, the member's own first; the leader is dealt with as R42 gives and is FAULTED, and the
follower stays FOLLOWER with OFF handed to its port. The law, whatever the command: a kind other than PAIR_PARTNER that
latches newly in a member has PAIR_PARTNER latched in the other after the event; a kind that latches newly in the leader
leaves it FAULTED and, with the arbiter sound, in no collection of it; one that latches newly in the follower leaves its port
handed OFF. A DIRECT line that asserts, or that SET_ALARM_ROUTE makes DIRECT with its raw level asserted, latches
CHAMBER_ALARM in each member it newly masks (R150, R151). An engaged leader's resume point is without a window where the
leader has none, as after a RESET_CHANNEL (the model's choice, log 41). The value of STAGE_START_TIMEOUT is the model's
reading (log 33), and the body of SET_ALARM_ROUTE, with its line number of 1 byte, log 55's. -/
def Obligations.PairFaults : Prop :=
  (∀ (s : State) (l f : Ch), s.part = .ready → isLeader s l = true → f = partner l → (s.ch l).latched = 0 →
    (s.ch f).latched = 0 → (s.ch l).state ≠ .faulted → (s.ch l).state ≠ .follower →
    let faults := fun (i : Instr) (a b : Ch) (k : FaultKind) (value : Int) => ∃ t, exec i s = .next t ∧
      PairFaultTaken s t l a b k value ∧ BoardFrame s t ∧ ∀ d, d ≠ l → d ≠ f → RunFrame (s.ch d) (t.ch d)
    let set := (s.ch l).settings
    ((s.ch l).state = .starting → (s.ch l).startTimer ≠ none →
      faults (.startTimerExpiry l) l f .stageStartTimeout set.startTimeout) ∧
    ((s.ch l).play.underrunTimer ≠ none →
      faults (.underrunTimerExpiry l) l f .profileUnderrun set.underrunLimit) ∧
    (∀ e ∈ s.arb.waiting ++ s.arb.resume, e.ch = l → e.timer ≠ none → set.excessMode = .abort →
      faults (.waitTimerExpiry l) l f .deferLimit set.deferralLimit) ∧
    (∀ (a b : Ch) (x : Tagged), (a = l ∧ b = f) ∨ (a = f ∧ b = l) → (s.ch a).port.confTimer ≠ none →
      (s.ch a).port.outstanding = some x → x.demand.mode ≠ .off →
      faults (.confirmationTimerExpiry a) a b .stageNoAck x.tag.toNat)) ∧
  (∀ (i : Instr) (s t : State), exec i s = .next t → s.part = .ready → t.part = .ready → FaultsSound s →
    ∀ l f : Ch, isLeader s l = true → isLeader t l = true → f = partner l →
      let newly := fun (c : Ch) (k : FaultKind) =>
        hasKind (t.ch c).latched k = true ∧ hasKind (s.ch c).latched k = false
      (∀ k, k ≠ .pairPartner →
        (newly l k → hasKind (t.ch f).latched .pairPartner = true) ∧
        (newly f k → hasKind (t.ch l).latched .pairPartner = true)) ∧
      (∀ k, newly l k → ArbiterSound s → (t.ch l).state = .faulted ∧ Unlisted t l) ∧
      (∀ k, newly f k → (t.ch f).state = .follower ∧ (t.ch f).port.standing = some ⟨.off, 0, 0, 0⟩)) ∧
  (∀ (s : State) (line : LineNo), s.part = .ready → (s.line line).raw = false → (s.line line).settings.route = .direct →
    ∃ t, exec (.chamberAlarmLineChange line true) s = .next t ∧ ∀ c, paired s c = true →
      (s.line line).settings.mask.getLsbD c.val = true → hasKind (t.ch c).latched .chamberAlarm = true) ∧
  (∀ (r : Request) (s : State) (line : LineNo), ToPart s r 7 → field r.body 0 1 = line.val → field r.body 1 1 = 3 →
    (s.line line).raw = true → ∃ t, exec (.setAlarmRoute r) s = .next t ∧ ∀ c, paired s c = true →
      (BitVec.ofNat 8 (field r.body 2 1)).getLsbD c.val = true →
      ((s.line line).settings.route ≠ .direct ∨ (s.line line).settings.mask.getLsbD c.val = false) →
      hasKind (t.ch c).latched .chamberAlarm = true)

/-! ### Resets of a channel and of a stage line -/

/-- RESET_CHANNEL (R44, R132), addressed to a channel or to either member of a pair, whose leader is then reset with its
follower. The latched sets, first-fault records, step accounts with V_peak, confirm counters (R80), cycle accounts, loop
tables, profile queues and playback records (R113) are cleared, and of the channel reset the resume point, swap, causes and
every figure of the run; it is in no collection of the arbiter and OFF is demanded. The kinds each member is offered again
are STAGE_UNSAFE while its unsafe flag is set, CHAMBER_ALARM while a DIRECT line covers it and HALL_STOP while that line is
asserted (R145, R150, R153; the order is log 26's), and such a kind of one member offers PAIR_PARTNER to the other (R131).
With none the channel is STOPPING or IDLE, IDLE where its stage is ABSENT, and with one it is FAULTED; a follower stays
FOLLOWER. Lifetime accounts, unsafe flags, windows, settings and calibration stand. The reply shows the addressed channel's
own state at the end of the event (the model's choice, logs 13 and 44). -/
def Obligations.ResetChannel : Prop :=
  ∀ (r : Request) (s : State) (c l : Ch), ToChannel s r c 0 → (∀ d, (s.ch d).state = .follower → d.val % 2 = 1) →
    l = (if (s.ch c).state = .follower then partner c else c) →
    let f := partner l
    let leads := isLeader s l
    let blankPlay : Playback :=
      { position := 0, inPlay := false, played := 0, heldCurrent := 0, underrun := false, underrunTimer := none,
        profileEnd := false, lowArmed := false }
    let again : Ch → FaultKind → Prop := fun d k =>
      k = .stageUnsafe ∧ (s.ch d).unsafeFlag = true ∨
      k = .chamberAlarm ∧ (∃ line, (s.line line).raw = true ∧ (s.line line).settings.route = .direct ∧
        (s.line line).settings.mask.getLsbD d.val = true) ∨
      k = .hallStop ∧ s.prot.hallStop = true
    ∃ t, exec (.resetChannel r) s = .next t ∧
      Answered s t (replyTo .resetChannel r (.ok (.stateEntered (t.ch c).state))) ∧
      (∀ k, hasKind (t.ch l).latched k = true ↔
        again l k ∨ k = .pairPartner ∧ leads = true ∧ ∃ j, again f j) ∧
      ((t.ch l).latched = 0 → ((t.ch l).state = .stopping ∨ (t.ch l).state = .idle) ∧ (t.ch l).firstFault = none ∧
        (t.ch l).resume = none ∧
        ((s.ch l).port.presence = .absent → (leads = true → (s.ch f).port.presence = .absent) →
          (t.ch l).state = .idle)) ∧
      ((t.ch l).latched ≠ 0 → (t.ch l).state = .faulted) ∧
      (t.ch l).swapPending = none ∧ (t.ch l).holds = ⟨false, false, false, false, false⟩ ∧
      (t.ch l).heldBefore = false ∧ (t.ch l).queue = [] ∧
      (t.ch l).stepIndex = 0 ∧ (t.ch l).stepTime = 0 ∧ (t.ch l).qStep = 0 ∧ (t.ch l).eStep = 0 ∧ (t.ch l).vPeak = 0 ∧
      (t.ch l).play = blankPlay ∧
      (t.ch l).confirms = [0, 0, 0, 0] ∧ (t.ch l).cycleNumber = 0 ∧ (t.ch l).cycle = ⟨0, 0, 0, 0⟩ ∧
      (t.ch l).loops = [] ∧ (t.ch l).lastDir = .none ∧ (t.ch l).clamped = false ∧ (t.ch l).stopDest = .idle ∧
      (t.ch l).gapTimer = none ∧ (t.ch l).startTimer = none ∧ (t.ch l).unsafeFlag = (s.ch l).unsafeFlag ∧
      (t.ch l).life = (s.ch l).life ∧ (t.ch l).active = (s.ch l).active ∧ (t.ch l).staged = (s.ch l).staged ∧
      (t.ch l).settings = (s.ch l).settings ∧ (t.ch l).cal = (s.ch l).cal ∧
      (t.ch l).port.standing = some ⟨.off, 0, 0, 0⟩ ∧ Unlisted t l ∧
      (leads = true → (t.ch f).state = .follower ∧
        (∀ k, hasKind (t.ch f).latched k = true ↔ again f k ∨ k = .pairPartner ∧ ∃ j, again l j) ∧
        ((t.ch f).latched = 0 → (t.ch f).firstFault = none) ∧ (t.ch f).qStep = 0 ∧ (t.ch f).eStep = 0 ∧
        (t.ch f).vPeak = 0 ∧ (t.ch f).confirms = [0, 0, 0, 0] ∧ (t.ch f).play = blankPlay ∧
        (t.ch f).cycle = ⟨0, 0, 0, 0⟩ ∧ (t.ch f).loops = [] ∧ (t.ch f).queue = [] ∧
        (t.ch f).port.standing = some ⟨.off, 0, 0, 0⟩ ∧ (t.ch f).unsafeFlag = (s.ch f).unsafeFlag ∧
        (t.ch f).life = (s.ch f).life ∧ (t.ch f).settings = (s.ch f).settings ∧ (t.ch f).cal = (s.ch f).cal) ∧
      t.pool = s.pool ∧ t.prot = s.prot ∧ t.arb.budget = s.arb.budget ∧ t.image = s.image ∧
      ∀ d, d ≠ l → (d ≠ f ∨ leads = false) → ChFrame (s.ch d) (t.ch d) ∧ RunFrame (s.ch d) (t.ch d)

/-- RESET_STAGE_LINE (R166, R55, R56, R136): refused WRONG_STATE while the channel, or its leader, is engaged; otherwise, in
an ACTIVE or PAUSED hall, the port's demand record, query-awaiting flag and line errors clear, presence is ABSENT, a line
break is sent, and a standing demand that differs from the last confirmed one is pending again; the last confirmed demand,
the next tag, the standing demand, the channel state and the faults stand. Frames the port had due are given up (the model's
reading, log 22), and where an earlier line break is still being sent there is one break in force afterwards (the model's
choice, log 68). -/
def Obligations.ResetStageLine : Prop :=
  ∀ (r : Request) (s : State) (c : Ch), ToChannel s r c 0 →
    let engaged := fun d : Ch => (s.ch d).state ∈ [.gap, .deferred, .starting, .running, .held, .stopping]
    let p := (s.ch c).port
    let answers := fun t body => exec (.resetStageLine r) s = .next (replied t (replyTo .resetStageLine r body))
    (engaged c ∨ (s.ch c).state = .follower ∧ engaged (partner c) → answers s (.refused ⟨.wrongState, none, 0, 0, 0⟩)) ∧
    (¬engaged c → ¬((s.ch c).state = .follower ∧ engaged (partner c)) → s.hall.state ≠ .pausing →
      answers (s.modCh c fun ch =>
        { ch with
          held := true
          missed := 0
          derateSeen := false
          port :=
            { presence := .absent, outstanding := none,
              pending := if p.standing = p.lastConfirmed then none else p.standing,
              lastConfirmed := p.lastConfirmed, nextTag := p.nextTag, confTimer := none, standing := p.standing,
              queryAwaiting := false, lineErr := false, lineErrCount := 0, sending := none, due := [],
              breaking := true } }) (.ok .done))

/-! ### The stage lines -/

/-- STAGE_FRAME_WHOLLY_SENT and LINE_BREAK_END (R156, R159, R163, R166): the outstanding demand's frame starts the
confirmation timer with the timeout in force, the open period's QUERY sets the query-awaiting flag, and the transmitter takes
the next due frame, if any, unless a line break is being sent; a DEMAND that is no longer the outstanding one starts no timer
(the model's reading, log 31); the end of a break frees the transmitter in the same way. Nothing else changes.
STAGE_FRAME_WHOLLY_SENT with nothing being sent and LINE_BREAK_END with no line break being sent change nothing (the model's
reading, log 39). CONFIRM (R160) on a channel outside STOPPING, in an ACTIVE or PAUSED hall. A tag that matches the
outstanding demand's makes it the last confirmed one and stops the confirmation timer; a pending demand is then sent with the
next tag, stated for a free transmitter with nothing due and no line break; a frame of the retired demand that still waits is
no longer due (the model's reading, log 64). A tag that does not match, or no outstanding demand, is one line error (R165)
and nothing else. A CONFIRM of the OFF a STOPPING channel waits for, on a channel outside a pair, brings it to its stop
destination and removes a pending swap (R38), with settings in range, as a hall that this settles would else bring periods
forward. -/
def Obligations.DemandsConfirmed : Prop :=
  (∀ (s : State) (c : Ch), s.part = .ready → NoFrameDue s →
    let p := (s.ch c).port
    let took := fun (q : Port) => { q with sending := q.due.head?, due := q.due.tail }
    let sent := fun q => exec (.stageFrameWhollySent c) s = .next (s.modCh c fun ch => { ch with port := q })
    (p.sending = none → exec (.stageFrameWhollySent c) s = .next s) ∧
    (∀ t, p.sending = some (.demand t) → p.outstanding = some t → p.breaking = false →
      sent (took { p with confTimer := some (s.ch c).settings.confTimeout })) ∧
    (∀ t, p.sending = some (.demand t) → p.outstanding ≠ some t → p.breaking = false → sent (took p)) ∧
    (p.sending = some (.query true) → p.breaking = false → sent (took { p with queryAwaiting := true })) ∧
    (p.sending = some (.query false) → p.breaking = false → sent (took p)) ∧
    (p.breaking = false → exec (.lineBreakEnd c) s = .next s) ∧
    (p.breaking = true → p.sending = none → exec (.lineBreakEnd c) s =
      .next (s.modCh c fun ch => { ch with port := took { p with breaking := false } }))) ∧
  ((∀ (s : State) (c : Ch) (tag : Byte), s.part = .ready → NoFrameDue s → s.hall.state ≠ .pausing →
    (s.ch c).state ≠ .stopping → ((s.ch c).state = .follower → (s.ch (partner c)).state ≠ .stopping) →
    let p := (s.ch c).port
    let gives := fun q => exec (.confirm c tag) s = .next (s.modCh c fun ch => { ch with port := q })
    ((p.outstanding = none ∨ ∃ t, p.outstanding = some t ∧ tag.toNat ≠ t.tag.toNat) →
      gives { p with lineErr := true, lineErrCount := min 65535 (p.lineErrCount + 1) }) ∧
    (∀ t, p.outstanding = some t → tag.toNat = t.tag.toNat → p.pending = none →
      gives { p with
        confTimer := none, lastConfirmed := some t.demand, outstanding := none,
        due := p.due.filter fun f => match f with | .query _ => true | .demand _ => false }) ∧
    (∀ t d, p.outstanding = some t → tag.toNat = t.tag.toNat → p.pending = some d →
      p.sending = none → p.due = [] → p.breaking = false →
      gives { p with
        confTimer := none, lastConfirmed := some t.demand, outstanding := some ⟨d, p.nextTag⟩, pending := none,
        nextTag := p.nextTag + 1, sending := some (.demand ⟨d, p.nextTag⟩) })) ∧
  (∀ (s : State) (c : Ch) (tag : Byte) (t : Tagged), s.part = .ready → SettingsInRange s → (s.ch c).state = .stopping → isLeader s c = false →
    (s.ch c).port.outstanding = some t → tag.toNat = t.tag.toNat → t.demand.mode = .off → (s.ch c).port.pending = none →
    ∃ u, exec (.confirm c tag) s = .next u ∧
      (u.ch c).state = (match (s.ch c).stopDest with | .idle => .idle | .complete => .complete) ∧
      (u.ch c).swapPending = none ∧ (u.ch c).port.lastConfirmed = some t.demand ∧ (u.ch c).port.outstanding = none ∧
      (u.ch c).port.confTimer = none ∧ u.pool = s.pool ∧ u.arb = s.arb ∧ u.prot = s.prot ∧
      ∀ d, d ≠ c → u.ch d = s.ch d))

/-- CONFIRMATION_TIMER_EXPIRY (R161) of a channel outside a pair. Where STAGE_NO_ACK is not latched and the channel is not
FAULTED, STAGE_NO_ACK latches with the outstanding demand's tag and the channel is FAULTED (R42), out of STOPPING too (R38),
an engaged channel with a resume point (log 41 for one without a window); where the demand was OFF, STAGE_UNSAFE latches with
it and the unsafe flag is set (R145). The port then goes on: an outstanding OFF is sent again with its own tag; any other
demand is given up for the OFF the fault has handed the port, with the next tag. In FAULTED with both kinds latched already
and nothing for the arbiter to do, the kinds make no report, an OFF sets the unsafe flag, and the port sends its pending
demand with a new tag, or the outstanding one again with its own. A timer that is not running does not expire (log 15). -/
def Obligations.ConfirmationTimeout : Prop :=
  (∀ (s : State) (c : Ch), NoFrameDue s → (s.ch c).port.confTimer = none ∨ (s.ch c).port.outstanding = none →
    exec (.confirmationTimerExpiry c) s = .next s) ∧
  (∀ (s : State) (c : Ch) (x : Tagged), s.part = .ready → paired s c = false → (s.ch c).state ≠ .faulted →
    hasKind (s.ch c).latched .stageNoAck = false → (s.ch c).port.confTimer ≠ none →
    (s.ch c).port.outstanding = some x → (s.ch c).port.presence = .present →
    ∃ t, exec (.confirmationTimerExpiry c) s = .next t ∧ (t.ch c).state = .faulted ∧
      (t.ch c).latched = (if x.demand.mode = .off then addKind (addKind (s.ch c).latched .stageNoAck) .stageUnsafe
        else addKind (s.ch c).latched .stageNoAck) ∧
      ((s.ch c).latched = 0 → (t.ch c).firstFault = some ⟨.stageNoAck, (s.ch c).stepIndex, (s.ch c).stepTime,
        x.tag.toNat, s.hall.partTime⟩) ∧
      ((s.ch c).state ∈ [.gap, .deferred, .starting, .running, .held, .stopping] →
        ∃ p, (t.ch c).resume = some p ∧ p.window = (s.ch c).active ∧ p.stepIndex = (s.ch c).stepIndex ∧
          p.stepTime = (s.ch c).stepTime ∧ p.loops = (s.ch c).loops ∧ p.cycle = (s.ch c).cycle) ∧
      (t.ch c).unsafeFlag = (if x.demand.mode = .off then true else (s.ch c).unsafeFlag) ∧ Unlisted t c ∧
      (t.ch c).swapPending = none ∧ (t.ch c).port.confTimer = none ∧
      ((s.ch c).port.standing ≠ some ⟨.off, 0, 0, 0⟩ → (t.ch c).port.pending = none ∧
        (t.ch c).port.outstanding =
          some (if x.demand = ⟨.off, 0, 0, 0⟩ then x else ⟨⟨.off, 0, 0, 0⟩, (s.ch c).port.nextTag⟩)) ∧
      (s.link.sending ≠ none → s.link.reports.length ≤ 32 → ∃ rest, t.link.reports = s.link.reports ++
        ⟨s.link.nextSeq, s.hall.partTime, chByte c, .fault .stageNoAck x.tag.toNat false (s.ch c).stepIndex
          (s.ch c).stepTime (addKind (s.ch c).latched .stageNoAck) .faulted⟩ :: rest) ∧
      BoardFrame s t ∧ ∀ d, d ≠ c → RunFrame (s.ch d) (t.ch d)) ∧
  (∀ (s : State) (c : Ch) (t : Tagged) (n : Nat), s.part = .ready → NoFrameDue s → ArbiterQuiet s →
    (s.ch c).state = .faulted → hasKind (s.ch c).latched .stageNoAck = true →
    hasKind (s.ch c).latched .stageUnsafe = true → (s.ch c).port.confTimer = some n →
    (s.ch c).port.outstanding = some t → (s.ch c).port.sending = none → (s.ch c).port.due = [] →
    (s.ch c).port.breaking = false →
    let p := (s.ch c).port
    let gives := fun q => exec (.confirmationTimerExpiry c) s = .next (s.modCh c fun ch =>
      { ch with unsafeFlag := if t.demand.mode = .off then true else ch.unsafeFlag, port := q })
    (p.pending = none → gives { p with confTimer := none, sending := some (.demand t) }) ∧
    (∀ d, p.pending = some d → gives { p with
      confTimer := none, pending := none, outstanding := some ⟨d, p.nextTag⟩, nextTag := p.nextTag + 1,
      sending := some (.demand ⟨d, p.nextTag⟩) }))

/-- READING (R163, R53, R164) in READY. Discarded as one line error where no QUERY of the open period awaits it or its start
byte came too soon. Taken otherwise: on a channel outside a pair whose figures are within every limit and whose stage reports
no flag, the last reading is the converted one, the held flag and the missed count clear, the period is taken, a regulation
state OFF clears the unsafe flag (R145), and presence is PRESENT; the run, the accounts and the other channels stand. In
general the kinds that latch are those of R135's checks and of R136 that fail, LIMIT_T_LOW only while it is not in the warn
set; the first of them in that order is the first fault of a channel without one, and one that latches newly faults the
channel and makes the first FAULT report. A warned LIMIT_T_LOW makes a warn-only report once until a reading at or above
T_min (R139), and a rising DERATE one STAGE_DERATE report. An ABSENT stage becomes PRESENT, and its port drops a pending
demand that is the last confirmed one and sends any other (R164; presence after the checks is the model's reading, log 28).
-/
def Obligations.ReadingTaken : Prop :=
  (∀ (s : State) (c : Ch) (after : Bool) (raw : RawReading), s.part = .ready → NoFrameDue s →
    (s.ch c).port.queryAwaiting = false ∨ after = false →
    exec (.reading c after raw) s = .next (s.modCh c fun ch =>
      { ch with port := { ch.port with lineErr := true, lineErrCount := min 65535 (ch.port.lineErrCount + 1) } })) ∧
  (∀ (s : State) (c : Ch) (raw : RawReading), s.part = .ready → NoFrameDue s → (s.ch c).port.queryAwaiting = true →
    paired s c = false → (s.ch c).port.presence = .present → raw.flags = 0 →
    let rd := takeRaw (s.ch c).cal raw s.hall.partTime
    let set := (s.ch c).settings
    set.vMin ≤ rd.v → rd.v ≤ set.vMax → rd.i.natAbs ≤ set.iMax → set.tMin ≤ rd.t → rd.t ≤ set.tMax →
    exec (.reading c true raw) s = .next (s.modCh c fun ch =>
      { ch with
        last := rd
        held := false
        missed := 0
        taken := true
        unsafeFlag := if rd.reg = .off then false else ch.unsafeFlag
        warnedTLow := false
        derateSeen := false
        port := { ch.port with queryAwaiting := false } })) ∧
  (∀ (s : State) (c : Ch) (raw : RawReading), s.part = .ready → (s.ch c).port.queryAwaiting = true → paired s c = false →
    let ch := s.ch c
    let p := ch.port
    let rd := takeRaw ch.cal raw s.hall.partTime
    let set := ch.settings
    let flags := (if rd.fault then 1 else 0) + (if rd.interlock then 2 else 0)
    let cold : Prop := rd.t < set.tMin
    let warns : Prop := cold ∧ set.warnTLow = .warn
    let fails : FaultKind → Prop := fun k =>
      k = .limitVHigh ∧ set.vMax < rd.v ∨ k = .limitVLow ∧ rd.v < set.vMin ∨ k = .limitI ∧ set.iMax < rd.i.natAbs ∨
      k = .limitTHigh ∧ set.tMax < rd.t ∨ k = .limitTLow ∧ cold ∧ ¬warns ∨ k = .stageReported ∧ flags ≠ 0
    let value : FaultKind → Int := fun k =>
      if k = .limitVHigh ∨ k = .limitVLow then rd.v else if k = .limitI then rd.i
      else if k = .stageReported then flags else rd.t
    ∃ t, exec (.reading c true raw) s = .next t ∧
      let first := fun body : ReportBody => ArbiterQuiet s → s.link.sending ≠ none → s.link.reports.length ≤ 32 →
        s.link.reports ++ [⟨s.link.nextSeq, s.hall.partTime, chByte c, body⟩] <+: t.link.reports
      (t.ch c).last = rd ∧ (t.ch c).held = false ∧ (t.ch c).missed = 0 ∧ (t.ch c).taken = true ∧
      (t.ch c).unsafeFlag = (if rd.reg = .off then false else ch.unsafeFlag) ∧
      (∀ k, hasKind (t.ch c).latched k = true ↔ hasKind ch.latched k = true ∨ fails k) ∧
      (ch.latched ≠ 0 → (t.ch c).firstFault = ch.firstFault) ∧
      (∀ k, ch.latched = 0 → fails k → (∀ j, j.code < k.code → ¬fails j) →
        (t.ch c).firstFault = some ⟨k, ch.stepIndex, ch.stepTime, value k, s.hall.partTime⟩) ∧
      (∀ k, fails k → hasKind ch.latched k = false → (∀ j, j.code < k.code → fails j → hasKind ch.latched j = true) →
        (t.ch c).state = .faulted ∧ (¬warns → first (.fault k (value k) false ch.stepIndex ch.stepTime
          (addKind ch.latched k) .faulted))) ∧
      (t.ch c).warnedTLow = (if ¬cold then false else if warns then true else ch.warnedTLow) ∧
      (t.ch c).derateSeen = rd.derate ∧
      ((∀ k, ¬fails k) → warns → ch.warnedTLow = false →
        first (.fault .limitTLow rd.t true ch.stepIndex ch.stepTime ch.latched ch.state)) ∧
      ((∀ k, ¬fails k) → ¬warns ∨ ch.warnedTLow = true → rd.derate = true → ch.derateSeen = false →
        first (.stageDerate rd.v rd.i rd.t)) ∧
      (t.ch c).port.presence = .present ∧
      ((∀ k, ¬fails k) → ArbiterQuiet s → p.presence = .absent → s.hall.state ≠ .pausing → ch.state ≠ .stopping →
        let tagged := fun d : Demand => (⟨d, p.nextTag⟩ : Tagged)
        let free : Prop := p.sending = none ∧ p.due = [] ∧ p.breaking = false
        let q := { p with presence := .present, queryAwaiting := false }
        (p.pending = none → (t.ch c).port = q) ∧
        (∀ d, p.pending = some d → p.lastConfirmed = some d → (t.ch c).port = { q with pending := none }) ∧
        (∀ d, p.pending = some d → p.lastConfirmed ≠ some d → (t.ch c).port =
          { q with
            pending := none, outstanding := some (tagged d), nextTag := p.nextTag + 1
            sending := if free then some (.demand (tagged d)) else p.sending
            due := if free then p.due else p.due ++ [.demand (tagged d)] })) ∧
      BoardFrame (s.modCh c fun ch =>
        { ch with last := rd, held := false, missed := 0, taken := true, port := { ch.port with presence := .present } }) t ∧
      ∀ d, d ≠ c → RunFrame (s.ch d) (t.ch d))

/-- The pack reading (R128) and its checks (R129, R130), for leader l, itself no follower, and follower f. A member's READING
is checked against its own I_max alone; the second of the period completes the pack reading, the first leaves it as it
stands, and the leader's PERIOD_EVENT completes it where no reading has. Its fields are the table's; at a completion with a
reading taken the leader latches each limit kind the pack voltage or temperature fails by the leader's limits, LIMIT_T_LOW
while not in the warn set, and the follower none; and PAIR_MISMATCH, not in the warn set, where both readings were taken,
neither is held and the leader's stage is PRESENT, and the voltages differ by more than the leader's tolerance. At the period
event each member's missed period counts on its own. That the completion comes last in a reading's event is the model's
reading (log 28). -/
def Obligations.PackCompletes : Prop :=
  let packs := fun (l f : Channel) => (⟨l.last.v, l.last.i + f.last.i, max l.last.t f.last.t,
    (if l.last.reg.rank ≤ f.last.reg.rank then l.last.reg else f.last.reg), l.last.overV, l.last.overI || f.last.overI,
    l.last.overT || f.last.overT, l.held || f.held⟩ : PackReading)
  let limits := fun (a b : Channel) (checked : Prop) =>
    let set := a.settings
    (hasKind b.latched .limitVHigh = true ↔ hasKind a.latched .limitVHigh = true ∨ checked ∧ set.vMax < b.pack.v) ∧
    (hasKind b.latched .limitVLow = true ↔ hasKind a.latched .limitVLow = true ∨ checked ∧ b.pack.v < set.vMin) ∧
    (hasKind b.latched .limitTHigh = true ↔ hasKind a.latched .limitTHigh = true ∨ checked ∧ set.tMax < b.pack.t) ∧
    (hasKind b.latched .limitTLow = true ↔ hasKind a.latched .limitTLow = true ∨
      checked ∧ b.pack.t < set.tMin ∧ set.warnTLow = .latch)
  let mismatch := fun (a b g : Channel) (compared : Prop) =>
    hasKind b.latched .pairMismatch = true ↔ hasKind a.latched .pairMismatch = true ∨
      compared ∧ a.settings.warnMismatch = .latch ∧ a.settings.pairTolerance < ((b.last.v : Int) - g.last.v).natAbs
  let frame := fun (s t : State) (l f : Ch) => t.pool = s.pool ∧ t.prot = s.prot ∧ t.image = s.image ∧
    t.arb.budget = s.arb.budget ∧ ∀ d, (t.ch d).settings = (s.ch d).settings ∧
      (d ≠ l → d ≠ f → ChFrame (s.ch d) (t.ch d) ∧ RunFrame (s.ch d) (t.ch d))
  (∀ (r : Regulation), r.rank = (match r with | .off => 0 | .idle => 1 | .current => 2 | .voltageLimited => 3)) ∧
  (∀ (s : State) (c l f : Ch) (raw : RawReading), s.part = .ready → isLeader s l = true → f = partner l →
    (s.ch l).state ≠ .follower → (c = l ∨ c = f) → (s.ch c).port.queryAwaiting = true →
    let rd := takeRaw (s.ch c).cal raw s.hall.partTime
    let other := if c = l then f else l
    let done : Prop := (s.ch other).taken = true ∧ (s.ch l).packDone = false
    ∃ t, exec (.reading c true raw) s = .next t ∧ (t.ch c).last = rd ∧ (t.ch c).held = false ∧ (t.ch c).missed = 0 ∧
      (t.ch c).taken = true ∧ (t.ch c).port.presence = .present ∧ (t.ch other).last = (s.ch other).last ∧
      (t.ch l).pack = (if done then packs (t.ch l) (t.ch f) else (s.ch l).pack) ∧
      ((t.ch l).packDone = true ↔ done ∨ (s.ch l).packDone = true) ∧
      (hasKind (t.ch c).latched .limitI = true ↔
        hasKind (s.ch c).latched .limitI = true ∨ (s.ch c).settings.iMax < rd.i.natAbs) ∧
      limits (s.ch l) (t.ch l) done ∧
      mismatch (s.ch l) (t.ch l) (t.ch f) (done ∧ (t.ch l).pack.held = false ∧ (t.ch l).port.presence = .present) ∧
      (∀ k ∈ [FaultKind.limitVHigh, .limitVLow, .limitTHigh, .limitTLow, .pairMismatch],
        hasKind (t.ch f).latched k = hasKind (s.ch f).latched k) ∧ frame s t l f) ∧
  (∀ (s : State) (l f : Ch), s.part = .ready → isLeader s l = true → f = partner l → (s.ch l).state ≠ .follower →
    let tL := (s.ch l).taken
    let tF := (s.ch f).taken
    let present : Prop := (s.ch l).port.presence = .present
    let missed := fun (a b : Channel) => a.taken = false →
      b.held = true ∧ b.missed = (if a.port.presence = .present then min 65535 (a.missed + 1) else a.missed) ∧
      (a.port.presence = .present → 3 ≤ b.missed → hasKind b.latched .stageSilent = true)
    ∃ t, exec (.periodEvent l) s = .next t ∧ (t.ch l).last = (s.ch l).last ∧ (t.ch f).last = (s.ch f).last ∧
      missed (s.ch l) (t.ch l) ∧ missed (s.ch f) (t.ch f) ∧ (t.ch l).taken = false ∧ (t.ch f).taken = false ∧
      (t.ch l).packDone = false ∧
      (t.ch l).pack = (if (s.ch l).packDone then (s.ch l).pack else packs (t.ch l) (t.ch f)) ∧
      limits (s.ch l) (t.ch l) ((s.ch l).packDone = false ∧ (tL = true ∨ tF = true)) ∧
      mismatch (s.ch l) (t.ch l) (t.ch f)
        ((s.ch l).packDone = false ∧ tL = true ∧ tF = true ∧ (t.ch l).pack.held = false ∧ present) ∧ frame s t l f)

/-- The run of a pair's leader on its pack reading (R54, R127, R128): a PERIOD_EVENT in an ACTIVE hall, both stages PRESENT,
in which no kind latches; between events both budget tests hold (`ArbiterSound`, a premise of the clauses on a grant that
must stay). A pack period is taken where both members' readings were. In RUNNING step time goes up by the period's length,
the step, cycle and lifetime accounts take the pack's charge and energy, held parts included, V_peak follows the pack voltage
of a taken pack period, and the confirm counters move by the pack figures, the measured conditions on taken pack periods
only. Where none fires, the leader stays in its step, a point in play is counted, and both ports are handed the shares of the
demand it calls for. Where one fires, of a period whose pack reading was completed by its readings, STEP_END comes first and
the leader lands on the step chosen (`Landed`). In STARTING step time and V_peak stand; the start completes where the pack
period was taken, the pack shows CURRENT or VOLTAGE_LIMITED, and neither port has an outstanding or pending demand and each a
REGULATE confirmed: it is RUNNING with its grant live, and the end conditions are tested in the same event with V_peak as it
stood, V_DROP seeing no drop before V_peak has been updated (the model's choice, log 43); otherwise it stays STARTING. The
next period has the working period. What the pack reading holds is `PackCompletes`; the closed period has the length the
state holds (log 10). -/
def Obligations.LeaderRuns : Prop :=
  ∀ (s : State) (l f : Ch) (x : StepRecord), s.part = .ready → isLeader s l = true → f = partner l →
    s.hall.state = .active → (s.ch l).port.presence = .present → (s.ch f).port.presence = .present →
    currentStep s l = some x →
    let ch := s.ch l
    let taken : Bool := ch.taken = true ∧ (s.ch f).taken = true
    ∃ t, exec (.periodEvent l) s = .next t ∧ (∀ d, d ≠ l → d ≠ f → ChFrame (s.ch d) (t.ch d) ∧ RunFrame (s.ch d) (t.ch d)) ∧
      let p := (t.ch l).pack
      let a := workedPack ch p taken
      let counters := stepCounters a ⟨p.v, p.i, p.t, p.reg⟩ taken x.conds ch.confirms
      let fired := firstFired 0 x.conds counters
      let share := (calledFor t l).1
      let handed := (t.ch l).port.standing = some (leaderShare share) ∧
        (t.ch f).port.standing = some (if (t.ch f).latched = 0 then followerShare share else ⟨.off, 0, 0, 0⟩)
      let fed := (t.ch l).qStep = a.qStep ∧ (t.ch l).eStep = a.eStep ∧ (t.ch l).cycle = a.cycle ∧
        (t.ch l).life = a.life ∧ (t.ch l).lifeSaturated = a.lifeSaturated ∧ (t.ch l).stepIndex = ch.stepIndex ∧
        (t.ch l).periodLength = 10 * 2 ^ ch.settings.periodExp ∧ (t.ch f).periodLength = (t.ch l).periodLength
      let plays := ∃ q, playPoint ch = some q ∧ ch.play.inPlay = true ∧ ch.play.played + 1 < q.duration
      (ch.state = .running → (t.ch l).latched = ch.latched → ArbiterSound s → fired = none → (x.kind = .profile → plays) →
        (t.ch l).state = .running ∧ (t.ch l).stepTime = a.stepTime ∧ (t.ch l).vPeak = a.vPeak ∧
        (t.ch l).confirms = counters ∧ (t.ch l).lastDir = ch.lastDir ∧ fed ∧ handed ∧
        (t.ch l).play = (if x.kind = .profile then { ch.play with played := ch.play.played + 1 } else ch.play)) ∧
      (∀ i e, ch.state = .running → ch.packDone = true → taken = true → fired = some (i, e) →
        (x.kind = .profile → plays) →
        let k := match e.action with | .goto n => n | _ => ch.stepIndex + 1
        (s.link.sending ≠ none → s.link.reports.length ≤ 32 → s.link.reports ++
          [⟨s.link.nextSeq, s.hall.partTime, chByte l, .stepEnd ch.stepIndex x.kind (.condition i e.kind) e.action
            (if e.action = .endSchedule then none else some k) a.stepTime (reported a.qStep) (reported a.eStep)
            ch.cycleNumber⟩] <+: t.link.reports) ∧
        (∀ w y, ch.active = some w → e.action ≠ .endSchedule → k < w.length → poolRead s.pool (w.base + k) = some y →
          y.kind ≠ .mark → ArbiterSound s → CreditSpared s l → Landed a t l k y (e.action = .hold))) ∧
      (ch.state = .starting → (t.ch l).latched = ch.latched →
        let complete : Prop := taken = true ∧ (p.reg = .current ∨ p.reg = .voltageLimited) ∧ ∀ d, d = l ∨ d = f →
          (s.ch d).port.outstanding = none ∧ (s.ch d).port.pending = none ∧
          ∃ z, (s.ch d).port.lastConfirmed = some z ∧ z.mode = .regulate
        let b := { a with stepTime := ch.stepTime, vPeak := ch.vPeak }
        let tests := stepCounters b ⟨p.v, p.i, p.t, p.reg⟩ taken x.conds ch.confirms
        (¬complete → ArbiterSound s → (t.ch l).state = .starting ∧ (t.ch l).startTimer = ch.startTimer ∧ (t.ch l).stepTime = ch.stepTime ∧
          (t.ch l).vPeak = ch.vPeak ∧ (t.ch l).confirms = ch.confirms ∧ fed ∧ handed) ∧
        (complete → ArbiterSound s → firstFired 0 x.conds tests = none → x.kind ≠ .profile →
          (t.ch l).state = .running ∧ (t.ch l).startTimer = none ∧ (t.ch l).stepTime = ch.stepTime ∧
          (t.ch l).vPeak = ch.vPeak ∧ (t.ch l).confirms = tests ∧ fed ∧ handed ∧
          ∀ g, grantOf s l = some g → grantOf t l = some { g with live := true }))

/-- The conversion of a raw code (R57, R58): the product of code and gain, a 64-bit number, divided by 65,536 and rounded
half away from zero, plus the offset; clamped to the quantity's range, the over-range flag set when the sum lies outside it.
-/
def Obligations.Conversion : Prop :=
  (∀ raw gain offset : Int, ∃ q : Int, convert raw gain offset = q + offset ∧
    2 * (65536 * q - raw * gain).natAbs ≤ 65536 ∧
    (2 * (65536 * q - raw * gain).natAbs = 65536 → (raw * gain).natAbs < 65536 * q.natAbs)) ∧
  (∀ raw gain : Int, -2 ^ 23 ≤ raw → raw < 2 ^ 24 → -2 ^ 31 ≤ gain → gain < 2 ^ 31 →
    -2 ^ 63 ≤ raw * gain ∧ raw * gain < 2 ^ 63) ∧
  (∀ raw offset : Int, convert raw 65536 offset = raw + offset ∧ convert raw 0 offset = offset) ∧
  (∀ (cal : Calibration) (raw : RawReading) (now : Nat),
    let rd := takeRaw cal raw now
    let v := convert raw.rawV.toNat cal.vGain.toInt cal.vOffset.toInt
    let i := convert raw.rawI.toInt cal.iGain.toInt cal.iOffset.toInt
    let t := convert raw.rawT.toInt cal.tGain.toInt cal.tOffset.toInt
    (rd.v : Int) = max 0 (min 125000 v) ∧ (rd.overV = true ↔ v < 0 ∨ 125000 < v) ∧
    rd.i = max (-420000) (min 420000 i) ∧ (rd.overI = true ↔ i < -420000 ∨ 420000 < i) ∧
    rd.t = max (-500) (min 2000 t) ∧ (rd.overT = true ↔ t < -500 ∨ 2000 < t) ∧
    rd.rawV = raw.rawV.toNat ∧ rd.rawI = raw.rawI.toInt ∧ rd.rawT = raw.rawT.toInt ∧ rd.takenAt = some now)

/-! ### Periods and timers -/

/-- The period in force and the open period (R50, R51). The period in force is the working period of 10 × 2^k ms in GAP,
DEFERRED, STARTING, RUNNING, HELD and STOPPING while the hall is not PAUSED, and 1,000 ms otherwise. The law, whatever the
command: on a channel outside FOLLOWER whose period does not close, an open period is brought forward where the period in
force becomes shorter, to its own end or the new period in force from the moment of the change, whichever comes first, and
runs to its own end otherwise. A PERIOD_EVENT opens the next period, a leader's on its follower too, with the period in force
once the event's stages have been worked, so that a channel a stage faults samples at the standby period from then on (the
model's reading from the worked example of R55, log 37). -/
def Obligations.PeriodInForce : Prop :=
  let inForce := fun (s : State) (c : Ch) =>
    if (s.ch c).state ∈ [.gap, .deferred, .starting, .running, .held, .stopping] ∧ s.hall.state ≠ .paused then
      10 * 2 ^ (s.ch c).settings.periodExp
    else 1000
  (∀ (i : Instr) (s t : State) (c : Ch), exec i s = .next t → s.part = .ready → t.part = .ready →
    (s.ch c).state ≠ .follower → (t.ch c).state ≠ .follower → i ≠ .periodEvent c →
    let a := s.ch c
    (t.ch c).periodElapsed = a.periodElapsed ∧ (t.ch c).periodLength =
      if inForce t c < inForce s c then min a.periodLength (a.periodElapsed + inForce t c) else a.periodLength) ∧
  (∀ (s : State) (c : Ch), s.part = .ready → (s.ch c).state ≠ .follower → ∃ t, exec (.periodEvent c) s = .next t ∧
    (t.ch c).periodElapsed = 0 ∧ (t.ch c).taken = false ∧ (t.ch c).periodLength = inForce t c ∧
    (isLeader s c = true → (t.ch (partner c)).periodElapsed = 0 ∧ (t.ch (partner c)).taken = false ∧
      (t.ch (partner c)).periodLength = inForce t c))

/-- PERIOD_EVENT (R51, R54, R63 to R67) of a channel outside a pair in IDLE, COMPLETE or FAULTED whose period was taken: the
period closes, the next opens with the standby period and its QUERY, and, with the stage PRESENT, the charge and energy of
the period's length go into the lifetime accounts by their signs, saturating. Nothing else changes. A follower has no period
timer of its own (R50), and the command changes nothing on it (the model's reading, log 39). PERIOD_EVENT of a channel
outside a pair RUNNING a step that is not PROFILE, in an ACTIVE hall, whose period was taken, or missed without STAGE_SILENT,
and none of whose end conditions reaches its count (R54, R55, R61, R64 to R67, R73, R74): step time goes up by the period's
length, the step, cycle and lifetime accounts take its charge and energy, held values where it was missed, V_peak follows the
voltage of a taken one, each confirm counter moves by its condition (`EndConditions`), the channel stays RUNNING its step,
and its setpoint is refreshed (`Setpoint`), which on REST changes nothing. The QUERY of the next period becomes due first,
before a changed demand (the model's reading, log 37), and one of an earlier period that still waits stays due before it (the
model's choice, log 67). The length of the closed period is the one the state holds (the model's reading, log 10). -/
def Obligations.PeriodEvent : Prop :=
  ((∀ (s : State) (c : Ch), NoFrameDue s → (s.ch c).state = .follower → exec (.periodEvent c) s = .next s) ∧
  (∀ (s : State) (c : Ch), s.part = .ready → NoFrameDue s → isLeader s c = false →
    (s.ch c).state ∈ [.idle, .complete, .faulted] → (s.ch c).taken = true →
    let ch := s.ch c
    let dq : Int := ch.last.i * ch.periodLength
    let de : Int := powerOf ch.last.v ch.last.i * ch.periodLength
    let limit := 2 ^ 63 - 1
    let opened := { ch with
      taken := false, packDone := false, periodElapsed := 0, periodLength := 1000, port := ch.port.openPeriod }
    exec (.periodEvent c) s = .next (s.modCh c fun _ =>
      if ch.port.presence = .absent then opened
      else
        { opened with
          life := ⟨min limit (ch.life.qChg + dq.toNat), min limit (ch.life.qDis + (-dq).toNat),
            min limit (ch.life.eChg + de.toNat), min limit (ch.life.eDis + (-de).toNat)⟩
          lifeSaturated := ch.lifeSaturated || decide (limit < ch.life.qChg + dq.toNat ∨
            limit < ch.life.qDis + (-dq).toNat ∨ limit < ch.life.eChg + de.toNat ∨
            limit < ch.life.eDis + (-de).toNat) }))) ∧
  (∀ (s : State) (c : Ch) (x : StepRecord), s.part = .ready → NoFrameDue s → paired s c = false →
    (s.ch c).state = .running → s.hall.state = .active → (s.ch c).taken = true ∨ (s.ch c).missed < 2 →
    (s.ch c).port.presence = .present → currentStep s c = some x → x.kind ≠ .profile →
    let counters := stepCounters (worked (s.ch c)) (lastFigures (s.ch c)) (s.ch c).taken x.conds (s.ch c).confirms
    firstFired 0 x.conds counters = none →
    let t := s.modCh c fun ch => { worked ch with confirms := counters }
    exec (.periodEvent c) s = .next (issue t c) ∧
    (x.kind = .rest → (s.ch c).port.standing = some ⟨.idle, 0, 0, 0⟩ → issue t c = t))

/-- A missed period (R55) of a channel outside a pair: the last reading stands with the held flag set, and while the stage is
PRESENT the missed-period count goes up, saturating at 65,535, and the held values go into the lifetime accounts (R67); while
it is ABSENT neither happens. A count of 3 or more latches STAGE_SILENT with the count, at stage 1, before the period's
charge and energy are worked; the latched channel is dealt with as R42 gives, an engaged channel without an active window
having a resume point without one (the model's choice, log 41). In IDLE, COMPLETE and FAULTED, where nothing latches newly,
nothing else changes. A QUERY of an earlier period that still waits stays due before the new one (the model's choice, log
67). The length of the closed period is the one the state holds (the model's reading, log 10). -/
def Obligations.MissedPeriod : Prop :=
  ∀ (s : State) (c : Ch), s.part = .ready → paired s c = false → (s.ch c).taken = false →
    let ch := s.ch c
    let present : Prop := ch.port.presence = .present
    let count := min 65535 (ch.missed + 1)
    let silent : Prop := present ∧ 3 ≤ count
    let dq : Int := ch.last.i * ch.periodLength
    let de : Int := powerOf ch.last.v ch.last.i * ch.periodLength
    (∃ t, exec (.periodEvent c) s = .next t ∧ (t.ch c).held = true ∧ (t.ch c).last = ch.last ∧ (t.ch c).taken = false ∧
      (t.ch c).missed = (if present then count else ch.missed) ∧ (t.ch c).port.presence = ch.port.presence ∧
      (t.ch c).life = (if present then ch.life.feed dq de else ch.life) ∧
      (silent → hasKind (t.ch c).latched .stageSilent = true) ∧
      (silent → hasKind ch.latched .stageSilent = false → ch.state ≠ .faulted → FaultTaken s t c .stageSilent count) ∧
      (¬silent → (t.ch c).latched = ch.latched ∨ ch.state ∈ [.starting, .running])) ∧
    (NoFrameDue s → ArbiterQuiet s → ch.state ∈ [.idle, .complete, .faulted] → (silent → hasKind ch.latched .stageSilent = true) →
      exec (.periodEvent c) s = .next (s.modCh c fun ch =>
        { ch with
          held := true
          missed := if present then count else ch.missed
          life := if present then ch.life.feed dq de else ch.life
          lifeSaturated := if present then ch.lifeSaturated || ch.life.saturates dq de else ch.lifeSaturated
          taken := false
          packDone := false
          periodElapsed := 0
          periodLength := 1000
          port := ch.port.openPeriod }))

/-- PERIOD_EVENT in STARTING (R27, R54), out of a pair, in an ACTIVE hall, the stage PRESENT. Step time and V_peak stand and
the accounts are fed. The start completes at a taken period whose reading shows CURRENT or VOLTAGE_LIMITED while the port has
no outstanding and no pending demand and a REGULATE confirmed: the start timer stops, the channel is RUNNING, its grant is
live, and the end conditions are tested in the same event, V_DROP seeing no drop before V_peak has been updated (the model's
choice, log 43); one that fires ends the step with the step time as it stood. Otherwise the channel stays STARTING, no
condition is tested, and the setpoint is refreshed. The QUERY of the next period becomes due before the refreshed demand (the
model's reading, log 37), and one of an earlier period that still waits stays due before it (the model's choice, log 67). The
length of the closed period is the one the state holds (the model's reading, log 10). -/
def Obligations.StageStart : Prop :=
  ∀ (s : State) (c : Ch) (x : StepRecord), s.part = .ready → paired s c = false → (s.ch c).state = .starting →
    s.hall.state = .active → (s.ch c).port.presence = .present → (s.ch c).taken = true ∨ (s.ch c).missed < 2 →
    currentStep s c = some x →
    let ch := s.ch c
    let p := ch.port
    let a := { worked ch with stepTime := ch.stepTime, vPeak := ch.vPeak }
    let counters := stepCounters a (lastFigures ch) ch.taken x.conds ch.confirms
    let complete : Prop := ch.taken = true ∧ p.outstanding = none ∧ p.pending = none ∧
      (∃ d, p.lastConfirmed = some d ∧ d.mode = .regulate) ∧ (ch.last.reg = .current ∨ ch.last.reg = .voltageLimited)
    (NoFrameDue s → ¬complete → exec (.periodEvent c) s = .next (issue (s.modCh c fun _ => a) c)) ∧
    (ArbiterSound s → complete → ch.play.underrun = false → ch.play.profileEnd = false →
      (∀ q, playPoint ch = some q → ch.play.played < q.duration) →
      ∃ t, exec (.periodEvent c) s = .next t ∧
        (firstFired 0 x.conds counters = none →
          (t.ch c).state = .running ∧ (t.ch c).startTimer = none ∧ (t.ch c).stepIndex = ch.stepIndex ∧
          (t.ch c).stepTime = ch.stepTime ∧ (t.ch c).qStep = a.qStep ∧ (t.ch c).eStep = a.eStep ∧
          (t.ch c).cycle = a.cycle ∧ (t.ch c).vPeak = ch.vPeak ∧ (t.ch c).confirms = counters ∧
          (t.ch c).lastDir = ch.lastDir ∧ (∀ g, grantOf s c = some g → grantOf t c = some { g with live := true }) ∧
          (∀ g ∈ s.arb.grants, g.ch ≠ c → g ∈ t.arb.grants) ∧ (t.ch c).port.standing = some (calledFor t c).1) ∧
        (∀ i e, firstFired 0 x.conds counters = some (i, e) → s.link.sending ≠ none → s.link.reports.length ≤ 32 →
          s.link.reports ++ [⟨s.link.nextSeq, s.hall.partTime, chByte c, .stepEnd ch.stepIndex x.kind
            (.condition i e.kind) e.action (chosenIndex ch.stepIndex e.action) ch.stepTime (reported a.qStep)
            (reported a.eStep) ch.cycleNumber⟩] <+: t.link.reports) ∧
        BoardFrame (s.modCh c fun _ => a) t ∧ ∀ d, d ≠ c → RunFrame (s.ch d) (t.ch d))

/-- End conditions (R74 to R78). Each kind's comparison, signed and exact: the measured kinds are evaluated on taken periods
only, I_BELOW holds only under VOLTAGE_LIMITED, and the voltage's drop from V_peak counts as none where V_peak is below it
(the model's choice, log 43), so that a negative V_DROP threshold always holds. A counter goes up by one where its condition
holds, to at most 8, is 0 where it does not, and stands where it is not evaluated. The condition that fires is the first in
the list whose counter has reached its confirm count. -/
def Obligations.EndConditions : Prop :=
  (∀ (ch : Channel) (f : Figures) (taken : Bool) (e : EndCond),
    let n := e.threshold
    let measured := fun p : Bool => condHolds ch f taken e = if taken then some p else none
    (e.kind = .vAbove → measured (n ≤ f.v)) ∧ (e.kind = .vBelow → measured ((f.v : Int) ≤ n)) ∧
    (e.kind = .tAbove → measured (n ≤ f.t)) ∧
    (e.kind = .vDrop → measured (n ≤ 0 ∨ n ≤ (ch.vPeak : Int) - f.v)) ∧
    (e.kind = .iBelow → measured (f.reg = .voltageLimited ∧ (f.i.natAbs : Int) ≤ n)) ∧
    (e.kind = .time → condHolds ch f taken e = some (decide (n ≤ ch.stepTime))) ∧
    (e.kind = .charge → condHolds ch f taken e = some (decide (n * 3600 ≤ ch.qStep.natAbs))) ∧
    (e.kind = .energy → condHolds ch f taken e = some (decide (n * 3600 ≤ ch.eStep.natAbs)))) ∧
  (∀ (ch : Channel) (f : Figures) (taken : Bool) (es : List EndCond) (ns : List Nat) (j : Nat) (n : Nat), ns[j]? = some n →
    (es[j]? = none → (stepCounters ch f taken es ns)[j]? = some n) ∧
    ∀ e, es[j]? = some e → (stepCounters ch f taken es ns)[j]? = some
      (match condHolds ch f taken e with
      | some true => min 8 (n + 1)
      | some false => 0
      | none => n)) ∧
  (∀ (es : List EndCond) (ns : List Nat) (i : Nat) (e : EndCond), firstFired 0 es ns = some (i, e) ↔
    (es[i]? = some e ∧ ∃ n, ns[i]? = some n ∧ e.confirm ≤ n) ∧
    ∀ (j : Nat) (d : EndCond) (m : Nat), j < i → es[j]? = some d → ns[j]? = some m → m < d.confirm) ∧
  (∀ (es : List EndCond) (ns : List Nat), firstFired 0 es ns = none →
    ∀ (j : Nat) (d : EndCond) (m : Nat), es[j]? = some d → ns[j]? = some m → m < d.confirm)

/-- The demand a channel calls for (R46 to R48, R113, R126) and its issue (R46, R48, R127, R158). REGULATE in STARTING and
RUNNING, with the current and voltages of the step's kind, the magnitude brought down to the smaller of cap and claim
current, and the clamp flag set where that lowers it; IDLE on REST and in GAP, DEFERRED and HELD; OFF in every other state. A
power's current is rounded half away from zero, the claim current down, over the larger of the latest voltage and 2,000 mV. A
leader's voltage is the pack reading's as it stands (the model's choice before the first completion, log 47). A demand that
differs from the last one handed to the port becomes the standing one: pending while ABSENT, sent with the next tag where
none is outstanding, absorbed where it is the outstanding one, and pending otherwise; one that does not differ leaves the
port alone. A pair's ports are handed the shares, a follower with a latched set OFF. -/
def Obligations.Setpoint : Prop :=
  (∀ (s : State) (c : Ch) (x : StepRecord), (s.ch c).state = .starting ∨ (s.ch c).state = .running →
    currentStep s c = some x →
    let set := (s.ch c).settings
    let play := (s.ch c).play
    let leads := isLeader s c
    let v := max (if leads then (s.ch c).pack.v else (s.ch c).last.v) 2000
    let both := 2 * min set.iMax (s.ch (partner c)).settings.iMax
    let cap := if leads then min (x.cap.getD both) both else x.cap.getD set.iMax
    let claim := ((s.arb.grants.find? fun g => g.ch = c).map fun g => g.amount * 1000000 / v).getD 0
    let limit := min cap claim
    let rounded := fun p : Nat => (2 * (p * 1000000) + v) / (2 * v)
    let point := (s.ch c).queue[if set.profileMode = .repeat then play.position else 0]?
    let figures : Int × Nat × Nat :=
      match x with
      | .charge i upper _ _ => (i, upper, set.vMin)
      | .discharge i lower _ _ => (-i, set.vMax, lower)
      | .chargePower p upper _ _ _ => (rounded p, upper, set.vMin)
      | .dischargePower p lower _ _ _ => (-(rounded p), set.vMax, lower)
      | .profile upper lower _ _ _ => ((point.map Point.current).getD play.heldCurrent, upper, lower)
      | _ => (0, 0, 0)
    calledFor s c = if x.kind = .rest ∨ x.kind = .mark then (⟨.idle, 0, 0, 0⟩, false)
      else (⟨.regulate, max (-(limit : Int)) (min limit figures.1), figures.2.1, figures.2.2⟩,
        decide (limit < figures.1.natAbs))) ∧
  (∀ (s : State) (c : Ch),
    ((s.ch c).state ∈ [.gap, .deferred, .held] → calledFor s c = (⟨.idle, 0, 0, 0⟩, false)) ∧
    ((s.ch c).state ∈ [.idle, .stopping, .complete, .faulted, .follower] → calledFor s c = (⟨.off, 0, 0, 0⟩, false))) ∧
  (∀ (s : State) (c : Ch), isLeader s c = false →
    let d := (calledFor s c).1
    let p := (s.ch c).port
    let tagged : Tagged := ⟨d, p.nextTag⟩
    let free : Prop := p.sending = none ∧ p.due = [] ∧ p.breaking = false
    issue s c = s.modCh c fun ch =>
      { ch with
        clamped := ch.clamped || (calledFor s c).2
        port :=
          if p.standing = some d then p
          else if p.presence = .absent then { p with standing := some d, pending := some d }
          else if p.outstanding = none then
            { p with
              standing := some d, outstanding := some tagged, nextTag := p.nextTag + 1
              sending := if free then some (.demand tagged) else p.sending
              due := if free then p.due else p.due ++ [.demand tagged] }
          else { p with
            standing := some d
            pending := if p.outstanding.map Tagged.demand = some d then none else some d } }) ∧
  (∀ (s : State) (c : Ch), isLeader s c = true →
    let d := (calledFor s c).1
    let t := issue s c
    let latched := (s.ch (partner c)).latched
    (t.ch c).port.standing = some (leaderShare d) ∧
    (t.ch (partner c)).port.standing = some (if latched = 0 then followerShare d else ⟨.off, 0, 0, 0⟩) ∧
    (∀ e, (t.ch e).state = (s.ch e).state ∧ (t.ch e).settings = (s.ch e).settings) ∧
    ∀ e, e ≠ c → e ≠ partner c → t.ch e = s.ch e)

/-- Playback (R114, R115, R117 to R119) in a PERIOD_EVENT of a channel outside a pair RUNNING a PROFILE step, none of whose
end conditions fires. A period in play is counted. A point played for its duration finishes and its current is held: in
REPEAT mode the play position moves on, or back to the first point after an end flag or the last one; in ONE_SHOT mode it
leaves the queue and the new head comes into play, a PROFILE_LOW report coming at the mark while armed; after the end flag
the step ends with PROFILE_END (R79). A point that waits comes into play uncounted. With nothing to play the channel goes
into underrun, with the timer at its limit; a limit of 0 latches PROFILE_UNDERRUN at once (log 35); an underrun in progress
is not begun again. The low-water test at an end flag is the model's reading (log 32), and the length of the closed period is
the one the state holds (log 10). -/
def Obligations.ProfilePlays : Prop :=
  ∀ (s : State) (c : Ch) (x : StepRecord), s.part = .ready → paired s c = false → (s.ch c).state = .running →
    s.hall.state = .active → (s.ch c).port.presence = .present → (s.ch c).taken = true ∨ (s.ch c).missed < 2 →
    currentStep s c = some x → x.kind = .profile →
    let ch := s.ch c
    let p := ch.play
    let set := ch.settings
    let a := worked ch
    let counters := stepCounters a (lastFigures ch) ch.taken x.conds ch.confirms
    firstFired 0 x.conds counters = none → p.profileEnd = false →
    let position := if set.profileMode = .repeat then p.position else 0
    let low : Bool := p.lowArmed = true ∧ ch.queue.tail.length ≤ set.lowWater
    ∃ t, exec (.periodEvent c) s = .next t ∧ BoardFrame (s.modCh c fun _ => { a with queue := (t.ch c).queue }) t ∧
      (∀ d, d ≠ c → RunFrame (s.ch d) (t.ch d)) ∧
      let becomes := fun (queue : List Point) (play : Playback) => (t.ch c).state = .running ∧ (t.ch c).queue = queue ∧
        (t.ch c).play = play ∧ (t.ch c).stepIndex = ch.stepIndex ∧ (t.ch c).stepTime = a.stepTime ∧
        (t.ch c).confirms = counters
      let starves := fun (queue : List Point) (play : Playback) => (t.ch c).queue = queue ∧
        (set.underrunLimit ≠ 0 →
          becomes queue { play with underrun := true, underrunTimer := some set.underrunLimit }) ∧
        (set.underrunLimit = 0 → (t.ch c).play.underrun = true ∧ hasKind (t.ch c).latched .profileUnderrun = true ∧
          (hasKind ch.latched .profileUnderrun = false → (t.ch c).state = .faulted))
      (∀ q, p.inPlay = true → ch.queue[position]? = some q →
        (p.played + 1 < q.duration → becomes ch.queue { p with played := p.played + 1 }) ∧
        (q.duration ≤ p.played + 1 → set.profileMode = .repeat → becomes ch.queue
          { p with
            played := 0
            heldCurrent := q.current
            position := if q.endFlag = true ∨ ch.queue.length ≤ position + 1 then 0 else position + 1 }) ∧
        (q.duration ≤ p.played + 1 → set.profileMode = .oneShot →
          let play :=
            { p with
              played := 0, heldCurrent := q.current, inPlay := decide (q.endFlag = false ∧ ch.queue.tail ≠ [])
              lowArmed := if low then false else p.lowArmed }
          (low = true → s.link.sending ≠ none → s.link.reports.length ≤ 32 → s.link.reports ++
            [⟨s.link.nextSeq, s.hall.partTime, chByte c, .profileLow ch.queue.tail.length set.lowWater ch.stepIndex⟩] <+:
              t.link.reports) ∧
          (q.endFlag = false → ch.queue.tail ≠ [] ∨ p.underrun = true → becomes ch.queue.tail play) ∧
          (q.endFlag = false → ch.queue.tail = [] → p.underrun = false → starves [] play) ∧
          (q.endFlag = true → low = false → s.link.sending ≠ none → s.link.reports.length ≤ 32 → s.link.reports ++
            [⟨s.link.nextSeq, s.hall.partTime, chByte c, .stepEnd ch.stepIndex .profile .profileEnd .next
              (some (ch.stepIndex + 1)) a.stepTime (reported a.qStep) (reported a.eStep) ch.cycleNumber⟩] <+:
              t.link.reports) ∧
          (q.endFlag = true → (t.ch c).queue = ch.queue.tail))) ∧
      (∀ q, p.inPlay = false → ch.queue[position]? = some q → becomes ch.queue { p with inPlay := true }) ∧
      (ch.queue[position]? = none →
        (p.underrun = true → becomes ch.queue { p with inPlay := false, played := if p.inPlay then p.played + 1 else p.played }) ∧
        (p.underrun = false → starves ch.queue
          { p with inPlay := false, played := if p.inPlay then p.played + 1 else p.played }))

/-- A step end (R29, R31) in a PERIOD_EVENT, out of a pair, where the chosen window index holds a step that is not a MARK.
The STEP_END report comes first, with the figures of the closed period and the position and kind of the condition; the
channel lands on the step, and cycle, loop table, windows and a pending swap stand. Where both tests hold without the grant's
credit nothing is shed, and the grant is settled by R97: carried with the step's claim, in its place in the list, not idle,
or idle for a HOLD action; kept idle with its amount for a REST step or a HOLD action; otherwise released, and a request for
the step's direction and claim lodged, which the evaluation may have granted (a claim of 0 W like any other, the model's
choice, log 65). A grant hold of 0 gives up a grant that becomes idle (R98; at that place in the event, log 35). The length
of the closed period is the one the state holds (the model's reading, log 10). -/
def Obligations.StepEnds : Prop :=
  ∀ (s : State) (c : Ch) (w : Window) (x y : StepRecord) (i k : Nat) (e : EndCond), StepFires s c w x i e →
    let a := worked (s.ch c)
    let hold : Prop := e.action = .hold
    let set := (s.ch c).settings
    let claim := claimOf s c y
    k = (match e.action with | .goto n => n | _ => a.stepIndex + 1) → e.action ≠ .endSchedule → k < w.length →
    poolRead s.pool (w.base + k) = some y → y.kind ≠ .mark →
    ∃ t, exec (.periodEvent c) s = .next t ∧
      (s.link.sending ≠ none → s.link.reports.length ≤ 32 → s.link.reports ++
        [⟨s.link.nextSeq, s.hall.partTime, chByte c, .stepEnd a.stepIndex x.kind (.condition i e.kind) e.action (some k)
          a.stepTime (reported a.qStep) (reported a.eStep) a.cycleNumber⟩] <+: t.link.reports) ∧
      (CreditSpared s c →
        Landed a t c k y hold ∧
        (t.ch c).cycle = a.cycle ∧ (t.ch c).cycleNumber = a.cycleNumber ∧ (t.ch c).loops = a.loops ∧
        (t.ch c).active = a.active ∧ (t.ch c).staged = a.staged ∧ (t.ch c).swapPending = a.swapPending ∧
        (∀ g, grantOf s c = some g → g.hold = none →
          let idle : Option Nat := if set.grantHold = 0 then none else some set.grantHold
          if y.kind ≠ .rest ∧ y.dir = g.dir ∧ g.dir ≠ .both ∧ claim ≤ g.amount then
            (¬hold → grantOf t c = some ⟨c, g.dir, claim, false, none⟩ ∧
              s.arb.grants.map Grant.ch <+: t.arb.grants.map Grant.ch) ∧
            (hold → grantOf t c = idle.map fun n => ⟨c, g.dir, claim, false, some n⟩)
          else if y.kind = .rest ∨ hold then
            grantOf t c = idle.map fun n => ⟨c, g.dir, g.amount, false, some n⟩
          else (⟨c, y.dir, claim, .new, some set.deferralLimit, s.hall.partTime⟩ : Entry) ∈ t.arb.waiting ∨
            grantOf t c = some ⟨c, y.dir, claim, false, none⟩) ∧
        (grantOf s c = none → hasResume s c = false → ¬hold → y.kind ≠ .rest →
          (⟨c, y.dir, claim, .new, some set.deferralLimit, s.hall.partTime⟩ : Entry) ∈ t.arb.waiting ∨
            grantOf t c = some ⟨c, y.dir, claim, false, none⟩)) ∧
      BoardFrame (s.modCh c worked) t ∧ ∀ d, d ≠ c → RunFrame (s.ch d) (t.ch d)

/-- The walk of a step end (R30, R32, R40), out of a pair. A MARK at the chosen index whose counts-cycle flag is set closes
the cycle: CYCLE_END follows STEP_END, the cycle accounts are zero and the cycle number up by one. A swap pending
AT_CYCLE_END is then carried out: the windows exchange, the loop table is empty, and the walk lands at index 0. Otherwise the
loop counter moves by R30 and the walk goes to the loop target or past the MARK. A schedule end, by END or past the window,
carries out a pending swap of either kind and lands at index 0, the cycle going on; with none the channel gives up its grant
and enters STOPPING toward COMPLETE, or COMPLETE, with OFF demanded, in no collection, held by nothing, its step index and
cycle standing; and SCHEDULE_COMPLETE comes next after STEP_END, before a swap with the same fields as before a stop:
continuation, cycle number, cycle accounts and reason (the model's choice, log 61). The landings are stated where nothing is
shed and the next record is no MARK. A schedule end withdraws an entry too (the model's reading, log 29); the closed period
has the length the state holds (log 10). -/
def Obligations.WalkPasses : Prop :=
  ∀ (s : State) (c : Ch) (w : Window) (x : StepRecord) (i : Nat) (e : EndCond), StepFires s c w x i e →
    let a := worked (s.ch c)
    let hold : Prop := e.action = .hold
    let chosen : Option Nat := match e.action with | .goto n => some n | .endSchedule => none | _ => some (a.stepIndex + 1)
    ∃ t, exec (.periodEvent c) s = .next t ∧ BoardFrame (s.modCh c worked) t ∧
      let told := fun body : ReportBody => s.link.sending ≠ none → s.link.reports.length ≤ 32 → s.link.reports ++
        [⟨s.link.nextSeq, s.hall.partTime, chByte c, .stepEnd a.stepIndex x.kind (.condition i e.kind) e.action chosen
          a.stepTime (reported a.qStep) (reported a.eStep) a.cycleNumber⟩,
         ⟨s.link.nextSeq + 1, s.hall.partTime, chByte c, body⟩] <+: t.link.reports
      let shown : Accounts := ⟨a.cycle.qChg / 3600, a.cycle.qDis / 3600, a.cycle.eChg / 3600, a.cycle.eDis / 3600⟩
      let ended : ScheduleEnd := if chosen = none then .endAction else .windowEnd
      (∀ k target count counts, chosen = some k → k < w.length →
        poolRead s.pool (w.base + k) = some (.mark target count counts) →
        let n := loopCounter a.loops k
        let next := if count = 0 ∨ n + 1 < count then target else k + 1
        let swaps : Bool := counts = true ∧ a.swapPending = some .atCycleEnd
        (counts = true → told (.cycleEnd a.cycleNumber shown k swaps)) ∧
        (∀ y, swaps = false → next < w.length → poolRead s.pool (w.base + next) = some y → y.kind ≠ .mark →
          CreditSpared s c → Landed a t c next y hold ∧
            (t.ch c).active = a.active ∧ (t.ch c).staged = a.staged ∧ (t.ch c).swapPending = a.swapPending ∧
            loopCounter (t.ch c).loops k = (if count = 0 then n else if n + 1 < count then n + 1 else 0) ∧
            ((t.ch c).loops.filter fun l => l.index ≠ k) = (a.loops.filter fun l => l.index ≠ k) ∧
            (t.ch c).cycle = (if counts then ⟨0, 0, 0, 0⟩ else a.cycle) ∧
            (t.ch c).cycleNumber = if counts then min 4294967295 (a.cycleNumber + 1) else a.cycleNumber) ∧
        (∀ v y, swaps = true → a.staged = some v → 1 ≤ v.length → poolRead s.pool v.base = some y → y.kind ≠ .mark →
          CreditSpared s c → Landed a t c 0 y hold ∧
            (t.ch c).active = a.staged ∧ (t.ch c).staged = a.active ∧ (t.ch c).swapPending = none ∧ (t.ch c).loops = [] ∧
            (t.ch c).cycle = ⟨0, 0, 0, 0⟩ ∧ (t.ch c).cycleNumber = min 4294967295 (a.cycleNumber + 1))) ∧
      (chosen = none ∨ (∃ k, chosen = some k ∧ w.length ≤ k) →
        (a.swapPending = none → told (.scheduleComplete .stopped a.cycleNumber shown ended) ∧
          ((t.ch c).state = .stopping ∨ (t.ch c).state = .complete) ∧ (t.ch c).stopDest = .complete ∧
          (a.port.standing ≠ some ⟨.off, 0, 0, 0⟩ → (t.ch c).state = .stopping) ∧
          (t.ch c).port.standing = some ⟨.off, 0, 0, 0⟩ ∧ Unlisted t c ∧ (t.ch c).heldBefore = a.heldBefore ∧
          (t.ch c).holds = a.holds ∧ (t.ch c).stepIndex = a.stepIndex ∧ (t.ch c).stepTime = a.stepTime ∧
          (t.ch c).cycle = a.cycle ∧ (t.ch c).cycleNumber = a.cycleNumber ∧ (t.ch c).loops = a.loops) ∧
        (a.swapPending ≠ none → told (.scheduleComplete .swapped a.cycleNumber shown ended) ∧
          ∀ v y, a.staged = some v → 1 ≤ v.length → poolRead s.pool v.base = some y → y.kind ≠ .mark →
            CreditSpared s c → Landed a t c 0 y hold ∧
            (t.ch c).active = a.staged ∧ (t.ch c).staged = a.active ∧ (t.ch c).swapPending = none ∧ (t.ch c).loops = [] ∧
            (t.ch c).cycle = a.cycle ∧ (t.ch c).cycleNumber = a.cycleNumber))

/-- GAP_TIMER_EXPIRY (R26) of a channel in GAP whose timer runs: STARTING, with the last direction the step's and the start
timer started, where it holds a grant that covers the step (R27), and DEFERRED otherwise, the arbiter's collections standing.
A channel in DEFERRED holds no grant (R102): a grant that does not cover the step is released and a request for the step
lodged as a NEW entry with a fresh wait timer (at a claim of 0 W too, the model's choice, log 65), and the arbiter evaluates
(the model's reading, log 46), where it grants nothing leaving the entry waiting, and bringing the channel to STARTING where
it grants that entry. In any other state, or with the timer stopped, nothing changes (log 15). GRANT_HOLD_EXPIRY (R98): an
idle grant whose timer runs leaves the list, and the channel goes on as it was; the arbiter then evaluates, as `BudgetTests`
states of `evaluate`: where that grants nothing nothing else changes, and a channel it grants a cover for its step holds it
in GAP, and is STARTING from DEFERRED or from HELD by CURTAILED alone in its step, and RUNNING from there in a REST step
(R90, R91, R34). With no running grant-hold timer nothing changes (log 15). WAIT_TIMER_EXPIRY (R95): in WAIT mode each entry
of the channel whose timer runs, in the waiting set and in the resume queue, is marked STARVED and stays where it is, its
timer no longer running (the model's choice, log 48), and nothing else changes; in ABORT mode DEFER_LIMIT latches in the
channel with the deferral limit in force, and is dealt with as R42 gives: FAULTED, its entry withdrawn. With no wait timer
running nothing changes (log 15). -/
def Obligations.GapAndArbiterTimers : Prop :=
  (((∀ (s : State) (c : Ch), NoFrameDue s → (s.ch c).state ≠ .gap ∨ (s.ch c).gapTimer = none →
    exec (.gapTimerExpiry c) s = .next s) ∧
  (∀ (s : State) (c : Ch) (x : StepRecord), s.part = .ready → (s.ch c).state = .gap → (s.ch c).gapTimer ≠ none →
    currentStep s c = some x → ∃ t, exec (.gapTimerExpiry c) s = .next t ∧
      (holdsCover s c x = true → (t.ch c).state = .starting ∧ (t.ch c).lastDir = x.dir ∧
        (t.ch c).startTimer = some (s.ch c).settings.startTimeout) ∧
      (grantOf s c = none → (t.ch c).state = .deferred ∧ (t.ch c).startTimer = (s.ch c).startTimer ∧
        t.arb = s.arb) ∧
      (∀ g, grantOf s c = some g → holdsCover s c x = false → g.live = false → ArbiterSound s →
        let asked := s.modArb fun a =>
          { a with
            grants := a.grants.filter fun y => y.ch ≠ c
            waiting := a.waiting ++
              [⟨c, x.dir, claimOf s c x, .new, some (s.ch c).settings.deferralLimit, s.hall.partTime⟩] }
        let granted := (evaluate asked).2
        (granted = [] → (t.ch c).state = .deferred ∧ t.arb = asked.arb) ∧
        (c ∈ granted → (t.ch c).state = .starting) ∧
        ((t.ch c).state = .deferred ∧ grantOf t c = none ∧ hasWaiting t c = true ∧
            (t.ch c).startTimer = (s.ch c).startTimer ∨
          (t.ch c).state = .starting ∧ holdsCover t c x = true ∧ (t.ch c).lastDir = x.dir ∧
            (t.ch c).startTimer = some (s.ch c).settings.startTimeout) ∧
        testsHold t = true ∧ t.arb.evalDue = false) ∧
      (t.ch c).gapTimer = none ∧ (t.ch c).stepIndex = (s.ch c).stepIndex ∧ (t.ch c).stepTime = (s.ch c).stepTime ∧
      t.hall = s.hall ∧ BoardFrame s t ∧ ∀ d, d ≠ c → RunFrame (s.ch d) (t.ch d))) ∧
  ((∀ (s : State) (c : Ch), NoFrameDue s → (∀ g, grantOf s c = some g → g.hold = none) →
    exec (.grantHoldExpiry c) s = .next s) ∧
  (∀ (s : State) (c : Ch) (g : Grant), s.part = .ready → grantOf s c = some g → g.hold ≠ none → g.live = false →
    ArbiterSound s →
    let left := s.modArb fun a => { a with grants := a.grants.filter fun x => x.ch ≠ c }
    let granted := (evaluate left).2
    (NoFrameDue s → granted = [] → exec (.grantHoldExpiry c) s = .next left) ∧
    ∃ t, exec (.grantHoldExpiry c) s = .next t ∧ Unlisted t c ∧ (t.ch c).state = (s.ch c).state ∧ testsHold t = true ∧
      t.arb.evalDue = false ∧ (∀ x ∈ left.arb.grants, x ∈ t.arb.grants) ∧
      (∀ d x, d ∈ granted → currentStep s d = some x → holdsCover (evaluate left).1 d x = true →
        ((s.ch d).state = .gap → (t.ch d).state = .gap ∧ holdsCover t d x = true) ∧
        ((s.ch d).state = .deferred ∨
            x.kind ≠ .rest ∧ (s.ch d).state = .held ∧ (s.ch d).heldBefore = false ∧
              (s.ch d).holds = ⟨false, true, false, false, false⟩ →
          (t.ch d).state = .starting ∧ holdsCover t d x = true ∧ (t.ch d).lastDir = x.dir)) ∧
      (∀ d x, d ∈ granted → currentStep s d = some x → x.kind = .rest → (s.ch d).state = .held →
        (s.ch d).heldBefore = false → (s.ch d).holds = ⟨false, true, false, false, false⟩ → (t.ch d).state = .running) ∧
      BoardFrame s t ∧ t.hall = s.hall ∧ ∀ d, RunFrame (s.ch d) (t.ch d)))) ∧
  ((∀ (s : State) (c : Ch), s.part = .ready → NoFrameDue s → (s.ch c).settings.excessMode = .wait →
    (∃ e ∈ s.arb.waiting ++ s.arb.resume, e.ch = c ∧ e.timer ≠ none) →
    let starve := fun e : Entry =>
      if e.ch = c ∧ e.timer ≠ none then { e with mark := .starved, timer := none } else e
    exec (.waitTimerExpiry c) s = .next (s.modArb fun a =>
      { a with waiting := a.waiting.map starve, resume := a.resume.map starve })) ∧
  (∀ (s : State) (c : Ch) (e : Entry), s.part = .ready → e ∈ s.arb.waiting ∨ e ∈ s.arb.resume → e.ch = c →
    e.timer ≠ none → (s.ch c).settings.excessMode = .abort → (s.ch c).state ≠ .faulted → paired s c = false →
    hasKind (s.ch c).latched .deferLimit = false →
    ∃ t, exec (.waitTimerExpiry c) s = .next t ∧ FaultTaken s t c .deferLimit (s.ch c).settings.deferralLimit ∧
      BoardFrame s t ∧ ∀ d, d ≠ c → RunFrame (s.ch d) (t.ch d)) ∧
  (∀ (s : State) (c : Ch), NoFrameDue s → (∀ e ∈ s.arb.waiting ++ s.arb.resume, e.ch = c → e.timer = none) →
    exec (.waitTimerExpiry c) s = .next s))

/-! ### The hall -/

/-- HALL_STOP_ASSERT (R152, R106): in READY every channel outside FOLLOWER is FAULTED with HALL_STOP in its latched set, a
follower holds HALL_STOP and stays FOLLOWER, the arbiter's collections are empty, and the line stands asserted; a channel
that was FAULTED already keeps its first-fault record. Out of READY only the level is kept (the model's choice, log 14).
HALL_STOP_DEASSERT (R153): the line stands deasserted, an ALARM report with level deasserted is made in READY, and nothing
else changes. Out of READY no report is made (log 14). An assertion of an asserted line and a deassertion of a deasserted one
change nothing (the model's reading, log 11). -/
def Obligations.HallStop : Prop :=
  ((∀ s : State, NoFrameDue s → s.prot.hallStop = true → exec .hallStopAssert s = .next s) ∧
  (∀ s : State, s.part ≠ .ready →
    exec .hallStopAssert s = .next (s.modProt fun p => { p with hallStop := true })) ∧
  (∀ s : State, s.part = .ready → s.prot.hallStop = false → ∃ t, exec .hallStopAssert s = .next t ∧
    t.prot.hallStop = true ∧ (∀ l, t.line l = s.line l) ∧
    t.arb.grants = [] ∧ t.arb.waiting = [] ∧ t.arb.resume = [] ∧
    (∀ c, hasKind (t.ch c).latched .hallStop = true ∧
      ((s.ch c).state ≠ .follower → hasKind (s.ch c).latched .hallStop = false ∨ (s.ch c).state = .faulted →
        (t.ch c).state = .faulted) ∧
      ((s.ch c).state = .follower → (t.ch c).state = .follower) ∧
      ((s.ch c).latched ≠ 0 → (t.ch c).firstFault = (s.ch c).firstFault) ∧
      ((s.ch c).latched = 0 → ∃ f, (t.ch c).firstFault = some f ∧ f.kind = .hallStop)) ∧
    BoardFrame (s.modProt fun p => { p with hallStop := true }) t)) ∧
  ((∀ s : State, s.part = .ready → s.prot.hallStop = true → s.link.sending ≠ none →
    exec .hallStopDeassert s = .next ((s.modProt fun p => { p with hallStop := false }).modLink fun l =>
      l.make s.hall.partTime 0xFF (.hallStopAlarm false))) ∧
  (∀ s : State, NoFrameDue s → s.prot.hallStop = false → exec .hallStopDeassert s = .next s) ∧
  (∀ s : State, s.part ≠ .ready →
    exec .hallStopDeassert s = .next (s.modProt fun p => { p with hallStop := false })))

/-- CHAMBER_ALARM_LINE_CHANGE (R147, R150) in READY: the raw level is the new one, and the debounce timer runs with the
line's debounce when it differs from the filtered level and is stopped when it does not; on a line that is not DIRECT, or
deasserts, nothing else changes; the assertion of a DIRECT line latches CHAMBER_ALARM in each masked channel that is not
FAULTED or FOLLOWER and not in a pair, which is FAULTED. A change to the level the line has changes nothing (the model's
reading, log 11). ALARM_DEBOUNCE_EXPIRY (R147, R148) in READY with the timer running: the filtered level takes the raw level,
the timer stops, and an ALARM report with the line, the level, its route and its mask is made, whatever the route, before the
reports of the holds and of what the arbiter then sheds (the model's choice, log 63); on a line routed REPORT or DIRECT
nothing else changes where no channel holds CHAMBER that no line covers; on a LOCAL line that asserts, each channel in GAP,
DEFERRED, STARTING, RUNNING or HELD that comes to be covered is HELD with CHAMBER; and once a LOCAL line deasserts no channel
holds CHAMBER that no line covers, while a channel still covered keeps it. With the timer stopped nothing changes (log 15);
out of READY an expiry changes nothing and a level change only the level (log 14). -/
def Obligations.ChamberAlarmLine : Prop :=
  ((∀ (s : State) (line : LineNo) (level : Bool), s.part = .ready → NoFrameDue s → (s.line line).raw ≠ level →
    (s.line line).settings.route ≠ .direct ∨ level = false →
    exec (.chamberAlarmLineChange line level) s = .next (s.modLine line fun l =>
      { l with raw := level, timer := if level = l.filtered then none else some l.settings.debounce })) ∧
  (∀ (s : State) (line : LineNo) (level : Bool), NoFrameDue s → (s.line line).raw = level →
    exec (.chamberAlarmLineChange line level) s = .next s) ∧
  (∀ (s : State) (line : LineNo) (level : Bool), s.part ≠ .ready →
    exec (.chamberAlarmLineChange line level) s = .next (s.modLine line fun l => { l with raw := level }) ∧
    exec (.alarmDebounceExpiry line) s = .next s) ∧
  (∀ (s : State) (line : LineNo), s.part = .ready → (s.line line).raw = false → (s.line line).settings.route = .direct →
    ∃ t, exec (.chamberAlarmLineChange line true) s = .next t ∧
      t.line line = { s.line line with
        raw := true, timer := if (s.line line).filtered then none else some (s.line line).settings.debounce } ∧
      (∀ l, l ≠ line → t.line l = s.line l) ∧
      (∀ c, (s.line line).settings.mask.getLsbD c.val = true → paired s c = false → (s.ch c).state ≠ .faulted →
        hasKind (s.ch c).latched .chamberAlarm = false →
        (t.ch c).state = .faulted ∧ hasKind (t.ch c).latched .chamberAlarm = true) ∧
      BoardFrame (s.modLine line fun l =>
        { l with raw := true, timer := if l.filtered then none else some l.settings.debounce }) t)) ∧
  ((∀ (s : State) (line : LineNo), NoFrameDue s → (s.line line).timer = none →
    exec (.alarmDebounceExpiry line) s = .next s) ∧
  (∀ (s : State) (line : LineNo), s.part = .ready → (s.line line).timer ≠ none →
    let raw := (s.line line).raw
    let set := (s.line line).settings
    let report : Report := ⟨s.link.nextSeq, s.hall.partTime, 0xFF, .alarm line raw set.route set.mask⟩
    let taken := s.modLine line fun l => { l with filtered := l.raw, timer := none }
    ∃ t, exec (.alarmDebounceExpiry line) s = .next t ∧ BoardFrame taken t ∧
      (s.link.sending ≠ none → s.link.reports.length < 64 → ∃ rest, t.link.reports = s.link.reports ++ report :: rest) ∧
      (set.route ≠ .localHold → s.link.sending ≠ none → (∀ c, (s.ch c).holds.chamber = true → covered s c = true) →
        t = taken.modLink fun l => l.make s.hall.partTime 0xFF (.alarm line raw set.route set.mask)) ∧
      (set.route = .localHold → raw = true → ∀ c, set.mask.getLsbD c.val = true → covered s c = false →
        (s.ch c).state ∈ [.gap, .deferred, .starting, .running, .held] →
        (t.ch c).state = .held ∧ (t.ch c).holds.chamber = true) ∧
      (∀ c, covered t c = false → (t.ch c).holds.chamber = false) ∧
      ∀ c, covered s c = true → covered t c = true → (t.ch c).holds.chamber = (s.ch c).holds.chamber))

/-- CURTAILMENT_LINE_CHANGE (R176) in READY with a debounce above 0: the raw level is the new one, and the debounce timer
runs with the debounce when it differs from the filtered level and is stopped when it does not; nothing else changes. A
debounce of 0 expires at once. A change to the level the line has changes nothing (the model's reading, log 11); out of READY
only the level is kept (log 14). CURTAIL_DEBOUNCE_EXPIRY (R176, R177) in READY with the timer running: the filtered level
takes the raw level, the timer stops, and a CURTAIL report with the level, the C_eff now in force and both ceilings comes
first. Between events both tests hold and no evaluation is due again, with C_eff fallen or risen: where the tests hold at the
new C_eff every grant stays, and the channels shed are HELD with CURTAILED and a resume entry, or hold a grant or an entry
again, or had an idle grant again and gave it up at once, their grant hold being 0 (R98). A deassertion wakes a hall that is
not ACTIVE where CURTAIL_END is enabled; otherwise the hall record's other fields stand. Where C_curt equals C_in and no wake
follows nothing else changes. With the timer stopped nothing changes (log 15). -/
def Obligations.CurtailmentLine : Prop :=
  ((∀ (s : State) (level : Bool), s.part = .ready → NoFrameDue s → s.hall.curtRaw ≠ level → s.hall.curtDebounce ≠ 0 →
    exec (.curtailmentLineChange level) s = .next (s.modHall fun h =>
      { h with curtRaw := level, curtTimer := if level = h.curtFiltered then none else some h.curtDebounce })) ∧
  (∀ (s : State) (level : Bool), s.part = .ready → s.hall.curtRaw ≠ level → s.hall.curtDebounce = 0 →
    s.hall.curtFiltered ≠ level → exec (.curtailmentLineChange level) s =
      exec .curtailDebounceExpiry (s.modHall fun h => { h with curtRaw := level, curtTimer := some 0 })) ∧
  (∀ (s : State) (level : Bool), NoFrameDue s → s.hall.curtRaw = level →
    exec (.curtailmentLineChange level) s = .next s) ∧
  (∀ (s : State) (level : Bool), s.part ≠ .ready →
    exec (.curtailmentLineChange level) s = .next (s.modHall fun h => { h with curtRaw := level }))) ∧
  ((∀ s : State, NoFrameDue s → s.hall.curtTimer = none → exec .curtailDebounceExpiry s = .next s) ∧
  (∀ s : State, s.part = .ready → s.hall.curtTimer ≠ none →
    let b := s.arb.budget
    let cEff := if s.hall.curtRaw then b.cCurt else b.cIn
    let wakes : Bool := s.hall.curtRaw = false ∧ s.hall.wakeByCurtail = true ∧ s.hall.state ≠ .active
    let report : Report := ⟨s.link.nextSeq, s.hall.partTime, 0xFF, .curtail s.hall.curtRaw cEff b.cIn b.cCurt⟩
    ∃ t, exec .curtailDebounceExpiry s = .next t ∧
    (s.link.sending ≠ none → s.link.reports.length < 64 → ∃ rest, t.link.reports = s.link.reports ++ report :: rest) ∧
    (wakes = true → t.hall = { s.hall with
      curtFiltered := s.hall.curtRaw, curtTimer := none, state := .active, wakeTimer := none, pauseOrder := [] } ∧
      ∀ c, (t.ch c).holds.pause = false) ∧
    (wakes = false → t.hall = { s.hall with curtFiltered := s.hall.curtRaw, curtTimer := none }) ∧
    (ArbiterSound s → testsHold t = true ∧ t.arb.evalDue = false ∧
      (withinCeilings b cEff s.arb.grants = true → ∀ g ∈ s.arb.grants, g ∈ t.arb.grants) ∧
      ∀ x ∈ (shedLoop b cEff (s.arb.grants.length + 1) s.arb.grants).2,
        ((t.ch x.1.ch).state = .held ∧ (t.ch x.1.ch).holds.curtailed = true ∧ ∃ e ∈ t.arb.resume, e.ch = x.1.ch) ∨
          (∃ g ∈ t.arb.grants, g.ch = x.1.ch) ∨ (∃ e ∈ t.arb.waiting, e.ch = x.1.ch) ∨
          (t.ch x.1.ch).holds.curtailed = false ∧ (s.ch x.1.ch).settings.grantHold = 0) ∧
    t.pool = s.pool ∧ t.prot = s.prot ∧ t.arb.budget = b ∧ (∀ c, ChFrame (s.ch c) (t.ch c))) ∧
  (∀ s : State, s.part = .ready → s.hall.curtTimer ≠ none → s.link.sending ≠ none →
    s.arb.budget.cCurt = s.arb.budget.cIn → s.hall.state = .active →
    exec .curtailDebounceExpiry s = .next ((s.modHall fun h =>
        { h with curtFiltered := h.curtRaw, curtTimer := none }).modLink fun l =>
      l.make s.hall.partTime 0xFF
        (.curtail s.hall.curtRaw s.arb.budget.cIn s.arb.budget.cIn s.arb.budget.cIn))))

/-- PAUSE_HALL (R170): in PAUSING and PAUSED nothing changes and the reply carries the hall state. In ACTIVE the pause order
is recorded from the grant list, the resume queue and the waiting set by ascending channel, the collections are empty, the
hall is PAUSING or PAUSED, every channel in GAP, DEFERRED, STARTING, RUNNING or HELD is HELD with PAUSE and every other
channel's state stands; the reply carries the hall state and the order. RESUME_HALL (R173, R174): in ACTIVE nothing changes
and the reply carries the hall state. In PAUSING and PAUSED the hall is ACTIVE, its wake timer stopped and its pause order
empty, no channel holds PAUSE, and the reply carries the number of entries of the order whose channels still need a grant.
Those channels have resume entries in the order of the pause order, each with the recorded direction and amount, marked NEW
with a fresh wait timer (R105), of which the evaluation has granted a first part; and one HALL_STATE report is made, with the
source and that number. WAKE_TIMER_EXPIRY (R175) in READY with the timer running: it stops; in ACTIVE, or with TIMER
disabled, nothing else changes; in PAUSING and PAUSED with TIMER enabled the hall wakes in the same way. With the timer
stopped nothing changes (log 15). Settling (R171), whatever the command: a PAUSING hall some channel of which is not settled
is still PAUSING only while one is not, and one that becomes PAUSED has every channel settled and makes one HALL_STATE
report; and the CONFIRM of the last IDLE demand makes it PAUSED, the frames still due being those of log 64 (the model's
reading). -/
def Obligations.PauseAndWake : Prop :=
  (∀ (r : Request) (s : State), ToPart s r 0 →
    let order : List PauseEntry :=
      s.arb.grants.map (fun g => ⟨g.ch, .grant, g.dir, g.amount⟩) ++
      s.arb.resume.map (fun e => ⟨e.ch, .resume, e.dir, e.claim⟩) ++
      (([0, 1, 2, 3, 4, 5, 6, 7] : List Ch).map fun c =>
        (s.arb.waiting.filter fun e => e.ch = c).map fun e => (⟨e.ch, .waiting, e.dir, e.claim⟩ : PauseEntry)).flatten
    (s.hall.state ≠ .active →
      exec (.pauseHall r) s = .next (replied s (replyTo .pauseHall r (.ok (.hall s.hall.state))))) ∧
    (s.hall.state = .active → ∃ t, exec (.pauseHall r) s = .next t ∧
      Answered s t (replyTo .pauseHall r (.ok (.hallPaused t.hall.state order))) ∧
      (t.hall.state = .pausing ∨ t.hall.state = .paused) ∧ t.hall.pauseOrder = order ∧
      t.arb.grants = [] ∧ t.arb.waiting = [] ∧ t.arb.resume = [] ∧
      (∀ c, ((s.ch c).state ∈ [.gap, .deferred, .starting, .running, .held] →
          (t.ch c).state = .held ∧ (t.ch c).holds.pause = true) ∧
        ((s.ch c).state ∉ [.gap, .deferred, .starting, .running, .held] →
          (t.ch c).state = (s.ch c).state ∧ (t.ch c).holds = (s.ch c).holds)) ∧
      BoardFrame (s.modHall fun h => { h with pauseOrder := order }) t)) ∧
  (let needed := fun s : State => s.hall.pauseOrder.filter fun e =>
     (s.ch e.ch).state ∈ [.gap, .deferred, .starting, .running, .held]
   let wakes := fun (s t : State) (cause : HallCause) =>
     t.hall = { s.hall with state := .active, wakeTimer := none, pauseOrder := [] } ∧
     (∀ c, (t.ch c).holds.pause = false) ∧
     BoardFrame (s.modHall fun h => { h with wakeTimer := none, pauseOrder := [] }) t ∧
     (ArbiterSound s → ∃ given, (needed s).map (fun e => (⟨e.ch, e.dir, e.amount, .new,
       some (s.ch e.ch).settings.deferralLimit, s.hall.partTime⟩ : Entry)) = given ++ t.arb.resume) ∧
     (ArbiterSound s → s.link.sending ≠ none → s.link.reports.length < 64 → t.link.reports = s.link.reports ++
       [⟨s.link.nextSeq, s.hall.partTime, 0xFF, .hallState .active s.hall.state cause none (some (needed s).length)
         s.hall.wakeByTimer s.hall.wakeByCurtail none⟩])
   (∀ (r : Request) (s : State), ToPart s r 0 →
     (s.hall.state = .active →
       exec (.resumeHall r) s = .next (replied s (replyTo .resumeHall r (.ok (.hall .active))))) ∧
     (s.hall.state ≠ .active → ∃ t, exec (.resumeHall r) s = .next t ∧
       Answered s t (replyTo .resumeHall r (.ok (.hallResumed .active (needed s).length))) ∧ wakes s t .host)) ∧
   ((∀ s : State, NoFrameDue s → s.hall.wakeTimer = none → exec .wakeTimerExpiry s = .next s) ∧
   (∀ s : State, s.part = .ready → NoFrameDue s → s.hall.wakeTimer ≠ none →
     s.hall.state = .active ∨ s.hall.wakeByTimer = false →
     exec .wakeTimerExpiry s = .next (s.modHall fun h => { h with wakeTimer := none })) ∧
   (∀ s : State, s.part = .ready → s.hall.wakeTimer ≠ none → s.hall.state ≠ .active → s.hall.wakeByTimer = true →
     ∃ t, exec .wakeTimerExpiry s = .next t ∧ wakes s t .timer))) ∧
  (let ready := fun p : Port => p.presence = .absent ∨
     p.outstanding = none ∧ p.pending = none ∧ ∀ x, p.lastConfirmed = some x → x.mode ≠ .regulate
   let settled := fun (s : State) (c : Ch) => (s.ch c).state = .follower ∨ (s.ch c).state = .faulted ∨
     ready (s.ch c).port ∧ (isLeader s c = true → ready (s.ch (partner c)).port)
   let hallReports := fun s : State => (s.link.reports.filter fun x =>
     match x.body with
     | .hallState .. => true
     | _ => false).map fun x => (x.partTime, x.channel, x.body)
   let told := fun s : State => hallReports s ++ [(s.hall.partTime, (0xFF : Byte), ReportBody.hallState .paused .pausing
     .settled none none s.hall.wakeByTimer s.hall.wakeByCurtail s.hall.wakeTimer)]
   (∀ (i : Instr) (s t : State), exec i s = .next t → s.part = .ready → t.part = .ready → s.hall.state = .pausing →
     (t.hall.state = .pausing → (∃ c, ¬settled s c) → ∃ c, ¬settled t c) ∧
     (t.hall.state = .paused → (∀ c, settled t c) ∧
       (s.link.sending ≠ none → s.link.reports.length ≤ 32 → i ≠ .controlFrameWhollySent → hallReports t = told s))) ∧
   (∀ (s : State) (c : Ch) (tag : Tagged), s.part = .ready → s.hall.state = .pausing →
     (s.ch c).state ∉ [.stopping, .follower] → (s.ch c).port.outstanding = some tag → (s.ch c).port.pending = none →
     tag.demand.mode ≠ .regulate → (isLeader s c = true → ready (s.ch (partner c)).port) →
     (∀ d, d ≠ c → settled s d) → ∃ t, exec (.confirm c (tag.tag.zeroExtend 8)) s = .next t ∧
       t.hall = { s.hall with state := .paused } ∧
       (t.ch c).port = { (s.ch c).port with
         confTimer := none, lastConfirmed := some tag.demand, outstanding := none,
         due := (s.ch c).port.due.filter fun f => match f with | .query _ => true | .demand _ => false } ∧
       (s.link.sending ≠ none → s.link.reports.length < 64 → hallReports t = told s)))

/-! ### The budget arbiter -/

/-- The charge-side figure of an amount is the ceiling of G × 1,000 ÷ η and the discharge-side figure the floor of G × η ÷
1,000 (R84); the four sums take them over the CHARGE and BOTH, the live CHARGE, the DISCHARGE and BOTH, and the live
DISCHARGE grants; and the two tests are intake and return against C_eff and C_ret (R85). Shedding (R100, R101) ends with both
tests holding, whatever the grants and the ceilings; it removes no grant while both hold, what it leaves are grants of the
list in their order, and each is removed for a test its direction counts in. Each channel shed has a NEW resume entry at the
tail of the resume queue, in the order of shedding, and a CURTAILED report, and is HELD with CURTAILED where it records a
cause (R102). An evaluation (R90) cannot make a test fail, keeps every grant there was in its place and adds its own,
reserved, at the end; it touches the waiting set only when it has emptied the resume queue, takes the queue from its head,
and changes nothing outside the arbiter. The head of the resume queue is granted while it fits, both tests holding with it at
the end of the grant list, the pointers standing; a head that does not fit ends the evaluation. With the queue empty the
waiting set is walked once in the rotation order fixed before it (R92, R93): an entry is granted exactly when it fits with
the grants made before it and no STARVED entry before it was passed over (R96); each grant moves the pointers, a HIGH one hp
past its channel, a LOW one lp to the next LOW channel and hp past the slot, but in a ring of the slot alone. Shedding takes
at each removal the newest grant its test's direction counts: for the intake test while that fails, and for the return test
once the intake test holds and from then on while the return test fails. Channels are in the collections once (R88). -/
def Obligations.BudgetTests : Prop :=
  (∀ eta amount : Nat, 0 < eta → amount * 1000 ≤ eta * lcOf eta amount ∧ eta * lcOf eta amount < amount * 1000 + eta ∧
    1000 * ldOf eta amount ≤ amount * eta ∧ amount * eta < 1000 * ldOf eta amount + 1000) ∧
  (∀ (b : BudgetSettings) (cEff : Nat) (gs : List Grant),
    let x := sumsOf b.eta gs
    let total := fun (p : Grant → Bool) (figure : Nat → Nat → Nat) =>
      ((gs.filter p).map fun g => figure b.eta g.amount).sum
    x.chgAll = total (fun g => g.dir = .charge ∨ g.dir = .both) lcOf ∧
    x.chgLive = total (fun g => g.dir = .charge ∧ g.live = true) lcOf ∧
    x.disAll = total (fun g => g.dir = .discharge ∨ g.dir = .both) ldOf ∧
    x.disLive = total (fun g => g.dir = .discharge ∧ g.live = true) ldOf ∧
    (withinCeilings b cEff gs = true ↔ x.chgAll ≤ cEff + x.disLive * b.u / 1000 ∧
      x.disAll ≤ b.cRet + x.chgLive * b.u / 1000)) ∧
  (∀ (b : BudgetSettings) (cEff : Nat) (gs : List Grant),
    let r := shedLoop b cEff (gs.length + 1) gs
    withinCeilings b cEff r.1 = true ∧ r.1.Sublist gs ∧ r.1.length + r.2.length = gs.length ∧
    (withinCeilings b cEff gs = true → r = (gs, [])) ∧
    ∀ x ∈ r.2, x.1 ∈ gs ∧ (x.2 = .intake → x.1.dir = .charge ∨ x.1.dir = .both) ∧
      (x.2 = .return → x.1.dir = .discharge ∨ x.1.dir = .both)) ∧
  (∀ s : State,
    let r := (shedLoop s.arb.budget (cEffOf s) (s.arb.grants.length + 1) s.arb.grants).2
    let t := shed s
    t.arb.resume = s.arb.resume ++ r.map (fun x => ⟨x.1.ch, x.1.dir, x.1.amount, .new,
      some (s.ch x.1.ch).settings.deferralLimit, s.hall.partTime⟩) ∧
    (∀ x ∈ r, (s.ch x.1.ch).state ∈ [.gap, .deferred, .starting, .running, .held] →
      (t.ch x.1.ch).state = .held ∧ (t.ch x.1.ch).holds.curtailed = true) ∧
    (s.link.reports.length + r.length ≤ 64 → t.link.reports = s.link.reports ++ (r.zipIdx.map fun x =>
      (⟨s.link.nextSeq + x.2, s.hall.partTime, chByte x.1.1.ch,
        .curtailed x.1.1.dir x.1.1.amount x.1.2⟩ : Report)))) ∧
  (∀ s : State, testsHold s = true →
    let t := (evaluate s).1
    testsHold t = true ∧
    (∃ new, t.arb.grants = s.arb.grants ++ new ∧ new.map Grant.ch = (evaluate s).2 ∧
      ∀ g ∈ new, g.live = false ∧ g.hold = none) ∧
    (∃ taken, s.arb.resume = taken ++ t.arb.resume) ∧
    (t.arb.resume ≠ [] → t.arb.waiting = s.arb.waiting) ∧
    t = { s with arb := t.arb } ∧ t.arb.budget = s.arb.budget) ∧
  (∀ (s : State) (e : Entry) (es : List Entry), s.arb.resume = e :: es →
    let given := s.arb.grants ++ [⟨e.ch, e.dir, e.claim, false, none⟩]
    let rest := evaluate (s.modArb fun a => { a with grants := given, resume := es })
    evaluate s = if withinCeilings s.arb.budget (cEffOf s) given = true then (rest.1, e.ch :: rest.2) else (s, [])) ∧
  (∀ s : State, s.arb.resume = [] → (s.arb.waiting.map Entry.ch).Nodup →
    let all : List Ch := [0, 1, 2, 3, 4, 5, 6, 7]
    let inGroup := fun g => all.filter fun c => (s.ch c).settings.group = g
    let lows := inGroup .low
    let ring : List (Option Ch) := (inGroup .high).map some ++ (if lows = [] then [] else [none])
    let lowTurn :=
      match s.arb.lp with
      | none => lows
      | some p => lows.filter (fun c => p ≤ c) ++ lows.filter (fun c => c < p)
    let walk := ((ring.drop s.arb.hp ++ ring.take s.arb.hp).map fun p =>
      match p with
      | some c => [c]
      | none => lowTurn).flatten
    let after := fun p => if ring.idxOf p + 1 < ring.length then ring.idxOf p + 1 else 0
    let t := (evaluate s).1
    let granted := (evaluate s).2
    let new := fun ds : List Ch => (ds.map fun d => (s.arb.waiting.filter fun e => e.ch = d).map fun e =>
      (⟨e.ch, e.dir, e.claim, false, none⟩ : Grant)).flatten
    granted.Sublist walk ∧ t.arb.grants = s.arb.grants ++ new granted ∧ t.arb.resume = [] ∧
    t.arb.waiting = s.arb.waiting.filter (fun e => e.ch ∉ granted) ∧
    (∀ (a : List Ch) (c : Ch) (b : List Ch) (e : Entry), walk = a ++ c :: b → e ∈ s.arb.waiting → e.ch = c →
      (c ∈ granted ↔
        withinCeilings s.arb.budget (cEffOf s)
          (s.arb.grants ++ new (a.filter fun d => d ∈ granted) ++ [⟨e.ch, e.dir, e.claim, false, none⟩]) = true ∧
        ∀ x ∈ s.arb.waiting, x.ch ∈ a → x.mark = .starved → x.ch ∈ granted)) ∧
    (t.arb.hp, t.arb.lp) = granted.foldl (fun p c =>
      if (s.ch c).settings.group = .high then (after (some c), p.2)
      else (if ring.length = 1 then p.1 else after none, (lows.filter (fun d => c < d) ++ lows).head?))
      (s.arb.hp, s.arb.lp)) ∧
  (∀ (b : BudgetSettings) (cEff : Nat) (gs : List Grant), (gs.map Grant.ch).Nodup →
    let r := shedLoop b cEff (gs.length + 1) gs
    let left := fun removed : List (Grant × BudgetTest) => gs.filter fun g => g.ch ∉ removed.map fun x => x.1.ch
    let intake := fun l => (sumsOf b.eta l).chgAll ≤ cEff + (sumsOf b.eta l).disLive * b.u / 1000
    let return' := fun l => (sumsOf b.eta l).disAll ≤ b.cRet + (sumsOf b.eta l).chgLive * b.u / 1000
    r.1 = left r.2 ∧ ∀ before x after, r.2 = before ++ x :: after →
      let l := left before
      let counts := fun g : Grant => g.dir = .both ∨ g.dir = (if x.2 = .intake then .charge else .discharge)
      (∃ older newer, l = older ++ x.1 :: newer ∧ counts x.1 ∧ ∀ g ∈ newer, ¬counts g) ∧
      (x.2 = .intake → ¬intake l ∧ ∀ y, before.getLast? = some y → y.2 = .return → return' l) ∧
      (x.2 = .return → ¬return' l ∧ (intake l ∨ ∃ y, before.getLast? = some y ∧ y.2 = .return)))

/-! ### Layouts and receivers -/

/-- The frames of the control link (R180) and of the stage lines (R154, R155): the receiver, hunting, makes of the bytes of a
whole frame exactly the command that frame stands for. The record layout (R2 to R5, R9, R12): a record whose fields are in
the ranges of R9 and fit their fields is read back from its 64 bytes as it was written, and so is a profile point from its 8.
-/
def Obligations.Layouts : Prop :=
  ((∀ f : Frame, f.body.length ≤ 1024 → controlReceiveAll none (frameBytes f) = (none, [.controlFrame f])) ∧
  (∀ (c : Ch) (after : Bool) (tag : Byte),
    let core : List Byte := [0x02, 0x11, tag]
    (0x5A :: core ++ leBytes 2 (crc16 core).toNat).foldl
      (fun (x : RxState × List Instr) b =>
        ((stageReceive c after false x.1 b).1, x.2 ++ (stageReceive c after false x.1 b).2)) (none, []) =
      (none, [.confirm c tag])) ∧
  (∀ (c : Ch) (after : Bool) (raw : RawReading),
    let core : List Byte := [0x0B, 0x12] ++ leBytes 3 raw.rawV.toNat ++ leBytes 3 raw.rawI.toNat ++
      leBytes 2 raw.rawT.toNat ++ [raw.reg, raw.flags]
    (0x5A :: core ++ leBytes 2 (crc16 core).toNat).foldl
      (fun (x : RxState × List Instr) b =>
        ((stageReceive c after false x.1 b).1, x.2 ++ (stageReceive c after false x.1 b).2)) (none, []) =
      (none, [.reading c after raw]))) ∧
  ((∀ x : StepRecord, Storable x → (recordBytes (some x)).length = 64 ∧ recordOf (recordBytes (some x)) = .ok x) ∧
  (∀ p : Point, -2 ^ 31 ≤ p.current → p.current < 2 ^ 31 → p.duration < 2 ^ 16 →
    (pointBytes p).length = 8 ∧ pointOf (pointBytes p) = p))

/-! ### Invariants -/

/-- Every step keeps the bounds of the collections: 4 requests (R181), 64 reports (R190), 512 profile points a channel
(R109), and the step pool in its canonical form within 1,024 indices (R1). -/
def Obligations.BoundsKept : Prop :=
  ∀ s t : State, Bounded s → step s = .next t → Bounded t

/-- Every step keeps every setting within its range (R6, R20, R49, R86, R94, R98, R110, R130, R134, R146, R167, R168, R188,
R194). -/
def Obligations.SettingsStayInRange : Prop :=
  ∀ s t : State, SettingsInRange s → step s = .next t → SettingsInRange t

/-- Every step keeps every port's demand record together: an ABSENT port has no outstanding demand (R158, R164, R166), and a
running confirmation timer times one (R159, R160). -/
def Obligations.PortsStaySound : Prop :=
  ∀ s t : State, PortsSound s → step s = .next t → PortsSound t

/-- Every step keeps the fault records together (R42, R43, R131, R132, R138, R142, R152, R153): outside FOLLOWER a channel is
FAULTED exactly while its latched set is not empty, which then holds the first-fault kind, and while the hall stop line is
asserted in READY every channel holds HALL_STOP. -/
def Obligations.FaultsStaySound : Prop :=
  ∀ s t : State, FaultsSound s → step s = .next t → FaultsSound t

/-- Every step keeps the arbiter sound (the laws of R85, R88, R100 and R106; R89, R104, R170): both tests hold, a channel
appears at most once across the collections and only in the states that may, outside an ACTIVE hall the collections are
empty, and so are they while the hall stop line is asserted in READY. Where a kind latches decides what the arbiter holds, so
the fault records are sound too. -/
def Obligations.ArbiterStaysSound : Prop :=
  ∀ s t : State, FaultsSound s → ArbiterSound s → step s = .next t →
    ArbiterSound t ∧ (t.part = .ready → t.prot.hallStop = true → listed t = [])

/-- Every step keeps every channel's run together (the laws of R10, R30 and R31; R7, R16, R39): in GAP, DEFERRED, STARTING,
RUNNING and HELD the step index designates a step of the active window that is not a MARK, no record in use is blank, and a
loop counter stays below its loop count. -/
def Obligations.RunsStaySound : Prop :=
  ∀ s t : State, RunsSound s → step s = .next t → RunsSound t

/-- Every step keeps the law of R46: a stage is demanded REGULATE only while its channel, or its pair's leader, is STARTING
or RUNNING a step that is not REST and holds a grant, which is not idle (R98). -/
def Obligations.DemandsStaySound : Prop :=
  ∀ s t : State, FaultsSound s → ArbiterSound s → RunsSound s → DemandsSound s → step s = .next t → DemandsSound t

/-- The invariants hold after reset. The image a board leaves the factory with and the levels of the hall lines are the
model's choice (log 1). -/
def Obligations.ResetMeetsInvariants : Prop :=
  Bounded State.reset ∧ SettingsInRange State.reset ∧ PortsSound State.reset ∧ State.reset.part = .starting ∧
  State.reset.startCause = .powerOn ∧ State.reset.pending = [] ∧ Begun State.reset.image State.reset ∧
  FaultsSound State.reset ∧ ArbiterSound State.reset ∧ RunsSound State.reset ∧ DemandsSound State.reset
end

