-- ==== Sys2Proof/Laws/State.lean ====
section
/-! SUPPORT. One lemma for each part of the state under each update of a block: what the update leaves, and what reading
the block afterwards gives. All but the readings of a channel and of a line hold by definition. -/
namespace Sys2Proof.Machine

variable (s : State)

/-! ### modCh -/

@[simp] theorem State.modCh_part (c : Ch) (f : Channel → Channel) : (s.modCh c f).part = s.part := rfl
@[simp] theorem State.modCh_startCause (c : Ch) (f : Channel → Channel) : (s.modCh c f).startCause = s.startCause := rfl
@[simp] theorem State.modCh_image (c : Ch) (f : Channel → Channel) : (s.modCh c f).image = s.image := rfl
@[simp] theorem State.modCh_saveInFlight (c : Ch) (f : Channel → Channel) : (s.modCh c f).saveInFlight = s.saveInFlight := rfl
@[simp] theorem State.modCh_link (c : Ch) (f : Channel → Channel) : (s.modCh c f).link = s.link := rfl
@[simp] theorem State.modCh_pool (c : Ch) (f : Channel → Channel) : (s.modCh c f).pool = s.pool := rfl
@[simp] theorem State.modCh_arb (c : Ch) (f : Channel → Channel) : (s.modCh c f).arb = s.arb := rfl
@[simp] theorem State.modCh_prot (c : Ch) (f : Channel → Channel) : (s.modCh c f).prot = s.prot := rfl
@[simp] theorem State.modCh_hall (c : Ch) (f : Channel → Channel) : (s.modCh c f).hall = s.hall := rfl
@[simp] theorem State.modCh_freeCount (c : Ch) (f : Channel → Channel) : (s.modCh c f).freeCount = s.freeCount := rfl
@[simp] theorem State.modCh_pending (c : Ch) (f : Channel → Channel) : (s.modCh c f).pending = s.pending := rfl

/-! ### modLink -/

@[simp] theorem State.modLink_part (f : Link → Link) : (s.modLink f).part = s.part := rfl
@[simp] theorem State.modLink_startCause (f : Link → Link) : (s.modLink f).startCause = s.startCause := rfl
@[simp] theorem State.modLink_image (f : Link → Link) : (s.modLink f).image = s.image := rfl
@[simp] theorem State.modLink_saveInFlight (f : Link → Link) : (s.modLink f).saveInFlight = s.saveInFlight := rfl
@[simp] theorem State.modLink_pool (f : Link → Link) : (s.modLink f).pool = s.pool := rfl
@[simp] theorem State.modLink_chans (f : Link → Link) : (s.modLink f).chans = s.chans := rfl
@[simp] theorem State.modLink_arb (f : Link → Link) : (s.modLink f).arb = s.arb := rfl
@[simp] theorem State.modLink_prot (f : Link → Link) : (s.modLink f).prot = s.prot := rfl
@[simp] theorem State.modLink_hall (f : Link → Link) : (s.modLink f).hall = s.hall := rfl
@[simp] theorem State.modLink_freeCount (f : Link → Link) : (s.modLink f).freeCount = s.freeCount := rfl
@[simp] theorem State.modLink_pending (f : Link → Link) : (s.modLink f).pending = s.pending := rfl
@[simp] theorem State.modLink_link (f : Link → Link) : (s.modLink f).link = f s.link := rfl

/-! ### modArb -/

@[simp] theorem State.modArb_part (f : Arbiter → Arbiter) : (s.modArb f).part = s.part := rfl
@[simp] theorem State.modArb_startCause (f : Arbiter → Arbiter) : (s.modArb f).startCause = s.startCause := rfl
@[simp] theorem State.modArb_image (f : Arbiter → Arbiter) : (s.modArb f).image = s.image := rfl
@[simp] theorem State.modArb_saveInFlight (f : Arbiter → Arbiter) : (s.modArb f).saveInFlight = s.saveInFlight := rfl
@[simp] theorem State.modArb_link (f : Arbiter → Arbiter) : (s.modArb f).link = s.link := rfl
@[simp] theorem State.modArb_pool (f : Arbiter → Arbiter) : (s.modArb f).pool = s.pool := rfl
@[simp] theorem State.modArb_chans (f : Arbiter → Arbiter) : (s.modArb f).chans = s.chans := rfl
@[simp] theorem State.modArb_prot (f : Arbiter → Arbiter) : (s.modArb f).prot = s.prot := rfl
@[simp] theorem State.modArb_hall (f : Arbiter → Arbiter) : (s.modArb f).hall = s.hall := rfl
@[simp] theorem State.modArb_freeCount (f : Arbiter → Arbiter) : (s.modArb f).freeCount = s.freeCount := rfl
@[simp] theorem State.modArb_pending (f : Arbiter → Arbiter) : (s.modArb f).pending = s.pending := rfl
@[simp] theorem State.modArb_arb (f : Arbiter → Arbiter) : (s.modArb f).arb = f s.arb := rfl

/-! ### modHall -/

@[simp] theorem State.modHall_part (f : Hall → Hall) : (s.modHall f).part = s.part := rfl
@[simp] theorem State.modHall_startCause (f : Hall → Hall) : (s.modHall f).startCause = s.startCause := rfl
@[simp] theorem State.modHall_image (f : Hall → Hall) : (s.modHall f).image = s.image := rfl
@[simp] theorem State.modHall_saveInFlight (f : Hall → Hall) : (s.modHall f).saveInFlight = s.saveInFlight := rfl
@[simp] theorem State.modHall_link (f : Hall → Hall) : (s.modHall f).link = s.link := rfl
@[simp] theorem State.modHall_pool (f : Hall → Hall) : (s.modHall f).pool = s.pool := rfl
@[simp] theorem State.modHall_chans (f : Hall → Hall) : (s.modHall f).chans = s.chans := rfl
@[simp] theorem State.modHall_arb (f : Hall → Hall) : (s.modHall f).arb = s.arb := rfl
@[simp] theorem State.modHall_prot (f : Hall → Hall) : (s.modHall f).prot = s.prot := rfl
@[simp] theorem State.modHall_freeCount (f : Hall → Hall) : (s.modHall f).freeCount = s.freeCount := rfl
@[simp] theorem State.modHall_pending (f : Hall → Hall) : (s.modHall f).pending = s.pending := rfl
@[simp] theorem State.modHall_hall (f : Hall → Hall) : (s.modHall f).hall = f s.hall := rfl

/-! ### modProt -/

@[simp] theorem State.modProt_part (f : Protection → Protection) : (s.modProt f).part = s.part := rfl
@[simp] theorem State.modProt_startCause (f : Protection → Protection) : (s.modProt f).startCause = s.startCause := rfl
@[simp] theorem State.modProt_image (f : Protection → Protection) : (s.modProt f).image = s.image := rfl
@[simp] theorem State.modProt_saveInFlight (f : Protection → Protection) : (s.modProt f).saveInFlight = s.saveInFlight := rfl
@[simp] theorem State.modProt_link (f : Protection → Protection) : (s.modProt f).link = s.link := rfl
@[simp] theorem State.modProt_pool (f : Protection → Protection) : (s.modProt f).pool = s.pool := rfl
@[simp] theorem State.modProt_chans (f : Protection → Protection) : (s.modProt f).chans = s.chans := rfl
@[simp] theorem State.modProt_arb (f : Protection → Protection) : (s.modProt f).arb = s.arb := rfl
@[simp] theorem State.modProt_hall (f : Protection → Protection) : (s.modProt f).hall = s.hall := rfl
@[simp] theorem State.modProt_freeCount (f : Protection → Protection) : (s.modProt f).freeCount = s.freeCount := rfl
@[simp] theorem State.modProt_pending (f : Protection → Protection) : (s.modProt f).pending = s.pending := rfl
@[simp] theorem State.modProt_prot (f : Protection → Protection) : (s.modProt f).prot = f s.prot := rfl

/-! ### modPort -/

@[simp] theorem State.modPort_part (c : Ch) (f : Port → Port) : (s.modPort c f).part = s.part := rfl
@[simp] theorem State.modPort_startCause (c : Ch) (f : Port → Port) : (s.modPort c f).startCause = s.startCause := rfl
@[simp] theorem State.modPort_image (c : Ch) (f : Port → Port) : (s.modPort c f).image = s.image := rfl
@[simp] theorem State.modPort_saveInFlight (c : Ch) (f : Port → Port) : (s.modPort c f).saveInFlight = s.saveInFlight := rfl
@[simp] theorem State.modPort_link (c : Ch) (f : Port → Port) : (s.modPort c f).link = s.link := rfl
@[simp] theorem State.modPort_pool (c : Ch) (f : Port → Port) : (s.modPort c f).pool = s.pool := rfl
@[simp] theorem State.modPort_arb (c : Ch) (f : Port → Port) : (s.modPort c f).arb = s.arb := rfl
@[simp] theorem State.modPort_prot (c : Ch) (f : Port → Port) : (s.modPort c f).prot = s.prot := rfl
@[simp] theorem State.modPort_hall (c : Ch) (f : Port → Port) : (s.modPort c f).hall = s.hall := rfl
@[simp] theorem State.modPort_freeCount (c : Ch) (f : Port → Port) : (s.modPort c f).freeCount = s.freeCount := rfl
@[simp] theorem State.modPort_pending (c : Ch) (f : Port → Port) : (s.modPort c f).pending = s.pending := rfl

/-! ### modLine -/

@[simp] theorem State.modLine_part (l : LineNo) (f : AlarmLine → AlarmLine) : (s.modLine l f).part = s.part := rfl
@[simp] theorem State.modLine_startCause (l : LineNo) (f : AlarmLine → AlarmLine) : (s.modLine l f).startCause = s.startCause := rfl
@[simp] theorem State.modLine_image (l : LineNo) (f : AlarmLine → AlarmLine) : (s.modLine l f).image = s.image := rfl
@[simp] theorem State.modLine_saveInFlight (l : LineNo) (f : AlarmLine → AlarmLine) : (s.modLine l f).saveInFlight = s.saveInFlight := rfl
@[simp] theorem State.modLine_link (l : LineNo) (f : AlarmLine → AlarmLine) : (s.modLine l f).link = s.link := rfl
@[simp] theorem State.modLine_pool (l : LineNo) (f : AlarmLine → AlarmLine) : (s.modLine l f).pool = s.pool := rfl
@[simp] theorem State.modLine_chans (l : LineNo) (f : AlarmLine → AlarmLine) : (s.modLine l f).chans = s.chans := rfl
@[simp] theorem State.modLine_arb (l : LineNo) (f : AlarmLine → AlarmLine) : (s.modLine l f).arb = s.arb := rfl
@[simp] theorem State.modLine_hall (l : LineNo) (f : AlarmLine → AlarmLine) : (s.modLine l f).hall = s.hall := rfl
@[simp] theorem State.modLine_freeCount (l : LineNo) (f : AlarmLine → AlarmLine) : (s.modLine l f).freeCount = s.freeCount := rfl
@[simp] theorem State.modLine_pending (l : LineNo) (f : AlarmLine → AlarmLine) : (s.modLine l f).pending = s.pending := rfl

/-! ### Channels -/

theorem State.ch_def (c : Ch) : s.ch c = s.chans[c] := rfl

/-- A channel read after one channel is changed. -/
theorem State.ch_modCh (c d : Ch) (f : Channel → Channel) :
    (s.modCh c f).ch d = if d = c then f (s.ch c) else s.ch d := by
  by_cases h : d = c
  · subst h; simp [State.ch, State.modCh]
  · have : c.val ≠ d.val := fun e => h (Fin.ext e.symm)
    simp [State.ch, State.modCh, h, this]

@[simp] theorem State.ch_modCh_self (c : Ch) (f : Channel → Channel) : (s.modCh c f).ch c = f (s.ch c) := by
  simp [State.ch_modCh]

theorem State.ch_modCh_ne {c d : Ch} (h : d ≠ c) (f : Channel → Channel) : (s.modCh c f).ch d = s.ch d := by
  simp [State.ch_modCh, h]

theorem State.ch_modPort (c d : Ch) (f : Port → Port) :
    (s.modPort c f).ch d = if d = c then { s.ch c with port := f (s.ch c).port } else s.ch d :=
  State.ch_modCh s c d _

@[simp] theorem State.ch_modPort_self (c : Ch) (f : Port → Port) :
    (s.modPort c f).ch c = { s.ch c with port := f (s.ch c).port } := State.ch_modCh_self s c _

@[simp] theorem State.port_modPort_self (c : Ch) (f : Port → Port) : (s.modPort c f).port c = f (s.port c) := by
  simp [State.port]

@[simp] theorem State.ch_modLink (d : Ch) (f : Link → Link) : (s.modLink f).ch d = s.ch d := rfl
@[simp] theorem State.port_modLink (d : Ch) (f : Link → Link) : (s.modLink f).port d = s.port d := rfl
@[simp] theorem State.ch_modArb (d : Ch) (f : Arbiter → Arbiter) : (s.modArb f).ch d = s.ch d := rfl
@[simp] theorem State.port_modArb (d : Ch) (f : Arbiter → Arbiter) : (s.modArb f).port d = s.port d := rfl
@[simp] theorem State.ch_modHall (d : Ch) (f : Hall → Hall) : (s.modHall f).ch d = s.ch d := rfl
@[simp] theorem State.port_modHall (d : Ch) (f : Hall → Hall) : (s.modHall f).port d = s.port d := rfl
@[simp] theorem State.ch_modProt (d : Ch) (f : Protection → Protection) : (s.modProt f).ch d = s.ch d := rfl
@[simp] theorem State.port_modProt (d : Ch) (f : Protection → Protection) : (s.modProt f).port d = s.port d := rfl
@[simp] theorem State.ch_modLine (d : Ch) (l : LineNo) (f : AlarmLine → AlarmLine) : (s.modLine l f).ch d = s.ch d := rfl
@[simp] theorem State.port_modLine (d : Ch) (l : LineNo) (f : AlarmLine → AlarmLine) : (s.modLine l f).port d = s.port d := rfl

/-! ### Lines -/

@[simp] theorem State.line_modCh (l : LineNo) (c : Ch) (f : Channel → Channel) : (s.modCh c f).line l = s.line l := rfl
@[simp] theorem State.line_modLink (l : LineNo) (f : Link → Link) : (s.modLink f).line l = s.line l := rfl
@[simp] theorem State.line_modArb (l : LineNo) (f : Arbiter → Arbiter) : (s.modArb f).line l = s.line l := rfl
@[simp] theorem State.line_modHall (l : LineNo) (f : Hall → Hall) : (s.modHall f).line l = s.line l := rfl

/-- A line read after one line is changed. -/
theorem State.line_modLine (l m : LineNo) (f : AlarmLine → AlarmLine) :
    (s.modLine l f).line m = if m = l then f (s.line l) else s.line m := by
  by_cases h : m = l
  · subst h; simp [State.line, State.modLine, State.modProt]
  · have : l.val ≠ m.val := fun e => h (Fin.ext e.symm)
    simp [State.line, State.modLine, State.modProt, h, this]

@[simp] theorem State.line_modLine_self (l : LineNo) (f : AlarmLine → AlarmLine) :
    (s.modLine l f).line l = f (s.line l) := by
  simp [State.line_modLine]

@[simp] theorem State.hallStop_modLine (l : LineNo) (f : AlarmLine → AlarmLine) :
    (s.modLine l f).prot.hallStop = s.prot.hallStop := rfl

/-- Two channels with every channel equal have equal channel vectors. -/
theorem State.chans_ext {s t : State} (h : ∀ c, t.ch c = s.ch c) : t.chans = s.chans := by
  apply Vector.ext
  intro i hi
  exact h ⟨i, hi⟩

end Sys2Proof.Machine
end

