-- ==== Sys2Proof/Laws/Reports.lean ====
section
/-! SUPPORT. The report queue (R189, R190): what a report being made can do to the link port. -/
namespace Sys2Proof.Machine

/-- An eviction takes one report out. -/
theorem evictOldest_length {l rest : List Report} (h : evictOldest l = some rest) : rest.length + 1 = l.length := by
  induction l generalizing rest with
  | nil => simp [evictOldest] at h
  | cons r l ih =>
    simp only [evictOldest] at h
    split at h
    · cases hl : evictOldest l with
      | none => simp [hl] at h
      | some m =>
        simp [hl] at h
        subst h
        have := ih hl
        simp only [List.length_cons]
        omega
    · simp at h; subst h; simp

/-- No report can be evicted exactly when every one is a fault report. -/
theorem evictOldest_none {l : List Report} : evictOldest l = none ↔ ∀ r ∈ l, r.isFault = true := by
  induction l with
  | nil => simp [evictOldest]
  | cons r l ih =>
    simp only [evictOldest]
    split <;> rename_i h
    · simp [Option.map_eq_none_iff, ih, h]
    · simp [h]

/-- What a made report leaves of the link port: everything but the report queue, the sequence number and the lost flag and
counts. -/
structure LinkKeeps (a b : Link) : Prop where
  speed        : b.speed = a.speed
  requests     : b.requests = a.requests
  reply        : b.reply = a.reply
  sending      : b.sending = a.sending
  linkErr      : b.linkErr = a.linkErr
  linkErrCount : b.linkErrCount = a.linkErrCount
  overrun      : b.overrun = a.overrun
  overrunCount : b.overrunCount = a.overrunCount
  holdTimer    : b.holdTimer = a.holdTimer
  resetPending : b.resetPending = a.resetPending
  bound        : a.reports.length ≤ 64 → b.reports.length ≤ 64

theorem LinkKeeps.refl (a : Link) : LinkKeeps a a :=
  ⟨rfl, rfl, rfl, rfl, rfl, rfl, rfl, rfl, rfl, rfl, id⟩

theorem LinkKeeps.trans {a b c : Link} (h : LinkKeeps a b) (k : LinkKeeps b c) : LinkKeeps a c :=
  ⟨k.speed.trans h.speed, k.requests.trans h.requests, k.reply.trans h.reply, k.sending.trans h.sending,
   k.linkErr.trans h.linkErr, k.linkErrCount.trans h.linkErrCount, k.overrun.trans h.overrun,
   k.overrunCount.trans h.overrunCount, k.holdTimer.trans h.holdTimer, k.resetPending.trans h.resetPending,
   fun x => k.bound (h.bound x)⟩

theorem Link.accept_keeps (l : Link) (r : Report) : LinkKeeps l (l.accept r) := by
  unfold Link.accept
  split
  · constructor <;> try rfl
    intro _; simp; omega
  · split
    · split
      · rename_i rest h
        have := evictOldest_length h
        constructor <;> try rfl
        intro _; simp; omega
      · constructor <;> first | rfl | exact id
    · constructor <;> first | rfl | exact id

theorem Link.make_keeps (l : Link) (partTime : Nat) (channel : Byte) (body : ReportBody) :
    LinkKeeps l (l.make partTime channel body) :=
  LinkKeeps.trans (b := { l with nextSeq := l.nextSeq + 1 })
    ⟨rfl, rfl, rfl, rfl, rfl, rfl, rfl, rfl, rfl, rfl, id⟩ (Link.accept_keeps _ _)

/-- A report takes the next sequence number whatever becomes of it. -/
theorem Link.make_nextSeq (l : Link) (partTime : Nat) (channel : Byte) (body : ReportBody) :
    (l.make partTime channel body).nextSeq = l.nextSeq + 1 := by
  unfold Link.make Link.accept
  split
  · rfl
  · split
    · split <;> rfl
    · rfl

end Sys2Proof.Machine
end

