-- ==== Sys2Proof/Laws/Keeps.lean ====
section
/-! SUPPORT. `Keeps s t`: what the acts of the channel unit, the budget arbiter and the fault path leave as it was on the
way from `s` to `t`, with one lemma for each such act. What they may change is a channel's place in its schedule, its
causes, faults, timers and demands, the arbiter's collections and pointers, the hall state, and the report queue. -/
namespace Sys2Proof.Machine

open Sys2Proof.Safety

/-- What an act leaves of a channel. -/
structure ChKeeps (a b : Channel) : Prop where
  settings      : b.settings = a.settings
  cal           : b.cal = a.cal
  life          : b.life = a.life
  lifeSaturated : b.lifeSaturated = a.lifeSaturated
  queue         : b.queue = a.queue
  last          : b.last = a.last
  held          : b.held = a.held
  missed        : b.missed = a.missed
  taken         : b.taken = a.taken
  pack          : b.pack = a.pack
  packDone      : b.packDone = a.packDone
  elapsed       : b.periodElapsed = a.periodElapsed
  length        : b.periodLength = a.periodLength
  presence      : b.port.presence = a.port.presence
  lastConfirmed : b.port.lastConfirmed = a.port.lastConfirmed
  lineErr       : b.port.lineErr = a.port.lineErr
  lineErrCount  : b.port.lineErrCount = a.port.lineErrCount
  awaiting      : b.port.queryAwaiting = a.port.queryAwaiting
  breaking      : b.port.breaking = a.port.breaking
  follower      : (b.state = .follower ↔ a.state = .follower)
  sound         : PortSound a.port → PortSound b.port

theorem ChKeeps.refl (a : Channel) : ChKeeps a a := by constructor <;> first | rfl | exact Iff.rfl | exact id

theorem ChKeeps.trans {a b c : Channel} (h : ChKeeps a b) (k : ChKeeps b c) : ChKeeps a c := by
  constructor
  · exact k.settings.trans h.settings
  · exact k.cal.trans h.cal
  · exact k.life.trans h.life
  · exact k.lifeSaturated.trans h.lifeSaturated
  · exact k.queue.trans h.queue
  · exact k.last.trans h.last
  · exact k.held.trans h.held
  · exact k.missed.trans h.missed
  · exact k.taken.trans h.taken
  · exact k.pack.trans h.pack
  · exact k.packDone.trans h.packDone
  · exact k.elapsed.trans h.elapsed
  · exact k.length.trans h.length
  · exact k.presence.trans h.presence
  · exact k.lastConfirmed.trans h.lastConfirmed
  · exact k.lineErr.trans h.lineErr
  · exact k.lineErrCount.trans h.lineErrCount
  · exact k.awaiting.trans h.awaiting
  · exact k.breaking.trans h.breaking
  · exact k.follower.trans h.follower
  · exact fun x => k.sound (h.sound x)

/-- What an act leaves of the state. -/
structure Keeps (s t : State) : Prop where
  part         : t.part = s.part
  startCause   : t.startCause = s.startCause
  image        : t.image = s.image
  saveInFlight : t.saveInFlight = s.saveInFlight
  link         : LinkKeeps s.link t.link
  pool         : t.pool = s.pool
  chans        : ∀ c, ChKeeps (s.ch c) (t.ch c)
  budget       : t.arb.budget = s.arb.budget
  prot         : t.prot = s.prot
  hall         : t.hall = { s.hall with state := t.hall.state }
  freeCount    : t.freeCount = s.freeCount
  pending      : t.pending = s.pending

theorem Keeps.refl (s : State) : Keeps s s :=
  ⟨rfl, rfl, rfl, rfl, LinkKeeps.refl _, rfl, fun _ => ChKeeps.refl _, rfl, rfl, rfl, rfl, rfl⟩

theorem Keeps.trans {s t u : State} (h : Keeps s t) (k : Keeps t u) : Keeps s u where
  part := k.part.trans h.part
  startCause := k.startCause.trans h.startCause
  image := k.image.trans h.image
  saveInFlight := k.saveInFlight.trans h.saveInFlight
  link := h.link.trans k.link
  pool := k.pool.trans h.pool
  chans c := (h.chans c).trans (k.chans c)
  budget := k.budget.trans h.budget
  prot := k.prot.trans h.prot
  hall := by rw [k.hall, h.hall]
  freeCount := k.freeCount.trans h.freeCount
  pending := k.pending.trans h.pending

/-! ### Updates of one block -/

theorem Keeps.modCh (s : State) (c : Ch) (f : Channel → Channel) (h : ChKeeps (s.ch c) (f (s.ch c))) :
    Keeps s (s.modCh c f) where
  part := rfl
  startCause := rfl
  image := rfl
  saveInFlight := rfl
  link := LinkKeeps.refl _
  pool := rfl
  chans d := by
    rw [State.ch_modCh]
    split
    · rename_i e; subst e; exact h
    · exact ChKeeps.refl _
  budget := rfl
  prot := rfl
  hall := rfl
  freeCount := rfl
  pending := rfl

theorem Keeps.modArb (s : State) (f : Arbiter → Arbiter) (h : (f s.arb).budget = s.arb.budget) : Keeps s (s.modArb f) :=
  ⟨rfl, rfl, rfl, rfl, LinkKeeps.refl _, rfl, fun _ => ChKeeps.refl _, h, rfl, rfl, rfl, rfl⟩

theorem Keeps.modLink (s : State) (f : Link → Link) (h : LinkKeeps s.link (f s.link)) : Keeps s (s.modLink f) :=
  ⟨rfl, rfl, rfl, rfl, h, rfl, fun _ => ChKeeps.refl _, rfl, rfl, rfl, rfl, rfl⟩

theorem reportCh_keeps (s : State) (c : Ch) (body : ReportBody) : Keeps s (reportCh s c body) :=
  Keeps.modLink s _ (Link.make_keeps _ _ _ _)

theorem reportPart_keeps (s : State) (body : ReportBody) : Keeps s (reportPart s body) :=
  Keeps.modLink s _ (Link.make_keeps _ _ _ _)

theorem enterHall_keeps (s : State) (now : HallState) (cause : HallCause) (order : Option (List PauseEntry))
    (entries : Option Nat) : Keeps s (enterHall s now cause order entries) := by
  unfold enterHall
  refine Keeps.trans (t := s.modHall fun h => { h with state := now }) ?_ (reportPart_keeps _ _)
  exact ⟨rfl, rfl, rfl, rfl, LinkKeeps.refl _, rfl, fun _ => ChKeeps.refl _, rfl, rfl, rfl, rfl, rfl⟩

theorem settlingTest_keeps (s : State) : Keeps s (settlingTest s) := by
  unfold settlingTest
  split
  · exact enterHall_keeps _ _ _ _ _
  · exact Keeps.refl s

/-! ### The port -/

/-- What the handing of a demand leaves of a port (R158). -/
structure PortKeeps (a b : Port) : Prop where
  presence      : b.presence = a.presence
  lastConfirmed : b.lastConfirmed = a.lastConfirmed
  lineErr       : b.lineErr = a.lineErr
  lineErrCount  : b.lineErrCount = a.lineErrCount
  awaiting      : b.queryAwaiting = a.queryAwaiting
  breaking      : b.breaking = a.breaking
  sound         : PortSound a → PortSound b

theorem PortKeeps.refl (a : Port) : PortKeeps a a := ⟨rfl, rfl, rfl, rfl, rfl, rfl, id⟩

theorem PortKeeps.trans {a b c : Port} (h : PortKeeps a b) (k : PortKeeps b c) : PortKeeps a c :=
  ⟨k.presence.trans h.presence, k.lastConfirmed.trans h.lastConfirmed, k.lineErr.trans h.lineErr,
   k.lineErrCount.trans h.lineErrCount, k.awaiting.trans h.awaiting, k.breaking.trans h.breaking,
   fun x => k.sound (h.sound x)⟩

theorem Port.enqueue_keeps (p : Port) (f : StageFrame) : PortKeeps p (p.enqueue f) := by
  unfold Port.enqueue
  split <;> exact ⟨rfl, rfl, rfl, rfl, rfl, rfl, fun h => ⟨h.absent, h.timed⟩⟩

/-- A demand is sent only on a PRESENT port. -/
theorem Port.send_keeps (p : Port) (d : Demand) (h : p.presence ≠ .absent) : PortKeeps p (p.send d) :=
  PortKeeps.trans (b := { p with outstanding := some ⟨d, p.nextTag⟩, nextTag := p.nextTag + 1 })
    ⟨rfl, rfl, rfl, rfl, rfl, rfl, fun _ => ⟨fun e => absurd e h, fun _ => by simp⟩⟩ (Port.enqueue_keeps _ _)

theorem Port.hand_keeps (p : Port) (d : Demand) : PortKeeps p (p.hand d) := by
  unfold Port.hand
  refine PortKeeps.trans (b := { p with standing := some d })
    ⟨rfl, rfl, rfl, rfl, rfl, rfl, fun h => ⟨h.absent, h.timed⟩⟩ ?_
  dsimp only
  split
  · exact ⟨rfl, rfl, rfl, rfl, rfl, rfl, fun h => ⟨h.absent, h.timed⟩⟩
  · rename_i hp
    split
    · exact Port.send_keeps _ _ hp
    · split <;> exact ⟨rfl, rfl, rfl, rfl, rfl, rfl, fun h => ⟨h.absent, h.timed⟩⟩

theorem Port.handNew_keeps (p : Port) (d : Demand) : PortKeeps p (p.handNew d) := by
  unfold Port.handNew
  split
  · exact PortKeeps.refl p
  · exact Port.hand_keeps p d

theorem Port.pressOn_keeps (p : Port) (h : p.presence ≠ .absent) : PortKeeps p p.pressOn := by
  unfold Port.pressOn
  split
  · exact PortKeeps.trans (b := { p with pending := none })
      ⟨rfl, rfl, rfl, rfl, rfl, rfl, fun h => ⟨h.absent, h.timed⟩⟩ (Port.send_keeps _ _ h)
  · exact Port.enqueue_keeps _ _
  · exact PortKeeps.refl p

theorem ChKeeps.ofPort {a : Channel} {p : Port} (h : PortKeeps a.port p) : ChKeeps a { a with port := p } :=
  ⟨rfl, rfl, rfl, rfl, rfl, rfl, rfl, rfl, rfl, rfl, rfl, rfl, rfl, h.presence, h.lastConfirmed, h.lineErr,
   h.lineErrCount, h.awaiting, h.breaking, Iff.rfl, h.sound⟩

theorem Keeps.modPort (s : State) (c : Ch) (f : Port → Port) (h : PortKeeps (s.port c) (f (s.port c))) :
    Keeps s (s.modPort c f) := Keeps.modCh s c _ (ChKeeps.ofPort h)

theorem issue_keeps (s : State) (c : Ch) : Keeps s (issue s c) := by
  unfold issue
  have h0 : Keeps s (if (calledFor s c).2 then s.modCh c fun ch => { ch with clamped := true } else s) := by
    split
    · exact Keeps.modCh s c _ (by constructor <;> first | rfl | exact Iff.rfl | exact id)
    · exact Keeps.refl s
  dsimp only
  split
  · exact (h0.trans (Keeps.modPort _ c _ (Port.handNew_keeps _ _))).trans
      (Keeps.modPort _ (partner c) _ (Port.handNew_keeps _ _))
  · exact h0.trans (Keeps.modPort _ c _ (Port.handNew_keeps _ _))

/-! ### The arbiter -/

theorem modGrant_keeps (s : State) (c : Ch) (f : Grant → Grant) : Keeps s (modGrant s c f) := Keeps.modArb s _ rfl

theorem releaseGrant_keeps (s : State) (c : Ch) : Keeps s (releaseGrant s c) := by
  unfold releaseGrant
  split
  · exact Keeps.modArb s _ rfl
  · exact Keeps.refl s

theorem withdrawWaiting_keeps (s : State) (c : Ch) : Keeps s (withdrawWaiting s c) := by
  unfold withdrawWaiting
  split
  · exact Keeps.modArb s _ rfl
  · exact Keeps.refl s

theorem withdrawEntries_keeps (s : State) (c : Ch) : Keeps s (withdrawEntries s c) := by
  unfold withdrawEntries
  refine (withdrawWaiting_keeps s c).trans ?_
  dsimp only
  split
  · exact Keeps.modArb _ _ rfl
  · exact Keeps.refl _

theorem grantNotLive_keeps (s : State) (c : Ch) : Keeps s (grantNotLive s c) := modGrant_keeps s c _

theorem grantLive_keeps (s : State) (c : Ch) : Keeps s (grantLive s c) :=
  (modGrant_keeps s c _).trans (Keeps.modArb _ _ rfl)

theorem lodge_keeps (s : State) (c : Ch) (dir : Direction) (claim : Nat) : Keeps s (lodge s c dir claim) :=
  Keeps.modArb s _ rfl

theorem exchangeGrant_keeps (s : State) (c : Ch) (r : StepRecord) : Keeps s (exchangeGrant s c r) :=
  (releaseGrant_keeps s c).trans (lodge_keeps _ _ _ _)

theorem appendResume_keeps (s : State) (c : Ch) (dir : Direction) (claim : Nat) :
    Keeps s (appendResume s c dir claim) := Keeps.modArb s _ rfl

theorem idleGrant_keeps (s : State) (c : Ch) : Keeps s (idleGrant s c) := by
  unfold idleGrant
  split
  · exact Keeps.refl s
  · split
    · exact Keeps.refl s
    · split
      · exact releaseGrant_keeps s c
      · exact modGrant_keeps s c _

theorem unidleGrant_keeps (s : State) (c : Ch) : Keeps s (unidleGrant s c) := modGrant_keeps s c _

theorem settleOffer_keeps (s : State) (c : Ch) (r : StepRecord) (toHeld : Bool) : Keeps s (settleOffer s c r toHeld) := by
  have last : ∀ t : State, Keeps s t → Keeps s (if toHeld then idleGrant t c else unidleGrant t c) := by
    intro t h
    split
    · exact h.trans (idleGrant_keeps _ c)
    · exact h.trans (unidleGrant_keeps _ c)
  have due : Keeps s (s.modArb fun a => { a with evalDue := true }) := Keeps.modArb _ _ rfl
  unfold settleOffer
  cases grantOf s c with
  | none => exact Keeps.refl s
  | some g =>
    dsimp only
    refine iteInduction (motive := Keeps s) (fun _ => last _ (due.trans (modGrant_keeps _ c _))) fun _ => ?_
    exact iteInduction (motive := Keeps s) (fun _ => due.trans (idleGrant_keeps _ c)) fun _ =>
      due.trans (releaseGrant_keeps _ c)

theorem settleAtGap_keeps (s : State) (c : Ch) (r : StepRecord) : Keeps s (settleAtGap s c r) := by
  unfold settleAtGap
  have h0 : Keeps s (if holdsCover s c r then unidleGrant s c else releaseGrant s c) := by
    split
    · exact unidleGrant_keeps s c
    · exact releaseGrant_keeps s c
  exact iteInduction (motive := Keeps s) (fun _ => h0) fun _ => h0.trans (lodge_keeps _ _ _ _)

theorem emptyCollections_keeps (s : State) : Keeps s (emptyCollections s) := Keeps.modArb s _ rfl

theorem evaluate_keeps (s : State) : Keeps s (evaluate s).1 := by
  unfold evaluate
  dsimp only
  split <;> (dsimp only; refine Keeps.modArb s _ ?_; rfl)

/-! ### The channel unit -/

theorem finishStop_keeps (s : State) (c : Ch) (h : (s.ch c).state ≠ .follower) : Keeps s (finishStop s c) :=
  Keeps.modCh s c _ (by
    constructor <;> first | rfl | exact id | skip
    simp only [h, iff_false]
    cases (s.ch c).stopDest <;> simp [StopDest.state])

/-- A channel's state becomes one that is not FOLLOWER, from one that is not. -/
theorem state_ne_follower {s t : State} (h : Keeps s t) {c : Ch} (hc : (s.ch c).state ≠ .follower) :
    (t.ch c).state ≠ .follower := fun e => hc ((h.chans c).follower.mp e)

theorem enterStopping_keeps (s : State) (c : Ch) (dest : StopDest) (absentCounts : Bool)
    (hc : (s.ch c).state ≠ .follower) : Keeps s (enterStopping s c dest absentCounts) := by
  unfold enterStopping
  have h0 : Keeps s (s.modCh c fun ch => { ch with state := .stopping, stopDest := dest }) :=
    Keeps.modCh s c _ (by constructor <;> first | rfl | exact id | simp [hc])
  have h1 := h0.trans (issue_keeps _ c)
  dsimp only
  split
  · exact h1.trans (finishStop_keeps _ c (state_ne_follower h1 hc))
  · exact h1

theorem portSettled_keeps (s : State) (c : Ch) : Keeps s (portSettled s c) := by
  unfold portSettled
  dsimp only
  split
  · rename_i h
    exact (finishStop_keeps s _ (by simp [h.1])).trans (settlingTest_keeps _)
  · exact settlingTest_keeps s

theorem prepareStep_keeps (s : State) (c : Ch) (k : Nat) (toHeld : Bool) : Keeps s (prepareStep s c k toHeld) := by
  unfold prepareStep
  have h0 : Keeps s (s.modCh c fun ch =>
      { ch with stepIndex := k, stepTime := 0, qStep := 0, eStep := 0, vPeak := 0, confirms := [0, 0, 0, 0],
                clamped := false }) := Keeps.modCh s c _ (by constructor <;> first | rfl | exact Iff.rfl | exact id)
  dsimp only
  split
  · exact h0
  · refine (h0.trans ?_).trans (settleOffer_keeps _ _ _ _)
    exact Keeps.modCh _ c _ (by constructor <;> first | rfl | exact Iff.rfl | exact id)

theorem enterStarting_keeps (s : State) (c : Ch) (r : StepRecord) (hc : (s.ch c).state ≠ .follower) :
    Keeps s (enterStarting s c r) := by
  unfold enterStarting
  refine Keeps.trans (Keeps.modCh s c _ ?_) ((unidleGrant_keeps _ c).trans (issue_keeps _ c))
  constructor <;> first | rfl | exact id | simp [hc]

theorem enterDeferred_keeps (s : State) (c : Ch) (hc : (s.ch c).state ≠ .follower) : Keeps s (enterDeferred s c) := by
  unfold enterDeferred
  refine Keeps.trans (Keeps.modCh s c _ ?_) (issue_keeps _ c)
  constructor <;> first | rfl | exact id | simp [hc]

theorem enterRest_keeps (s : State) (c : Ch) (hc : (s.ch c).state ≠ .follower) : Keeps s (enterRest s c) := by
  unfold enterRest
  refine Keeps.trans (Keeps.modCh s c _ ?_) ((issue_keeps _ c).trans (idleGrant_keeps _ c))
  constructor <;> first | rfl | exact id | simp [hc]

theorem gapExpires_keeps (s : State) (c : Ch) (hc : (s.ch c).state ≠ .follower) : Keeps s (gapExpires s c) := by
  unfold gapExpires
  split
  · have h := releaseGrant_keeps s c
    exact h.trans (enterDeferred_keeps _ c (state_ne_follower h hc))
  · split
    · exact enterStarting_keeps s c _ hc
    · split
      · have h := exchangeGrant_keeps s c ‹StepRecord›
        exact h.trans (enterDeferred_keeps _ c (state_ne_follower h hc))
      · exact enterDeferred_keeps s c hc

theorem enterGap_keeps (s : State) (c : Ch) (r : StepRecord) (gap : Nat) (hc : (s.ch c).state ≠ .follower) :
    Keeps s (enterGap s c r gap) := by
  unfold enterGap
  have h0 : Keeps s (s.modCh c fun ch => { ch with state := .gap, gapTimer := some gap }) :=
    Keeps.modCh s c _ (by constructor <;> first | rfl | exact id | simp [hc])
  have h1 := (h0.trans (settleAtGap_keeps _ c r)).trans (issue_keeps _ c)
  dsimp only
  split
  · exact h1.trans (gapExpires_keeps _ c (state_ne_follower h1 hc))
  · exact h1

theorem beginStep_keeps (s : State) (c : Ch) (hc : (s.ch c).state ≠ .follower) : Keeps s (beginStep s c) := by
  unfold beginStep
  split
  · exact Keeps.refl s
  · split
    · exact enterRest_keeps s c hc
    · exact enterGap_keeps s c _ _ hc

theorem beginResumed_keeps (s : State) (c : Ch) (hc : (s.ch c).state ≠ .follower) : Keeps s (beginResumed s c) := by
  unfold beginResumed
  split
  · exact Keeps.refl s
  · split
    · exact enterRest_keeps s c hc
    · exact enterGap_keeps s c _ _ hc

theorem takeUp_keeps (s : State) (c : Ch) (k : Nat) (hc : (s.ch c).state ≠ .follower) : Keeps s (takeUp s c k) :=
  (prepareStep_keeps s c k false).trans (beginStep_keeps _ c (state_ne_follower (prepareStep_keeps s c k false) hc))

theorem stopTimers_keeps (ch : Channel) : ChKeeps ch ch.stopTimers := by
  constructor <;> first | rfl | exact Iff.rfl | exact id

theorem addCause_keeps (s : State) (c : Ch) (cause : HoldCause) : Keeps s (addCause s c cause) := by
  have key : (s.ch c).state ≠ .follower → Keeps s
      (let s := s.modCh c Channel.stopTimers
       let s := grantNotLive (withdrawWaiting s c) c
       let s := s.modCh c fun ch => { ch with holds := ch.holds.add cause, state := .held }
       let s := issue s c
       if (s.ch c).holds.keepsIdle then idleGrant s c else s) := by
    intro hc
    have h0 := (Keeps.modCh s c Channel.stopTimers (stopTimers_keeps _)).trans
      ((withdrawWaiting_keeps _ c).trans (grantNotLive_keeps _ c))
    have h1 := h0.trans (Keeps.modCh _ c (fun ch => { ch with holds := ch.holds.add cause, state := .held }) (by
      constructor <;> first | rfl | exact id | simp [state_ne_follower h0 hc]))
    have h2 := h1.trans (issue_keeps _ c)
    dsimp only
    split
    · exact h2.trans (idleGrant_keeps _ c)
    · exact h2
  unfold addCause
  split
  · rename_i h; exact key (by simp [h])
  · rename_i h; exact key (by simp [h])
  · rename_i h; exact key (by simp [h])
  · rename_i h; exact key (by simp [h])
  · have h1 : Keeps s (s.modCh c fun ch => { ch with holds := ch.holds.add cause }) :=
      Keeps.modCh s c _ (by constructor <;> first | rfl | exact Iff.rfl | exact id)
    dsimp only
    split
    · exact h1.trans (idleGrant_keeps _ c)
    · exact h1
  · exact Keeps.refl s

theorem leaveHeld_keeps (s : State) (c : Ch) (hc : (s.ch c).state ≠ .follower) : Keeps s (leaveHeld s c) := by
  unfold leaveHeld
  split
  · have h0 : Keeps s (s.modCh c fun ch => { ch with heldBefore := false }) :=
      Keeps.modCh s c _ (by constructor <;> first | rfl | exact Iff.rfl | exact id)
    exact h0.trans (beginStep_keeps _ c (state_ne_follower h0 hc))
  · split
    · exact Keeps.refl s
    · split
      · exact enterRest_keeps s c hc
      · split
        · exact enterStarting_keeps s c _ hc
        · have h0 := releaseGrant_keeps s c
          have h1 := h0.trans (enterDeferred_keeps _ c (state_ne_follower h0 hc))
          dsimp only
          split
          · exact h1
          · exact h1.trans (lodge_keeps _ _ _ _)

theorem removeCauses_keeps (s : State) (c : Ch) (f : HoldCauses → HoldCauses) : Keeps s (removeCauses s c f) := by
  unfold removeCauses
  have h0 : Keeps s (s.modCh c fun ch => { ch with holds := f ch.holds }) :=
    Keeps.modCh s c _ (by constructor <;> first | rfl | exact Iff.rfl | exact id)
  dsimp only
  split
  · rename_i h
    exact h0.trans (leaveHeld_keeps _ c (by rw [h.1]; decide))
  · exact h0

theorem handOver_keeps (s : State) (c : Ch) : Keeps s (handOver s c) := by
  unfold handOver
  split
  · exact Keeps.refl s
  · split
    · split
      · exact Keeps.refl s
      · exact exchangeGrant_keeps s c _
    · rename_i h
      split
      · exact enterStarting_keeps s c _ (by simp [h])
      · exact exchangeGrant_keeps s c _
    · rename_i h
      have h0 : Keeps s (s.modCh c fun ch => { ch with holds := ch.holds.drop .curtailed }) :=
        Keeps.modCh s c _ (by constructor <;> first | rfl | exact Iff.rfl | exact id)
      dsimp only
      split
      · exact h0.trans (leaveHeld_keeps _ c (state_ne_follower h0 (by simp [h])))
      · split
        · exact h0.trans (idleGrant_keeps _ c)
        · exact h0
    · split
      · exact idleGrant_keeps s c
      · exact Keeps.refl s
    · exact Keeps.refl s

/-! ### Shedding and evaluation -/

theorem shedOne_keeps (s : State) (g : Grant) (test : BudgetTest) : Keeps s (shedOne s g test) :=
  ((appendResume_keeps s _ _ _).trans (addCause_keeps _ _ _)).trans (reportCh_keeps _ _ _)

theorem shedAll_keeps (l : List (Grant × BudgetTest)) (s : State) : Keeps s (shedAll s l) := by
  induction l generalizing s with
  | nil => exact Keeps.refl s
  | cons x l ih => exact (shedOne_keeps s x.1 x.2).trans (ih _)

theorem shed_keeps (s : State) : Keeps s (shed s) := by
  unfold shed
  dsimp only
  split
  · exact Keeps.refl s
  · exact (Keeps.modArb s _ rfl).trans (shedAll_keeps _ _)

theorem handOverAll_keeps (l : List Ch) (s : State) : Keeps s (handOverAll s l) := by
  induction l generalizing s with
  | nil => exact Keeps.refl s
  | cons c l ih => exact (handOver_keeps s c).trans (ih _)

theorem evaluateDue_keeps (fuel : Nat) (s : State) : Keeps s (evaluateDue fuel s) := by
  induction fuel generalizing s with
  | zero => exact Keeps.modArb s _ rfl
  | succ n ih =>
    unfold evaluateDue
    split
    · exact ((Keeps.modArb s _ rfl).trans (evaluate_keeps _)).trans ((handOverAll_keeps _ _).trans (ih _))
    · exact Keeps.refl s

/-- What the arbiter's handling of an event leaves (R90, R100). -/
theorem settle_keeps (s : State) : Keeps s (settle s) := (shed_keeps s).trans (evaluateDue_keeps _ _)

theorem settleEvaluating_keeps (s : State) : Keeps s (settleEvaluating s) :=
  (Keeps.modArb s _ rfl).trans (settle_keeps _)

theorem holdChannel_keeps (s : State) (c : Ch) (cause : HoldCause) : Keeps s (holdChannel s c cause) :=
  (addCause_keeps s c cause).trans (settle_keeps _)

theorem unholdChannel_keeps (s : State) (c : Ch) (f : HoldCauses → HoldCauses) : Keeps s (unholdChannel s c f) :=
  (removeCauses_keeps s c f).trans (settle_keeps _)

/-- What an act keeps is the frame claims are stated with. -/
theorem Keeps.frame {s t : State} (h : Keeps s t) : BoardFrame s t where
  part := h.part
  image := h.image
  saveInFlight := h.saveInFlight
  pool := h.pool
  budget := h.budget
  prot := h.prot
  hall := h.hall
  chans c :=
    { settings := (h.chans c).settings, cal := (h.chans c).cal, life := (h.chans c).life,
      lifeSaturated := (h.chans c).lifeSaturated, queue := (h.chans c).queue, last := (h.chans c).last,
      held := (h.chans c).held, missed := (h.chans c).missed, taken := (h.chans c).taken, pack := (h.chans c).pack,
      elapsed := (h.chans c).elapsed, presence := (h.chans c).presence, lastConfirmed := (h.chans c).lastConfirmed,
      lineErr := (h.chans c).lineErr, lineErrCount := (h.chans c).lineErrCount, breaking := (h.chans c).breaking }
  requests := h.link.requests
  counters := ⟨h.link.linkErrCount, h.link.overrunCount⟩
  holdTimer := h.link.holdTimer
  pending := h.pending

/-! ### Faults -/

theorem setWarned_keeps (ch : Channel) (k : FaultKind) (w : Bool) : ChKeeps ch (setWarned ch k w) := by
  cases k <;> (constructor <;> first | rfl | exact Iff.rfl | exact id)

theorem faultChannel_keeps (s : State) (c : Ch) (hc : (s.ch c).state ≠ .follower) : Keeps s (faultChannel s c) := by
  unfold faultChannel
  have h0 : Keeps s (s.modCh c fun ch => if ch.state.engaged then { ch with resume := resumePointOf ch } else ch) :=
    Keeps.modCh s c _ (by split <;> (constructor <;> first | rfl | exact Iff.rfl | exact id))
  have h1 := h0.trans ((grantNotLive_keeps _ c).trans ((releaseGrant_keeps _ c).trans (withdrawEntries_keeps _ c)))
  refine (h1.trans (Keeps.modCh _ c _ ?_)).trans (issue_keeps _ c)
  constructor <;> first | rfl | exact id | simp [state_ne_follower h1 hc]

theorem respond_keeps (s : State) (c : Ch) : Keeps s (respond s c) := by
  unfold respond
  split
  · exact Keeps.refl s
  · exact Keeps.modPort s c _ (Port.handNew_keeps _ _)
  · rename_i h
    exact faultChannel_keeps s c h

theorem latchKind_keeps (s : State) (c : Ch) (k : FaultKind) (value : Int) : Keeps s (latchKind s c k value) := by
  unfold latchKind
  have h0 : ∀ (x : Channel → Channel), (∀ ch, ChKeeps ch (x ch)) → Keeps s
      (reportFault (respond (s.modCh c x) c) c k value false (s.ch c).stepIndex (s.ch c).stepTime) := fun x hx =>
    ((Keeps.modCh s c x (hx _)).trans (respond_keeps _ c)).trans (reportCh_keeps _ _ _)
  dsimp only
  split
  · exact (h0 _ (fun ch => by constructor <;> first | rfl | exact Iff.rfl | exact id)).trans (settlingTest_keeps _)
  · exact h0 _ (fun ch => by constructor <;> first | rfl | exact Iff.rfl | exact id)

theorem warnKind_keeps (s : State) (c : Ch) (k : FaultKind) (value : Int) : Keeps s (warnKind s c k value) := by
  unfold warnKind
  split
  · exact Keeps.refl s
  · exact (Keeps.modCh s c _ (setWarned_keeps _ _ _)).trans (reportCh_keeps _ _ _)

theorem offerOne_keeps (s : State) (c : Ch) (k : FaultKind) (value : Int) : Keeps s (offerOne s c k value) := by
  unfold offerOne
  split
  · exact warnKind_keeps s c k value
  · split
    · exact Keeps.refl s
    · exact latchKind_keeps s c k value

/-- What an offer of a fault kind leaves (R138). -/
theorem offer_keeps (s : State) (c : Ch) (k : FaultKind) (value : Int) : Keeps s (offer s c k value) := by
  unfold offer
  dsimp only
  refine Keeps.trans ?_ (settle_keeps _)
  split
  · exact (offerOne_keeps s c k value).trans (offerOne_keeps _ _ _ _)
  · exact offerOne_keeps s c k value

theorem offerUnsafe_keeps (s : State) (c : Ch) (tag : BitVec 4) : Keeps s (offerUnsafe s c tag) := by
  unfold offerUnsafe
  refine (Keeps.modCh s c _ ?_).trans (offer_keeps _ _ _ _)
  constructor <;> first | rfl | exact Iff.rfl | exact id

/-! ### The end of a step -/

theorem closeCycle_keeps (s : State) (c : Ch) (j : Nat) : Keeps s (closeCycle s c j) := by
  unfold closeCycle
  refine (reportCh_keeps s c _).trans (Keeps.modCh _ c _ ?_)
  dsimp only
  split <;> (constructor <;> first | rfl | exact Iff.rfl | exact id)

theorem walkFrom_keeps (fuel : Nat) (s : State) (c : Ch) (j : Nat) : Keeps s (walkFrom fuel s c j).1 := by
  induction fuel generalizing s j with
  | zero => exact Keeps.refl s
  | succ n ih =>
    unfold walkFrom
    split
    · exact Keeps.refl s
    · split
      · exact Keeps.refl s
      · split
        · dsimp only
          have h0 : ∀ b : Bool, Keeps s (if b then closeCycle s c j else s) := by
            intro b; split
            · exact closeCycle_keeps s c j
            · exact Keeps.refl s
          split
          · exact (h0 _).trans (ih _ _)
          · refine ((h0 _).trans (Keeps.modCh _ c _ ?_)).trans (ih _ _)
            constructor <;> first | rfl | exact Iff.rfl | exact id
        · exact Keeps.refl s

theorem landOn_keeps (s : State) (c : Ch) (k : Nat) (hold : Bool) (hc : (s.ch c).state ≠ .follower) :
    Keeps s (landOn s c k hold) := by
  unfold landOn
  have h0 := prepareStep_keeps s c k hold
  dsimp only
  split
  · refine (h0.trans (Keeps.modCh _ c _ ?_)).trans (addCause_keeps _ _ _)
    constructor <;> first | rfl | exact Iff.rfl | exact id
  · exact h0.trans (beginStep_keeps _ c (state_ne_follower h0 hc))

theorem completeSchedule_keeps (s : State) (c : Ch) (reason : ScheduleEnd) (hc : (s.ch c).state ≠ .follower) :
    Keeps s (completeSchedule s c reason) := by
  have h0 : ∀ body, Keeps s
      ((withdrawEntries (releaseGrant (reportCh s c body) c) c).modCh c Channel.stopTimers) := fun body =>
    ((reportCh_keeps s c body).trans ((releaseGrant_keeps _ c).trans (withdrawEntries_keeps _ c))).trans
      (Keeps.modCh _ c Channel.stopTimers (stopTimers_keeps _))
  exact (h0 _).trans (enterStopping_keeps _ c _ _ (state_ne_follower (h0 _) hc))

theorem scheduleEnd_keeps (s : State) (c : Ch) (reason : ScheduleEnd) (hold : Bool) (hc : (s.ch c).state ≠ .follower) :
    Keeps s (scheduleEnd s c reason hold) := by
  have h0 : ∀ body, Keeps s (walkFrom 1024 ((reportCh s c body).modCh c Channel.carryOutSwap) c 0).1 := fun body =>
    ((reportCh_keeps s c body).trans (Keeps.modCh _ c Channel.carryOutSwap (by
      constructor <;> first | rfl | exact Iff.rfl | exact id))).trans (walkFrom_keeps 1024 _ c 0)
  unfold scheduleEnd
  dsimp only
  split
  · split
    · exact (h0 _).trans (landOn_keeps _ c _ hold (state_ne_follower (h0 _) hc))
    · exact (h0 _).trans (completeSchedule_keeps _ c _ (state_ne_follower (h0 _) hc))
  · exact completeSchedule_keeps s c reason hc

/-- What the end of a step leaves (R29). -/
theorem endStep_keeps (s : State) (c : Ch) (r : StepRecord) (reason : EndReason) (action : Action)
    (hc : (s.ch c).state ≠ .follower) : Keeps s (endStep s c r reason action) := by
  have h0 : ∀ body, Keeps s ((reportCh (grantNotLive s c) c body).modCh c Channel.stopTimers) := fun body =>
    ((grantNotLive_keeps s c).trans (reportCh_keeps _ c body)).trans
      (Keeps.modCh _ c Channel.stopTimers (stopTimers_keeps _))
  unfold endStep
  dsimp only
  refine Keeps.trans ?_ (settle_keeps _)
  split
  · exact (h0 _).trans (scheduleEnd_keeps _ c _ _ (state_ne_follower (h0 _) hc))
  · have h1 : ∀ body j, Keeps s
        (walkFrom 1024 ((reportCh (grantNotLive s c) c body).modCh c Channel.stopTimers) c j).1 := fun body j =>
      (h0 body).trans (walkFrom_keeps 1024 _ c j)
    split
    · exact (h1 _ _).trans (landOn_keeps _ c _ _ (state_ne_follower (h1 _ _) hc))
    · exact (h1 _ _).trans (scheduleEnd_keeps _ c _ _ (state_ne_follower (h1 _ _) hc))

end Sys2Proof.Machine
end

