-- ==== Sys2Proof/Laws/Settle.lean ====
section
/-! SUPPORT. `Runs s t`: what the budget arbiter's handling of an event leaves beyond `Keeps`. Shedding and evaluation may
hold a channel, start it or defer it, but they leave every channel's step and its figures, windows, faults and resume
point as they were, and no channel comes to be engaged or ceases to be. -/
namespace Sys2Proof.Machine

open Sys2Proof.Safety

/-- What the arbiter's handling leaves of a channel, beyond `ChKeeps`. -/
abbrev RunKeeps := RunFrame

theorem RunKeeps.refl (a : Channel) : RunKeeps a a := by constructor <;> first | rfl | exact fun _ => rfl

theorem RunKeeps.trans {a b c : Channel} (h : RunKeeps a b) (k : RunKeeps b c) : RunKeeps a c where
  active := k.active.trans h.active
  staged := k.staged.trans h.staged
  stepIndex := k.stepIndex.trans h.stepIndex
  stepTime := k.stepTime.trans h.stepTime
  qStep := k.qStep.trans h.qStep
  eStep := k.eStep.trans h.eStep
  vPeak := k.vPeak.trans h.vPeak
  confirms := k.confirms.trans h.confirms
  loops := k.loops.trans h.loops
  cycleNumber := k.cycleNumber.trans h.cycleNumber
  cycle := k.cycle.trans h.cycle
  swapPending := k.swapPending.trans h.swapPending
  stopDest := k.stopDest.trans h.stopDest
  resume := k.resume.trans h.resume
  latched := k.latched.trans h.latched
  firstFault := k.firstFault.trans h.firstFault
  unsafeFlag := k.unsafeFlag.trans h.unsafeFlag
  warnedTLow := k.warnedTLow.trans h.warnedTLow
  warnedMismatch := k.warnedMismatch.trans h.warnedMismatch
  derateSeen := k.derateSeen.trans h.derateSeen
  position := k.position.trans h.position
  inPlay := k.inPlay.trans h.inPlay
  played := k.played.trans h.played
  heldCurrent := k.heldCurrent.trans h.heldCurrent
  underrun := k.underrun.trans h.underrun
  profileEnd := k.profileEnd.trans h.profileEnd
  lowArmed := k.lowArmed.trans h.lowArmed
  host := k.host.trans h.host
  chamber := k.chamber.trans h.chamber
  pause := k.pause.trans h.pause
  endHold := k.endHold.trans h.endHold
  holdable := k.holdable.trans h.holdable
  still x := (k.still (h.holdable.trans x)).trans (h.still x)

/-- What the arbiter's handling leaves of the state. -/
structure Runs (s t : State) : Prop where
  keeps : Keeps s t
  hall  : t.hall = s.hall
  chans : ∀ c, RunKeeps (s.ch c) (t.ch c)

theorem Runs.refl (s : State) : Runs s s := ⟨Keeps.refl s, rfl, fun _ => RunKeeps.refl _⟩

theorem Runs.trans {s t u : State} (h : Runs s t) (k : Runs t u) : Runs s u :=
  ⟨h.keeps.trans k.keeps, k.hall.trans h.hall, fun c => (h.chans c).trans (k.chans c)⟩

theorem Runs.modCh (s : State) (c : Ch) (f : Channel → Channel) (h : ChKeeps (s.ch c) (f (s.ch c)))
    (k : RunKeeps (s.ch c) (f (s.ch c))) : Runs s (s.modCh c f) where
  keeps := Keeps.modCh s c f h
  hall := rfl
  chans d := by
    rw [State.ch_modCh]
    split
    · rename_i e; subst e; exact k
    · exact RunKeeps.refl _

theorem Runs.modArb (s : State) (f : Arbiter → Arbiter) (h : (f s.arb).budget = s.arb.budget) : Runs s (s.modArb f) :=
  ⟨Keeps.modArb s f h, rfl, fun _ => RunKeeps.refl _⟩

theorem Runs.modPort (s : State) (c : Ch) (f : Port → Port) (h : PortKeeps (s.port c) (f (s.port c))) :
    Runs s (s.modPort c f) :=
  Runs.modCh s c _ (ChKeeps.ofPort h) (by constructor <;> first | rfl | exact fun _ => rfl)

theorem reportCh_runs (s : State) (c : Ch) (body : ReportBody) : Runs s (reportCh s c body) :=
  ⟨reportCh_keeps s c body, rfl, fun _ => RunKeeps.refl _⟩

theorem issue_runs (s : State) (c : Ch) : Runs s (issue s c) := by
  unfold issue
  have h0 : Runs s (if (calledFor s c).2 then s.modCh c fun ch => { ch with clamped := true } else s) := by
    split
    · exact Runs.modCh s c _ (by constructor <;> first | rfl | exact Iff.rfl | exact id)
        (by constructor <;> first | rfl | exact fun _ => rfl)
    · exact Runs.refl s
  dsimp only
  split
  · exact (h0.trans (Runs.modPort _ c _ (Port.handNew_keeps _ _))).trans
      (Runs.modPort _ (partner c) _ (Port.handNew_keeps _ _))
  · exact h0.trans (Runs.modPort _ c _ (Port.handNew_keeps _ _))

/-! ### The arbiter's lists -/

theorem modGrant_runs (s : State) (c : Ch) (f : Grant → Grant) : Runs s (modGrant s c f) := Runs.modArb s _ rfl

theorem releaseGrant_runs (s : State) (c : Ch) : Runs s (releaseGrant s c) := by
  unfold releaseGrant
  split
  · exact Runs.modArb s _ rfl
  · exact Runs.refl s

theorem withdrawWaiting_runs (s : State) (c : Ch) : Runs s (withdrawWaiting s c) := by
  unfold withdrawWaiting
  split
  · exact Runs.modArb s _ rfl
  · exact Runs.refl s

theorem lodge_runs (s : State) (c : Ch) (dir : Direction) (claim : Nat) : Runs s (lodge s c dir claim) :=
  Runs.modArb s _ rfl

theorem idleGrant_runs (s : State) (c : Ch) : Runs s (idleGrant s c) := by
  unfold idleGrant
  split
  · exact Runs.refl s
  · split
    · exact Runs.refl s
    · split
      · exact releaseGrant_runs s c
      · exact modGrant_runs s c _

theorem unidleGrant_runs (s : State) (c : Ch) : Runs s (unidleGrant s c) := modGrant_runs s c _

theorem settleAtGap_runs (s : State) (c : Ch) (r : StepRecord) : Runs s (settleAtGap s c r) := by
  unfold settleAtGap
  have h0 : Runs s (if holdsCover s c r then unidleGrant s c else releaseGrant s c) := by
    split
    · exact unidleGrant_runs s c
    · exact releaseGrant_runs s c
  exact iteInduction (motive := Runs s) (fun _ => h0) fun _ => h0.trans (lodge_runs _ _ _ _)

theorem evaluate_runs (s : State) : Runs s (evaluate s).1 := by
  unfold evaluate
  dsimp only
  split <;> (dsimp only; refine Runs.modArb s _ ?_; rfl)

/-! ### The channel unit -/

/-- A channel in a state where a hold cause is recorded, and what it is left as. -/
theorem holdable_ne_follower {x : ChState} (h : x.holdable = true) : x ≠ .follower := by
  intro e; simp [e, ChState.holdable] at h

theorem Runs.still_holdable {s t : State} (h : Runs s t) {c : Ch} (hc : (s.ch c).state.holdable = true) :
    (t.ch c).state.holdable = true := (h.chans c).holdable.trans hc

/-- A change of a channel's place among the states GAP, DEFERRED, STARTING, RUNNING and HELD. -/
theorem Runs.enter (s : State) (c : Ch) (f : Channel → Channel) (hc : (s.ch c).state.holdable = true)
    (hf : (f (s.ch c)).state.holdable = true)
    (h : ChKeeps (s.ch c) { f (s.ch c) with state := (s.ch c).state })
    (k : RunKeeps (s.ch c) { f (s.ch c) with state := (s.ch c).state }) : Runs s (s.modCh c f) :=
  Runs.modCh s c f
    { h with follower := by simp [holdable_ne_follower hc, holdable_ne_follower hf] }
    { k with holdable := hf.trans hc.symm, still := fun e => by simp [hc] at e }

theorem enterStarting_runs (s : State) (c : Ch) (r : StepRecord) (hc : (s.ch c).state.holdable = true) :
    Runs s (enterStarting s c r) := by
  unfold enterStarting
  refine Runs.trans (Runs.enter s c _ hc rfl ?_ ?_) ((unidleGrant_runs _ c).trans (issue_runs _ c))
  · constructor <;> first | rfl | exact Iff.rfl | exact id
  · constructor <;> first | rfl | exact fun _ => rfl

theorem enterDeferred_runs (s : State) (c : Ch) (hc : (s.ch c).state.holdable = true) : Runs s (enterDeferred s c) := by
  unfold enterDeferred
  refine Runs.trans (Runs.enter s c _ hc rfl ?_ ?_) (issue_runs _ c)
  · constructor <;> first | rfl | exact Iff.rfl | exact id
  · constructor <;> first | rfl | exact fun _ => rfl

theorem enterRest_runs (s : State) (c : Ch) (hc : (s.ch c).state.holdable = true) : Runs s (enterRest s c) := by
  unfold enterRest
  refine Runs.trans (Runs.enter s c _ hc rfl ?_ ?_) ((issue_runs _ c).trans (idleGrant_runs _ c))
  · constructor <;> first | rfl | exact Iff.rfl | exact id
  · constructor <;> first | rfl | exact fun _ => rfl

theorem gapExpires_runs (s : State) (c : Ch) (hc : (s.ch c).state.holdable = true) : Runs s (gapExpires s c) := by
  unfold gapExpires
  split
  · have h := releaseGrant_runs s c
    exact h.trans (enterDeferred_runs _ c (h.still_holdable hc))
  · split
    · exact enterStarting_runs s c _ hc
    · split
      · have h := (releaseGrant_runs s c).trans (lodge_runs _ c ‹StepRecord›.dir (claimOf s c ‹StepRecord›))
        exact h.trans (enterDeferred_runs _ c (h.still_holdable hc))
      · exact enterDeferred_runs s c hc

theorem enterGap_runs (s : State) (c : Ch) (r : StepRecord) (gap : Nat) (hc : (s.ch c).state.holdable = true) :
    Runs s (enterGap s c r gap) := by
  unfold enterGap
  have h0 : Runs s (s.modCh c fun ch => { ch with state := .gap, gapTimer := some gap }) := by
    refine Runs.enter s c _ hc rfl ?_ ?_
    · constructor <;> first | rfl | exact Iff.rfl | exact id
    · constructor <;> first | rfl | exact fun _ => rfl
  have h1 := (h0.trans (settleAtGap_runs _ c r)).trans (issue_runs _ c)
  dsimp only
  split
  · exact h1.trans (gapExpires_runs _ c (h1.still_holdable hc))
  · exact h1

theorem beginStep_runs (s : State) (c : Ch) (hc : (s.ch c).state.holdable = true) : Runs s (beginStep s c) := by
  unfold beginStep
  split
  · exact Runs.refl s
  · split
    · exact enterRest_runs s c hc
    · exact enterGap_runs s c _ _ hc

theorem leaveHeld_runs (s : State) (c : Ch) (hc : (s.ch c).state.holdable = true) : Runs s (leaveHeld s c) := by
  unfold leaveHeld
  split
  · have h0 : Runs s (s.modCh c fun ch => { ch with heldBefore := false }) :=
      Runs.modCh s c _ (by constructor <;> first | rfl | exact Iff.rfl | exact id)
        (by constructor <;> first | rfl | exact fun _ => rfl)
    exact h0.trans (beginStep_runs _ c (h0.still_holdable hc))
  · split
    · exact Runs.refl s
    · split
      · exact enterRest_runs s c hc
      · split
        · exact enterStarting_runs s c _ hc
        · have h0 := releaseGrant_runs s c
          have h1 := h0.trans (enterDeferred_runs _ c (h0.still_holdable hc))
          dsimp only
          split
          · exact h1
          · exact h1.trans (lodge_runs _ _ _ _)

/-- The cause CURTAILED is added: the only cause the arbiter adds (R102). -/
theorem addCurtailed_runs (s : State) (c : Ch) : Runs s (addCause s c .curtailed) := by
  have key : (s.ch c).state.holdable = true → Runs s
      (let s := s.modCh c Channel.stopTimers
       let s := grantNotLive (withdrawWaiting s c) c
       let s := s.modCh c fun ch => { ch with holds := ch.holds.add .curtailed, state := .held }
       let s := issue s c
       if (s.ch c).holds.keepsIdle then idleGrant s c else s) := by
    intro hc
    have h0 : Runs s (s.modCh c Channel.stopTimers) := Runs.modCh s c _ (stopTimers_keeps _)
      (by constructor <;> first | rfl | exact fun _ => rfl)
    have h1 := (h0.trans (withdrawWaiting_runs _ c)).trans (modGrant_runs _ c fun g => { g with live := false })
    have h2 := h1.trans (Runs.enter _ c (fun ch => { ch with holds := ch.holds.add .curtailed, state := .held })
      (h1.still_holdable hc) rfl (by constructor <;> first | rfl | exact Iff.rfl | exact id)
      (by constructor <;> first | rfl | exact fun _ => rfl))
    have h3 := h2.trans (issue_runs _ c)
    dsimp only
    split
    · exact h3.trans (idleGrant_runs _ c)
    · exact h3
  unfold addCause
  split
  · rename_i h; exact key (by rw [h]; rfl)
  · rename_i h; exact key (by rw [h]; rfl)
  · rename_i h; exact key (by rw [h]; rfl)
  · rename_i h; exact key (by rw [h]; rfl)
  · have h1 : Runs s (s.modCh c fun ch => { ch with holds := ch.holds.add .curtailed }) :=
      Runs.modCh s c _ (by constructor <;> first | rfl | exact Iff.rfl | exact id)
        (by constructor <;> first | rfl | exact fun _ => rfl)
    dsimp only
    split
    · exact h1.trans (idleGrant_runs _ c)
    · exact h1
  · exact Runs.refl s

theorem handOver_runs (s : State) (c : Ch) : Runs s (handOver s c) := by
  unfold handOver
  split
  · exact Runs.refl s
  · split
    · split
      · exact Runs.refl s
      · exact (releaseGrant_runs s c).trans (lodge_runs _ _ _ _)
    · rename_i h
      split
      · exact enterStarting_runs s c _ (by rw [h]; rfl)
      · exact (releaseGrant_runs s c).trans (lodge_runs _ _ _ _)
    · rename_i h
      have h0 : Runs s (s.modCh c fun ch => { ch with holds := ch.holds.drop .curtailed }) :=
        Runs.modCh s c _ (by constructor <;> first | rfl | exact Iff.rfl | exact id)
          (by constructor <;> first | rfl | exact fun _ => rfl)
      dsimp only
      split
      · exact h0.trans (leaveHeld_runs _ c (h0.still_holdable (by rw [h]; rfl)))
      · split
        · exact h0.trans (idleGrant_runs _ c)
        · exact h0
    · split
      · exact idleGrant_runs s c
      · exact Runs.refl s
    · exact Runs.refl s

/-! ### Shedding and evaluation -/

theorem shedOne_runs (s : State) (g : Grant) (test : BudgetTest) : Runs s (shedOne s g test) := by
  unfold shedOne
  exact (Runs.trans (Runs.modArb s _ rfl) (addCurtailed_runs _ _)).trans (reportCh_runs _ _ _)

theorem shedAll_runs (l : List (Grant × BudgetTest)) (s : State) : Runs s (shedAll s l) := by
  induction l generalizing s with
  | nil => exact Runs.refl s
  | cons x l ih => exact (shedOne_runs s x.1 x.2).trans (ih _)

theorem shed_runs (s : State) : Runs s (shed s) := by
  unfold shed
  dsimp only
  split
  · exact Runs.refl s
  · exact (Runs.modArb s _ rfl).trans (shedAll_runs _ _)

theorem handOverAll_runs (l : List Ch) (s : State) : Runs s (handOverAll s l) := by
  induction l generalizing s with
  | nil => exact Runs.refl s
  | cons c l ih => exact (handOver_runs s c).trans (ih _)

theorem evaluateDue_runs (fuel : Nat) (s : State) : Runs s (evaluateDue fuel s) := by
  induction fuel generalizing s with
  | zero => exact Runs.modArb s _ rfl
  | succ n ih =>
    unfold evaluateDue
    split
    · exact ((Runs.modArb s _ rfl).trans (evaluate_runs _)).trans ((handOverAll_runs _ _).trans (ih _))
    · exact Runs.refl s

/-- What the arbiter's handling of an event leaves (R90, R100). -/
theorem settle_runs (s : State) : Runs s (settle s) := (shed_runs s).trans (evaluateDue_runs _ _)

theorem settleEvaluating_runs (s : State) : Runs s (settleEvaluating s) := (Runs.modArb s _ rfl).trans (settle_runs _)

end Sys2Proof.Machine
end

