-- ==== Sys2Proof/Laws/Calm.lean ====
section
/-! SUPPORT. What the arbiter's handling of an event does to a channel it has no business with: nothing at all when the tests
hold and no evaluation is due (R90, R100); and, for a channel without a grant outside DEFERRED and HELD, nothing but its
port, which a leader's demand may reach. -/
namespace Sys2Proof.Machine

/-! ### No business at all -/

theorem shed_calm {s : State} (h : testsHold s = true) : shed s = s := by
  unfold shed
  have : shedLoop s.arb.budget (cEffOf s) (s.arb.grants.length + 1) s.arb.grants = (s.arb.grants, []) := by
    unfold shedLoop
    exact if_pos h
  simp [this]

/-- With both tests holding and no evaluation due the arbiter does nothing (R90, R100). -/
theorem settle_calm {s : State} (h : testsHold s = true) (he : s.arb.evalDue = false) : settle s = s := by
  unfold settle
  simp only [shed_calm h]
  unfold settleFuel evaluateDue
  simp [he]

/-! ### One channel -/

/-- Nothing but the port differs. -/
def OnlyPort (a b : Channel) : Prop := b = { a with port := b.port }

theorem OnlyPort.refl (a : Channel) : OnlyPort a a := rfl

theorem OnlyPort.of {a : Channel} {p : Port} : OnlyPort a { a with port := p } := rfl

theorem OnlyPort.trans {a b c : Channel} (h : OnlyPort a b) (k : OnlyPort b c) : OnlyPort a c := by
  unfold OnlyPort at *
  rw [k, h]

theorem OnlyPort.state {a b : Channel} (h : OnlyPort a b) : b.state = a.state := by rw [h]

/-- An act on channel `d` leaves a state's channel `c` but for its port. -/
def Leaves (c : Ch) (s t : State) : Prop := OnlyPort (s.ch c) (t.ch c)

theorem Leaves.refl (c : Ch) (s : State) : Leaves c s s := rfl

theorem Leaves.trans {c : Ch} {s t u : State} (h : Leaves c s t) (k : Leaves c t u) : Leaves c s u := OnlyPort.trans h k

theorem Leaves.modArb (c : Ch) (s : State) (f : Arbiter → Arbiter) : Leaves c s (s.modArb f) := rfl

theorem Leaves.modLink (c : Ch) (s : State) (f : Link → Link) : Leaves c s (s.modLink f) := rfl

theorem Leaves.modPort (c d : Ch) (s : State) (f : Port → Port) : Leaves c s (s.modPort d f) := by
  unfold Leaves
  rw [State.ch_modPort]
  split
  · rename_i h; subst h; rfl
  · rfl

theorem Leaves.modCh {c d : Ch} (h : c ≠ d) (s : State) (f : Channel → Channel) : Leaves c s (s.modCh d f) := by
  unfold Leaves
  rw [State.ch_modCh, if_neg h]
  rfl

theorem issue_leaves {c d : Ch} (h : c ≠ d) (s : State) : Leaves c s (issue s d) := by
  unfold issue
  have h0 : Leaves c s (if (calledFor s d).2 then s.modCh d fun ch => { ch with clamped := true } else s) := by
    split
    · exact Leaves.modCh h s _
    · exact Leaves.refl c s
  exact iteInduction (motive := Leaves c s)
    (fun _ => (h0.trans (Leaves.modPort c _ _ _)).trans (Leaves.modPort c _ _ _)) fun _ => h0.trans (Leaves.modPort c _ _ _)

theorem releaseGrant_leaves (c d : Ch) (s : State) : Leaves c s (releaseGrant s d) := by
  unfold releaseGrant
  split
  · exact Leaves.modArb c s _
  · exact Leaves.refl c s

theorem withdrawWaiting_leaves (c d : Ch) (s : State) : Leaves c s (withdrawWaiting s d) := by
  unfold withdrawWaiting
  split
  · exact Leaves.modArb c s _
  · exact Leaves.refl c s

theorem idleGrant_leaves (c d : Ch) (s : State) : Leaves c s (idleGrant s d) := by
  unfold idleGrant
  split
  · exact Leaves.refl c s
  · split
    · exact Leaves.refl c s
    · split
      · exact releaseGrant_leaves c d s
      · exact Leaves.modArb c s _

theorem settleAtGap_leaves (c d : Ch) (s : State) (r : StepRecord) : Leaves c s (settleAtGap s d r) := by
  unfold settleAtGap
  have h0 : Leaves c s (if holdsCover s d r then unidleGrant s d else releaseGrant s d) := by
    split
    · exact Leaves.modArb c s _
    · exact releaseGrant_leaves c d s
  exact iteInduction (motive := Leaves c s) (fun _ => h0) fun _ => h0.trans (Leaves.modArb c _ _)

theorem enterStarting_leaves {c d : Ch} (h : c ≠ d) (s : State) (r : StepRecord) : Leaves c s (enterStarting s d r) :=
  ((Leaves.modCh h s _).trans (Leaves.modArb c _ _)).trans (issue_leaves h _)

theorem enterDeferred_leaves {c d : Ch} (h : c ≠ d) (s : State) : Leaves c s (enterDeferred s d) :=
  (Leaves.modCh h s _).trans (issue_leaves h _)

theorem enterRest_leaves {c d : Ch} (h : c ≠ d) (s : State) : Leaves c s (enterRest s d) :=
  ((Leaves.modCh h s _).trans (issue_leaves h _)).trans (idleGrant_leaves c d _)

theorem exchangeGrant_leaves (c d : Ch) (s : State) (r : StepRecord) : Leaves c s (exchangeGrant s d r) :=
  (releaseGrant_leaves c d s).trans (Leaves.modArb c _ _)

theorem gapExpires_leaves {c d : Ch} (h : c ≠ d) (s : State) : Leaves c s (gapExpires s d) := by
  unfold gapExpires
  split
  · exact (releaseGrant_leaves c d s).trans (enterDeferred_leaves h _)
  · split
    · exact enterStarting_leaves h s _
    · split
      · exact (exchangeGrant_leaves c d s _).trans (enterDeferred_leaves h _)
      · exact enterDeferred_leaves h s

theorem enterGap_leaves {c d : Ch} (h : c ≠ d) (s : State) (r : StepRecord) (gap : Nat) :
    Leaves c s (enterGap s d r gap) := by
  unfold enterGap
  have h0 : Leaves c s (issue (settleAtGap (s.modCh d fun ch => { ch with state := .gap, gapTimer := some gap }) d r) d) :=
    ((Leaves.modCh h s _).trans (settleAtGap_leaves c d _ r)).trans (issue_leaves h _)
  exact iteInduction (motive := Leaves c s) (fun _ => h0.trans (gapExpires_leaves h _)) fun _ => h0

theorem beginStep_leaves {c d : Ch} (h : c ≠ d) (s : State) : Leaves c s (beginStep s d) := by
  unfold beginStep
  split
  · exact Leaves.refl c s
  · split
    · exact enterRest_leaves h s
    · exact enterGap_leaves h s _ _

theorem leaveHeld_leaves {c d : Ch} (h : c ≠ d) (s : State) : Leaves c s (leaveHeld s d) := by
  unfold leaveHeld
  split
  · exact (Leaves.modCh h s _).trans (beginStep_leaves h _)
  · split
    · exact Leaves.refl c s
    · split
      · exact enterRest_leaves h s
      · split
        · exact enterStarting_leaves h s _
        · have h0 := (releaseGrant_leaves c d s).trans (enterDeferred_leaves h _)
          exact iteInduction (motive := Leaves c s) (fun _ => h0) fun _ => h0.trans (Leaves.modArb c _ _)

theorem addCause_leaves {c d : Ch} (h : c ≠ d) (s : State) (cause : HoldCause) : Leaves c s (addCause s d cause) := by
  have key : Leaves c s
      (let s := s.modCh d Channel.stopTimers
       let s := grantNotLive (withdrawWaiting s d) d
       let s := s.modCh d fun ch => { ch with holds := ch.holds.add cause, state := .held }
       let s := issue s d
       if (s.ch d).holds.keepsIdle then idleGrant s d else s) := by
    have h0 := (Leaves.modCh h s Channel.stopTimers).trans (withdrawWaiting_leaves c d _)
    have h1 := h0.trans (Leaves.modArb c _ fun a => { a with grants := a.grants.map fun g =>
      if g.ch = d then { g with live := false } else g })
    have h2 := (h1.trans (Leaves.modCh h _ fun ch => { ch with holds := ch.holds.add cause, state := .held })).trans
      (issue_leaves h _)
    dsimp only
    split
    · exact h2.trans (idleGrant_leaves c d _)
    · exact h2
  unfold addCause
  split
  · exact key
  · exact key
  · exact key
  · exact key
  · have h1 : Leaves c s (s.modCh d fun ch => { ch with holds := ch.holds.add cause }) := Leaves.modCh h s _
    dsimp only
    split
    · exact h1.trans (idleGrant_leaves c d _)
    · exact h1
  · exact Leaves.refl c s

theorem handOver_leaves {c d : Ch} (h : c ≠ d) (s : State) : Leaves c s (handOver s d) := by
  unfold handOver
  split
  · exact Leaves.refl c s
  · rename_i r _
    split
    · split
      · exact Leaves.refl c s
      · exact exchangeGrant_leaves c d s r
    · split
      · exact enterStarting_leaves h s r
      · exact exchangeGrant_leaves c d s r
    · have h0 : Leaves c s (s.modCh d fun ch => { ch with holds := ch.holds.drop .curtailed }) := Leaves.modCh h s _
      dsimp only
      split
      · exact h0.trans (leaveHeld_leaves h _)
      · split
        · exact h0.trans (idleGrant_leaves c d _)
        · exact h0
    · split
      · exact idleGrant_leaves c d s
      · exact Leaves.refl c s
    · exact Leaves.refl c s

/-- A grant handed to a channel outside DEFERRED and HELD changes nothing of the channel (R91). -/
theorem handOver_own (s : State) (c : Ch) (hd : (s.ch c).state ≠ .deferred) (hh : (s.ch c).state ≠ .held) :
    Leaves c s (handOver s c) := by
  unfold handOver
  split
  · exact Leaves.refl c s
  · split
    · split
      · exact Leaves.refl c s
      · exact (releaseGrant_leaves c c s).trans (Leaves.modArb c _ _)
    · rename_i e; exact absurd e hd
    · rename_i e; exact absurd e hh
    · split
      · exact idleGrant_leaves c c s
      · exact Leaves.refl c s
    · exact Leaves.refl c s

/-! ### Shedding takes only channels with a grant -/

theorem removeNewest_mem (p : Grant → Bool) (gs : List Grant) {g : Grant} {rest : List Grant}
    (h : removeNewest p gs = some (g, rest)) : g ∈ gs ∧ ∀ x ∈ rest, x ∈ gs := by
  induction gs generalizing g rest with
  | nil => simp [removeNewest] at h
  | cons a gs ih =>
    simp only [removeNewest] at h
    split at h
    · rename_i g' rest' h'
      simp only [Option.some.injEq, Prod.mk.injEq] at h
      obtain ⟨rfl, rfl⟩ := h
      have := ih h'
      exact ⟨List.mem_cons_of_mem _ this.1, fun x hx => by
        rcases List.mem_cons.mp hx with rfl | hx
        · exact List.mem_cons_self
        · exact List.mem_cons_of_mem _ (this.2 x hx)⟩
    · split at h
      · simp only [Option.some.injEq, Prod.mk.injEq] at h
        obtain ⟨rfl, rfl⟩ := h
        exact ⟨List.mem_cons_self, fun x hx => List.mem_cons_of_mem _ hx⟩
      · cases h

theorem shedIntake_mem (b : BudgetSettings) (cEff fuel : Nat) (gs : List Grant) :
    (∀ x ∈ (shedIntake b cEff fuel gs).1, x ∈ gs) ∧ ∀ x ∈ (shedIntake b cEff fuel gs).2, x.1 ∈ gs := by
  induction fuel generalizing gs with
  | zero => exact ⟨fun _ h => h, fun _ h => by simp [shedIntake] at h⟩
  | succ n ih =>
    unfold shedIntake
    split
    · exact ⟨fun _ h => h, fun _ h => by simp at h⟩
    · split
      · exact ⟨fun _ h => h, fun _ h => by simp at h⟩
      · rename_i g rest h
        have hm := removeNewest_mem _ _ h
        refine ⟨fun x hx => hm.2 x ((ih rest).1 x hx), fun x hx => ?_⟩
        rcases List.mem_cons.mp hx with rfl | hx
        · exact hm.1
        · exact hm.2 _ ((ih rest).2 x hx)

theorem shedReturn_mem (b : BudgetSettings) (fuel : Nat) (gs : List Grant) :
    (∀ x ∈ (shedReturn b fuel gs).1, x ∈ gs) ∧ ∀ x ∈ (shedReturn b fuel gs).2, x.1 ∈ gs := by
  induction fuel generalizing gs with
  | zero => exact ⟨fun _ h => h, fun _ h => by simp [shedReturn] at h⟩
  | succ n ih =>
    unfold shedReturn
    split
    · exact ⟨fun _ h => h, fun _ h => by simp at h⟩
    · split
      · exact ⟨fun _ h => h, fun _ h => by simp at h⟩
      · rename_i g rest h
        have hm := removeNewest_mem _ _ h
        refine ⟨fun x hx => hm.2 x ((ih rest).1 x hx), fun x hx => ?_⟩
        rcases List.mem_cons.mp hx with rfl | hx
        · exact hm.1
        · exact hm.2 _ ((ih rest).2 x hx)

theorem shedLoop_mem (b : BudgetSettings) (cEff fuel : Nat) (gs : List Grant) :
    (∀ x ∈ (shedLoop b cEff fuel gs).1, x ∈ gs) ∧ ∀ x ∈ (shedLoop b cEff fuel gs).2, x.1 ∈ gs := by
  induction fuel generalizing gs with
  | zero => exact ⟨fun _ h => h, fun _ h => by simp [shedLoop] at h⟩
  | succ n ih =>
    unfold shedLoop
    split
    · exact ⟨fun _ h => h, fun _ h => by simp at h⟩
    · have h1 := shedIntake_mem b cEff gs.length gs
      have h2 := shedReturn_mem b (shedIntake b cEff gs.length gs).1.length (shedIntake b cEff gs.length gs).1
      have h3 := ih (shedReturn b (shedIntake b cEff gs.length gs).1.length (shedIntake b cEff gs.length gs).1).1
      refine ⟨fun x hx => h1.1 x (h2.1 x (h3.1 x hx)), fun x hx => ?_⟩
      simp only [List.append_assoc, List.mem_append] at hx
      rcases hx with hx | hx | hx
      · exact h1.2 x hx
      · exact h1.1 _ (h2.2 x hx)
      · exact h1.1 _ (h2.1 _ (h3.2 x hx))

theorem shedAll_leaves {c : Ch} (l : List (Grant × BudgetTest)) (h : ∀ x ∈ l, x.1.ch ≠ c) (s : State) :
    Leaves c s (shedAll s l) := by
  induction l generalizing s with
  | nil => exact Leaves.refl c s
  | cons x l ih =>
    have hx : c ≠ x.1.ch := fun e => h x List.mem_cons_self e.symm
    have h0 : Leaves c s (shedOne s x.1 x.2) :=
      ((Leaves.modArb c s _).trans (addCause_leaves hx _ _)).trans (Leaves.modLink c _ _)
    exact h0.trans (ih (fun y hy => h y (List.mem_cons_of_mem _ hy)) _)

theorem grantOf_none {s : State} {c : Ch} (h : grantOf s c = none) : ∀ g ∈ s.arb.grants, g.ch ≠ c := by
  intro g hg e
  have := List.find?_eq_none.mp h g hg
  simp [e] at this

theorem shed_leaves {s : State} {c : Ch} (h : grantOf s c = none) : Leaves c s (shed s) := by
  unfold shed
  dsimp only
  split
  · exact Leaves.refl c s
  · refine (Leaves.modArb c s _).trans (shedAll_leaves _ (fun x hx => ?_) _)
    exact grantOf_none h _ ((shedLoop_mem _ _ _ _).2 x hx)

theorem handOverAll_leaves {c : Ch} (l : List Ch) (s : State) (hd : (s.ch c).state ≠ .deferred)
    (hh : (s.ch c).state ≠ .held) : Leaves c s (handOverAll s l) := by
  induction l generalizing s with
  | nil => exact Leaves.refl c s
  | cons d l ih =>
    have h0 : Leaves c s (handOver s d) := by
      by_cases e : c = d
      · subst e; exact handOver_own s c hd hh
      · exact handOver_leaves e s
    exact h0.trans (ih _ (by rw [OnlyPort.state h0]; exact hd) (by rw [OnlyPort.state h0]; exact hh))

theorem evaluate_leaves (c : Ch) (s : State) : Leaves c s (evaluate s).1 := by
  unfold evaluate
  dsimp only
  split <;> exact Leaves.modArb c s _

theorem evaluateDue_leaves {c : Ch} (fuel : Nat) (s : State) (hd : (s.ch c).state ≠ .deferred)
    (hh : (s.ch c).state ≠ .held) : Leaves c s (evaluateDue fuel s) := by
  induction fuel generalizing s with
  | zero => exact Leaves.modArb c s _
  | succ n ih =>
    unfold evaluateDue
    split
    · have h0 : Leaves c s (evaluate (s.modArb fun a => { a with evalDue := false })).1 :=
        (Leaves.modArb c s _).trans (evaluate_leaves c _)
      have hd0 := hd
      have hh0 := hh
      rw [← OnlyPort.state h0] at hd0 hh0
      have h1 := h0.trans (handOverAll_leaves
        (evaluate (s.modArb fun a => { a with evalDue := false })).2 _ hd0 hh0)
      exact h1.trans (ih _ (by rw [OnlyPort.state h1]; exact hd) (by rw [OnlyPort.state h1]; exact hh))
    · exact Leaves.refl c s

/-- The arbiter's handling of an event leaves a channel without a grant, outside DEFERRED and HELD, but for its port. -/
theorem settle_leaves {s : State} {c : Ch} (h : grantOf s c = none) (hd : (s.ch c).state ≠ .deferred)
    (hh : (s.ch c).state ≠ .held) : Leaves c s (settle s) := by
  have h0 := shed_leaves h
  exact h0.trans (evaluateDue_leaves _ _ (by rw [OnlyPort.state h0]; exact hd) (by rw [OnlyPort.state h0]; exact hh))

/-! ### A channel held by a cause the arbiter does not own (R33, R91) -/

/-- HELD, with a cause other than CURTAILED. -/
def HeldFast (ch : Channel) : Prop :=
  ch.state = .held ∧ (ch.holds.host = true ∨ ch.holds.chamber = true ∨ ch.holds.pause = true ∨ ch.holds.endHold = true)

theorem HeldFast.of {a b : Channel} (h : HeldFast a) (k : OnlyPort a b) : HeldFast b := by
  unfold HeldFast
  rw [k]
  exact h

theorem HeldFast.holds {ch : Channel} (h : HeldFast ch) : ch.holds.drop .curtailed ≠ HoldCauses.empty := by
  intro e
  obtain ⟨_, h⟩ := h
  simp only [HoldCauses.drop, HoldCauses.empty, HoldCauses.mk.injEq] at e
  simp [e.1, e.2.2.1, e.2.2.2.1, e.2.2.2.2] at h

theorem addCurtailed_fast {s : State} {c : Ch} (d : Ch) (h : HeldFast (s.ch c)) :
    HeldFast ((addCause s d .curtailed).ch c) := by
  by_cases e : c = d
  · subst e
    have h0 : HeldFast ((s.modCh c fun ch => { ch with holds := ch.holds.add .curtailed }).ch c) := by
      rw [State.ch_modCh, if_pos rfl]
      exact h
    unfold addCause
    rw [h.1]
    dsimp only
    exact iteInduction (motive := fun t : State => HeldFast (t.ch c))
      (fun _ => h0.of (idleGrant_leaves c c _)) fun _ => h0
  · exact h.of (addCause_leaves e s _)

theorem shedAll_fast {c : Ch} (l : List (Grant × BudgetTest)) (s : State) (h : HeldFast (s.ch c)) :
    HeldFast ((shedAll s l).ch c) := by
  induction l generalizing s with
  | nil => exact h
  | cons x l ih =>
    have h0 : HeldFast ((appendResume s x.1.ch x.1.dir x.1.amount).ch c) := h
    exact ih _ (addCurtailed_fast x.1.ch h0)

theorem handOver_fast {s : State} {c : Ch} (d : Ch) (h : HeldFast (s.ch c)) : HeldFast ((handOver s d).ch c) := by
  by_cases e : c = d
  · subst e
    unfold handOver
    split
    · exact h
    · rw [h.1]
      dsimp only
      have h0 : HeldFast ((s.modCh c fun ch => { ch with holds := ch.holds.drop .curtailed }).ch c) := by
        rw [State.ch_modCh, if_pos rfl]
        exact h
      split
      · rename_i he
        rw [State.ch_modCh, if_pos rfl] at he
        exact absurd he h.holds
      · split
        · exact h0.of (idleGrant_leaves c c _)
        · exact h0
  · exact h.of (handOver_leaves e s)

theorem handOverAll_fast {c : Ch} (l : List Ch) (s : State) (h : HeldFast (s.ch c)) :
    HeldFast ((handOverAll s l).ch c) := by
  induction l generalizing s with
  | nil => exact h
  | cons d l ih => exact ih _ (handOver_fast d h)

theorem evaluateDue_fast {c : Ch} (fuel : Nat) (s : State) (h : HeldFast (s.ch c)) :
    HeldFast ((evaluateDue fuel s).ch c) := by
  induction fuel generalizing s with
  | zero => exact h
  | succ n ih =>
    unfold evaluateDue
    split
    · exact ih _ (handOverAll_fast _ _ (h.of ((Leaves.modArb c s _).trans (evaluate_leaves c _))))
    · exact h

/-- A channel HELD by a cause other than CURTAILED stays HELD through the arbiter's handling of an event. -/
theorem settle_fast {s : State} {c : Ch} (h : HeldFast (s.ch c)) : HeldFast ((settle s).ch c) := by
  unfold settle
  refine evaluateDue_fast _ _ ?_
  unfold shed
  dsimp only
  split
  · exact h
  · exact shedAll_fast _ _ h

end Sys2Proof.Machine
end

