-- ==== Sys2Proof/Laws/Pool.lean ====
section
/-! SUPPORT. The step pool: reading after writing, and the canonical form kept by every write. -/
namespace Sys2Proof.Machine

/-- A record read after one is written. -/
theorem poolRead_write (pool : List (Nat × StepRecord)) (i j : Nat) (r : StepRecord) (lo : Nat)
    (h : poolRising lo pool = true) : poolRead (poolWrite pool i r) j = if j = i then some r else poolRead pool j := by
  induction pool generalizing lo with
  | nil => simp [poolWrite, poolRead]
  | cons e rest ih =>
    obtain ⟨k, q⟩ := e
    simp only [poolRising, Bool.and_eq_true, decide_eq_true_eq] at h
    unfold poolWrite
    split
    · rfl
    · split
      · rename_i hk
        subst hk
        unfold poolRead
        by_cases e : j = i <;> simp [e]
      · rename_i h1 h2
        have := ih (k + 1) h.2
        by_cases e : j = k
        · subst e
          have : j ≠ i := fun e => h2 e.symm
          simp [poolRead, this]
        · simp only [poolRead, e, if_false, this]

/-- A write at an index of the pool keeps the canonical form. -/
theorem poolRising_write (pool : List (Nat × StepRecord)) (i : Nat) (r : StepRecord) (lo : Nat) (hi : i < 1024)
    (hlo : lo ≤ i) (h : poolRising lo pool = true) : poolRising lo (poolWrite pool i r) = true := by
  induction pool generalizing lo with
  | nil => simp [poolWrite, poolRising, hi, hlo]
  | cons e rest ih =>
    obtain ⟨k, q⟩ := e
    simp only [poolRising, Bool.and_eq_true, decide_eq_true_eq] at h
    unfold poolWrite
    split
    · rename_i hik
      simp [poolRising, hi, hlo, h.2, h.1.2]
      omega
    · split
      · rename_i hk
        subst hk
        simp [poolRising, hi, hlo, h.2]
      · have := ih (k + 1) (by omega) h.2
        simp [poolRising, h.1, this]

theorem poolWf_writeAll (rs : List StepRecord) (pool : List (Nat × StepRecord)) (i : Nat) (hi : i + rs.length ≤ 1024)
    (h : poolWf pool = true) : poolWf (poolWriteAll pool i rs) = true := by
  induction rs generalizing pool i with
  | nil => exact h
  | cons r rs ih =>
    simp only [List.length_cons] at hi
    exact ih _ _ (by omega) (poolRising_write _ _ _ _ (by omega) (Nat.zero_le _) h)

/-- The pool after records are written at consecutive indices (R11): each of those holds its record, and every other
holds what it did. -/
theorem poolRead_writeAll (rs : List StepRecord) (pool : List (Nat × StepRecord)) (i j : Nat)
    (hi : i + rs.length ≤ 1024) (h : poolWf pool = true) :
    poolRead (poolWriteAll pool i rs) j = if i ≤ j ∧ j < i + rs.length then rs[j - i]? else poolRead pool j := by
  induction rs generalizing pool i with
  | nil =>
    simp only [poolWriteAll, List.length_nil]
    rw [if_neg (by omega)]
  | cons r rs ih =>
    simp only [List.length_cons] at hi
    have hw := poolRising_write pool i r 0 (by omega) (Nat.zero_le _) h
    simp only [poolWriteAll]
    rw [ih _ _ (by omega) hw]
    by_cases h1 : i + 1 ≤ j ∧ j < i + 1 + rs.length
    · have h2 : i ≤ j ∧ j < i + (r :: rs).length := by simp only [List.length_cons]; omega
      have h3 : j - i = (j - (i + 1)) + 1 := by omega
      rw [if_pos h1, if_pos h2, h3, List.getElem?_cons_succ]
    · rw [if_neg h1, poolRead_write _ _ _ _ 0 h]
      by_cases e : j = i
      · subst e
        simp
      · have h2 : ¬(i ≤ j ∧ j < i + (r :: rs).length) := by simp only [List.length_cons]; omega
        simp only [e, if_false, if_neg h2]

end Sys2Proof.Machine
end

