-- ==== Sys2Proof/Laws/Link.lean ====
section
/-! SUPPORT. The link port: when the end of an event changes nothing, what taking a request leaves of the link, and the
form an event takes in which a request arrives at a free link (R181 to R183). -/
namespace Sys2Proof.Machine

open Sys2Proof.Safety

/-! ### Open periods at an event's end (R51) -/

theorem bringForward_eq {before after : State} {c : Ch}
    (h : isFollower after c = true ∨ isFollower before c = true ∨ periodInForce before c ≤ periodInForce after c) :
    bringForward before after c = after := by
  unfold bringForward
  rcases h with h | h | h
  · simp [h]
  · simp [h]
  · split
    · rfl
    · simp [Nat.not_lt.mpr h]

theorem bringForwardAll_eq {before after : State} (l : List Ch)
    (h : ∀ c, isFollower after c = true ∨ isFollower before c = true ∨
      periodInForce before c ≤ periodInForce after c) : bringForwardAll before after l = after := by
  induction l with
  | nil => rfl
  | cons c l ih => simp only [bringForwardAll, bringForward_eq (h c), ih]

/-- No period is brought forward where no channel's state and settings and not the hall state have changed. -/
theorem bringForwardAll_same {before after : State} (l : List Ch)
    (hs : ∀ c, (after.ch c).state = (before.ch c).state) (hk : ∀ c, (after.ch c).settings = (before.ch c).settings)
    (hh : after.hall.state = before.hall.state) : bringForwardAll before after l = after := by
  apply bringForwardAll_eq
  intro c
  right; right
  simp [periodInForce, hs, hk, hh]

/-- What bringing periods forward leaves. -/
structure PeriodKeeps (s t : State) : Prop where
  rest  : t = { s with chans := t.chans }
  chans : ∀ c, t.ch c = { s.ch c with periodLength := (t.ch c).periodLength }

theorem PeriodKeeps.refl (s : State) : PeriodKeeps s s := ⟨rfl, fun _ => rfl⟩

theorem bringForward_period (before after : State) (c : Ch) : PeriodKeeps after (bringForward before after c) := by
  unfold bringForward
  split
  · exact PeriodKeeps.refl _
  · split
    · refine ⟨rfl, fun d => ?_⟩
      rw [State.ch_modCh]
      split
      · rename_i e; subst e; rfl
      · rfl
    · exact PeriodKeeps.refl _

theorem PeriodKeeps.trans {s t u : State} (h : PeriodKeeps s t) (k : PeriodKeeps t u) : PeriodKeeps s u := by
  refine ⟨?_, fun c => ?_⟩
  · rw [k.rest, h.rest]
  · rw [k.chans c, h.chans c]

theorem bringForwardAll_period (before after : State) (l : List Ch) :
    PeriodKeeps after (bringForwardAll before after l) := by
  induction l generalizing after with
  | nil => exact PeriodKeeps.refl _
  | cons c l ih => exact (bringForward_period before after c).trans (ih _)

theorem PeriodKeeps.link {s t : State} (h : PeriodKeeps s t) : t.link = s.link := by rw [h.rest]
theorem PeriodKeeps.part {s t : State} (h : PeriodKeeps s t) : t.part = s.part := by rw [h.rest]
theorem PeriodKeeps.pool {s t : State} (h : PeriodKeeps s t) : t.pool = s.pool := by rw [h.rest]
theorem PeriodKeeps.arb {s t : State} (h : PeriodKeeps s t) : t.arb = s.arb := by rw [h.rest]
theorem PeriodKeeps.prot {s t : State} (h : PeriodKeeps s t) : t.prot = s.prot := by rw [h.rest]
theorem PeriodKeeps.hall {s t : State} (h : PeriodKeeps s t) : t.hall = s.hall := by rw [h.rest]
theorem PeriodKeeps.image {s t : State} (h : PeriodKeeps s t) : t.image = s.image := by rw [h.rest]
theorem PeriodKeeps.saveInFlight {s t : State} (h : PeriodKeeps s t) : t.saveInFlight = s.saveInFlight := by rw [h.rest]
theorem PeriodKeeps.startCause {s t : State} (h : PeriodKeeps s t) : t.startCause = s.startCause := by rw [h.rest]
theorem PeriodKeeps.freeCount {s t : State} (h : PeriodKeeps s t) : t.freeCount = s.freeCount := by rw [h.rest]
theorem PeriodKeeps.pending {s t : State} (h : PeriodKeeps s t) : t.pending = s.pending := by rw [h.rest]

/-! ### The transmitter (R183) -/

theorem pump_busy {s : State} {f : LinkFrame} (h : s.link.sending = some f) : pump s = s := by simp [pump, h]

theorem pump_reply {s : State} {x : Reply} (h : s.link.sending = none) (hr : s.link.reply = some x) :
    pump s = s.modLink fun l => { l with reply := none, sending := some (.reply x) } := by simp [pump, h, hr]

theorem pump_none {s : State} (h : s.link.sending = none) (hr : s.link.reply = none)
    (hq : s.part ≠ .ready ∨ s.link.holdTimer.isSome ∨ s.link.reports = []) : pump s = s := by
  unfold pump
  simp only [h, hr, Option.isSome_none, Bool.false_eq_true, if_false]
  split
  · rename_i hc
    rcases hq with hq | hq | hq
    · exact absurd hc.1 hq
    · rw [Option.isNone_iff_eq_none] at hc; simp [hc.2] at hq
    · simp [hq]
  · rfl

theorem pump_report {s : State} {r : Report} {rest : List Report} (h : s.link.sending = none)
    (hr : s.link.reply = none) (hp : s.part = .ready) (ht : s.link.holdTimer = none) (hq : s.link.reports = r :: rest) :
    pump s = s.modLink fun l => { l with reports := rest, sending := some (.report r) }.recover s.hall.partTime := by
  simp [pump, h, hr, hp, ht, hq]

theorem Link.recover_keeps (l : Link) (now : Nat) : LinkKeeps l (l.recover now) := by
  unfold Link.recover
  split
  · refine LinkKeeps.trans (Link.make_keeps l now partWide (.reportsLost l.lostCount l.lostFaultCount)) ?_
    constructor <;> first | rfl | exact id
  · exact LinkKeeps.refl l

/-- What the transmitter's choice can do: nothing outside the link port. -/
theorem pump_eq (s : State) : pump s = { s with link := (pump s).link } := by
  unfold pump
  split
  · rfl
  · split
    · rfl
    · split <;> first | rfl | (split <;> rfl)

/-! ### A request that arrives at a free link -/

/-- What taking a request leaves of the link port: what it carries in and out, but for reports. -/
structure LinkStays (a b : Link) : Prop where
  requests : b.requests = a.requests
  reply    : b.reply = a.reply
  sending  : b.sending = a.sending

theorem LinkStays.refl (a : Link) : LinkStays a a := ⟨rfl, rfl, rfl⟩

theorem LinkStays.trans {a b c : Link} (h : LinkStays a b) (k : LinkStays b c) : LinkStays a c :=
  ⟨k.requests.trans h.requests, k.reply.trans h.reply, k.sending.trans h.sending⟩

theorem LinkKeeps.stays {a b : Link} (h : LinkKeeps a b) : LinkStays a b := ⟨h.requests, h.reply, h.sending⟩

theorem replyFree_of (s : State) (h : LinkFree s) : s.link.replyFree = true := by
  have hs := h.sending
  have hr := h.reply
  unfold Link.replyFree
  rw [hr]
  generalize s.link.sending = x at hs
  match x, hs with
  | none, _ => rfl
  | some (.report _), _ => rfl
  | some (.reply r), hs => exact absurd rfl (hs r)

/-- A request that arrives at a free link is taken at once, and its reply is sent or waits behind the report being
sent. -/
theorem arrive_free {s : State} (f : Frame) (h : LinkFree s) (hb : f.body.length ≤ 1024)
    (hl : LinkStays s.link (takeFrame f s).1.link) (hp : (takeFrame f s).1.part = .ready) :
    arrive f s = replied (bringForwardAll s (takeFrame f s).1 allCh)
      ⟨f.tag, f.channel, f.kind, (takeFrame f s).2⟩ := by
  have hs : (s.modLink fun l => l.enqueue f).modLink (fun l => { l with requests := [] }) = s := by
    have := h.requests
    obtain ⟨_, _, _, _, ⟨_, _, _, _, _, _, _, _, _, _, _, _, _, _, _⟩, _, _, _, _, _, _, _⟩ := s
    subst this
    rfl
  have ht : takeNext (s.modLink fun l => l.enqueue f) = answer f s := by
    have hq : (s.modLink fun l => l.enqueue f).link.requests = [f] := by simp [Link.enqueue, h.requests]
    have hf : (s.modLink fun l => l.enqueue f).link.replyFree = true := by
      have := replyFree_of s h
      simpa [Link.replyFree, Link.enqueue, h.requests] using this
    unfold takeNext
    simp only [hq, hf, if_true]
    rw [hs]
  unfold arrive
  have hup : linkUp s = true := by simp [linkUp, h.ready]
  simp only [hup, if_true, Nat.not_lt.mpr hb, if_false, ht]
  unfold finish
  have hpa : (answer f s).part = .ready := hp
  simp only [h.ready, hpa, and_self, if_true]
  have hcomm : ∀ (l : List Ch) (t : State) (g : Link → Link),
      bringForwardAll s (t.modLink g) l = (bringForwardAll s t l).modLink g := by
    intro l
    induction l with
    | nil => intros; rfl
    | cons c l ih =>
      intro t g
      have : bringForward s (t.modLink g) c = (bringForward s t c).modLink g := by
        unfold bringForward
        rw [show isFollower (t.modLink g) c = isFollower t c from rfl,
          show periodInForce (t.modLink g) c = periodInForce t c from rfl]
        by_cases h1 : (isFollower t c || isFollower s c) = true
        · simp only [h1, if_true]
        · simp only [h1, if_false, Bool.false_eq_true]
          by_cases h2 : periodInForce t c < periodInForce s c
          · simp only [h2, if_true]; rfl
          · simp only [h2, if_false]
      simp only [bringForwardAll, this, ih]
  unfold answer
  dsimp only
  rw [hcomm]
  have hpk := bringForwardAll_period s (takeFrame f s).1 allCh
  cases hsend : s.link.sending with
  | none =>
    have h1 : (bringForwardAll s (takeFrame f s).1 allCh).link.sending = none := by
      rw [hpk.link, hl.sending, hsend]
    have h2 : (bringForwardAll s (takeFrame f s).1 allCh).link.reply = none := by
      rw [hpk.link, hl.reply, h.reply]
    rw [pump_reply (by simpa using h1) (by rfl)]
    simp only [replied, State.modLink, h1, Option.isNone_none, if_true]
    rw [← h2]
  | some x =>
    have h1 : (bringForwardAll s (takeFrame f s).1 allCh).link.sending = some x := by
      rw [hpk.link, hl.sending, hsend]
    rw [pump_busy (by simpa using h1)]
    simp [replied, State.modLink, h1]

end Sys2Proof.Machine
end

