-- ==== Sys2Proof/Laws/Requests.lean ====
section
/-! SUPPORT. What the taking of any request leaves: the part state, the image, the hall stop line, the waiting commands and
what the link carries in and out; and the form the meaning of a request row takes at a free link. -/
namespace Sys2Proof.Machine

open Sys2Proof.Safety

/-- What the taking of a request leaves, whatever the request. -/
structure Stays (s t : State) : Prop where
  link       : LinkStays s.link t.link
  part       : t.part = s.part
  startCause : t.startCause = s.startCause
  image      : t.image = s.image
  hallStop   : t.prot.hallStop = s.prot.hallStop
  pending    : t.pending = s.pending

theorem Stays.refl (s : State) : Stays s s := ⟨LinkStays.refl _, rfl, rfl, rfl, rfl, rfl⟩

theorem Stays.trans {s t u : State} (h : Stays s t) (k : Stays t u) : Stays s u :=
  ⟨h.link.trans k.link, k.part.trans h.part, k.startCause.trans h.startCause, k.image.trans h.image,
   k.hallStop.trans h.hallStop, k.pending.trans h.pending⟩

theorem Keeps.stays {s t : State} (h : Keeps s t) : Stays s t :=
  ⟨h.link.stays, h.part, h.startCause, h.image, by rw [h.prot], h.pending⟩

theorem Stays.modCh (s : State) (c : Ch) (f : Channel → Channel) : Stays s (s.modCh c f) :=
  ⟨LinkStays.refl _, rfl, rfl, rfl, rfl, rfl⟩

theorem Stays.modArb (s : State) (f : Arbiter → Arbiter) : Stays s (s.modArb f) :=
  ⟨LinkStays.refl _, rfl, rfl, rfl, rfl, rfl⟩

theorem Stays.modHall (s : State) (f : Hall → Hall) : Stays s (s.modHall f) :=
  ⟨LinkStays.refl _, rfl, rfl, rfl, rfl, rfl⟩

theorem Stays.modLine (s : State) (l : LineNo) (f : AlarmLine → AlarmLine) : Stays s (s.modLine l f) :=
  ⟨LinkStays.refl _, rfl, rfl, rfl, rfl, rfl⟩

theorem Stays.modLink (s : State) (f : Link → Link) (h : LinkStays s.link (f s.link)) : Stays s (s.modLink f) :=
  ⟨h, rfl, rfl, rfl, rfl, rfl⟩

/-! ### The two shapes of a request -/

/-- A property of the state that holds of the state before and of the rule's own effect holds after a part-wide
request. -/
theorem takePart_ind {P : State → Prop} (k : ReqKind) (r : Request) (s : State) (f : State → State × ReplyBody)
    (h : P s) (hf : P (f s).1) : P (takePart k r s f).1 := by
  unfold takePart
  split
  · exact h
  · split
    · exact h
    · exact hf

/-- The same for a request about a channel. -/
theorem takeCh_ind {P : State → Prop} (k : ReqKind) (r : Request) (s : State) (f : Ch → State → State × ReplyBody)
    (h : P s) (hf : ∀ c, P (f c s).1) : P (takeCh k r s f).1 := by
  unfold takeCh
  split
  · exact h
  · split
    · exact h
    · exact hf _

/-- A part-wide request with a body of the right length and the part-wide number comes to the rule's own checks. -/
theorem takePart_ok {k : ReqKind} {r : Request} {s : State} {f : State → State × ReplyBody}
    (hl : k.lengthOk r.body.length = true) (hc : r.channel = partWide) : takePart k r s f = f s := by
  simp [takePart, hl, hc]

theorem channelOf_chByte (c : Ch) : channelOf (chByte c) = some c := by
  revert c; decide

/-- A request to a channel with a body of the right length comes to the rule's own checks. -/
theorem takeCh_ok {k : ReqKind} {r : Request} {s : State} {f : Ch → State → State × ReplyBody} {c : Ch}
    (hl : k.lengthOk r.body.length = true) (hc : r.channel = chByte c) : takeCh k r s f = f c s := by
  simp [takeCh, hl, hc, channelOf_chByte]

/-! ### Lines and cover -/

theorem followCover_keeps (before : Ch → Bool) (l : List Ch) (s : State) : Keeps s (followCover before s l) := by
  induction l generalizing s with
  | nil => exact Keeps.refl s
  | cons c l ih =>
    unfold followCover
    refine Keeps.trans ?_ (ih _)
    split
    · exact holdChannel_keeps s c _
    · split
      · exact unholdChannel_keeps s c _
      · exact Keeps.refl s

theorem offerAlarm_keeps (line : LineNo) (p : Ch → Bool) (l : List Ch) (s : State) :
    Keeps s (offerAlarm line p s l) := by
  induction l generalizing s with
  | nil => exact Keeps.refl s
  | cons c l ih =>
    unfold offerAlarm
    refine Keeps.trans ?_ (ih _)
    split
    · exact offer_keeps s c _ _
    · exact Keeps.refl s

theorem pauseAll_keeps (l : List Ch) (s : State) : Keeps s (pauseAll s l) := by
  induction l generalizing s with
  | nil => exact Keeps.refl s
  | cons c l ih => exact (addCause_keeps s c _).trans (ih _)

theorem unpauseAll_keeps (l : List Ch) (s : State) : Keeps s (unpauseAll s l) := by
  induction l generalizing s with
  | nil => exact Keeps.refl s
  | cons c l ih => exact (removeCauses_keeps s c _).trans (ih _)

theorem appendAll_keeps (l : List PauseEntry) (s : State) : Keeps s (appendAll s l) := by
  induction l generalizing s with
  | nil => exact Keeps.refl s
  | cons e l ih => exact (appendResume_keeps s _ _ _).trans (ih _)

theorem pauseHall_stays (s : State) : Stays s (pauseHall s) := by
  unfold pauseHall
  have h0 : ∀ o, Stays s (emptyCollections (s.modHall fun h => { h with pauseOrder := o })) := fun o =>
    (Stays.modHall s _).trans (Stays.modArb _ _)
  exact (((h0 _).trans (enterHall_keeps _ _ _ _ _).stays).trans
    ((pauseAll_keeps _ _).trans (settle_keeps _)).stays).trans (settlingTest_keeps _).stays

theorem wakeHall_stays (s : State) (cause : HallCause) : Stays s (wakeHall s cause) := by
  unfold wakeHall
  refine Stays.trans (t := s.modHall fun h => { h with state := .active, wakeTimer := none, pauseOrder := [] })
    (Stays.modHall s _) ?_
  exact (((appendAll_keeps _ _).trans (unpauseAll_keeps _ _)).trans
    ((settleEvaluating_keeps _).trans (reportPart_keeps _ _))).stays

/-! ### Runs -/

theorem resetPointers_keeps (s : State) : Keeps s (resetPointers s) := Keeps.modArb s _ rfl

theorem startBegin_stays (s : State) (c : Ch) (hc : (s.ch c).state ≠ .follower) : Stays s (startBegin s c) := by
  unfold startBegin
  refine (Stays.modCh s c Channel.beginRun).trans ((takeUp_keeps _ c 0 ?_).trans (settle_keeps _)).stays
  simpa [Channel.beginRun] using hc

theorem startResume_stays (s : State) (c : Ch) (p : ResumePoint) (hc : (s.ch c).state ≠ .follower) :
    Stays s (startResume s c p) := by
  unfold startResume
  refine Stays.trans (Stays.modCh s c fun ch => ch.restore p) ?_
  have hr : ((s.modCh c fun ch => ch.restore p).ch c).state ≠ .follower := by simpa [Channel.restore] using hc
  generalize s.modCh c (fun ch => ch.restore p) = t at hr
  have key : ∀ u : State, Stays t u → (u.ch c).state ≠ .follower → Stays t (settle (beginResumed u c)) :=
    fun u h hu => h.trans ((beginResumed_keeps u c hu).trans (settle_keeps _)).stays
  dsimp only
  cases currentStep t c with
  | none => exact key t (Stays.refl t) hr
  | some r =>
    dsimp only
    split
    · exact key _ (Stays.modCh t c _) (by simpa [setUpPlayback] using hr)
    · exact key t (Stays.refl t) hr

theorem coverStarted_keeps (s : State) (c : Ch) : Keeps s (coverStarted s c) := by
  unfold coverStarted
  split
  · exact holdChannel_keeps s c _
  · exact Keeps.refl s

theorem stopChannel_stays (s : State) (c : Ch) (hc : (s.ch c).state ≠ .follower) : Stays s (stopChannel s c) := by
  unfold stopChannel
  have h0 := (releaseGrant_keeps s c).trans (withdrawEntries_keeps _ c)
  have h1 := h0.trans (Keeps.modCh _ c
    (fun ch => { ch.stopTimers with holds := HoldCauses.empty, heldBefore := false })
    (by constructor <;> first | rfl | exact Iff.rfl | exact id))
  exact ((h1.trans (enterStopping_keeps _ c _ _ (state_ne_follower h1 hc))).trans (settle_keeps _)).stays

theorem enterStopping_stays (s : State) (c : Ch) (dest : StopDest) (absentCounts : Bool) :
    Stays s (enterStopping s c dest absentCounts) := by
  unfold enterStopping
  have h0 : Stays s (issue (s.modCh c fun ch => { ch with state := .stopping, stopDest := dest }) c) :=
    (Stays.modCh s c _).trans (issue_keeps _ c).stays
  dsimp only
  split
  · exact h0.trans (Stays.modCh _ c _)
  · exact h0

theorem reoffer_stays (s : State) (c : Ch) : Stays s (reoffer s c) := by
  have h1 : Stays s (if (s.ch c).unsafeFlag then
      offerUnsafe { s with freeCount := s.freeCount + 1 } c (reofferTag s c) else s) := by
    split
    · exact Stays.trans (t := { s with freeCount := s.freeCount + 1 }) ⟨LinkStays.refl _, rfl, rfl, rfl, rfl, rfl⟩
        (offerUnsafe_keeps _ _ _).stays
    · exact Stays.refl s
  have h2 : ∀ u : State, Stays s u → Stays s (match directLine u c with
      | some line => offer u c .chamberAlarm line.val
      | none => u) := by
    intro u hu
    split
    · exact hu.trans (offer_keeps _ _ _ _).stays
    · exact hu
  have h3 : ∀ u : State, Stays s u → Stays s (if u.prot.hallStop then offer u c .hallStop 0 else u) := by
    intro u hu
    split
    · exact hu.trans (offer_keeps _ _ _ _).stays
    · exact hu
  exact h3 _ (h2 _ h1)

theorem resetChannel_stays (s : State) (c : Ch) : Stays s (resetChannel s c) := by
  have hfold : ∀ (l : List Ch) (t : State), Stays t (l.foldl reoffer t) := by
    intro l
    induction l with
    | nil => exact fun t => Stays.refl t
    | cons d l ih => exact fun t => (reoffer_stays t d).trans (ih _)
  have h0 : Stays s (withdrawEntries (releaseGrant s c) c) :=
    ((releaseGrant_keeps s c).trans (withdrawEntries_keeps (releaseGrant s c) c)).stays
  have h1 : ∀ u : State, Stays s u →
      Stays s (if isLeader u c then u.modCh (partner c) Channel.clearFollower else u) := by
    intro u hu
    split
    · exact hu.trans (Stays.modCh _ _ _)
    · exact hu
  have h2 : ∀ u : State, Stays s u → Stays s (settle (enterStopping (u.modCh c Channel.clearRun) c .idle true)) :=
    fun u hu => ((hu.trans (Stays.modCh _ _ _)).trans (enterStopping_stays _ _ _ _)).trans (settle_keeps _).stays
  exact (h2 _ (h1 _ h0)).trans (hfold _ _)

theorem formPair_stays (s : State) (l : Ch) : Stays s (formPair s l) := (Stays.modCh s _ _).trans (Stays.modCh _ _ _)

theorem partPair_stays (s : State) (l : Ch) : Stays s (partPair s l) :=
  ⟨LinkStays.refl _, rfl, rfl, rfl, rfl, rfl⟩

/-! ### Every request -/

/-- What the taking of a request of any kind leaves. -/
theorem takeKind_stays (k : ReqKind) (r : Request) (s : State) : Stays s (takeKind k r s).1 := by
  cases k <;> unfold takeKind <;> dsimp only
  case identify => exact takePart_ind _ _ _ _ (Stays.refl s) (Stays.refl s)
  case getStatus =>
    refine takePart_ind _ _ _ _ (Stays.refl s) ?_
    dsimp only
    split
    · exact Stays.modLink s _ ⟨rfl, rfl, rfl⟩
    · exact Stays.refl s
  case getBudget => exact takePart_ind _ _ _ _ (Stays.refl s) (Stays.refl s)
  case setBudget =>
    exact takePart_ind _ _ _ _ (Stays.refl s) ((Stays.modArb s _).trans (settleEvaluating_keeps _).stays)
  case setAlarmRoute =>
    refine takePart_ind _ _ _ _ (Stays.refl s) ?_
    dsimp only
    split
    · split
      · exact Stays.refl s
      · rename_i line _ route _
        dsimp only
        have h0 : ∀ x, Stays s (s.modLine ⟨field r.body 0 1, line⟩ fun l => { l with settings := x }) :=
          fun x => Stays.modLine s _ _
        have h1 : ∀ (t : State) (p : Prop) [Decidable p] (b : Ch → Bool), Stays s t →
            Stays s (if p then followCover b t allCh else t) := by
          intro t p _ b ht
          split
          · exact ht.trans (followCover_keeps _ _ _).stays
          · exact ht
        have h2 : ∀ (t : State) (p : Prop) [Decidable p] (l : LineNo) (b : Ch → Bool), Stays s t →
            Stays s (if p then offerAlarm l b t allCh else t) := by
          intro t p _ l b ht
          split
          · exact ht.trans (offerAlarm_keeps _ _ _ _).stays
          · exact ht
        exact h2 _ _ _ _ (h1 _ _ _ (h0 _))
    · exact Stays.refl s
  case pauseHall =>
    refine takePart_ind _ _ _ _ (Stays.refl s) ?_
    dsimp only
    split
    · exact pauseHall_stays s
    · exact Stays.refl s
  case resumeHall =>
    refine takePart_ind _ _ _ _ (Stays.refl s) ?_
    dsimp only
    split
    · exact Stays.refl s
    · exact wakeHall_stays s _
  case setWake =>
    refine takePart_ind _ _ _ _ (Stays.refl s) ?_
    dsimp only
    exact Stays.modHall s _
  case holdReports =>
    refine takePart_ind _ _ _ _ (Stays.refl s) ?_
    dsimp only
    exact Stays.modLink s _ ⟨rfl, rfl, rfl⟩
  case saveSettings =>
    refine takePart_ind _ _ _ _ (Stays.refl s) ?_
    dsimp only
    split
    · exact Stays.refl s
    · split
      · exact Stays.refl s
      · exact ⟨LinkStays.refl _, rfl, rfl, rfl, rfl, rfl⟩
  case resetPart =>
    refine takePart_ind _ _ _ _ (Stays.refl s) ?_
    dsimp only
    exact Stays.modLink s _ ⟨rfl, rfl, rfl⟩
  case writeSteps =>
    refine takePart_ind _ _ _ _ (Stays.refl s) ?_
    dsimp only
    split
    · exact Stays.refl s
    · split
      · exact Stays.refl s
      · split
        · exact Stays.refl s
        · exact ⟨LinkStays.refl _, rfl, rfl, rfl, rfl, rfl⟩
  case readSteps =>
    refine takePart_ind _ _ _ _ (Stays.refl s) ?_
    dsimp only
    split <;> exact Stays.refl s
  case setWindow =>
    refine takeCh_ind _ _ _ _ (Stays.refl s) fun c => ?_
    dsimp only
    repeat' split
    all_goals first | exact Stays.refl s | (dsimp only; exact Stays.modCh s c _)
  case getChannel =>
    refine takeCh_ind _ _ _ _ (Stays.refl s) fun c => ?_
    split <;> exact Stays.refl s
  case setChannel =>
    refine takeCh_ind _ _ _ _ (Stays.refl s) fun c => ?_
    dsimp only
    repeat' split
    all_goals first | exact Stays.refl s | skip
    unfold setSettings
    dsimp only
    split
    · exact (Stays.modCh s c _).trans (resetPointers_keeps _).stays
    · exact Stays.modCh s c _
  case setCalibration =>
    refine takeCh_ind _ _ _ _ (Stays.refl s) fun c => ?_
    dsimp only
    exact Stays.modCh s c _
  case start =>
    refine takeCh_ind _ _ _ _ (Stays.refl s) fun c => ?_
    dsimp only
    split
    · exact Stays.refl s
    · rename_i hr
      have hc : (s.ch c).state ≠ .follower := by
        intro e
        simp [startRefusal, isFollower, e] at hr
      split
      · exact Stays.refl s
      · split
        · exact Stays.refl s
        · dsimp only
          cases (if field r.body 0 1 = 2 then (s.ch c).resume else none) with
          | none => exact (startBegin_stays s c hc).trans (coverStarted_keeps _ c).stays
          | some p => exact (startResume_stays s c p hc).trans (coverStarted_keeps _ c).stays
  case stop =>
    refine takeCh_ind _ _ _ _ (Stays.refl s) fun c => ?_
    dsimp only
    split
    all_goals first
      | exact Stays.refl s
      | exact stopChannel_stays s c (by assumption)
  case hold =>
    refine takeCh_ind _ _ _ _ (Stays.refl s) fun c => ?_
    dsimp only
    split
    · exact Stays.refl s
    · dsimp only
      split
      · exact Stays.refl s
      · exact (holdChannel_keeps s c _).stays
  case release =>
    refine takeCh_ind _ _ _ _ (Stays.refl s) fun c => ?_
    dsimp only
    split
    · exact Stays.refl s
    · exact (unholdChannel_keeps s c _).stays
  case swap =>
    refine takeCh_ind _ _ _ _ (Stays.refl s) fun c => ?_
    dsimp only
    repeat' split
    all_goals first | exact Stays.refl s | (dsimp only; exact Stays.modCh s c _)
  case cancelSwap =>
    refine takeCh_ind _ _ _ _ (Stays.refl s) fun c => ?_
    split
    · exact Stays.refl s
    · dsimp only; exact Stays.modCh s c _
  case profileAppend =>
    refine takeCh_ind _ _ _ _ (Stays.refl s) fun c => ?_
    dsimp only
    repeat' split
    all_goals first | exact Stays.refl s | (dsimp only; exact Stays.modCh s c _)
  case profileFlush =>
    refine takeCh_ind _ _ _ _ (Stays.refl s) fun c => ?_
    dsimp only
    repeat' split
    all_goals first | exact Stays.refl s | (dsimp only; exact Stays.modCh s c _)
  case clearFaults =>
    refine takeCh_ind _ _ _ _ (Stays.refl s) fun c => ?_
    dsimp only
    unfold clearKinds
    dsimp only
    split
    · exact (Stays.modCh s c _).trans (Stays.modCh _ _ _)
    · exact Stays.modCh s c _
  case readAccounts => exact takeCh_ind _ _ _ _ (Stays.refl s) fun c => Stays.refl s
  case clearLifetime =>
    refine takeCh_ind _ _ _ _ (Stays.refl s) fun c => ?_
    repeat' split
    all_goals first | exact Stays.refl s | (dsimp only; exact Stays.modCh s c _)
  case setPair =>
    refine takeCh_ind _ _ _ _ (Stays.refl s) fun c => ?_
    dsimp only
    repeat' split
    all_goals first | exact Stays.refl s | exact formPair_stays s _
  case unpair =>
    refine takeCh_ind _ _ _ _ (Stays.refl s) fun c => ?_
    dsimp only
    repeat' split
    all_goals first | exact Stays.refl s | exact partPair_stays s _
  case resetChannel =>
    refine takeCh_ind _ _ _ _ (Stays.refl s) fun c => ?_
    exact resetChannel_stays s _
  case resetStageLine =>
    refine takeCh_ind _ _ _ _ (Stays.refl s) fun c => ?_
    dsimp only
    split
    · exact Stays.refl s
    · exact (Stays.modCh s c _).trans (settlingTest_keeps _).stays

theorem ofCode_code (k : ReqKind) : ReqKind.ofCode k.code = some k := by
  cases k <;> decide

/-- In READY the frame of a request kind is taken as that request. -/
theorem takeFrame_kind {s : State} (k : ReqKind) (r : Request) (h : s.part = .ready) :
    takeFrame (k.frame r) s = takeKind k r s := by
  simp [takeFrame, ReqKind.frame, ofCode_code, h, Frame.request]

/-- What a request row does at a free link: the request is taken, the open periods follow (R51), and the reply is on its
way. Every request row's meaning is `.next` of the left-hand side by definition. -/
theorem arrive_request {s : State} (k : ReqKind) (r : Request) (h : LinkFree s) (hb : r.body.length ≤ 1024) :
    arrive (k.frame r) s =
      replied (bringForwardAll s (takeKind k r s).1 allCh) (replyTo k r (takeKind k r s).2) := by
  have hk := takeKind_stays k r s
  have ht := takeFrame_kind k r h.ready
  rw [arrive_free (k.frame r) h hb (by rw [ht]; exact hk.link) (by rw [ht, hk.part, h.ready]), ht]
  rfl

/-- The same where the request changes neither a channel's state, nor its settings, nor the hall state. -/
theorem arrive_calm {s : State} (k : ReqKind) (r : Request) (h : LinkFree s) (hb : r.body.length ≤ 1024)
    (hs : ∀ c, ((takeKind k r s).1.ch c).state = (s.ch c).state)
    (hk : ∀ c, ((takeKind k r s).1.ch c).settings = (s.ch c).settings)
    (hh : (takeKind k r s).1.hall.state = s.hall.state) :
    arrive (k.frame r) s = replied (takeKind k r s).1 (replyTo k r (takeKind k r s).2) := by
  rw [arrive_request k r h hb, bringForwardAll_same allCh hs hk hh]

theorem replied_answered {s t : State} (x : Reply) (ht : LinkStays s.link t.link) (hs : s.link.reply = none) :
    Answered s (replied t x) x := by
  unfold Answered replied
  have h1 := ht.sending
  have h2 := ht.reply
  split
  · rename_i h
    rw [h] at h1
    simp [h1, h2, hs]
  · rename_i h
    simp [h1, h]

end Sys2Proof.Machine
end

