-- ==== Sys2Proof/Laws/Invariants.lean ====
section
/-! SUPPORT. `Evolves s t`: what every act of the board keeps on the way from `s` to `t`: the waiting commands, the bounds of
the collections, the ranges of the settings, the soundness of the ports, and lifetime accounts that do not fall. -/
namespace Sys2Proof.Machine

open Sys2Proof.Safety

theorem grown_refl (a : Nat) : Grown a a := ⟨by omega, id⟩

theorem grown_trans {a b c : Nat} (h : Grown a b) (k : Grown b c) : Grown a c := by
  unfold Grown at *
  omega

theorem grown_satAdd (a n : Nat) : Grown a (satAdd accountLimit a n) := by
  unfold Grown satAdd
  omega

theorem accountsLe_refl (a : Accounts) : AccountsLe a a := ⟨grown_refl _, grown_refl _, grown_refl _, grown_refl _⟩

theorem accountsLe_trans {a b c : Accounts} (h : AccountsLe a b) (k : AccountsLe b c) : AccountsLe a c :=
  ⟨grown_trans h.qChg k.qChg, grown_trans h.qDis k.qDis, grown_trans h.eChg k.eChg, grown_trans h.eDis k.eDis⟩

/-- The invariants an act keeps, lifetime accounts apart. -/
structure Holds (s t : State) : Prop where
  pending  : t.pending = s.pending
  bounded  : Bounded s → Bounded t
  settings : SettingsInRange s → SettingsInRange t
  ports    : PortsSound s → PortsSound t

/-- The lifetime accounts do not fall. -/
def LifeGrows (s t : State) : Prop := ∀ c, AccountsLe (s.ch c).life (t.ch c).life

/-- What an act keeps, WRITE_STEPS, CLEAR_LIFETIME and a start-up apart: the step pool as well (R10). -/
structure Evolves (s t : State) : Prop where
  holds : Holds s t
  life  : LifeGrows s t
  pool  : t.pool = s.pool

theorem Holds.refl (s : State) : Holds s s := ⟨rfl, id, id, id⟩

theorem Holds.trans {s t u : State} (h : Holds s t) (k : Holds t u) : Holds s u :=
  ⟨k.pending.trans h.pending, fun x => k.bounded (h.bounded x), fun x => k.settings (h.settings x),
   fun x => k.ports (h.ports x)⟩

theorem Evolves.refl (s : State) : Evolves s s := ⟨Holds.refl s, fun _ => accountsLe_refl _, rfl⟩

theorem Evolves.trans {s t u : State} (h : Evolves s t) (k : Evolves t u) : Evolves s u :=
  ⟨h.holds.trans k.holds, fun c => accountsLe_trans (h.life c) (k.life c), k.pool.trans h.pool⟩

/-! ### Acts known by what they leave -/

theorem Keeps.evolves {s t : State} (h : Keeps s t) : Evolves s t := by
  refine ⟨⟨h.pending, fun b => ⟨?_, h.link.bound b.reports, fun c => ?_, ?_⟩, fun b => ⟨fun c => ?_, ?_, fun l => ?_, ?_⟩,
    fun b c => (h.chans c).sound (b c)⟩, fun c => ?_, h.pool⟩
  · rw [h.link.requests]; exact b.requests
  · rw [(h.chans c).queue]; exact b.queues c
  · rw [h.pool]; exact b.pool
  · rw [(h.chans c).settings]; exact b.chans c
  · rw [h.budget]; exact b.budget
  · have : t.line l = s.line l := by simp [State.line, h.prot]
    rw [this]; exact b.alarms l
  · rw [h.hall]; exact b.debounce
  · rw [(h.chans c).life]; exact accountsLe_refl _

theorem PeriodKeeps.evolves {s t : State} (h : PeriodKeeps s t) : Evolves s t := by
  have hline : ∀ l, t.line l = s.line l := fun l => by simp [State.line, h.prot]
  refine ⟨⟨h.pending, fun b => ⟨?_, ?_, fun c => ?_, ?_⟩, fun b => ⟨fun c => ?_, ?_, fun l => ?_, ?_⟩, fun b c => ?_⟩,
    fun c => ?_, h.pool⟩
  · rw [h.link]; exact b.requests
  · rw [h.link]; exact b.reports
  · rw [h.chans c]; exact b.queues c
  · rw [h.pool]; exact b.pool
  · rw [h.chans c]; exact b.chans c
  · rw [h.arb]; exact b.budget
  · rw [hline]; exact b.alarms l
  · rw [h.hall]; exact b.debounce
  · unfold State.port; rw [h.chans c]; exact b c
  · rw [h.chans c]; exact accountsLe_refl _

/-! ### Updates of one block -/

theorem Evolves.modCh (s : State) (c : Ch) (f : Channel → Channel)
    (hq : (s.ch c).queue.length ≤ 512 → (f (s.ch c)).queue.length ≤ 512)
    (hs : InRange (s.ch c).settings → InRange (f (s.ch c)).settings)
    (hp : PortSound (s.ch c).port → PortSound (f (s.ch c)).port)
    (hl : AccountsLe (s.ch c).life (f (s.ch c)).life) : Evolves s (s.modCh c f) := by
  have key : ∀ {P : Channel → Prop}, (P (s.ch c) → P (f (s.ch c))) → (∀ d, P (s.ch d)) → ∀ d, P ((s.modCh c f).ch d) := by
    intro P h all d
    rw [State.ch_modCh]
    split
    · exact h (all c)
    · exact all d
  refine ⟨⟨rfl, fun b => ⟨b.requests, b.reports, key (P := fun ch => ch.queue.length ≤ 512) hq b.queues, b.pool⟩,
    fun b => ⟨key (P := fun ch => InRange ch.settings) hs b.chans, b.budget, b.alarms, b.debounce⟩,
    fun b => key (P := fun ch => PortSound ch.port) hp b⟩, fun d => ?_, rfl⟩
  rw [State.ch_modCh]
  split
  · rename_i e; subst e; exact hl
  · exact accountsLe_refl _

/-- A change of a channel that leaves queue, settings, port and lifetime accounts. -/
theorem Evolves.modCh_same (s : State) (c : Ch) (f : Channel → Channel) (hq : (f (s.ch c)).queue = (s.ch c).queue)
    (hs : (f (s.ch c)).settings = (s.ch c).settings) (hp : (f (s.ch c)).port = (s.ch c).port)
    (hl : (f (s.ch c)).life = (s.ch c).life) : Evolves s (s.modCh c f) :=
  Evolves.modCh s c f (by rw [hq]; exact id) (by rw [hs]; exact id) (by rw [hp]; exact id)
    (by rw [hl]; exact accountsLe_refl _)

theorem Evolves.modPort (s : State) (c : Ch) (f : Port → Port) (h : PortSound (s.port c) → PortSound (f (s.port c))) :
    Evolves s (s.modPort c f) := Evolves.modCh s c _ id id h (accountsLe_refl _)

/-- A port changed at the end of an act: its soundness may rest on that of the port at the act's beginning. -/
theorem Evolves.modPort_of {s u : State} (c : Ch) (f : Port → Port) (h : Evolves s u)
    (hp : PortSound (s.port c) → PortSound (u.port c) → PortSound (f (u.port c))) : Evolves s (u.modPort c f) := by
  have key : ∀ {P : Channel → Prop}, (∀ d, P (u.ch d)) → (P (u.ch c) → P { u.ch c with port := f (u.ch c).port }) →
      ∀ d, P ((u.modPort c f).ch d) := by
    intro P all hc d
    rw [State.ch_modPort]
    split
    · exact hc (all c)
    · exact all d
  refine ⟨⟨h.holds.pending, fun b => ?_, fun b => ?_, fun b d => ?_⟩, fun d => ?_, h.pool⟩
  · have b' := h.holds.bounded b
    exact ⟨b'.requests, b'.reports, key (P := fun ch => ch.queue.length ≤ 512) b'.queues id, b'.pool⟩
  · have b' := h.holds.settings b
    exact ⟨key (P := fun ch => InRange ch.settings) b'.chans id, b'.budget, b'.alarms, b'.debounce⟩
  · unfold State.port
    rw [State.ch_modPort]
    split
    · exact hp (b c) (h.holds.ports b c)
    · exact h.holds.ports b d
  · rw [State.ch_modPort]
    split
    · rename_i e; subst e; exact h.life d
    · exact h.life d

theorem Evolves.modLink (s : State) (f : Link → Link) (hq : s.link.requests.length ≤ 4 → (f s.link).requests.length ≤ 4)
    (hr : s.link.reports.length ≤ 64 → (f s.link).reports.length ≤ 64) : Evolves s (s.modLink f) :=
  ⟨⟨rfl, fun b => ⟨hq b.requests, hr b.reports, b.queues, b.pool⟩, fun b => ⟨b.chans, b.budget, b.alarms, b.debounce⟩, id⟩,
   fun _ => accountsLe_refl _, rfl⟩

theorem Evolves.modArb (s : State) (f : Arbiter → Arbiter) (h : BudgetInRange s.arb.budget → BudgetInRange (f s.arb).budget) :
    Evolves s (s.modArb f) :=
  ⟨⟨rfl, fun b => ⟨b.requests, b.reports, b.queues, b.pool⟩, fun b => ⟨b.chans, h b.budget, b.alarms, b.debounce⟩, id⟩,
   fun _ => accountsLe_refl _, rfl⟩

theorem Evolves.modHall (s : State) (f : Hall → Hall) (h : s.hall.curtDebounce ≤ 10000 → (f s.hall).curtDebounce ≤ 10000) :
    Evolves s (s.modHall f) :=
  ⟨⟨rfl, fun b => ⟨b.requests, b.reports, b.queues, b.pool⟩, fun b => ⟨b.chans, b.budget, b.alarms, h b.debounce⟩, id⟩,
   fun _ => accountsLe_refl _, rfl⟩

theorem Evolves.modHallStop (s : State) (x : Bool) : Evolves s (s.modProt fun p => { p with hallStop := x }) :=
  ⟨⟨rfl, fun b => ⟨b.requests, b.reports, b.queues, b.pool⟩, fun b => ⟨b.chans, b.budget, b.alarms, b.debounce⟩, id⟩,
   fun _ => accountsLe_refl _, rfl⟩

theorem Evolves.modLine (s : State) (l : LineNo) (f : AlarmLine → AlarmLine)
    (h : 10 ≤ (s.line l).settings.debounce ∧ (s.line l).settings.debounce ≤ 5000 →
      10 ≤ (f (s.line l)).settings.debounce ∧ (f (s.line l)).settings.debounce ≤ 5000) : Evolves s (s.modLine l f) := by
  refine ⟨⟨rfl, fun b => ⟨b.requests, b.reports, b.queues, b.pool⟩, fun b => ⟨b.chans, b.budget, fun m => ?_, b.debounce⟩, id⟩,
    fun _ => accountsLe_refl _, rfl⟩
  rw [State.line_modLine]
  split
  · exact h (b.alarms l)
  · exact b.alarms m

/-! ### Ranges (R86, R134, R146, R188) -/

theorem clampNat_bounds (lo hi n : Nat) (h : lo ≤ hi) : lo ≤ clampNat lo hi n ∧ clampNat lo hi n ≤ hi := by
  unfold clampNat; omega

theorem clampInt_bounds (lo hi n : Int) (h : lo ≤ hi) : lo ≤ clampInt lo hi n ∧ clampInt lo hi n ≤ hi := by
  unfold clampInt; omega

theorem clamp_inRange (x : ChanSettings) : InRange (ChanSettings.clamp x) := by
  constructor <;> simp only [ChanSettings.clamp, clampNat, clampInt] <;> omega

theorem clamp_budgetInRange (b : BudgetSettings) : BudgetInRange (BudgetSettings.clamp b) := by
  constructor <;> simp only [BudgetSettings.clamp, clampNat] <;> omega

/-- An image with a fresh signature and CRC is good (R194, R197). -/
@[simp] theorem judge_fresh (x : StoredSettings) : Image.judge (Image.fresh x) = none := by
  simp [Image.judge, Image.fresh]

/-- An image whose signature is not the C8's is bad for its signature (R194, R195). -/
@[simp] theorem judge_other (crc : BitVec 16) (x : StoredSettings) : Image.judge ⟨.other, crc, x⟩ = some .signature := rfl

/-- What a loss of power leaves of an image being written is bad (R197). -/
theorem cutShort_bad (n : Nat) : (Image.judge (Image.cutShort n)).isSome = true := by
  unfold Image.cutShort
  dsimp only
  split
  · assumption
  · rfl

/-- Loading gives every default or a clamped image, whatever the image (R194). -/
theorem load_eq (i : Image) : Image.load i = StoredSettings.default ∨ Image.load i = StoredSettings.clamp i.stored := by
  unfold Image.load
  split
  · exact .inl rfl
  · exact .inr rfl

theorem load_chans (i : Image) (c : Ch) : InRange (Image.load i).chans[c] := by
  rcases load_eq i with h | h <;> rw [h]
  · simp only [StoredSettings.default, Fin.getElem_fin, Vector.getElem_replicate]
    constructor <;> simp [ChanSettings.default]
  · simp only [StoredSettings.clamp, Fin.getElem_fin, Vector.getElem_map]
    exact clamp_inRange _

theorem load_budget (i : Image) : BudgetInRange (Image.load i).budget := by
  rcases load_eq i with h | h <;> rw [h]
  · constructor <;> simp [StoredSettings.default, BudgetSettings.default]
  · exact clamp_budgetInRange _

theorem load_alarms (i : Image) (l : LineNo) :
    10 ≤ (Image.load i).alarms[l].debounce ∧ (Image.load i).alarms[l].debounce ≤ 5000 := by
  rcases load_eq i with h | h <;> rw [h]
  · simp only [StoredSettings.default, Fin.getElem_fin, Vector.getElem_replicate]
    simp [AlarmSettings.default]
  · simp only [StoredSettings.clamp, Fin.getElem_fin, Vector.getElem_map]
    exact clampNat_bounds _ _ _ (by omega)

theorem load_debounce (i : Image) : (Image.load i).curtailDebounce ≤ 10000 := by
  rcases load_eq i with h | h <;> rw [h]
  · simp [StoredSettings.default]
  · exact (clampNat_bounds _ _ _ (by omega)).2

/-- Whatever the image, the state a start-up begins from meets every invariant. -/
theorem powerOn_sound (part : PartState) (cause : StartCause) (i image : Image) (speed : LinkSpeed) (lines : Vector Bool 4)
    (stop curt : Bool) (n : Nat) (q : List Instr) :
    let t := State.powerOn part cause (Image.load i) speed image lines stop curt n q
    Bounded t ∧ SettingsInRange t ∧ PortsSound t := by
  intro t
  have hch : ∀ c, t.ch c = Channel.powerOn (Image.load i).chans[c] (Image.load i).cals[c] := fun c => by
    simp [t, State.powerOn, State.ch]
  refine ⟨⟨by simp [t, State.powerOn, Link.powerOn], by simp [t, State.powerOn, Link.powerOn], fun c => ?_, rfl⟩,
    ⟨fun c => ?_, load_budget i, fun l => ?_, load_debounce i⟩, fun c => ?_⟩
  · rw [hch]; simp [Channel.powerOn]
  · rw [hch]; exact load_chans i c
  · have : (t.line l).settings = (Image.load i).alarms[l] := by simp [t, State.powerOn, State.line]
    rw [this]; exact load_alarms i l
  · unfold State.port; rw [hch]; exact ⟨fun _ => rfl, fun h => absurd rfl h⟩

end Sys2Proof.Machine
end

