-- ==== Sys2Proof/Laws/Events.lean ====
section
/-! SUPPORT. What every act of the board keeps (`Evolves`, `Holds`): the taking of each request, the events of the stage
lines, the timers and the hall lines, the period event, start-up and power. -/
namespace Sys2Proof.Machine

open Sys2Proof.Safety

/-! ### Choices -/

theorem Evolves.ite {s t u : State} (p : Prop) [Decidable p] (ht : Evolves s t) (hu : Evolves s u) :
    Evolves s (if p then t else u) := by
  split
  · exact ht
  · exact hu

theorem Evolves.pendingFree (s : State) (n : Nat) : Evolves s { s with freeCount := n } :=
  ⟨⟨rfl, fun b => ⟨b.requests, b.reports, b.queues, b.pool⟩, fun b => ⟨b.chans, b.budget, b.alarms, b.debounce⟩, id⟩,
   fun _ => accountsLe_refl _, rfl⟩

/-- A change of the image, the save, the part state or the cause. -/
theorem Evolves.setStore (s : State) (image : Image) (save : Option SaveInFlight) (part : PartState) :
    Evolves s { s with image := image, saveInFlight := save, part := part } :=
  ⟨⟨rfl, fun b => ⟨b.requests, b.reports, b.queues, b.pool⟩, fun b => ⟨b.chans, b.budget, b.alarms, b.debounce⟩, id⟩,
   fun _ => accountsLe_refl _, rfl⟩

/-! ### Requests -/

theorem enterStopping_evolves (s : State) (c : Ch) (dest : StopDest) (absentCounts : Bool) :
    Evolves s (enterStopping s c dest absentCounts) := by
  unfold enterStopping
  have h0 : Evolves s (issue (s.modCh c fun ch => { ch with state := .stopping, stopDest := dest }) c) :=
    (Evolves.modCh_same s c _ rfl rfl rfl rfl).trans (issue_keeps _ c).evolves
  exact Evolves.ite _ (h0.trans (Evolves.modCh_same _ c _ rfl rfl rfl rfl)) h0

theorem pauseHall_evolves (s : State) : Evolves s (pauseHall s) := by
  unfold pauseHall
  have h0 : ∀ o, Evolves s (emptyCollections (s.modHall fun h => { h with pauseOrder := o })) := fun o =>
    (Evolves.modHall s _ id).trans (Evolves.modArb _ _ id)
  exact (((h0 _).trans (enterHall_keeps _ _ _ _ _).evolves).trans
    ((pauseAll_keeps _ _).trans (settle_keeps _)).evolves).trans (settlingTest_keeps _).evolves

theorem wakeHall_evolves (s : State) (cause : HallCause) : Evolves s (wakeHall s cause) := by
  unfold wakeHall
  refine Evolves.trans (t := s.modHall fun h => { h with state := .active, wakeTimer := none, pauseOrder := [] })
    (Evolves.modHall s _ id) ?_
  exact (((appendAll_keeps _ _).trans (unpauseAll_keeps _ _)).trans
    ((settleEvaluating_keeps _).trans (reportPart_keeps _ _))).evolves

theorem startBegin_evolves (s : State) (c : Ch) (hc : (s.ch c).state ≠ .follower) : Evolves s (startBegin s c) := by
  unfold startBegin
  refine (Evolves.modCh_same s c Channel.beginRun rfl rfl rfl rfl).trans
    ((takeUp_keeps _ c 0 ?_).trans (settle_keeps _)).evolves
  simpa [Channel.beginRun] using hc

theorem startResume_evolves (s : State) (c : Ch) (p : ResumePoint) (hc : (s.ch c).state ≠ .follower) :
    Evolves s (startResume s c p) := by
  unfold startResume
  refine Evolves.trans (Evolves.modCh_same s c (fun ch => ch.restore p) rfl rfl rfl rfl) ?_
  have hr : ((s.modCh c fun ch => ch.restore p).ch c).state ≠ .follower := by simpa [Channel.restore] using hc
  generalize s.modCh c (fun ch => ch.restore p) = t at hr
  have key : ∀ u : State, Evolves t u → (u.ch c).state ≠ .follower → Evolves t (settle (beginResumed u c)) :=
    fun u h hu => h.trans ((beginResumed_keeps u c hu).trans (settle_keeps _)).evolves
  dsimp only
  cases currentStep t c with
  | none => exact key t (Evolves.refl t) hr
  | some r =>
    dsimp only
    split
    · exact key _ (Evolves.modCh_same t c _ rfl rfl rfl rfl) (by simpa [setUpPlayback] using hr)
    · exact key t (Evolves.refl t) hr

theorem stopChannel_evolves (s : State) (c : Ch) : Evolves s (stopChannel s c) := by
  unfold stopChannel
  have h0 := ((releaseGrant_keeps s c).trans (withdrawEntries_keeps _ c)).evolves
  have h1 := h0.trans (Evolves.modCh_same _ c
    (fun ch => { ch.stopTimers with holds := HoldCauses.empty, heldBefore := false }) rfl rfl rfl rfl)
  exact (h1.trans (enterStopping_evolves _ c _ _)).trans (settle_keeps _).evolves

theorem reoffer_evolves (s : State) (c : Ch) : Evolves s (reoffer s c) := by
  have h1 : Evolves s (if (s.ch c).unsafeFlag then
      offerUnsafe { s with freeCount := s.freeCount + 1 } c (reofferTag s c) else s) :=
    Evolves.ite _ ((Evolves.pendingFree s _).trans (offerUnsafe_keeps _ _ _).evolves) (Evolves.refl s)
  have h2 : ∀ u : State, Evolves s u → Evolves s (match directLine u c with
      | some line => offer u c .chamberAlarm line.val
      | none => u) := by
    intro u hu
    split
    · exact hu.trans (offer_keeps _ _ _ _).evolves
    · exact hu
  have h3 : ∀ u : State, Evolves s u → Evolves s (if u.prot.hallStop then offer u c .hallStop 0 else u) :=
    fun u hu => Evolves.ite _ (hu.trans (offer_keeps _ _ _ _).evolves) hu
  exact h3 _ (h2 _ h1)

theorem resetChannel_evolves (s : State) (c : Ch) : Evolves s (resetChannel s c) := by
  have hfold : ∀ (l : List Ch) (t : State), Evolves t (l.foldl reoffer t) := by
    intro l
    induction l with
    | nil => exact fun t => Evolves.refl t
    | cons d l ih => exact fun t => (reoffer_evolves t d).trans (ih _)
  have h0 : Evolves s (withdrawEntries (releaseGrant s c) c) :=
    ((releaseGrant_keeps s c).trans (withdrawEntries_keeps (releaseGrant s c) c)).evolves
  have h1 : ∀ u : State, Evolves s u →
      Evolves s (if isLeader u c then u.modCh (partner c) Channel.clearFollower else u) := fun u hu =>
    Evolves.ite _ (hu.trans (Evolves.modCh u _ _ (fun _ => Nat.zero_le _) id id (accountsLe_refl _))) hu
  have h2 : ∀ u : State, Evolves s u → Evolves s (settle (enterStopping (u.modCh c Channel.clearRun) c .idle true)) :=
    fun u hu => ((hu.trans (Evolves.modCh u c _ (fun _ => Nat.zero_le _) id id (accountsLe_refl _))).trans
      (enterStopping_evolves _ _ _ _)).trans (settle_keeps _).evolves
  exact (h2 _ (h1 _ h0)).trans (hfold _ _)

theorem resetLine_sound (p : Port) : PortSound p.resetLine := ⟨fun _ => rfl, fun h => absurd rfl h⟩

theorem openPeriod_port_sound (p : Port) (h : PortSound p) : PortSound p.openPeriod :=
  (Port.enqueue_keeps _ _).sound ⟨h.absent, h.timed⟩

theorem openPeriod_evolves (s : State) (c : Ch) (n : Nat) : Evolves s (openPeriod s c n) :=
  Evolves.modCh s c _ id id (openPeriod_port_sound _) (accountsLe_refl _)

theorem setSettings_evolves (s : State) (c : Ch) (x : ChanSettings) (h : InRange x) : Evolves s (setSettings s c x) := by
  unfold setSettings
  have h0 : Evolves s (s.modCh c fun ch => ch.takeSettings x) :=
    Evolves.modCh s c _ id (fun _ => h) id (accountsLe_refl _)
  exact Evolves.ite _ (h0.trans (resetPointers_keeps _).evolves) h0

theorem recordsOf_length (l : List (List Byte)) (i : Nat) (rs : List StepRecord) (h : recordsOf i l = .ok rs) :
    rs.length = l.length := by
  induction l generalizing i rs with
  | nil => simp only [recordsOf, Except.ok.injEq] at h; subst h; rfl
  | cons b l ih =>
    simp only [recordsOf] at h
    split at h
    · cases h
    · split at h
      · cases h
      · rename_i rs' h'
        simp only [Except.ok.injEq] at h
        subst h
        simp [ih _ _ h']

theorem append_queue (ch : Channel) (points : List Point) (h : ch.queue.length ≤ 512) :
    (ch.append (points.take (queueLimit - ch.queue.length))).queue.length ≤ 512 := by
  unfold Channel.append
  split
  · exact h
  · simp only [List.length_append, List.length_take, queueLimit]
    omega

/-- What the taking of a request keeps, WRITE_STEPS (R8) and CLEAR_LIFETIME (R45) apart. -/
theorem takeKind_evolves (k : ReqKind) (r : Request) (s : State) (hk : k ≠ .clearLifetime) (hw : k ≠ .writeSteps) :
    Evolves s (takeKind k r s).1 := by
  cases k <;> unfold takeKind <;> dsimp only
  case identify => exact takePart_ind _ _ _ _ (Evolves.refl s) (Evolves.refl s)
  case getStatus =>
    refine takePart_ind _ _ _ _ (Evolves.refl s) ?_
    dsimp only
    exact Evolves.ite _ (Evolves.modLink s _ id id) (Evolves.refl s)
  case getBudget => exact takePart_ind _ _ _ _ (Evolves.refl s) (Evolves.refl s)
  case setBudget =>
    exact takePart_ind _ _ _ _ (Evolves.refl s)
      ((Evolves.modArb s _ fun _ => clamp_budgetInRange _).trans (settleEvaluating_keeps _).evolves)
  case setAlarmRoute =>
    refine takePart_ind _ _ _ _ (Evolves.refl s) ?_
    dsimp only
    split
    · split
      · exact Evolves.refl s
      · rename_i line _ route _
        dsimp only
        have h0 : Evolves s (s.modLine ⟨field r.body 0 1, line⟩ fun l =>
            { l with settings := ⟨route, BitVec.ofNat 8 (field r.body 2 1), clampNat 10 5000 (field r.body 3 4)⟩ }) :=
          Evolves.modLine s _ _ fun _ => clampNat_bounds _ _ _ (by omega)
        have h1 : ∀ (t : State) (p : Prop) [Decidable p] (b : Ch → Bool), Evolves s t →
            Evolves s (if p then followCover b t allCh else t) := fun t p _ b ht =>
          Evolves.ite _ (ht.trans (followCover_keeps _ _ _).evolves) ht
        have h2 : ∀ (t : State) (p : Prop) [Decidable p] (l : LineNo) (b : Ch → Bool), Evolves s t →
            Evolves s (if p then offerAlarm l b t allCh else t) := fun t p _ l b ht =>
          Evolves.ite _ (ht.trans (offerAlarm_keeps _ _ _ _).evolves) ht
        exact h2 _ _ _ _ (h1 _ _ _ h0)
    · exact Evolves.refl s
  case pauseHall =>
    refine takePart_ind _ _ _ _ (Evolves.refl s) ?_
    dsimp only
    split
    · exact pauseHall_evolves s
    · exact Evolves.refl s
  case resumeHall =>
    refine takePart_ind _ _ _ _ (Evolves.refl s) ?_
    dsimp only
    split
    · exact Evolves.refl s
    · exact wakeHall_evolves s _
  case setWake =>
    refine takePart_ind _ _ _ _ (Evolves.refl s) ?_
    dsimp only
    refine Evolves.modHall s _ fun h => ?_
    dsimp only
    split
    · exact h
    · exact (clampNat_bounds _ _ _ (by omega)).2
  case holdReports =>
    refine takePart_ind _ _ _ _ (Evolves.refl s) ?_
    dsimp only
    exact Evolves.modLink s _ id id
  case saveSettings =>
    refine takePart_ind _ _ _ _ (Evolves.refl s) ?_
    dsimp only
    split
    · exact Evolves.refl s
    · split
      · exact Evolves.refl s
      · exact Evolves.setStore s s.image _ s.part
  case resetPart =>
    refine takePart_ind _ _ _ _ (Evolves.refl s) ?_
    dsimp only
    exact Evolves.modLink s _ id id
  case writeSteps => exact absurd rfl hw
  case readSteps =>
    refine takePart_ind _ _ _ _ (Evolves.refl s) ?_
    dsimp only
    split <;> exact Evolves.refl s
  case setWindow =>
    refine takeCh_ind _ _ _ _ (Evolves.refl s) fun c => ?_
    dsimp only
    repeat' split
    all_goals first | exact Evolves.refl s | (dsimp only; exact Evolves.modCh_same s c _ rfl rfl rfl rfl)
  case getChannel =>
    refine takeCh_ind _ _ _ _ (Evolves.refl s) fun c => ?_
    split <;> exact Evolves.refl s
  case setChannel =>
    refine takeCh_ind _ _ _ _ (Evolves.refl s) fun c => ?_
    dsimp only
    repeat' split
    all_goals first | exact Evolves.refl s | exact setSettings_evolves s c _ (clamp_inRange _)
  case setCalibration =>
    refine takeCh_ind _ _ _ _ (Evolves.refl s) fun c => ?_
    dsimp only
    exact Evolves.modCh_same s c _ rfl rfl rfl rfl
  case start =>
    refine takeCh_ind _ _ _ _ (Evolves.refl s) fun c => ?_
    dsimp only
    split
    · exact Evolves.refl s
    · rename_i hr
      have hc : (s.ch c).state ≠ .follower := by
        intro e
        simp [startRefusal, isFollower, e] at hr
      split
      · exact Evolves.refl s
      · split
        · exact Evolves.refl s
        · dsimp only
          cases (if field r.body 0 1 = 2 then (s.ch c).resume else none) with
          | none => exact (startBegin_evolves s c hc).trans (coverStarted_keeps _ c).evolves
          | some p => exact (startResume_evolves s c p hc).trans (coverStarted_keeps _ c).evolves
  case stop =>
    refine takeCh_ind _ _ _ _ (Evolves.refl s) fun c => ?_
    dsimp only
    split
    all_goals first
      | exact Evolves.refl s
      | exact stopChannel_evolves s c
  case hold =>
    refine takeCh_ind _ _ _ _ (Evolves.refl s) fun c => ?_
    dsimp only
    split
    · exact Evolves.refl s
    · dsimp only
      split
      · exact Evolves.refl s
      · exact (holdChannel_keeps s c _).evolves
  case release =>
    refine takeCh_ind _ _ _ _ (Evolves.refl s) fun c => ?_
    dsimp only
    split
    · exact Evolves.refl s
    · exact (unholdChannel_keeps s c _).evolves
  case swap =>
    refine takeCh_ind _ _ _ _ (Evolves.refl s) fun c => ?_
    dsimp only
    repeat' split
    all_goals first | exact Evolves.refl s | (dsimp only; exact Evolves.modCh_same s c _ rfl rfl rfl rfl)
  case cancelSwap =>
    refine takeCh_ind _ _ _ _ (Evolves.refl s) fun c => ?_
    split
    · exact Evolves.refl s
    · dsimp only; exact Evolves.modCh_same s c _ rfl rfl rfl rfl
  case profileAppend =>
    refine takeCh_ind _ _ _ _ (Evolves.refl s) fun c => ?_
    have h0 : ∀ points : List Point, Evolves s
        (s.modCh c fun ch => ch.append (points.take (queueLimit - (s.ch c).queue.length))) := by
      intro points
      refine Evolves.modCh s c _ (append_queue _ _) ?_ ?_ ?_ <;> (unfold Channel.append; split)
      all_goals first | exact id | exact accountsLe_refl _
    dsimp only
    repeat' split
    all_goals first | exact Evolves.refl s | exact h0 _
  case profileFlush =>
    refine takeCh_ind _ _ _ _ (Evolves.refl s) fun c => ?_
    dsimp only
    repeat' split
    all_goals first
      | exact Evolves.refl s
      | (dsimp only; exact Evolves.modCh s c _ (fun _ => Nat.zero_le _) id id (accountsLe_refl _))
  case clearFaults =>
    refine takeCh_ind _ _ _ _ (Evolves.refl s) fun c => ?_
    dsimp only
    unfold clearKinds
    exact Evolves.ite _ ((Evolves.modCh_same s c _ rfl rfl rfl rfl).trans (Evolves.modCh_same _ _ _ rfl rfl rfl rfl))
      (Evolves.modCh_same s c _ rfl rfl rfl rfl)
  case readAccounts => exact takeCh_ind _ _ _ _ (Evolves.refl s) fun c => Evolves.refl s
  case clearLifetime => exact absurd rfl hk
  case setPair =>
    refine takeCh_ind _ _ _ _ (Evolves.refl s) fun c => ?_
    dsimp only
    repeat' split
    all_goals first
      | exact Evolves.refl s
      | exact (Evolves.modCh_same s (evenMember c) (fun ch => { ch with resume := none, packDone := false })
            rfl rfl rfl rfl).trans
          (Evolves.modCh_same _ (partner (evenMember c)) (fun ch => { ch with resume := none, state := .follower })
            rfl rfl rfl rfl)
  case unpair =>
    refine takeCh_ind _ _ _ _ (Evolves.refl s) fun c => ?_
    dsimp only
    repeat' split
    all_goals first
      | exact Evolves.refl s
      | exact ((Evolves.modCh_same s (evenMember c) (fun ch => { ch with resume := none }) rfl rfl rfl rfl).trans
          (Evolves.modCh_same _ (partner (evenMember c)) (fun ch => { ch with state := .idle }) rfl rfl rfl rfl)).trans
          (openPeriod_evolves _ _ _)
  case resetChannel =>
    refine takeCh_ind _ _ _ _ (Evolves.refl s) fun c => ?_
    exact resetChannel_evolves s _
  case resetStageLine =>
    refine takeCh_ind _ _ _ _ (Evolves.refl s) fun c => ?_
    dsimp only
    split
    · exact Evolves.refl s
    · exact (Evolves.modCh s c _ id id (fun _ => resetLine_sound _) (accountsLe_refl _)).trans
        (settlingTest_keeps _).evolves

/-- What the taking of WRITE_STEPS keeps (R11), and that it changes no channel. -/
theorem writeSteps_holds (r : Request) (s : State) :
    Holds s (takeKind .writeSteps r s).1 ∧ ∀ c, (takeKind .writeSteps r s).1.ch c = s.ch c := by
  have hrefl : Holds s s ∧ ∀ c, s.ch c = s.ch c := ⟨Holds.refl s, fun _ => rfl⟩
  unfold takeKind
  refine takePart_ind (P := fun t => Holds s t ∧ ∀ c, t.ch c = s.ch c) _ _ _ _ hrefl ?_
  dsimp only
  split
  · exact hrefl
  · rename_i hn
    split
    · exact hrefl
    · split
      · exact hrefl
      · rename_i records hr
        have hl := recordsOf_length _ _ _ hr
        exact ⟨⟨rfl, fun b => ⟨b.requests, b.reports, b.queues, poolWf_writeAll _ _ _ (by omega) b.pool⟩,
          fun b => ⟨b.chans, b.budget, b.alarms, b.debounce⟩, id⟩, fun _ => rfl⟩

/-- What the taking of CLEAR_LIFETIME does to the lifetime accounts (R45): in each channel they stand or are zero. -/
theorem clearLifetime_life (r : Request) (s : State) (d : Ch) :
    ((takeKind .clearLifetime r s).1.ch d).life = (s.ch d).life ∨
      ((takeKind .clearLifetime r s).1.ch d).life = Accounts.zero := by
  unfold takeKind
  refine takeCh_ind (P := fun t => (t.ch d).life = (s.ch d).life ∨ (t.ch d).life = Accounts.zero) _ _ _ _ (.inl rfl)
    fun c => ?_
  repeat' split
  all_goals first | exact .inl rfl | skip
  rw [State.ch_modCh]
  split
  · exact .inr rfl
  · exact .inl rfl

/-- What the taking of a request of any kind keeps, lifetime accounts apart. -/
theorem takeKind_holds (k : ReqKind) (r : Request) (s : State) : Holds s (takeKind k r s).1 := by
  by_cases hk : k = .clearLifetime
  · subst hk
    unfold takeKind
    refine takeCh_ind _ _ _ _ (Holds.refl s) fun c => ?_
    repeat' split
    all_goals first | exact Holds.refl s | skip
    have key : ∀ {P : Channel → Prop} {f : Channel → Channel}, (P (s.ch c) → P (f (s.ch c))) → (∀ d, P (s.ch d)) →
        ∀ d, P ((s.modCh c f).ch d) := by
      intro P f h all d
      rw [State.ch_modCh]
      split
      · exact h (all c)
      · exact all d
    exact ⟨rfl, fun b => ⟨b.requests, b.reports, key (P := fun ch => ch.queue.length ≤ 512) id b.queues, b.pool⟩,
      fun b => ⟨key (P := fun ch => InRange ch.settings) id b.chans, b.budget, b.alarms, b.debounce⟩,
      fun b => key (P := fun ch => PortSound ch.port) id b⟩
  · by_cases hw : k = .writeSteps
    · subst hw; exact (writeSteps_holds r s).1
    · exact (takeKind_evolves k r s hk hw).holds

/-! ### The link port -/

theorem Link.recover_evolves (s : State) (g : Link → Link) (now : Nat)
    (hq : s.link.requests.length ≤ 4 → (g s.link).requests.length ≤ 4)
    (hr : s.link.reports.length ≤ 64 → (g s.link).reports.length ≤ 64) :
    Evolves s (s.modLink fun l => (g l).recover now) :=
  Evolves.modLink s _ (fun h => by rw [(Link.recover_keeps _ _).requests]; exact hq h)
    (fun h => (Link.recover_keeps _ _).bound (hr h))

theorem pump_evolves (s : State) : Evolves s (pump s) := by
  unfold pump
  split
  · exact Evolves.refl s
  · split
    · exact Evolves.modLink s _ id id
    · split
      · split
        · exact Evolves.refl s
        · rename_i r rest h
          exact Link.recover_evolves s (fun l => { l with reports := rest, sending := some (.report r) }) _ id
            (fun b => by rw [h] at b; simp only [List.length_cons] at b; simp only; omega)
      · exact Evolves.refl s

theorem bringForwardAll_evolves (before after : State) (l : List Ch) :
    Evolves after (bringForwardAll before after l) := (bringForwardAll_period before after l).evolves

theorem finish_evolves (before : State) {s t : State} (h : Evolves s t) : Evolves s (finish before t) := by
  unfold finish
  split
  · exact (h.trans (bringForwardAll_evolves _ _ _)).trans (pump_evolves _)
  · exact h.trans (pump_evolves _)

theorem whenReady_evolves (s : State) (f : State → State) (h : Evolves s (f s)) : Evolves s (whenReady s f) := by
  unfold whenReady
  split
  · exact finish_evolves s h
  · exact Evolves.refl s

theorem Link.enqueue_bound (l : Link) (f : Frame) (h : l.requests.length ≤ 4) : (l.enqueue f).requests.length ≤ 4 := by
  unfold Link.enqueue
  split
  · simp; omega
  · exact h

theorem Link.enqueue_reports (l : Link) (f : Frame) : (l.enqueue f).reports = l.reports := by
  unfold Link.enqueue; split <;> rfl

theorem takeFrame_holds (f : Frame) (s : State) : Holds s (takeFrame f s).1 := by
  unfold takeFrame
  split
  · split
    · exact Holds.refl s
    · exact takeKind_holds _ _ _
  · split <;> exact Holds.refl s

/-- In each channel the lifetime accounts do not fall, or they are zero. -/
def LifeSteps (s t : State) : Prop := ∀ c, AccountsLe (s.ch c).life (t.ch c).life ∨ (t.ch c).life = Accounts.zero

theorem LifeGrows.steps {s t : State} (h : LifeGrows s t) : LifeSteps s t := fun c => .inl (h c)

theorem LifeSteps.then {s t u : State} (h : LifeSteps s t) (k : ∀ c, (u.ch c).life = (t.ch c).life) : LifeSteps s u :=
  fun c => by rw [k c]; exact h c

theorem LifeGrows.then {s t u : State} (h : LifeGrows s t) (k : LifeSteps t u) : LifeSteps s u := fun c => by
  rcases k c with k | k
  · exact .inl (accountsLe_trans (h c) k)
  · exact .inr k

theorem takeFrame_life (f : Frame) (s : State) : LifeSteps s (takeFrame f s).1 := by
  have hrefl : LifeSteps s s := fun c => .inl (accountsLe_refl _)
  unfold takeFrame
  split
  · split
    · exact hrefl
    · rename_i k _ _
      by_cases hk : k = .clearLifetime
      · subst hk
        intro c
        rcases clearLifetime_life (Frame.request f) s c with h | h
        · rw [h]; exact .inl (accountsLe_refl _)
        · exact .inr h
      · by_cases hw : k = .writeSteps
        · subst hw
          intro c
          rw [(writeSteps_holds (Frame.request f) s).2 c]
          exact .inl (accountsLe_refl _)
        · exact (takeKind_evolves k _ s hk hw).life.steps
  · split <;> exact hrefl

theorem pump_life (s : State) (c : Ch) : ((pump s).ch c).life = (s.ch c).life := by rw [pump_eq]; rfl

theorem finish_life (before s : State) (c : Ch) : ((finish before s).ch c).life = (s.ch c).life := by
  unfold finish
  split
  · rw [pump_life, (bringForwardAll_period _ _ _).chans c]
  · rw [pump_life]

theorem takeNext_holds (s : State) : Holds s (takeNext s) := by
  unfold takeNext
  split
  · exact Holds.refl s
  · rename_i f rest h
    split
    · unfold answer
      have h0 : Evolves s (s.modLink fun l => { l with requests := rest }) :=
        Evolves.modLink s _ (fun b => by rw [h] at b; simp only [List.length_cons] at b; simp only; omega) id
      exact (h0.holds.trans (takeFrame_holds f _)).trans (Evolves.modLink _ _ id id).holds
    · exact Holds.refl s

theorem takeNext_life (s : State) : LifeSteps s (takeNext s) := by
  unfold takeNext
  split
  · exact fun c => .inl (accountsLe_refl _)
  · rename_i f rest h
    split
    · exact LifeSteps.then (takeFrame_life f (s.modLink fun l => { l with requests := rest })) fun _ => rfl
    · exact fun c => .inl (accountsLe_refl _)

/-- A frame that arrives (R181, R182). -/
theorem arrive_holds (f : Frame) (s : State) : Holds s (arrive f s) := by
  unfold arrive
  split
  · split
    · exact (Evolves.modLink s _ id id).holds
    · have h0 : Evolves s (s.modLink fun l => l.enqueue f) :=
        Evolves.modLink s _ (fun b => Link.enqueue_bound _ _ b) (fun b => by rw [Link.enqueue_reports]; exact b)
      have h1 := h0.holds.trans (takeNext_holds (s.modLink fun l => l.enqueue f))
      exact h1.trans (finish_evolves s (Evolves.refl _)).holds
  · exact Holds.refl s

theorem arrive_life (f : Frame) (s : State) : LifeSteps s (arrive f s) := by
  unfold arrive
  split
  · split
    · exact fun c => .inl (accountsLe_refl _)
    · exact LifeSteps.then (takeNext_life (s.modLink fun l => l.enqueue f)) fun c => finish_life _ _ c
  · exact fun c => .inl (accountsLe_refl _)

/-! ### Power and start-up -/

theorem beginStartUp_holds (s : State) (cause : StartCause) : Holds s (beginStartUp s cause) := by
  have := powerOn_sound .starting cause s.image s.image (Image.speed s.image) (rawLevels s) s.prot.hallStop
    s.hall.curtRaw s.freeCount s.pending
  exact ⟨rfl, fun _ => this.1, fun _ => this.2.1, fun _ => this.2.2⟩

theorem beginStartUp_life (s : State) (cause : StartCause) (c : Ch) :
    ((beginStartUp s cause).ch c).life = Accounts.zero := by
  simp [beginStartUp, State.powerOn, State.ch, Channel.powerOn]

theorem losePower_holds (s : State) : Holds s (losePower s) := by
  unfold losePower
  dsimp only
  refine ⟨rfl, fun _ => ?_, fun _ => ?_, fun _ => ?_⟩
  · exact (powerOn_sound _ _ _ _ _ _ _ _ _ _).1
  · exact (powerOn_sound _ _ _ _ _ _ _ _ _ _).2.1
  · exact (powerOn_sound _ _ _ _ _ _ _ _ _ _).2.2

theorem losePower_life (s : State) (c : Ch) : ((losePower s).ch c).life = Accounts.zero := by
  simp [losePower, State.powerOn, State.ch, Channel.powerOn]

theorem resetPartNow_holds (s : State) : Holds s (resetPartNow s) := by
  unfold resetPartNow
  split
  · exact ⟨rfl, fun b => ⟨Nat.zero_le _, b.reports, b.queues, b.pool⟩,
      fun b => ⟨b.chans, b.budget, b.alarms, b.debounce⟩, id⟩
  · exact beginStartUp_holds _ _

theorem resetPartNow_life (s : State) : LifeSteps s (resetPartNow s) := by
  unfold resetPartNow
  split
  · exact fun c => .inl (accountsLe_refl _)
  · exact fun c => .inr (beginStartUp_life _ _ c)

theorem endSave_holds (s : State) (result : SaveEnd) : Holds s (endSave s result) := by
  unfold endSave
  split
  · exact Holds.refl s
  · have h0 := fun i => (Evolves.setStore s i none s.part).holds
    dsimp only
    split
    · exact (h0 _).trans (beginStartUp_holds _ _)
    · exact (h0 _).trans (reportPart_keeps _ _).evolves.holds

theorem endSave_life (s : State) (result : SaveEnd) : LifeSteps s (endSave s result) := by
  unfold endSave
  split
  · exact fun c => .inl (accountsLe_refl _)
  · dsimp only
    split
    · exact fun c => .inr (beginStartUp_life _ _ c)
    · exact fun c => .inl (accountsLe_refl _)

theorem frameSent_holds (s : State) : Holds s (frameSent s) := by
  unfold frameSent
  split
  · exact Holds.refl s
  · have h0 : Evolves s (s.modLink fun l => { l with sending := none }) := Evolves.modLink s _ id id
    refine iteInduction (motive := Holds s) (fun _ => ?_) fun _ => ?_
    · exact h0.holds.trans (resetPartNow_holds _)
    · exact (((h0.trans (pump_evolves _)).holds).trans (takeNext_holds _)).trans
        (finish_evolves s (Evolves.refl _)).holds

theorem frameSent_life (s : State) : LifeSteps s (frameSent s) := by
  unfold frameSent
  split
  · exact fun c => .inl (accountsLe_refl _)
  · refine iteInduction (motive := LifeSteps s) (fun _ => ?_) fun _ => ?_
    · exact resetPartNow_life (s.modLink fun l => { l with sending := none })
    · have h0 : LifeGrows s (pump (s.modLink fun l => { l with sending := none })) := fun c => by
        rw [pump_life]; exact accountsLe_refl _
      exact LifeSteps.then (LifeGrows.then h0 (takeNext_life _)) fun c => finish_life _ _ c

/-! ### The stage line and the timers -/

theorem countError_evolves (s : State) (c : Ch) : Evolves s (s.modPort c Port.countError) :=
  Evolves.modPort s c _ fun h => ⟨h.absent, h.timed⟩

theorem retire_sound (p : Port) (t : Tagged) (h : PortSound p) (ho : p.outstanding = some t) :
    PortSound (p.retire t) := by
  have hp : p.presence ≠ .absent := fun e => by rw [h.absent e] at ho; cases ho
  unfold Port.retire
  dsimp only
  split
  · refine (Port.send_keeps _ _ ?_).sound ⟨fun _ => rfl, fun e => absurd rfl e⟩
    exact hp
  · exact ⟨fun _ => rfl, fun e => absurd rfl e⟩

theorem confirmArrives_evolves (s : State) (c : Ch) (tag : Byte) : Evolves s (confirmArrives s c tag) := by
  unfold confirmArrives
  split
  · exact countError_evolves s c
  · rename_i t h
    split
    · have h0 : Evolves s (s.modPort c fun p => p.retire t) := Evolves.modPort s c _ fun hs => retire_sound _ _ hs h
      exact Evolves.ite _ (h0.trans (portSettled_keeps _ c).evolves) h0
    · exact countError_evolves s c

theorem confirmationExpires_evolves (s : State) (c : Ch) : Evolves s (confirmationExpires s c) := by
  unfold confirmationExpires
  split
  · rename_i n t ht ho
    have h0 : Evolves s (s.modPort c fun p => { p with confTimer := none }) :=
      Evolves.modPort s c _ fun h => ⟨h.absent, fun e => absurd rfl e⟩
    have h1 : ∀ u : State, Keeps (s.modPort c fun p => { p with confTimer := none }) u →
        Evolves s (u.modPort c Port.pressOn) := by
      intro u hu
      refine Evolves.modPort_of c _ (h0.trans hu.evolves) fun hs hu' => ?_
      refine (Port.pressOn_keeps _ ?_).sound hu'
      have : (u.port c).presence = (s.port c).presence := by
        have := (hu.chans c).presence
        simpa [State.port] using this
      rw [this]
      intro e
      have hnone := hs.absent e
      rw [hnone] at ho
      cases ho
    have h2 := offer_keeps (s.modPort c fun p => { p with confTimer := none }) c .stageNoAck t.tag.toNat
    dsimp only
    refine h1 _ ?_
    exact iteInduction (motive := Keeps _) (fun _ => h2.trans (offerUnsafe_keeps _ _ _)) fun _ => h2
  · exact Evolves.refl s

theorem transmitNext_keeps (p : Port) : PortKeeps p p.transmitNext := by
  unfold Port.transmitNext
  split
  · exact PortKeeps.refl p
  · split
    · exact PortKeeps.refl p
    · exact ⟨rfl, rfl, rfl, rfl, rfl, rfl, fun h => ⟨h.absent, h.timed⟩⟩

theorem whollySent_sound (p : Port) (n : Nat) (h : PortSound p) : PortSound (p.whollySent n) := by
  unfold Port.whollySent
  split
  · exact h
  · rename_i f _
    refine (transmitNext_keeps _).sound ?_
    cases f with
    | demand t =>
      dsimp only
      split
      · rename_i e
        exact ⟨h.absent, fun _ => by simp [e]⟩
      · exact ⟨h.absent, h.timed⟩
    | query b =>
      dsimp only
      split <;> exact ⟨h.absent, h.timed⟩

theorem stageFrameSent_evolves (s : State) (c : Ch) : Evolves s (stageFrameSent s c) :=
  Evolves.modCh s c _ id id (whollySent_sound _ _) (accountsLe_refl _)

theorem lineBreakEnds_evolves (s : State) (c : Ch) : Evolves s (lineBreakEnds s c) :=
  Evolves.ite _ (Evolves.modPort s c _ fun h => (transmitNext_keeps _).sound ⟨h.absent, h.timed⟩) (Evolves.refl s)

theorem gapTimerExpires_evolves (s : State) (c : Ch) : Evolves s (gapTimerExpires s c) := by
  unfold gapTimerExpires
  split
  · rename_i h
    have hk := gapExpires_keeps s c (by rw [h.1]; decide)
    dsimp only
    split
    · exact (hk.trans (settle_keeps _)).evolves
    · exact hk.evolves
  · exact Evolves.refl s

theorem startTimerExpires_evolves (s : State) (c : Ch) : Evolves s (startTimerExpires s c) :=
  Evolves.ite _ ((Evolves.modCh_same s c _ rfl rfl rfl rfl).trans (offer_keeps _ _ _ _).evolves) (Evolves.refl s)

theorem grantHoldExpires_evolves (s : State) (c : Ch) : Evolves s (grantHoldExpires s c) := by
  unfold grantHoldExpires
  split
  · exact Evolves.refl s
  · split
    · exact ((releaseGrant_keeps s c).trans (settle_keeps _)).evolves
    · exact Evolves.refl s

theorem waitTimerExpires_evolves (s : State) (c : Ch) : Evolves s (waitTimerExpires s c) := by
  unfold waitTimerExpires
  split
  · split
    · exact Evolves.modArb s _ id
    · exact (offer_keeps s c _ _).evolves
  · exact Evolves.refl s

theorem underrunExpires_evolves (s : State) (c : Ch) : Evolves s (underrunExpires s c) :=
  Evolves.ite _ ((Evolves.modCh_same s c _ rfl rfl rfl rfl).trans (offer_keeps _ _ _ _).evolves) (Evolves.refl s)

/-! ### Readings and the period event -/

theorem limitCheck_evolves (s : State) (c : Ch) (v : Nat) (i t : Int) (k : FaultKind) (value : Int) :
    Evolves s (limitCheck s c v i t k value) :=
  Evolves.ite _ (offer_keeps s c k value).evolves (Keeps.modCh s c _ (setWarned_keeps _ _ _)).evolves

theorem voltageChecks_evolves (s : State) (c : Ch) (v : Nat) (i t : Int) : Evolves s (voltageChecks s c v i t) :=
  (limitCheck_evolves _ _ _ _ _ _ _).trans (limitCheck_evolves _ _ _ _ _ _ _)

theorem temperatureChecks_evolves (s : State) (c : Ch) (v : Nat) (i t : Int) :
    Evolves s (temperatureChecks s c v i t) :=
  (limitCheck_evolves _ _ _ _ _ _ _).trans (limitCheck_evolves _ _ _ _ _ _ _)

theorem readingChecks_evolves (s : State) (c : Ch) (rd : Reading) : Evolves s (readingChecks s c rd) :=
  Evolves.ite _ (limitCheck_evolves _ _ _ _ _ _ _)
    (((voltageChecks_evolves _ _ _ _ _).trans (limitCheck_evolves _ _ _ _ _ _ _)).trans
      (temperatureChecks_evolves _ _ _ _ _))

theorem stageFlags_evolves (s : State) (c : Ch) (rd : Reading) : Evolves s (stageFlags s c rd) := by
  have h1 : ∀ u : State, Evolves s u → Evolves s
      (if rd.derate && !(u.ch c).derateSeen then reportCh u c (.stageDerate rd.v rd.i rd.t) else u) := fun u hu =>
    Evolves.ite _ (hu.trans (reportCh_keeps _ _ _).evolves) hu
  have h0 : ∀ v, Evolves s (if rd.fault || rd.interlock then offer s c .stageReported v else s) := fun v =>
    Evolves.ite _ (offer_keeps s c _ _).evolves (Evolves.refl s)
  unfold stageFlags
  dsimp only
  exact (h1 _ (h0 _)).trans (Evolves.modCh_same _ c (fun ch => { ch with derateSeen := rd.derate }) rfl rfl rfl rfl)

theorem completePack_evolves (s : State) (c : Ch) (a b : Bool) : Evolves s (completePack s c a b) := by
  have h0 : Evolves s (s.modCh c fun ch => { ch with pack := packOf (s.ch c) (s.ch (partner c)) }) :=
    Evolves.modCh_same s c _ rfl rfl rfl rfl
  have h1 : ∀ p : PackReading, ∀ u : State, Evolves s u → Evolves s (if a || b then
      temperatureChecks (voltageChecks u c p.v p.i p.t) c p.v p.i p.t else u) := fun p u hu =>
    Evolves.ite _ ((hu.trans (voltageChecks_evolves _ _ _ _ _)).trans (temperatureChecks_evolves _ _ _ _ _)) hu
  unfold completePack
  dsimp only
  refine Evolves.ite _ (Evolves.ite _ ((h1 _ _ h0).trans (offer_keeps _ _ _ _).evolves)
    ((h1 _ _ h0).trans (Keeps.modCh _ c _ (setWarned_keeps _ _ _)).evolves)) (h1 _ _ h0)

theorem becomePresent_sound (p : Port) (h : PortSound p) : PortSound p.becomePresent := by
  unfold Port.becomePresent
  dsimp only
  split
  · exact ⟨fun e => by simp at e, h.timed⟩
  · split
    · exact ⟨fun e => by simp at e, h.timed⟩
    · exact (Port.send_keeps _ _ (by simp)).sound ⟨fun e => by simp at e, h.timed⟩

theorem makePresent_evolves (s : State) (c : Ch) : Evolves s (makePresent s c) := by
  unfold makePresent
  have h0 : Evolves s (s.modPort c Port.becomePresent) := Evolves.modPort s c _ (becomePresent_sound _)
  exact Evolves.ite _ (Evolves.refl s) (Evolves.ite _ (h0.trans (portSettled_keeps _ c).evolves) h0)

theorem takeReading_evolves (s : State) (c : Ch) (raw : RawReading) : Evolves s (takeReading s c raw) := by
  unfold takeReading
  dsimp only
  have h0 : ∀ f : Channel → Channel, (f (s.ch c)).queue = (s.ch c).queue → (f (s.ch c)).settings = (s.ch c).settings →
      (f (s.ch c)).port = (s.ch c).port → (f (s.ch c)).life = (s.ch c).life → ∀ rd, Evolves s
      (makePresent (stageFlags (readingChecks (s.modCh c f) c rd) c rd) c) := fun f a b d e rd =>
    (((Evolves.modCh_same s c f a b d e).trans (readingChecks_evolves _ _ _)).trans (stageFlags_evolves _ _ _)).trans
      (makePresent_evolves _ _)
  refine Evolves.ite _ ?_ (h0 _ rfl rfl rfl rfl _)
  exact ((h0 _ rfl rfl rfl rfl _).trans (Evolves.modCh_same _ _ _ rfl rfl rfl rfl)).trans (completePack_evolves _ _ _ _)

theorem readingArrives_evolves (s : State) (c : Ch) (b : Bool) (raw : RawReading) :
    Evolves s (readingArrives s c b raw) :=
  Evolves.ite _
    ((Evolves.modPort s c _ fun h => ⟨h.absent, h.timed⟩).trans (takeReading_evolves _ _ _)) (countError_evolves s c)

theorem missPeriod_evolves (s : State) (c : Ch) : Evolves s (missPeriod s c) := by
  unfold missPeriod
  dsimp only
  have h0 : ∀ n : Channel → Nat, Evolves s (s.modCh c fun ch => { ch with held := true, missed := n ch }) := fun n =>
    Evolves.modCh_same s c _ rfl rfl rfl rfl
  exact Evolves.ite _ ((h0 _).trans (offer_keeps _ _ _ _).evolves) (h0 _)

theorem stageSettle_evolves (s : State) (c : Ch) (taken partnerTaken packDone : Bool) :
    Evolves s (stageSettle s c taken partnerTaken packDone) := by
  have h0 : Evolves s (if taken then s else missPeriod s c) :=
    Evolves.ite _ (Evolves.refl s) (missPeriod_evolves s c)
  have h1 : ∀ u : State, Evolves s u → Evolves s (if partnerTaken then u else missPeriod u (partner c)) := fun u hu =>
    Evolves.ite _ hu (hu.trans (missPeriod_evolves _ _))
  have h2 : ∀ u : State, Evolves s u → Evolves s (if packDone then u else completePack u c taken partnerTaken) :=
    fun u hu => Evolves.ite _ hu (hu.trans (completePack_evolves _ _ _ _))
  exact Evolves.ite _ (h2 _ (h1 _ h0)) h0


theorem integrate_evolves (s : State) (c : Ch) (n : Nat) : Evolves s (integratePeriod s c n) := by
  have h : ∀ dq de, Evolves s (s.modCh c fun ch => ch.integrate dq de) := fun dq de => by
    refine Evolves.modCh s c _ ?_ ?_ ?_ ?_ <;> (unfold Channel.integrate; dsimp only)
    · split <;> split <;> exact id
    · split <;> split <;> exact id
    · split <;> split <;> exact id
    · have key : ∀ a : Accounts, AccountsLe a (a.feed dq de) := fun a =>
        ⟨grown_satAdd _ _, grown_satAdd _ _, grown_satAdd _ _, grown_satAdd _ _⟩
      split <;> split <;> exact key _
  exact Evolves.ite _ (h _ _) (Evolves.refl s)

theorem stageTime_evolves (s : State) (c : Ch) (n : Nat) : Evolves s (stageTime s c n) :=
  Evolves.ite _ (Evolves.modCh_same s c _ rfl rfl rfl rfl) (Evolves.refl s)

theorem stagePeak_evolves (s : State) (c : Ch) (taken : Bool) : Evolves s (stagePeak s c taken) :=
  Evolves.ite _ (Evolves.modCh_same s c _ rfl rfl rfl rfl) (Evolves.refl s)

theorem goIntoUnderrun_evolves (s : State) (c : Ch) : Evolves s (goIntoUnderrun s c) :=
  Evolves.ite _ ((Evolves.modCh_same s c _ rfl rfl rfl rfl).trans (offer_keeps _ _ _ _).evolves)
    (Evolves.modCh_same s c _ rfl rfl rfl rfl)

theorem restartUnderrun_evolves (s : State) (c : Ch) : Evolves s (restartUnderrun s c) := by
  unfold restartUnderrun
  split
  · exact Evolves.ite _ (goIntoUnderrun_evolves s c) (Evolves.refl s)
  · exact Evolves.refl s

theorem stageStart_evolves (s : State) (c : Ch) (taken : Bool) : Evolves s (stageStart s c taken) :=
  Evolves.ite _ (((Evolves.modCh_same s c (fun ch => { ch with state := .running, startTimer := none })
    rfl rfl rfl rfl).trans ((grantLive_keeps _ c).trans (settle_keeps _)).evolves).trans
    (restartUnderrun_evolves _ _)) (Evolves.refl s)

theorem lowWaterTest_evolves (s : State) (c : Ch) : Evolves s (lowWaterTest s c) :=
  Evolves.ite _ ((Evolves.modCh_same s c (fun ch => { ch with play := { ch.play with lowArmed := false } })
    rfl rfl rfl rfl).trans (reportCh_keeps _ _ _).evolves) (Evolves.refl s)

/-- What the playing of a point leaves of a channel (R114, R115). -/
theorem advancePoint_leaves (ch : Channel) (counted : Bool) :
    (advancePoint ch counted).1.queue.length ≤ ch.queue.length ∧ (advancePoint ch counted).1.settings = ch.settings ∧
      (advancePoint ch counted).1.port = ch.port ∧ (advancePoint ch counted).1.life = ch.life := by
  unfold advancePoint
  dsimp only
  repeat' split
  all_goals (refine ⟨?_, rfl, rfl, rfl⟩; simp only [List.length_tail]; omega)

theorem advancePlayback_evolves (s : State) (c : Ch) (counted : Bool) : Evolves s (advancePlayback s c counted) := by
  have h0 : Evolves s (s.modCh c fun _ => (advancePoint (s.ch c) counted).1) := by
    have hl := advancePoint_leaves (s.ch c) counted
    exact Evolves.modCh s c _ (fun h => Nat.le_trans hl.1 h) (fun h => by rw [hl.2.1]; exact h)
      (fun h => by rw [hl.2.2.1]; exact h) (by rw [hl.2.2.2]; exact accountsLe_refl _)
  have h1 : ∀ p : Prop, [Decidable p] → Evolves s
      (if p then lowWaterTest (s.modCh c fun _ => (advancePoint (s.ch c) counted).1) c
       else s.modCh c fun _ => (advancePoint (s.ch c) counted).1) := fun p _ =>
    Evolves.ite _ (h0.trans (lowWaterTest_evolves _ _)) h0
  exact Evolves.ite _ ((h1 _).trans (goIntoUnderrun_evolves _ _)) (h1 _)

theorem running_ne (s : State) (c : Ch) (h : isRunning s c = true) : (s.ch c).state ≠ .follower := by
  intro e
  simp [isRunning, e] at h

theorem stagePlay_evolves (s : State) (c : Ch) (counted : Bool) : Evolves s (stagePlay s c counted) := by
  unfold stagePlay
  split
  · exact Evolves.ite _ (advancePlayback_evolves s c counted) (Evolves.refl s)
  · exact Evolves.refl s

theorem endTests_evolves (s : State) (c : Ch) (taken : Bool) (hc : (s.ch c).state ≠ .follower) :
    Evolves s (endTests s c taken) := by
  unfold endTests
  split
  · exact Evolves.refl s
  · rename_i r _
    have h0 : ∀ n, Evolves s (s.modCh c fun ch => { ch with confirms := n }) := fun n =>
      Evolves.modCh_same s c _ rfl rfl rfl rfl
    have hr : ∀ n, ((s.modCh c fun ch => { ch with confirms := n }).ch c).state ≠ .follower := fun n => by simpa using hc
    dsimp only
    split
    · exact (h0 _).trans (endStep_keeps _ c _ _ _ (hr _)).evolves
    · exact Evolves.ite _ ((h0 _).trans (endStep_keeps _ c _ _ _ (hr _)).evolves) (h0 _)

theorem stageTests_evolves (s : State) (c : Ch) (taken : Bool) : Evolves s (stageTests s c taken) := by
  unfold stageTests
  split
  · rename_i h
    exact endTests_evolves s c taken (running_ne s c h)
  · exact Evolves.refl s

theorem stageRefresh_evolves (s : State) (c : Ch) : Evolves s (stageRefresh s c) :=
  Evolves.ite _ (issue_keeps s c).evolves (Evolves.refl s)

theorem stagesLater_evolves (s : State) (c : Ch) (taken counted : Bool) : Evolves s (stagesLater s c taken counted) :=
  Evolves.ite _ (Evolves.refl s) (((((stagePeak_evolves s c taken).trans (stageStart_evolves _ _ _)).trans
    (stagePlay_evolves _ _ _)).trans (stageTests_evolves _ _ _)).trans (stageRefresh_evolves _ _))

theorem restartPeriod_evolves (s : State) (c : Ch) : Evolves s (restartPeriod s c) := by
  have h : ∀ u d n, Evolves u (u.modCh d fun ch => { ch with periodLength := n }) := fun u d n =>
    Evolves.modCh_same u d _ rfl rfl rfl rfl
  simp only [restartPeriod, portsOf]
  split
  · exact (h s c _).trans (h _ _ _)
  · exact h s c _

theorem periodEventOf_evolves (s : State) (c : Ch) : Evolves s (periodEventOf s c) := by
  have h0 : ∀ n, Evolves s (openPeriod s c n) := openPeriod_evolves s c
  have h1 : ∀ n (p : Prop) [Decidable p], Evolves s
      (if p then openPeriod (openPeriod s c n) (partner c) n else openPeriod s c n) := fun n p _ =>
    Evolves.ite _ ((h0 n).trans (openPeriod_evolves _ _ _)) (h0 n)
  have h2 : ∀ u (p : Prop) [Decidable p] n, Evolves s u → Evolves s (if p then u else stageTime u c n) := fun u p _ n h =>
    Evolves.ite _ h (h.trans (stageTime_evolves _ _ _))
  exact (((h2 _ _ _ ((h1 _ _).trans (stageSettle_evolves _ _ _ _ _))).trans (integrate_evolves _ _ _)).trans
    (stagesLater_evolves _ _ _ _)).trans (restartPeriod_evolves _ _)

theorem periodExpires_evolves (s : State) (c : Ch) : Evolves s (periodExpires s c) :=
  Evolves.ite _ (Evolves.refl s) (periodEventOf_evolves s c)

/-! ### Hall lines and hall timers -/

theorem offerHallStop_keeps (l : List Ch) (s : State) : Keeps s (offerHallStop s l).1 := by
  induction l generalizing s with
  | nil => exact Keeps.refl s
  | cons c l ih => exact (offerOne_keeps s c .hallStop 0).trans (ih _)

theorem passHallStop_keeps (newly : List Ch) (l : List Ch) (s : State) : Keeps s (passHallStop newly s l) := by
  induction l generalizing s with
  | nil => exact Keeps.refl s
  | cons c l ih =>
    refine Keeps.trans ?_ (ih _)
    exact iteInduction (motive := Keeps s) (fun _ => offerOne_keeps s _ _ _) fun _ => Keeps.refl s

theorem hallStopActs_keeps (s : State) : Keeps s (hallStopActs s) := by
  have h0 : Keeps s (reportPart (emptyCollections s) (.hallStopAlarm true)) :=
    (emptyCollections_keeps s).trans (reportPart_keeps _ _)
  exact ((h0.trans (offerHallStop_keeps allCh _)).trans (passHallStop_keeps _ allCh _)).trans (settle_keeps _)

theorem hallStopAsserts_evolves (s : State) : Evolves s (hallStopAsserts s) :=
  Evolves.ite _ (Evolves.refl s) ((Evolves.modHallStop s true).trans (hallStopActs_keeps _).evolves)

theorem hallStopDeasserts_evolves (s : State) : Evolves s (hallStopDeasserts s) :=
  Evolves.ite _ ((Evolves.modHallStop s false).trans (reportPart_keeps _ _).evolves) (Evolves.refl s)

theorem alarmRawChange_evolves (s : State) (line : LineNo) (level : Bool) :
    Evolves s (alarmRawChange s line level) := by
  have h0 : Evolves s (s.modLine line fun l => l.setRaw level) := Evolves.modLine s line _ id
  exact Evolves.ite _ (Evolves.refl s) (Evolves.ite _ (h0.trans (offerAlarm_keeps _ _ _ _).evolves) h0)

theorem alarmDebounceExpires_evolves (s : State) (line : LineNo) : Evolves s (alarmDebounceExpires s line) := by
  have h0 : Evolves s (s.modLine line fun l => { l with filtered := l.raw, timer := none }) := Evolves.modLine s line _ id
  exact Evolves.ite _ (Evolves.refl s)
    ((h0.trans (reportPart_keeps _ _).evolves).trans (followCover_keeps _ _ _).evolves)

theorem curtailChanges_evolves (s : State) : Evolves s (curtailChanges s) := by
  have h0 : Evolves s (s.modHall fun h => { h with curtFiltered := s.hall.curtRaw, curtTimer := none }) :=
    Evolves.modHall s _ id
  have h1 : ∀ b (p q : Prop) [Decidable p] [Decidable q], ∀ u, Evolves s u → Evolves s
      (let u := reportPart u b; if p then settleEvaluating u else if q then settle u else u) := fun b p q _ _ u h =>
    have h' := h.trans (reportPart_keeps u b).evolves
    Evolves.ite _ (h'.trans (settleEvaluating_keeps _).evolves) (Evolves.ite _ (h'.trans (settle_keeps _).evolves) h')
  exact Evolves.ite _ ((h1 _ _ _ _ h0).trans (wakeHall_evolves _ _)) (h1 _ _ _ _ h0)

theorem curtailFollows_evolves (s : State) : Evolves s (curtailFollows s) :=
  Evolves.ite _ (Evolves.modHall s _ id)
    (Evolves.ite _ (curtailChanges_evolves s) (Evolves.modHall s _ id))

theorem curtailRawChange_evolves (s : State) (level : Bool) : Evolves s (curtailRawChange s level) :=
  Evolves.ite _ (Evolves.refl s) ((Evolves.modHall s (fun h => { h with curtRaw := level }) id).trans
    (curtailFollows_evolves _))

theorem curtailDebounceExpires_evolves (s : State) : Evolves s (curtailDebounceExpires s) :=
  Evolves.ite _ (Evolves.refl s) (curtailChanges_evolves s)

theorem wakeTimerExpires_evolves (s : State) : Evolves s (wakeTimerExpires s) := by
  have h0 : Evolves s (s.modHall fun h => { h with wakeTimer := none }) := Evolves.modHall s _ id
  exact Evolves.ite _ (Evolves.refl s) (Evolves.ite _ (h0.trans (wakeHall_evolves _ _)) h0)

theorem reportHoldExpires_evolves (s : State) : Evolves s (reportHoldExpires s) :=
  Evolves.ite _ (Evolves.modLink s _ id id) (Evolves.refl s)

/-! ### The end of start-up (R195) -/

theorem formStored_evolves (stored : StoredSettings) (l : List (Fin 4)) (s : State) :
    Evolves s (formStored stored s l) := by
  induction l generalizing s with
  | nil => exact Evolves.refl s
  | cons p l ih =>
    refine Evolves.trans ?_ (ih _)
    exact Evolves.ite _ (Evolves.modCh_same s _ (fun ch => { ch with state := .follower }) rfl rfl rfl rfl)
      (Evolves.refl s)

theorem openFirst_evolves (l : List Ch) (s : State) : Evolves s (openFirst s l) := by
  induction l generalizing s with
  | nil => exact Evolves.refl s
  | cons c l ih => exact (openPeriod_evolves s c _).trans (ih _)

theorem watchLine_evolves (s : State) (line : LineNo) : Evolves s (watchLine s line) :=
  Evolves.ite _ ((Evolves.modLine s line (fun l => { l with raw := false }) id).trans (alarmRawChange_evolves _ _ _))
    (Evolves.refl s)

theorem watchLines_evolves (s : State) : Evolves s (watchLines s) := by
  have hfold : ∀ (l : List LineNo) (t : State), Evolves t (l.foldl watchLine t) := by
    intro l
    induction l with
    | nil => exact fun t => Evolves.refl t
    | cons d l ih => exact fun t => (watchLine_evolves t d).trans (ih _)
  have h0 : Evolves s (if s.prot.hallStop then hallStopActs s else s) :=
    Evolves.ite _ (hallStopActs_keeps s).evolves (Evolves.refl s)
  exact (h0.trans (hfold allLines _)).trans (curtailFollows_evolves _)

theorem reportStarted_evolves (s : State) : Evolves s (reportStarted s) := by
  unfold reportStarted
  split
  · exact ((reportPart_keeps s _).trans (reportPart_keeps _ _)).evolves
  · exact (reportPart_keeps s _).evolves

theorem endStartUp_evolves (s : State) : Evolves s (endStartUp s) := by
  have h0 := (formStored_evolves (Image.load s.image) [0, 1, 2, 3] s).trans
    (Evolves.modHall _ (fun h => { h with partTime := 0 }) id)
  exact ((h0.trans (openFirst_evolves allCh _)).trans ((watchLines_evolves _).trans (reportStarted_evolves _))).trans
    (Evolves.setStore _ _ _ _)

/-! ### The passing of a millisecond -/

theorem tick_evolves (s : State) : Evolves s (tick s) := by
  unfold tick
  split
  · have hch : ∀ c, ({ s with
        link := { s.link with holdTimer := runDown s.link.holdTimer }
        chans := s.chans.map Channel.tick
        arb := s.arb.tick
        prot := { s.prot with lines := s.prot.lines.map AlarmLine.tick }
        hall := s.hall.tick } : State).ch c = Channel.tick (s.ch c) := fun c => by simp [State.ch]
    refine ⟨⟨rfl, fun b => ⟨b.requests, b.reports, fun c => ?_, b.pool⟩,
      fun b => ⟨fun c => ?_, b.budget, fun l => ?_, b.debounce⟩, fun b c => ?_⟩, fun c => ?_, rfl⟩
    · rw [hch]; exact b.queues c
    · rw [hch]; exact b.chans c
    · have := b.alarms l
      simpa [State.line, AlarmLine.tick] using this
    · unfold State.port
      rw [hch]
      have := b c
      refine ⟨this.absent, fun h => this.timed fun e => ?_⟩
      apply h
      unfold State.port at e
      simp [Channel.tick, runDown, e]
    · rw [hch]; exact accountsLe_refl _
  · exact Evolves.refl s

end Sys2Proof.Machine
end

