-- ==== Sys2Proof/Tests/Slice0.lean ====
section
/-! SUPPORT. The model's own tests: ill-formed commands that WellFormed refuses, no word that decodes, for every statement
with hypotheses states and operands that meet them, clause by clause, and small tests of one command each, whose expected
results are read off the rules named beside them. -/
namespace Sys2Proof.Tests

open Sys2Proof.Machine Sys2Proof.Safety

-- One theorem at a time: each is evaluated by the kernel, and many at once would each hold a thread.
set_option Elab.async false

/-! ### Small states -/

/-- The board in READY with every channel IDLE, every stage ABSENT and nothing under way. -/
def quiet : State := { State.reset with part := .ready }

/-- The state a command leads to. -/
def after (i : Instr) (s : State) : State :=
  match exec i s with
  | .next t => t
  | _ => s

/-- A request with tag 7. -/
def req (channel : Byte) (body : List Byte) : Request := ⟨7, channel, body⟩

/-- A part-wide request with tag 7. -/
def partReq (body : List Byte) : Request := ⟨7, 0xFF, body⟩

/-- A report that is no fault report, and one that is. -/
def plainReport : Report := ⟨0, 0, 0xFF, .hallStopAlarm true⟩

/-- A fault report. -/
def faultReport : Report := ⟨0, 0, 0, .fault .limitI 0 false 0 0 4 .faulted⟩

/-- The board with a report being sent. -/
def busy (s : State) : State := s.modLink fun l => { l with sending := some (.report plainReport) }

/-- A channel changed. -/
def on (s : State) (c : Ch) (f : Channel → Channel) : State := s.modCh c f

/-- A channel in a state, its stage PRESENT. -/
def put (s : State) (c : Ch) (state : ChState) : State :=
  s.modCh c fun ch => { ch with state := state, port := { ch.port with presence := .present } }

/-- An end condition that fires after one period above a threshold of step time. -/
def stepFor (time : Int) : EndCond := ⟨.time, time, .next, 1⟩

/-- A schedule of one REST step and one CHARGE step of 2,000 mA to 4,200 mV, in the pool from index 0. -/
def loaded : State :=
  { quiet with pool := [(0, .rest [stepFor 1000]), (1, .charge 2000 4200 none [stepFor 1000])] }

/-- The schedule's window, active in channel 2, whose stage is PRESENT, with the step at an index. -/
def placed (state : ChState) (index : Nat) : State :=
  on (put loaded 2 state) 2 fun ch => { ch with active := some ⟨0, 2⟩, stepIndex := index }

/-- A grant of 100 W for channel 2's CHARGE step. -/
def grant2 : Grant := ⟨2, .charge, 100, false, none⟩

/-- The state with the grant list and entries replaced. -/
def granted (s : State) (gs : List Grant) (waiting resume : List Entry) : State :=
  s.modArb fun a => { a with grants := gs, waiting := waiting, resume := resume }

/-- A waiting or resume entry of channel 2 with its wait timer running. -/
def entry2 : Entry := ⟨2, .charge, 100, .new, some 0, 0⟩

/-- Channel 3 following channel 2. -/
def following (s : State) : State := on s 3 fun ch => { ch with state := .follower }

/-- A record that fits the layout's 64 bytes for WRITE_STEPS. -/
def restBytes : List Byte := recordBytes (some (.rest [stepFor 1000]))

/-- A request to a channel on a free link is taken as its frame ends. -/
theorem toChannel {s : State} {r : Request} {c : Ch} {n : Nat} (h1 : s.part = .ready) (h2 : s.link.requests = [])
    (h3 : s.link.reply = none) (h4 : s.link.sending = none) (h5 : r.channel = chByte c) (h6 : r.body.length = n) :
    ToChannel s r c n :=
  ⟨⟨h1, h2, h3, by simp [h4]⟩, h5, h6⟩

/-- A request to the board on a free link is taken as its frame ends. -/
theorem toPart {s : State} {r : Request} {n : Nat} (h1 : s.part = .ready) (h2 : s.link.requests = [])
    (h3 : s.link.reply = none) (h4 : s.link.sending = none) (h5 : r.channel = partWide) (h6 : r.body.length = n) :
    ToPart s r n :=
  ⟨⟨h1, h2, h3, by simp [h4]⟩, h5, h6⟩

/-- A quiet link is free. -/
theorem free {s : State} (h1 : s.part = .ready) (h2 : s.link.requests = []) (h3 : s.link.reply = none)
    (h4 : s.link.sending = none) : LinkFree s :=
  ⟨h1, h2, h3, by simp [h4]⟩

/-- A free transmitter sends no reply. -/
theorem noReply {s : State} (h : s.link.sending = none) : ∀ x, s.link.sending ≠ some (.reply x) := by simp [h]

/-- A quiet link has no frame due. -/
theorem noneDue {s : State} (h1 : s.link.reply = none) (h2 : s.link.reports = []) : NoFrameDue s := .inr ⟨h1, .inr h2⟩

/-- The arbiter of an ACTIVE hall is sound where its tests hold and the channels it lists may be listed. -/
theorem arbiterSound {s : State} (h1 : testsHold s = true) (h2 : s.arb.evalDue = false) (h3 : (listed s).Nodup)
    (h4 : ∀ c ∈ listed s, (s.ch c).state ∈ [.gap, .deferred, .starting, .running, .held])
    (h5 : ∀ e ∈ s.arb.waiting, (s.ch e.ch).state ∈ [.gap, .deferred]) (h6 : s.hall.state = .active) : ArbiterSound s :=
  ⟨h1, h2, h3, h4, h5, fun h => absurd h6 h⟩

/-- The fault records of a board without a fault and without a pair are sound. -/
theorem faultsSound {s : State}
    (h : ∀ c, (s.ch c).latched = 0 ∧ (s.ch c).firstFault = none ∧ (s.ch c).state ≠ .faulted ∧ (s.ch c).state ≠ .follower)
    (h1 : s.part = .ready) (h2 : s.prot.hallStop = false) : FaultsSound s where
  faulted c _ := ⟨fun e => absurd e (h c).2.2.1, fun e => absurd (h c).1 e⟩
  first c e := absurd (h c).1 e
  noFirst c _ := (h c).2.1
  follower c e := absurd e (h c).2.2.2
  hallStop _ e := by simp [h2] at e
  starting e := by simp [h1] at e

/-- The settings of a board with the default ones are in range. -/
theorem defaultsInRange {s : State} (h1 : ∀ c, (s.ch c).settings = ChanSettings.default)
    (h2 : s.arb.budget = BudgetSettings.default) (h3 : ∀ l, (s.line l).settings = AlarmSettings.default)
    (h4 : s.hall.curtDebounce = quiet.hall.curtDebounce) : SettingsInRange s :=
  ⟨fun c => by rw [h1]; constructor <;> decide, by rw [h2]; constructor <;> decide, fun l => by rw [h3]; decide,
    by rw [h4]; decide +kernel⟩

/-! ### WellFormed and Decode -/

/-- The body of 1,025 bytes that no frame holds (R180). -/
def longBody : List Byte := List.replicate 1025 0

theorem test_body_at_the_limit_is_well_formed :
    WellFormed.instr (.controlFrame ⟨0x24, 7, 2, List.replicate 1024 0⟩) = true := by decide +kernel

theorem test_long_frame_is_ill_formed : WellFormed.instr (.controlFrame ⟨0x24, 7, 2, longBody⟩) = false := by
  decide +kernel

theorem test_long_request_is_ill_formed : WellFormed.instr (.stop ⟨7, 2, longBody⟩) = false := by decide +kernel

theorem test_known_kind_is_no_unknown_request :
    WellFormed.instr (.unknownRequest 0x24 (req 2 [])) = false ∧ WellFormed.instr (.unknownRequest 0x0C (req 2 [])) = true := by
  decide

theorem test_no_word_decodes : decodeTableWord 8 0 = none ∧ decodeTableWord 16 0xFFFF = none := by decide

/-! ### Witnesses: steps, power, start-up and the control link -/

/-- A save in flight. -/
def saving : State := { quiet with saveInFlight := some ⟨Image.fresh (capture quiet 3), 5⟩ }

/-- Stored settings that hold the pair of channels 0 and 1. -/
def storedPair : StoredSettings := { StoredSettings.default with pairs := #v[true, false, false, false] }

/-- The board in STARTING with a good image that holds the pair of channels 0 and 1. -/
def goodStart : State := { State.reset with image := Image.fresh storedPair }

/-- A good image is loaded as it is stored, clamped (R194). -/
theorem load_goodStart : Image.load goodStart.image = StoredSettings.clamp storedPair := by
  show (match Image.judge (Image.fresh storedPair) with | some _ => _ | none => _) = _
  rw [judge_fresh]; rfl

/-- The link with a reply being sent and a frame queued. -/
def replying (queued : List Frame) : State :=
  quiet.modLink fun l => { l with requests := queued, sending := some (.reply ⟨1, 0, 0x24, .ok .done⟩) }

/-- The link with a report being sent, a number of reports queued and the lost flag. -/
def reporting (n : Nat) (lost : Bool) : State :=
  quiet.modLink fun l =>
    { l with sending := some (.report plainReport), reports := List.replicate n plainReport, lost := lost }

/-- A GET_CHANNEL frame. -/
def someFrame : Frame := ⟨0x20, 9, 2, [1]⟩

theorem witness_StepTakesFront :
    State.reset.pending = [] ∧ State.reset.part ≠ .ready ∧ quiet.pending = [] ∧ quiet.part = .ready := by decide

theorem witness_PowerAndStartUp_power :
    quiet.saveInFlight = none ∧ saving.saveInFlight = some ⟨Image.fresh (capture quiet 3), 5⟩ ∧
    exec .powerOn saving = .next (after .powerOn saving) := ⟨rfl, rfl, rfl⟩

theorem witness_PowerAndStartUp_bad_image :
    quiet.part ≠ .starting ∧ State.reset.part = .starting ∧ State.reset.link.reports = [] ∧
    State.reset.link.reply = none ∧ State.reset.link.sending = none ∧ State.reset.link.holdTimer = none ∧
    State.reset.link.lost = false ∧ State.reset.prot.hallStop = false ∧ (∀ l, (State.reset.line l).raw = false) ∧
    State.reset.hall.curtRaw = State.reset.hall.curtFiltered ∧ Image.judge State.reset.image = some .signature := by decide

theorem witness_PowerAndStartUp_good_image :
    goodStart.part = .starting ∧ goodStart.link.reports = [] ∧ goodStart.link.reply = none ∧
    goodStart.link.sending = none ∧ goodStart.link.holdTimer = none ∧ goodStart.link.lost = false ∧
    goodStart.prot.hallStop = false ∧ (∀ l, (goodStart.line l).raw = false) ∧
    goodStart.hall.curtRaw = goodStart.hall.curtFiltered ∧ Image.judge goodStart.image = none ∧
    (Image.load goodStart.image).pairs[(0 : Fin 4)] = true :=
  ⟨rfl, rfl, rfl, rfl, rfl, rfl, rfl, by decide +kernel, rfl, judge_fresh _, by rw [load_goodStart]; decide +kernel⟩

theorem witness_FramesArrive_queue :
    (replying [someFrame, someFrame, someFrame]).part = .ready ∧ someFrame.body.length ≤ 1024 ∧
    (∃ x, (replying [someFrame, someFrame, someFrame]).link.sending = some (.reply x)) ∧
    (replying [someFrame, someFrame, someFrame, someFrame]).part = .ready ∧
    (∃ x, (replying [someFrame, someFrame, someFrame, someFrame]).link.sending = some (.reply x)) :=
  ⟨rfl, by decide, ⟨_, rfl⟩, rfl, ⟨_, rfl⟩⟩

theorem witness_FramesArrive_errors :
    quiet.part = .ready ∧ State.reset.part = .starting ∧ (losePower quiet).part = .off ∧ NoFrameDue quiet :=
  ⟨rfl, rfl, rfl, noneDue rfl rfl⟩

/-- A link record with a number of reports queued. -/
def queueOf (r : Report) (n : Nat) : Link := { Link.powerOn .baud921600 with reports := List.replicate n r }

theorem witness_FrameSent_reply :
    (replying []).link.sending ≠ none ∧ (replying []).link.resetPending = false ∧ (replying []).link.requests = [] ∧
    (busy (quiet.modLink fun l => { l with reply := some ⟨1, 0, 0x24, .ok .done⟩ })).link.sending = some (.report plainReport) ∧
    (busy (quiet.modLink fun l => { l with reply := some ⟨1, 0, 0x24, .ok .done⟩ })).link.reply =
      some ⟨1, 0, 0x24, .ok .done⟩ ∧ (busy quiet).link.reply = none ∧ (busy quiet).link.reports = [] := by
  decide +kernel

theorem witness_FrameSent_report (lost : Bool) :
    (reporting 49 lost).link.reports = plainReport :: List.replicate 48 plainReport ∧
    (reporting 49 lost).link.lost = lost ∧ (reporting 49 lost).part = .ready ∧
    (reporting 49 lost).link.holdTimer = none ∧ (reporting 49 lost).link.reply = none ∧
    (List.replicate 48 plainReport).length = 48 ∧ (reporting 49 lost).link.requests = [] ∧
    (reporting 49 lost).link.resetPending = false ∧ (reporting 49 lost).link.sending = some (.report plainReport) := by
  cases lost <;> decide +kernel

theorem witness_FrameSent_request :
    (replying [someFrame]).part = .ready ∧ (∃ f, (replying [someFrame]).link.sending = some f) ∧
    (replying [someFrame]).link.resetPending = false ∧ (replying [someFrame]).link.requests = someFrame :: [] ∧
    (replying [someFrame]).link.reply = none ∧
    (∃ y, ((replying [someFrame]).modLink fun l => { l with reply := some y }).link.reply = some y) :=
  ⟨rfl, ⟨_, rfl⟩, rfl, rfl, rfl, ⟨⟨1, 0, 0x24, .ok .done⟩, rfl⟩⟩

theorem witness_FrameSent_taken :
    (replying [someFrame, someFrame]).part = .ready ∧ (∃ f, (replying [someFrame, someFrame]).link.sending = some f) ∧
    (replying [someFrame, someFrame]).link.resetPending = false ∧ (replying [someFrame, someFrame]).link.reply = none ∧
    (replying [someFrame, someFrame]).link.requests = someFrame :: [someFrame] ∧ someFrame.body.length ≤ 1024 :=
  ⟨rfl, ⟨_, rfl⟩, rfl, rfl, rfl, by decide⟩

theorem witness_ResetPart :
    ToPart quiet (partReq []) 0 ∧
    (∃ x, ((replying []).modLink fun l => { l with resetPending := true }).link.sending = some (.reply x)) ∧
    ((replying []).modLink fun l => { l with resetPending := true }).link.resetPending = true ∧
    ((replying []).modLink fun l => { l with resetPending := true }).saveInFlight = none ∧
    saving.saveInFlight = some ⟨Image.fresh (capture quiet 3), 5⟩ :=
  ⟨toPart rfl rfl rfl rfl rfl rfl, ⟨_, rfl⟩, rfl, rfl, rfl⟩

theorem witness_ReportQueue_enters :
    (queueOf plainReport 63).reports.length < 64 ∧ 64 ≤ (queueOf plainReport 64).reports.length ∧
    plainReport.isFault = false ∧ faultReport.isFault = true ∧
    (queueOf plainReport 64).reports = [] ++ plainReport :: List.replicate 63 plainReport ∧
    (∀ y ∈ (queueOf faultReport 64).reports, y.isFault = true) := by
  decide +kernel

theorem witness_RequestFrames :
    ReqKind.ofCode 0x0C = none ∧ ReqKind.ofCode 0xFF = none ∧ ReqKind.ofCode 0x0B = some .resetPart ∧ LinkFree quiet ∧
    (req 2 []).body.length ≤ 1024 ∧ State.reset.part = .starting ∧ State.reset.link.requests = [] ∧
    State.reset.link.reply = none ∧ (∀ x, State.reset.link.sending ≠ some (.reply x)) ∧ someFrame.kind ≠ 0x01 :=
  ⟨by decide, by decide, by decide, free rfl rfl rfl rfl, by decide, rfl, rfl, rfl, noReply rfl, by decide⟩

theorem witness_RequestsRefused_checks :
    LinkFree quiet ∧ ReqKind.writeSteps.lengthOk 65 = false ∧ ReqKind.writeSteps.lengthOk 66 = true ∧
    ReqKind.stop.lengthOk (req 8 []).body.length = true ∧ .stop ∉ partWideKinds ∧ 8 ≤ (req 8 []).channel.toNat ∧
    ReqKind.getBudget ∈ partWideKinds ∧ (req 0xFE []).channel ≠ 0xFF :=
  ⟨free rfl rfl rfl rfl, by decide, by decide, by decide, by decide, by decide, by decide, by decide⟩

theorem witness_RequestsRefused_frame :
    ∃ (t : State) (d : Refused), LinkFree quiet ∧ exec (.controlFrame (ReqKind.stop.frame (req 2 []))) quiet = .next t ∧
      Answered quiet t (replyTo .stop (req 2 []) (.refused d)) ∧ d.code ≠ .full :=
  ⟨after (.stop (req 2 [])) quiet, ⟨.wrongState, none, 0, 0, 0⟩, free rfl rfl rfl rfl, rfl, ⟨rfl, rfl⟩, by decide⟩

/-! ### Witnesses: requests that read, the schedule store, settings -/

theorem witness_BoardReads_part :
    (partReq []).channel = 0xFF ∧ State.reset.part = .starting ∧ State.reset.link.requests = [] ∧
    State.reset.link.reply = none ∧ (∀ x, State.reset.link.sending ≠ some (.reply x)) ∧ ToPart quiet (partReq [0]) 1 ∧
    ToPart quiet (partReq [1]) 1 :=
  ⟨rfl, rfl, rfl, rfl, noReply rfl, toPart rfl rfl rfl rfl rfl rfl, toPart rfl rfl rfl rfl rfl rfl⟩

theorem witness_BoardReads_budget : ToPart (granted quiet [grant2] [entry2] []) (partReq []) 0 :=
  toPart rfl rfl rfl rfl rfl rfl

theorem witness_BoardReads_steps :
    LinkFree loaded ∧ (partReq [0xF1, 0x03, 15, 0]).body.length = 4 ∧
    field (partReq [0xF1, 0x03, 15, 0]).body 0 2 + field (partReq [0xF1, 0x03, 15, 0]).body 2 2 = 1024 ∧
    (StepRecord.charge 2000 4200 (some 65535) []).declared = some 65535 ∧ (StepRecord.rest []).declared = none :=
  ⟨free rfl rfl rfl rfl, rfl, by decide, rfl, rfl⟩

theorem witness_ChannelReads :
    LinkFree quiet ∧ (req 7 []).channel = chByte 7 ∧ 8 ≤ (req 8 []).channel.toNat ∧ ToChannel quiet (req 2 [1]) 2 1 ∧
    ToChannel (following quiet) (req 2 [2]) 2 1 ∧ ToChannel quiet (req 2 [3]) 2 1 ∧ ToChannel quiet (req 2 [4]) 2 1 ∧
    ToChannel quiet (req 2 [5]) 2 1 ∧ ToChannel quiet (req 2 [0]) 2 1 ∧ ToChannel quiet (req 2 [6]) 2 1 :=
  ⟨free rfl rfl rfl rfl, by decide, by decide, toChannel rfl rfl rfl rfl rfl rfl, toChannel rfl rfl rfl rfl rfl rfl,
    toChannel rfl rfl rfl rfl rfl rfl, toChannel rfl rfl rfl rfl rfl rfl, toChannel rfl rfl rfl rfl rfl rfl,
    toChannel rfl rfl rfl rfl rfl rfl, toChannel rfl rfl rfl rfl rfl rfl⟩

theorem witness_WriteSteps :
    LinkFree loaded ∧ poolWf loaded.pool = true ∧ ([0xFF, 0x03] ++ restBytes).length = 2 + 64 * 1 ∧
    field ([0xFF, 0x03] ++ restBytes) 0 2 + 1 = 1024 ∧ (∀ c, protects loaded c 1023 = false) ∧
    1024 < field ([0, 0x04] ++ restBytes) 0 2 + 1 ∧ protects (placed .running 0) 2 1 = true ∧
    (∀ d, protects (placed .running 0) d 0 = false ∨ d = 2) := by
  refine ⟨free rfl rfl rfl rfl, ?_⟩
  decide +kernel

theorem witness_WriteSteps_forms :
    recordOf ((([0xFF, 0x03] ++ restBytes).drop (2 + 64 * 0)).take 64) = .ok (.rest [stepFor 1000]) ∧
    recordOf (List.replicate 64 0) = .error .badKind :=
  ⟨rfl, rfl⟩

theorem witness_WriteSteps_protected :
    poolWf (placed .running 0).pool = true ∧
    exec (.stop (req 2 [])) (placed .running 0) = .next (after (.stop (req 2 [])) (placed .running 0)) ∧
    ((placed .running 0).ch 2).state ∈ [.gap, .deferred, .starting, .running, .held, .stopping] ∧
    ((placed .running 0).ch 2).active = some ⟨0, 2⟩ ∧
    ((on loaded 2 fun ch => { ch with swapPending := some .atCycleEnd, staged := some ⟨0, 2⟩ }).ch 2).swapPending ≠ none ∧
    ((on loaded 2 fun ch => { ch with swapPending := some .atCycleEnd, staged := some ⟨0, 2⟩ }).ch 2).staged = some ⟨0, 2⟩ :=
  ⟨by decide +kernel, rfl, by decide +kernel, by decide +kernel, by decide +kernel, by decide +kernel⟩

theorem witness_Validation :
    validate loaded 2 (some ⟨5, 1⟩) = some (.noWorkingStep, 0) ∧ poolRead loaded.pool 5 = none ∧
    poolRead loaded.pool 0 = some (.rest [stepFor 1000]) ∧ validate loaded 2 (some ⟨0, 2⟩) = none ∧
    poolRead loaded.pool 2 = none ∧ validate loaded 2 (some ⟨0, 3⟩) = some (.blankStep, 2) := by
  decide +kernel

theorem witness_Windows_set :
    LinkFree quiet ∧ (req 2 [1, 0xFF, 3, 1, 0]).body.length = 5 ∧ (req 2 [1, 0xFF, 3, 1, 0]).channel = chByte 2 ∧
    field (req 2 [1, 0xFF, 3, 1, 0]).body 1 2 = 1023 ∧ field (req 2 [1, 0xFF, 3, 1, 0]).body 3 2 = 1 ∧
    8 ≤ (req 8 [2, 0, 0, 0, 0]).channel.toNat :=
  ⟨free rfl rfl rfl rfl, rfl, by decide, by decide, by decide, by decide⟩

/-- A SET_CHANNEL body that carries one setting: the mask, the byte of the field that is set, and its offset. -/
def setOne (mask : List Byte) (offset : Nat) (value : Byte) : List Byte := mask ++ (List.replicate 58 0).set (offset - 4) value

theorem witness_SetChannel_refusals :
    (channelPatch (setOne [0, 4, 0, 0] 35 3)).badForm = true ∧ (channelPatch (setOne [0, 4, 0, 0] 35 2)).badForm = false ∧
    (channelPatch (setOne [0, 4, 0, 0] 35 2)).group = some 2 ∧ ((following quiet).ch 3).state = .follower ∧
    ((placed .running 0).ch 2).state = .running ∧ (setOne [0, 4, 0, 0] 35 2).length = 62 ∧
    (channelPatch (setOne [0x20, 0, 0, 0] 19 1)).vMax = some 1 ∧ (channelPatch (setOne [0x20, 0, 0, 0] 19 1)).group = none := by
  decide +kernel

theorem witness_SetChannel :
    ToChannel quiet (req 2 (List.replicate 62 0)) 2 62 ∧ InRange (quiet.ch 2).settings := by
  refine ⟨toChannel rfl rfl rfl rfl rfl (by decide), ?_⟩
  constructor <;> decide +kernel

theorem witness_CalibrationAndWake :
    ToChannel quiet (req 2 (List.replicate 28 0)) 2 28 ∧ ToPart quiet (partReq (List.replicate 14 0)) 14 :=
  ⟨toChannel rfl rfl rfl rfl rfl (by decide), toPart rfl rfl rfl rfl rfl (by decide)⟩

/-- Channel 2 RUNNING its CHARGE step with a live grant of 100 W. -/
def charging : State := granted (placed .running 1) [{ grant2 with live := true }] [] []

theorem witness_SetBudget :
    ToPart charging (partReq ([1, 0, 0, 0] ++ List.replicate 16 0)) 20 ∧ ArbiterSound charging ∧
    withinCeilings ⟨10000, 10000, 10000, 950, 500⟩ 10000 charging.arb.grants = true ∧
    (shedLoop ⟨0, 0, 10000, 950, 500⟩ 0 (charging.arb.grants.length + 1) charging.arb.grants).2 ≠ [] := by
  refine ⟨toPart rfl rfl rfl rfl rfl (by decide), arbiterSound ?_ ?_ ?_ ?_ ?_ ?_, ?_⟩ <;> decide +kernel

/-- Chamber alarm line 0 routed LOCAL for every channel, its levels asserted. -/
def lineUp (s : State) (route : Route) (mask : BitVec 8) : State :=
  s.modLine 0 fun _ => { settings := ⟨route, mask, 200⟩, raw := true, filtered := true, timer := some 0 }

theorem witness_SetAlarmRoute :
    ToPart quiet (partReq [4, 2, 0xFF, 200, 0, 0, 0]) 7 ∧ routeOf 0 = none ∧ routeOf 4 = none ∧
    ToPart (lineUp (placed .running 0) .report 0) (partReq [0, 2, 0xFF, 200, 0, 0, 0]) 7 ∧
    field (partReq [0, 2, 0xFF, 200, 0, 0, 0]).body 0 1 = (0 : LineNo).val ∧
    routeOf (field (partReq [0, 2, 0xFF, 200, 0, 0, 0]).body 1 1) = some .localHold ∧
    ((lineUp (placed .running 0) .report 0).line 0).filtered = true ∧
    covered (lineUp (placed .running 0) .report 0) 2 = false ∧
    ((lineUp (placed .running 0) .report 0).ch 2).state = .running :=
  ⟨toPart rfl rfl rfl rfl rfl rfl, rfl, rfl, toPart rfl rfl rfl rfl rfl rfl, by decide, by decide, by decide +kernel,
    by decide +kernel, by decide +kernel⟩

theorem witness_SetAlarmRoute_uncovers :
    ToPart (lineUp (placed .running 0) .localHold 0xFF) (partReq [0, 3, 4, 200, 0, 0, 0]) 7 ∧
    routeOf (field (partReq [0, 3, 4, 200, 0, 0, 0]).body 1 1) = some .direct ∧
    ((lineUp (placed .running 0) .localHold 0xFF).line 0).settings.route ≠ .direct ∧
    covered (after (.setAlarmRoute (partReq [0, 3, 4, 200, 0, 0, 0])) (lineUp (placed .running 0) .localHold 0xFF)) 2 =
      false ∧
    ((lineUp (placed .running 0) .localHold 0xFF).line 0).raw = true ∧
    (BitVec.ofNat 8 (field (partReq [0, 3, 4, 200, 0, 0, 0]).body 2 1)).getLsbD (2 : Ch).val = true ∧
    paired (lineUp (placed .running 0) .localHold 0xFF) 2 = false ∧
    hasKind ((lineUp (placed .running 0) .localHold 0xFF).ch 2).latched .chamberAlarm = false ∧
    ((lineUp quiet .report 0).line 0).settings.route = .report ∧ ((lineUp quiet .report 0).line 0).settings.mask = 0 := by
  refine ⟨toPart rfl rfl rfl rfl rfl rfl, ?_⟩
  decide +kernel

theorem witness_SettingsSave :
    ToPart quiet (partReq [4]) 1 ∧ ToPart quiet (partReq [5]) 1 ∧ ToPart saving (partReq [0]) 1 ∧
    saving.saveInFlight ≠ none ∧ (busy saving).part ≠ .halted ∧ (busy saving).link.sending ≠ none ∧
    ({ saving with part := .halted }).part = .halted ∧ quiet.saveInFlight = none ∧ NoFrameDue quiet :=
  ⟨toPart rfl rfl rfl rfl rfl rfl, toPart rfl rfl rfl rfl rfl rfl, toPart rfl rfl rfl rfl rfl rfl, by decide +kernel, by decide +kernel,
    by decide +kernel, rfl, rfl, noneDue rfl rfl⟩

/-- Reports held back, with a number queued. -/
def heldBack (n : Nat) : State :=
  quiet.modLink fun l => { l with holdTimer := some 0, reports := List.replicate n plainReport }

theorem witness_ReportQueue_hold :
    ToPart quiet (partReq [0xFF, 0xFF]) 2 ∧ ToPart quiet (partReq [0, 0]) 2 ∧ (busy (heldBack 1)).part = .ready ∧
    (busy (heldBack 1)).link.holdTimer ≠ none ∧ (busy (heldBack 1)).link.sending ≠ none ∧
    (heldBack 48).link.sending = none ∧ (heldBack 48).link.reply = none ∧
    (heldBack 48).link.reports = plainReport :: List.replicate 47 plainReport ∧ (List.replicate 47 plainReport).length ≠ 48 := by
  refine ⟨toPart rfl rfl rfl rfl rfl rfl, toPart rfl rfl rfl rfl rfl rfl, ?_⟩
  decide +kernel

/-! ### Witnesses: runs, faults and pairs -/

/-- A state with the hall stop line asserted, the hall paused, the stages ABSENT or a resume point in channel 2. -/
def stopped (s : State) : State := s.modProt fun p => { p with hallStop := true }

/-- The hall in a state. -/
def inHall (s : State) (h : HallState) : State := s.modHall fun x => { x with state := h }

/-- A resume point of channel 2 at an index of a window. -/
def pointIn (w : Option Window) (index : Nat) : ResumePoint := ⟨w, index, 0, 0, 0, 0, [], 1, ⟨0, 0, 0, 0⟩, .charge⟩

/-- Channel 2 IDLE on the schedule with a resume point. -/
def resumable (w : Option Window) (index : Nat) : State :=
  on (placed .idle 0) 2 fun ch => { ch with resume := some (pointIn w index) }

theorem witness_Start_refused :
    ToChannel (following quiet) (req 3 [1]) 3 1 ∧ (((following quiet).ch 3).state = .follower) ∧
    ToChannel (stopped quiet) (req 2 [1]) 2 1 ∧ (stopped quiet).prot.hallStop = true ∧
    ToChannel (inHall quiet .paused) (req 2 [1]) 2 1 ∧ (inHall quiet .paused).hall.state ≠ .active ∧
    ToChannel quiet (req 2 [0]) 2 1 ∧ ToChannel quiet (req 2 [3]) 2 1 ∧ ToChannel (placed .held 0) (req 2 [1]) 2 1 ∧
    ToChannel (placed .complete 0) (req 2 [2]) 2 1 ∧ ToChannel quiet (req 2 [1]) 2 1 ∧ (quiet.ch 2).port.presence = .absent ∧
    ToChannel (placed .idle 0) (req 2 [2]) 2 1 ∧ ((placed .idle 0).ch 2).resume = none :=
  ⟨toChannel rfl rfl rfl rfl rfl rfl, rfl, toChannel rfl rfl rfl rfl rfl rfl, rfl, toChannel rfl rfl rfl rfl rfl rfl, nofun,
    toChannel rfl rfl rfl rfl rfl rfl, toChannel rfl rfl rfl rfl rfl rfl, toChannel rfl rfl rfl rfl rfl rfl,
    toChannel rfl rfl rfl rfl rfl rfl, toChannel rfl rfl rfl rfl rfl rfl, rfl, toChannel rfl rfl rfl rfl rfl rfl, rfl⟩

theorem witness_Start_refused_windows :
    ToChannel (resumable (some ⟨5, 2⟩) 0) (req 2 [2]) 2 1 ∧
    ((resumable (some ⟨5, 2⟩) 0).ch 2).resume.bind ResumePoint.window ≠ ((resumable (some ⟨5, 2⟩) 0).ch 2).active ∧
    ((resumable (some ⟨0, 2⟩) 2).ch 2).resume.bind ResumePoint.window = ((resumable (some ⟨0, 2⟩) 2).ch 2).active ∧
    (pointIn (some ⟨0, 2⟩) 2).stepIndex = (⟨0, 2⟩ : Window).length ∧ ToChannel (put loaded 2 .idle) (req 2 [1]) 2 1 ∧
    ((put loaded 2 .idle).ch 2).active = none ∧
    validate (on (put quiet 2 .idle) 2 fun ch => { ch with active := some ⟨1023, 1⟩ }) 2 (some ⟨1023, 1⟩) =
      some (.noWorkingStep, 0) := by
  refine ⟨toChannel rfl rfl rfl rfl rfl rfl, ?_, ?_, rfl, toChannel rfl rfl rfl rfl rfl rfl, ?_⟩ <;> decide +kernel

theorem witness_Start_resume :
    ToChannel (resumable (some ⟨0, 2⟩) 1) (req 2 [2]) 2 1 ∧ ((resumable (some ⟨0, 2⟩) 1).ch 2).state = .idle ∧
    (resumable (some ⟨0, 2⟩) 1).prot.hallStop = false ∧ (resumable (some ⟨0, 2⟩) 1).hall.state = .active ∧
    ((resumable (some ⟨0, 2⟩) 1).ch 2).port.presence = .present ∧ isLeader (resumable (some ⟨0, 2⟩) 1) 2 = false ∧
    ((resumable (some ⟨0, 2⟩) 1).ch 2).active = some ⟨0, 2⟩ ∧
    ((resumable (some ⟨0, 2⟩) 1).ch 2).resume = some (pointIn (some ⟨0, 2⟩) 1) ∧
    (pointIn (some ⟨0, 2⟩) 1).window = some ⟨0, 2⟩ ∧ (pointIn (some ⟨0, 2⟩) 1).stepIndex < (⟨0, 2⟩ : Window).length ∧
    poolRead (resumable (some ⟨0, 2⟩) 1).pool (0 + 1) = some (.charge 2000 4200 none [stepFor 1000]) ∧
    (pointIn (some ⟨0, 2⟩) 1).loops = [] ∧ validate (resumable (some ⟨0, 2⟩) 1) 2 (some ⟨0, 2⟩) = none ∧
    Unlisted (resumable (some ⟨0, 2⟩) 1) 2 ∧ covered (resumable (some ⟨0, 2⟩) 1) 2 = false ∧
    ((resumable (some ⟨0, 2⟩) 1).ch 2).settings.reversalGap ≠ 0 := by
  refine ⟨toChannel rfl rfl rfl rfl rfl rfl, ?_⟩
  unfold Unlisted
  decide +kernel

theorem witness_Start_begin :
    ToChannel (placed .complete 0) (req 2 [1]) 2 1 ∧ (req 2 [1]).body = [1] ∧
    ((placed .complete 0).ch 2).state = .complete ∧ (placed .complete 0).prot.hallStop = false ∧
    (placed .complete 0).hall.state = .active ∧ ((placed .complete 0).ch 2).port.presence = .present ∧
    isLeader (placed .complete 0) 2 = false ∧ ((placed .complete 0).ch 2).active = some ⟨0, 2⟩ ∧
    validate (placed .complete 0) 2 (some ⟨0, 2⟩) = none ∧
    poolRead (placed .complete 0).pool 0 = some (.rest [stepFor 1000]) ∧ Unlisted (placed .complete 0) 2 ∧
    covered (placed .complete 0) 2 = false ∧ covered (lineUp (placed .complete 0) .localHold 4) 2 = true := by
  refine ⟨toChannel rfl rfl rfl rfl rfl rfl, ?_⟩
  unfold Unlisted
  decide +kernel

/-- The board with channel 2's schedule beginning with its CHARGE step. -/
def chargeFirst : State :=
  on { placed .idle 0 with pool := [(0, .charge 2000 4200 none [stepFor 1000])] } 2 fun ch =>
    { ch with active := some ⟨0, 1⟩ }

theorem witness_Start_begin_gap :
    validate chargeFirst 2 (some ⟨0, 1⟩) = none ∧ (chargeFirst.ch 2).active = some ⟨0, 1⟩ ∧
    poolRead chargeFirst.pool 0 = some (.charge 2000 4200 none [stepFor 1000]) ∧
    (chargeFirst.ch 2).settings.reversalGap ≠ 0 ∧ covered chargeFirst 2 = false := by
  decide +kernel

/-- `chargeFirst` with a reversal gap of 0, which no setting in range gives. -/
def gapless : State := on chargeFirst 2 fun ch => { ch with settings := { ch.settings with reversalGap := 0 } }

theorem witness_Start_gapless :
    validate gapless 2 (some ⟨0, 1⟩) = none ∧ (gapless.ch 2).settings.reversalGap = 0 ∧ covered gapless 2 = false ∧
    poolRead gapless.pool 0 = some (.charge 2000 4200 none [stepFor 1000]) ∧
    ((after (.start (req 2 [1])) gapless).ch 2).state = .starting := by
  decide +kernel

theorem witness_Stop :
    ToChannel (following quiet) (req 3 []) 3 0 ∧ ToChannel quiet (req 2 []) 2 0 ∧ (quiet.ch 2).state = .idle ∧
    ToChannel (placed .stopping 0) (req 2 []) 2 0 ∧ ToChannel (placed .running 0) (req 2 []) 2 0 ∧
    ((placed .running 0).ch 2).port.presence = .present ∧
    ((placed .running 0).ch 2).port.standing ≠ some ⟨.off, 0, 0, 0⟩ ∧ isLeader (placed .running 0) 2 = false :=
  ⟨toChannel rfl rfl rfl rfl rfl rfl, toChannel rfl rfl rfl rfl rfl rfl, rfl, toChannel rfl rfl rfl rfl rfl rfl,
    toChannel rfl rfl rfl rfl rfl rfl, by decide +kernel, by decide +kernel, by decide +kernel⟩

/-- Channel 2 HELD on its REST step with one cause. -/
def heldBy (h : HoldCauses) : State := on (placed .held 0) 2 fun ch => { ch with holds := h }

theorem witness_HoldAndRelease :
    ToChannel (following quiet) (req 3 []) 3 0 ∧ ToChannel quiet (req 2 []) 2 0 ∧
    ToChannel (heldBy ⟨true, false, false, false, false⟩) (req 2 []) 2 0 ∧
    ((heldBy ⟨true, false, false, false, false⟩).ch 2).holds.host = true ∧
    ToChannel (placed .running 0) (req 2 []) 2 0 ∧ ((placed .running 0).ch 2).holds.host = false ∧
    ToChannel (heldBy ⟨true, false, false, true, false⟩) (req 2 []) 2 0 ∧
    ((heldBy ⟨true, false, false, true, false⟩).ch 2).holds.pause = true ∧
    ((heldBy ⟨true, false, false, false, false⟩).ch 2).heldBefore = false ∧
    currentStep (heldBy ⟨true, false, false, false, false⟩) 2 = some (.rest [stepFor 1000]) ∧
    grantOf (heldBy ⟨true, false, false, false, false⟩) 2 = none :=
  ⟨toChannel rfl rfl rfl rfl rfl rfl, toChannel rfl rfl rfl rfl rfl rfl, toChannel rfl rfl rfl rfl rfl rfl, rfl,
    toChannel rfl rfl rfl rfl rfl rfl, rfl, toChannel rfl rfl rfl rfl rfl rfl, rfl, rfl, by decide +kernel,
    by decide +kernel⟩

/-- Channel 2 HELD with HOST on its CHARGE step, before the step or not, with the grants given. -/
def heldOn (before : Bool) (gs : List Grant) : State :=
  granted (on (placed .held 1) 2 fun ch => { ch with holds := ⟨true, false, false, false, false⟩, heldBefore := before }) gs
    [] []

theorem witness_HoldAndRelease_moving :
    ToChannel (heldOn true []) (req 2 []) 2 0 ∧ ((heldOn true []).ch 2).state = .held ∧
    currentStep (heldOn true []) 2 = some (.charge 2000 4200 none [stepFor 1000]) ∧ testsHold (heldOn true []) = true ∧
    ((heldOn true []).ch 2).heldBefore = true ∧ ((heldOn true []).ch 2).settings.reversalGap ≠ 0 ∧
    holdsCover (heldOn false [grant2]) 2 (.charge 2000 4200 none [stepFor 1000]) = true ∧
    holdsCover (heldOn false []) 2 (.charge 2000 4200 none [stepFor 1000]) = false ∧ ArbiterSound (heldOn false []) := by
  refine ⟨toChannel rfl rfl rfl rfl rfl rfl, ?_, ?_, ?_, ?_, ?_, ?_, ?_, arbiterSound ?_ ?_ ?_ ?_ ?_ ?_⟩ <;> decide +kernel

/-- Channel 2 with the schedule's window staged as well. -/
def stagedToo (state : ChState) : State := on (placed state 0) 2 fun ch => { ch with staged := some ⟨0, 2⟩ }

theorem witness_Windows_swap :
    ToChannel (following quiet) (req 3 [1]) 3 1 ∧ ToChannel (placed .complete 0) (req 2 [1]) 2 1 ∧
    ToChannel (placed .idle 0) (req 2 [0]) 2 1 ∧ ToChannel (placed .idle 0) (req 2 [3]) 2 1 ∧
    validate (placed .idle 0) 2 ((placed .idle 0).ch 2).staged = some (.noWindow, 0) ∧
    ToChannel (stagedToo .idle) (req 2 [1]) 2 1 ∧ validate (stagedToo .idle) 2 ((stagedToo .idle).ch 2).staged = none ∧
    ToChannel (stagedToo .stopping) (req 2 [2]) 2 1 ∧
    validate (stagedToo .stopping) 2 ((stagedToo .stopping).ch 2).staged = none ∧ ToChannel quiet (req 2 []) 2 0 := by
  refine ⟨toChannel rfl rfl rfl rfl rfl rfl, toChannel rfl rfl rfl rfl rfl rfl, toChannel rfl rfl rfl rfl rfl rfl,
    toChannel rfl rfl rfl rfl rfl rfl, by decide +kernel, toChannel rfl rfl rfl rfl rfl rfl, by decide +kernel,
    toChannel rfl rfl rfl rfl rfl rfl, by decide +kernel, toChannel rfl rfl rfl rfl rfl rfl⟩

/-- The bytes of a point of 840,000 mA for one period, and of one that asks for 840,001 mA. -/
def pointAt (current : Int) : List Byte := pointBytes ⟨current, 1, true⟩

theorem witness_ProfileQueue :
    ToChannel quiet (req 2 (pointAt 840000)) 2 (8 * 1) ∧
    ToChannel quiet (req 2 (List.replicate 32 (pointAt (-840000))).flatten) 2 (8 * 32) ∧
    ((List.range 1).map fun k => pointOf (((pointAt 840000).drop (8 * k)).take 8)) = [⟨840000, 1, true⟩] ∧
    ((List.range 1).map fun k => pointOf (((pointAt 840001).drop (8 * k)).take 8)) = [⟨840001, 1, true⟩] ∧
    ToChannel quiet (req 2 []) 2 0 := by
  refine ⟨toChannel rfl rfl rfl rfl rfl rfl, toChannel rfl rfl rfl rfl rfl (by decide +kernel), by decide +kernel,
    by decide +kernel, toChannel rfl rfl rfl rfl rfl rfl⟩

theorem witness_LifetimeAccounts_clear :
    LinkFree quiet ∧ (req 8 []).body = [] ∧ 8 ≤ (req 8 []).channel.toNat ∧ (req 7 []).channel = chByte 7 :=
  ⟨free rfl rfl rfl rfl, rfl, by decide, by decide⟩

/-- Channel 2 FAULTED with two kinds latched, STAGE_NO_ACK first. -/
def faulted2 : State :=
  on (put quiet 2 .faulted) 2 fun ch =>
    { ch with latched := addKind (onlyKind .stageNoAck) .stageSilent, firstFault := some ⟨.stageNoAck, 0, 0, 3, 0⟩ }

theorem witness_ClearFaults :
    ToChannel faulted2 (req 2 [0x60, 0]) 2 2 ∧ hasKind (BitVec.ofNat 16 (field [0x60, 0] 0 2)) .stageSilent = true ∧
    hasKind (faulted2.ch 2).latched .stageSilent = true ∧ heldByCause faulted2 2 .stageSilent = false ∧
    (faulted2.ch 2).firstFault = some ⟨.stageNoAck, 0, 0, 3, 0⟩ ∧
    ToChannel (following faulted2) (req 2 [0x60, 0]) 2 2 ∧ isLeader (following faulted2) 2 = true := by
  refine ⟨toChannel rfl rfl rfl rfl rfl rfl, by decide, by decide +kernel, by decide +kernel, rfl,
    toChannel rfl rfl rfl rfl rfl rfl, by decide +kernel⟩

/-- Channel 2 FAULTED with STAGE_NO_ACK alone, its first fault. -/
def faultedOnce : State :=
  on (put quiet 2 .faulted) 2 fun ch =>
    { ch with latched := onlyKind .stageNoAck, firstFault := some ⟨.stageNoAck, 0, 0, 3, 0⟩ }

theorem witness_ClearFaults_first :
    ToChannel faultedOnce (req 2 [0x40, 0]) 2 2 ∧ (faultedOnce.ch 2).firstFault = some ⟨.stageNoAck, 0, 0, 3, 0⟩ ∧
    hasKind (BitVec.ofNat 16 (field [0x40, 0] 0 2)) .stageNoAck = true ∧
    hasKind (faultedOnce.ch 2).latched .stageNoAck = true ∧ heldByCause faultedOnce 2 .stageNoAck = false ∧
    (∀ j, j ≠ .stageNoAck → hasKind (faultedOnce.ch 2).latched j = false) ∧ (faultedOnce.ch 2).state = .faulted ∧
    ToChannel faulted2 (req 2 [0x40, 0]) 2 2 ∧ hasKind (faulted2.ch 2).latched .stageSilent = true ∧
    hasKind (BitVec.ofNat 16 (field [0x40, 0] 0 2)) .stageSilent = false := by
  refine ⟨toChannel rfl rfl rfl rfl rfl rfl, rfl, by decide, by decide +kernel, by decide +kernel, ?_, by decide +kernel,
    toChannel rfl rfl rfl rfl rfl rfl, by decide +kernel, by decide⟩
  intro j; cases j <;> decide +kernel

theorem witness_TimeoutsFault :
    NoFrameDue quiet ∧ (quiet.ch 2).state ≠ .starting ∧ (placed .starting 1).part = .ready ∧
    ((on (placed .starting 1) 2 fun ch => { ch with startTimer := some 0 }).ch 2).startTimer ≠ none ∧
    hasKind ((placed .starting 1).ch 2).latched .stageStartTimeout = false ∧
    ((placed .starting 1).ch 2).active = some ⟨0, 2⟩ ∧ paired (placed .starting 1) 2 = false ∧
    (quiet.ch 2).play.underrunTimer = none ∧ ((placed .running 0).ch 2).state = .running ∧
    ((on (placed .running 0) 2 fun ch =>
      { ch with play := { ch.play with underrunTimer := some 0 } }).ch 2).play.underrunTimer ≠ none ∧
    hasKind ((placed .running 0).ch 2).latched .profileUnderrun = false := by
  refine ⟨noneDue rfl rfl, ?_⟩
  decide +kernel

theorem witness_Pairs_form :
    ToChannel (following quiet) (req 3 []) 3 0 ∧ ToChannel quiet (req 2 []) 2 0 ∧ (2 : Ch).val % 2 = 0 ∧
    (3 : Ch).val = (2 : Ch).val + 1 ∧ ((following quiet).ch 3).state = .follower ∧ (quiet.ch 3).state ≠ .follower ∧
    ((put quiet 2 .complete).ch 2).state ≠ .idle ∧ ToChannel (put quiet 2 .complete) (req 2 []) 2 0 ∧
    (quiet.ch 2).state = .idle ∧ (quiet.ch 3).state = .idle ∧ ((following (put quiet 2 .complete)).ch 2).state ≠ .idle := by
  refine ⟨toChannel rfl rfl rfl rfl rfl rfl, toChannel rfl rfl rfl rfl rfl rfl, by decide, by decide, by decide +kernel,
    by decide +kernel, by decide +kernel, toChannel rfl rfl rfl rfl rfl rfl, by decide +kernel⟩

theorem witness_Pairs_shares : (⟨.regulate, -840000, 125000, 0⟩ : Demand).current.natAbs ≤ 2 * 420000 := by decide

/-- Channel 3 following channel 2, which is in a state on its CHARGE step with every timer of its run just run down. -/
def leading (state : ChState) : State :=
  on (following (placed state 1)) 2 fun ch =>
    { ch with
      startTimer := some 0, settings := { ch.settings with excessMode := .abort }
      play := { ch.play with underrunTimer := some 0 } }

/-- Both ports of the pair have a demand whose confirmation timer has run down. -/
def pairUnconfirmed : State :=
  let waits : Port → Port := fun p =>
    { p with presence := .present, outstanding := some ⟨⟨.idle, 0, 0, 0⟩, 3⟩, confTimer := some 0 }
  ((leading .held).modPort 2 waits).modPort 3 waits

theorem witness_PairFaults_timers :
    (leading .starting).part = .ready ∧ isLeader (leading .starting) 2 = true ∧ (3 : Ch) = partner 2 ∧
    ((leading .starting).ch 2).latched = 0 ∧ ((leading .starting).ch 3).latched = 0 ∧
    ((leading .starting).ch 2).state = .starting ∧ ((leading .starting).ch 2).startTimer ≠ none ∧
    ((leading .running).ch 2).play.underrunTimer ≠ none ∧ ((leading .running).ch 2).state = .running ∧
    (granted (leading .deferred) [] [entry2] []).arb.waiting ++ (granted (leading .deferred) [] [entry2] []).arb.resume =
      [entry2] ∧ entry2.ch = 2 ∧ entry2.timer ≠ none ∧ ((leading .deferred).ch 2).settings.excessMode = .abort ∧
    isLeader pairUnconfirmed 2 = true ∧ (∀ a : Ch, a = 2 ∨ a = 3 → (pairUnconfirmed.ch a).port.confTimer ≠ none ∧
      (pairUnconfirmed.ch a).port.outstanding = some ⟨⟨.idle, 0, 0, 0⟩, 3⟩) := by
  decide +kernel

/-- The fault records of a pair without a fault are sound. -/
theorem pair_faults : FaultsSound pairUnconfirmed where
  faulted := by decide +kernel
  first := by decide +kernel
  noFirst := by decide +kernel
  follower := by decide +kernel
  hallStop := by decide +kernel
  starting := by decide +kernel

theorem witness_PairFaults_law :
    exec (.confirmationTimerExpiry 3) pairUnconfirmed = .next (after (.confirmationTimerExpiry 3) pairUnconfirmed) ∧
    pairUnconfirmed.part = .ready ∧ (after (.confirmationTimerExpiry 3) pairUnconfirmed).part = .ready ∧
    FaultsSound pairUnconfirmed ∧ isLeader pairUnconfirmed 2 = true ∧
    isLeader (after (.confirmationTimerExpiry 3) pairUnconfirmed) 2 = true ∧
    hasKind ((after (.confirmationTimerExpiry 3) pairUnconfirmed).ch 3).latched .stageNoAck = true ∧
    hasKind (pairUnconfirmed.ch 3).latched .stageNoAck = false ∧
    hasKind ((after (.confirmationTimerExpiry 3) pairUnconfirmed).ch 2).latched .pairPartner = true ∧
    hasKind ((after (.confirmationTimerExpiry 2) pairUnconfirmed).ch 2).latched .stageNoAck = true ∧
    hasKind (pairUnconfirmed.ch 2).latched .stageNoAck = false ∧ ArbiterSound pairUnconfirmed :=
  ⟨rfl, rfl, by decide +kernel, pair_faults, by decide +kernel, by decide +kernel, by decide +kernel, by decide +kernel,
    by decide +kernel, by decide +kernel, by decide +kernel,
    arbiterSound (by decide +kernel) rfl (by decide +kernel) (by decide +kernel) (by decide +kernel) rfl⟩

/-- Line 1, REPORT or DIRECT over every channel, raw-asserted or not, with channels 2 and 3 a pair. -/
def linedPair (route : Route) (raw : Bool) : State :=
  (following quiet).modLine 1 fun l => { l with raw := raw, settings := ⟨route, 0xFF, 200⟩ }

theorem witness_PairFaults_direct :
    (linedPair .direct false).part = .ready ∧ ((linedPair .direct false).line 1).raw = false ∧
    ((linedPair .direct false).line 1).settings.route = .direct ∧ paired (linedPair .direct false) 2 = true ∧
    paired (linedPair .direct false) 3 = true ∧
    (∀ c : Ch, ((linedPair .direct false).line 1).settings.mask.getLsbD c.val = true) ∧
    ToPart (linedPair .report true) (partReq [1, 3, 0xFF, 200, 0, 0, 0]) 7 ∧
    field [1, 3, 0xFF, 200, 0, 0, 0] 0 1 = (1 : LineNo).val ∧ field [1, 3, 0xFF, 200, 0, 0, 0] 1 1 = 3 ∧
    ((linedPair .report true).line 1).raw = true ∧ ((linedPair .report true).line 1).settings.route ≠ .direct ∧
    (BitVec.ofNat 8 (field [1, 3, 0xFF, 200, 0, 0, 0] 2 1)).getLsbD (3 : Ch).val = true := by
  refine ⟨rfl, by decide +kernel, by decide +kernel, by decide +kernel, by decide +kernel, by decide +kernel,
    toPart rfl rfl rfl rfl rfl rfl, by decide, by decide, by decide +kernel, by decide +kernel, by decide⟩

theorem witness_ResetChannel :
    ToChannel (placed .running 0) (req 2 []) 2 0 ∧ paired (placed .running 0) 2 = false ∧
    ((placed .running 0).ch 2).unsafeFlag = false ∧
    (∀ l, ((placed .running 0).line l).raw = false ∨ ((placed .running 0).line l).settings.route ≠ .direct ∨
      ((placed .running 0).line l).settings.mask.getLsbD (2 : Ch).val = false) ∧
    (placed .running 0).prot.hallStop = false ∧ (quiet.ch 2).port.presence = .absent ∧
    (∀ d, ((placed .running 0).ch d).state = .follower → d.val % 2 = 1) ∧
    (2 : Ch) = (if ((placed .running 0).ch 2).state = .follower then partner 2 else 2) := by
  refine ⟨toChannel rfl rfl rfl rfl rfl rfl, ?_⟩
  decide +kernel

theorem witness_ResetChannel_pair :
    ToChannel (following (placed .running 0)) (req 3 []) 3 0 ∧
    (∀ d, ((following (placed .running 0)).ch d).state = .follower → d.val % 2 = 1) ∧
    (2 : Ch) = (if ((following (placed .running 0)).ch 3).state = .follower then partner 3 else 3) ∧
    isLeader (following (placed .running 0)) 2 = true ∧
    (on (following (placed .running 0)) 3 fun ch => { ch with unsafeFlag := true }).ch 3 =
      { (following (placed .running 0)).ch 3 with unsafeFlag := true } := by
  refine ⟨toChannel rfl rfl rfl rfl rfl rfl, ?_⟩
  decide +kernel

theorem witness_ResetStageLine :
    ToChannel (placed .running 0) (req 2 []) 2 0 ∧ ToChannel (following (placed .running 0)) (req 3 []) 3 0 ∧
    ((following (placed .running 0)).ch 3).state = .follower ∧ partner 3 = 2 ∧ ToChannel (placed .faulted 0) (req 2 []) 2 0 ∧
    ((placed .faulted 0).ch 2).state = .faulted ∧ (inHall (placed .faulted 0) .paused).hall.state ≠ .pausing := by
  refine ⟨toChannel rfl rfl rfl rfl rfl rfl, toChannel rfl rfl rfl rfl rfl rfl, by decide +kernel, rfl,
    toChannel rfl rfl rfl rfl rfl rfl, by decide +kernel⟩

/-! ### Witnesses: stage lines, periods and timers -/

/-- Channel 2's port changed. -/
def port2 (s : State) (f : Port → Port) : State := s.modPort 2 f

/-- An OFF demand with tag 15, and a REGULATE demand. -/
def off15 : Tagged := ⟨⟨.off, 0, 0, 0⟩, 15⟩

/-- A REGULATE demand of 2,000 mA. -/
def regulate2 : Demand := ⟨.regulate, 2000, 4200, 0⟩

theorem witness_DemandsConfirmed_sent :
    quiet.part = .ready ∧ NoFrameDue quiet ∧ (quiet.ch 2).port.sending = none ∧ (quiet.ch 2).port.breaking = false ∧
    (∃ t, ((port2 quiet fun p => { p with sending := some (.demand off15), outstanding := some off15 }).ch 2).port.sending =
        some (.demand t) ∧
      ((port2 quiet fun p => { p with sending := some (.demand off15), outstanding := some off15 }).ch 2).port.outstanding =
        some t) ∧
    (∃ t, ((port2 quiet fun p => { p with sending := some (.demand off15) }).ch 2).port.sending = some (.demand t) ∧
      ((port2 quiet fun p => { p with sending := some (.demand off15) }).ch 2).port.outstanding ≠ some t) ∧
    ((port2 quiet fun p => { p with sending := some (.query true) }).ch 2).port.sending = some (.query true) ∧
    ((port2 quiet fun p => { p with sending := some (.query false) }).ch 2).port.sending = some (.query false) ∧
    ((port2 quiet fun p => { p with breaking := true }).ch 2).port.breaking = true :=
  ⟨rfl, noneDue rfl rfl, rfl, rfl, ⟨off15, rfl, rfl⟩, ⟨off15, rfl, by decide +kernel⟩, rfl, rfl, rfl⟩

/-- Channel 2 in a state with an outstanding demand, and a pending one or none. -/
def waitingConfirm (state : ChState) (pending : Option Demand) : State :=
  port2 (put quiet 2 state) fun p => { p with outstanding := some off15, pending := pending, confTimer := some 0 }

theorem witness_DemandsConfirmed_confirm :
    quiet.part = .ready ∧ NoFrameDue quiet ∧ quiet.hall.state ≠ .pausing ∧ (quiet.ch 2).state ≠ .stopping ∧
    (quiet.ch 2).state ≠ .follower ∧ (quiet.ch 2).port.outstanding = none ∧
    ((waitingConfirm .faulted none).ch 2).port.outstanding = some off15 ∧ (0 : Byte).toNat ≠ off15.tag.toNat ∧
    (15 : Byte).toNat = off15.tag.toNat ∧ ((waitingConfirm .faulted none).ch 2).port.pending = none ∧
    ((waitingConfirm .faulted (some regulate2)).ch 2).port.pending = some regulate2 ∧
    ((waitingConfirm .faulted (some regulate2)).ch 2).port.sending = none ∧
    ((waitingConfirm .faulted (some regulate2)).ch 2).port.due = [] ∧
    ((waitingConfirm .stopping none).ch 2).state = .stopping ∧ isLeader (waitingConfirm .stopping none) 2 = false ∧
    off15.demand.mode = .off ∧ SettingsInRange (waitingConfirm .stopping none) := by
  refine ⟨rfl, noneDue rfl rfl, ?_, ?_, ?_, ?_, ?_, ?_, ?_, ?_, ?_, ?_, ?_, ?_, ?_, ?_,
    defaultsInRange (by decide +kernel) rfl (by decide +kernel) rfl⟩ <;> decide +kernel

/-- R156: at most one DEMAND is due, so a frame of the confirmed demand that waits gives way to the pending demand's. -/
theorem test_stale_demand_is_not_due :
    ((after (.confirm 2 15) (port2 (waitingConfirm .faulted (some regulate2)) fun p =>
      { p with sending := some (.query true), due := [.demand off15] })).ch 2).port.due =
        [.demand ⟨regulate2, (quiet.ch 2).port.nextTag⟩] := by
  decide +kernel

/-- Channel 2 FAULTED with STAGE_NO_ACK and STAGE_UNSAFE latched and an OFF outstanding. -/
def unconfirmed (pending : Option Demand) : State :=
  on (waitingConfirm .faulted pending) 2 fun ch => { ch with latched := addKind (onlyKind .stageNoAck) .stageUnsafe }

theorem witness_ConfirmationTimeout_latches :
    (busy (waitingConfirm .stopping none)).part = .ready ∧ paired (waitingConfirm .stopping none) 2 = false ∧
    ((waitingConfirm .stopping none).ch 2).state ≠ .faulted ∧
    hasKind ((waitingConfirm .stopping none).ch 2).latched .stageNoAck = false ∧
    ((waitingConfirm .stopping none).ch 2).port.confTimer ≠ none ∧
    ((waitingConfirm .stopping none).ch 2).port.outstanding = some off15 ∧
    ((waitingConfirm .stopping none).ch 2).port.presence = .present ∧
    ((waitingConfirm .stopping none).ch 2).latched = 0 ∧ off15.demand.mode = .off ∧
    ((waitingConfirm .stopping none).ch 2).port.standing ≠ some ⟨.off, 0, 0, 0⟩ ∧
    (busy (waitingConfirm .stopping none)).link.sending ≠ none ∧
    (busy (waitingConfirm .stopping none)).link.reports.length ≤ 32 := by decide +kernel

theorem witness_ConfirmationTimeout :
    NoFrameDue quiet ∧ (quiet.ch 2).port.confTimer = none ∧ NoFrameDue (unconfirmed none) ∧
    ArbiterQuiet (unconfirmed none) ∧ ((unconfirmed none).ch 2).state = .faulted ∧
    hasKind ((unconfirmed none).ch 2).latched .stageNoAck = true ∧
    hasKind ((unconfirmed none).ch 2).latched .stageUnsafe = true ∧ ((unconfirmed none).ch 2).port.confTimer = some 0 ∧
    ((unconfirmed none).ch 2).port.outstanding = some off15 ∧ ((unconfirmed none).ch 2).port.sending = none ∧
    ((unconfirmed none).ch 2).port.due = [] ∧ ((unconfirmed none).ch 2).port.breaking = false ∧
    ((unconfirmed none).ch 2).port.pending = none ∧
    ((unconfirmed (some regulate2)).ch 2).port.pending = some regulate2 := by
  refine ⟨noneDue rfl rfl, rfl, noneDue rfl rfl, ⟨by decide +kernel, rfl⟩, ?_⟩
  decide +kernel

/-- The codes of 4,000 mV, 313 mA and 2.5 °C at the default calibration (R57, the worked example). -/
def rawSample : RawReading := ⟨BitVec.ofNat 24 104858, BitVec.ofNat 24 4096, BitVec.ofNat 16 16384, 2, 0⟩

/-- Channel 2 PRESENT, waiting for the answer to its QUERY. -/
def asking : State := port2 (placed .running 0) fun p => { p with queryAwaiting := true }

theorem witness_ReadingTaken :
    quiet.part = .ready ∧ NoFrameDue quiet ∧ (quiet.ch 2).port.queryAwaiting = false ∧ NoFrameDue asking ∧
    (asking.ch 2).port.queryAwaiting = true ∧ paired asking 2 = false ∧ (asking.ch 2).port.presence = .present ∧
    rawSample.flags = 0 ∧ (asking.ch 2).settings.vMin ≤ (takeRaw (asking.ch 2).cal rawSample 0).v ∧
    (takeRaw (asking.ch 2).cal rawSample 0).v ≤ (asking.ch 2).settings.vMax ∧
    (takeRaw (asking.ch 2).cal rawSample 0).i.natAbs ≤ (asking.ch 2).settings.iMax ∧
    (asking.ch 2).settings.tMin ≤ (takeRaw (asking.ch 2).cal rawSample 0).t ∧
    (takeRaw (asking.ch 2).cal rawSample 0).t ≤ (asking.ch 2).settings.tMax := by
  refine ⟨rfl, noneDue rfl rfl, by decide +kernel, noneDue rfl rfl, ?_⟩
  decide +kernel

/-- Channel 2 in IDLE, a report being sent, its QUERY asked, with settings, a presence and a pending demand. -/
def askedWith (set : ChanSettings → ChanSettings) (presence : Presence) (pending : Option Demand) : State :=
  busy (on (port2 quiet fun p => { p with presence := presence, pending := pending, queryAwaiting := true }) 2 fun ch =>
    { ch with settings := set ch.settings })

theorem witness_ReadingTaken_checks :
    (askedWith id .absent none).part = .ready ∧ paired (askedWith id .absent none) 2 = false ∧
    ArbiterQuiet (askedWith id .absent none) ∧ (askedWith id .absent none).link.sending ≠ none ∧
    (askedWith id .absent none).link.reports.length ≤ 32 ∧ ((askedWith id .absent none).ch 2).latched = 0 ∧
    ((askedWith id .absent none).ch 2).port.presence = .absent ∧
    ((askedWith id .absent (some regulate2)).ch 2).port.pending = some regulate2 ∧
    ((askedWith id .absent (some regulate2)).ch 2).port.lastConfirmed ≠ some regulate2 ∧
    ((port2 (askedWith id .absent (some regulate2)) fun p => { p with lastConfirmed := some regulate2 }).ch 2).port.lastConfirmed =
      some regulate2 ∧
    ((askedWith (fun x => { x with iMax := 312 }) .absent none).ch 2).settings.iMax <
      (takeRaw (quiet.ch 2).cal rawSample 0).i.natAbs ∧
    (takeRaw (quiet.ch 2).cal rawSample 0).t <
      ((askedWith (fun x => { x with tMin := 26, warnTLow := .warn }) .absent none).ch 2).settings.tMin ∧
    ((askedWith (fun x => { x with tMin := 26, warnTLow := .warn }) .absent none).ch 2).settings.warnTLow = .warn ∧
    ((askedWith id .absent none).ch 2).warnedTLow = false ∧
    (takeRaw (quiet.ch 2).cal { rawSample with flags := 2 } 0).derate = true ∧
    ((askedWith id .absent none).ch 2).derateSeen = false := by
  unfold ArbiterQuiet
  decide +kernel

/-- Channels 2 and 3 a pair, the follower's reading taken and the leader's QUERY asked. -/
def pairAsking : State :=
  on (following asking) 3 fun ch => { ch with taken := true }

theorem witness_PackCompletes :
    pairAsking.part = .ready ∧ isLeader pairAsking 2 = true ∧ (3 : Ch) = partner 2 ∧
    (pairAsking.ch 2).port.queryAwaiting = true ∧ (pairAsking.ch 3).taken = true ∧ (pairAsking.ch 2).packDone = false ∧
    ((on pairAsking 2 fun ch => { ch with packDone := true }).ch 2).packDone = true ∧ (pairAsking.ch 2).taken = false ∧
    (pairAsking.ch 2).port.presence = .present ∧ (pairAsking.ch 3).port.presence = .absent ∧
    ((on pairAsking 2 fun ch => { ch with missed := 2 }).ch 2).missed = 2 := by
  decide +kernel

/-- A pair, both stages PRESENT and settled with a REGULATE confirmed, both readings of the period taken and the pack reading
completed: the leader in a state on a CHARGE step with an end condition, its grant not live. -/
def packed (state : ChState) (e : EndCond) : State :=
  let ready : Channel → Channel := fun ch =>
    { ch with
      taken := true, periodLength := 20
      port := { ch.port with presence := .present, lastConfirmed := some regulate2 } }
  granted
    (on (on (following { placed state 1 with
      pool := [(0, .rest [stepFor 1000]), (1, .charge 2000 4200 none [e])] }) 2 fun ch =>
        { ready ch with packDone := true, pack := ⟨4000, 2000, 25, .current, false, false, false, false⟩ }) 3 ready)
    [grant2] [] []

/-- An end condition that fires at once and goes back to the REST step. -/
def backToRest : EndCond := ⟨.vAbove, 4000, .goto 0, 1⟩

theorem witness_LeaderRuns_running :
    (packed .running (stepFor 1000)).part = .ready ∧ isLeader (packed .running (stepFor 1000)) 2 = true ∧
    (packed .running (stepFor 1000)).hall.state = .active ∧
    (∀ c : Ch, c = 2 ∨ c = 3 → ((packed .running (stepFor 1000)).ch c).port.presence = .present ∧
      ((packed .running (stepFor 1000)).ch c).taken = true) ∧
    currentStep (packed .running (stepFor 1000)) 2 = some (.charge 2000 4200 none [stepFor 1000]) ∧
    ((packed .running (stepFor 1000)).ch 2).state = .running ∧
    ((after (.periodEvent 2) (packed .running (stepFor 1000))).ch 2).latched =
      ((packed .running (stepFor 1000)).ch 2).latched ∧
    ((after (.periodEvent 2) (packed .running (stepFor 1000))).ch 2).stepTime = 20 ∧
    ((after (.periodEvent 2) (packed .running (stepFor 1000))).ch 2).vPeak = 4000 ∧
    ArbiterSound (packed .running (stepFor 1000)) := by
  refine ⟨?_, ?_, ?_, ?_, ?_, ?_, ?_, ?_, ?_, arbiterSound ?_ ?_ ?_ ?_ ?_ ?_⟩ <;> decide +kernel

theorem witness_LeaderRuns_fires :
    ((packed .running backToRest).ch 2).state = .running ∧ ((packed .running backToRest).ch 2).packDone = true ∧
    currentStep (packed .running backToRest) 2 = some (.charge 2000 4200 none [backToRest]) ∧
    firstFired 0 [backToRest] (stepCounters (workedPack ((packed .running backToRest).ch 2)
      ((after (.periodEvent 2) (packed .running backToRest)).ch 2).pack true) ⟨4000, 2000, 25, .current⟩ true [backToRest]
      ((packed .running backToRest).ch 2).confirms) = some (0, backToRest) ∧
    ((packed .running backToRest).ch 2).active = some ⟨0, 2⟩ ∧ backToRest.action ≠ .endSchedule ∧
    poolRead (packed .running backToRest).pool 0 = some (.rest [stepFor 1000]) ∧
    ArbiterSound (packed .running backToRest) ∧ CreditSpared (packed .running backToRest) 2 ∧
    (busy (packed .running backToRest)).link.sending ≠ none := by
  unfold CreditSpared
  refine ⟨?_, ?_, ?_, ?_, ?_, ?_, ?_, arbiterSound ?_ ?_ ?_ ?_ ?_ ?_, ?_, ?_⟩ <;> decide +kernel

theorem witness_LeaderRuns_starting :
    ((packed .starting (stepFor 1000)).ch 2).state = .starting ∧ ArbiterSound (packed .starting (stepFor 1000)) ∧
    (∀ d : Ch, d = 2 ∨ d = 3 → ((packed .starting (stepFor 1000)).ch d).port.outstanding = none ∧
      ((packed .starting (stepFor 1000)).ch d).port.pending = none ∧
      ((packed .starting (stepFor 1000)).ch d).port.lastConfirmed = some regulate2) ∧
    ((after (.periodEvent 2) (packed .starting (stepFor 1000))).ch 2).latched = 0 ∧
    ((after (.periodEvent 2) (packed .starting (stepFor 1000))).ch 2).state = .running ∧
    ((after (.periodEvent 2) ((packed .starting (stepFor 1000)).modPort 3 fun p =>
      { p with pending := some regulate2 })).ch 2).state = .starting ∧
    ArbiterSound ((packed .starting (stepFor 1000)).modPort 3 fun p => { p with pending := some regulate2 }) := by
  refine ⟨?_, arbiterSound ?_ ?_ ?_ ?_ ?_ ?_, ?_, ?_, ?_, ?_, arbiterSound ?_ ?_ ?_ ?_ ?_ ?_⟩ <;> decide +kernel

theorem witness_Conversion :
    -2 ^ 23 ≤ (2 ^ 24 - 1 : Int) ∧ (2 ^ 24 - 1 : Int) < 2 ^ 24 ∧ -2 ^ 31 ≤ (2 ^ 31 - 1 : Int) ∧
    (2 ^ 31 - 1 : Int) < 2 ^ 31 := by decide

/-- Channel 2 RUNNING its REST step with a reading taken and IDLE demanded. -/
def resting : State :=
  on (port2 (placed .running 0) fun p => { p with standing := some ⟨.idle, 0, 0, 0⟩ }) 2 fun ch =>
    { ch with taken := true, periodLength := 20 }

/-- Channel 2 in IDLE with its schedule's window, 300 ms into a standby period. -/
def halfway : State := on (placed .idle 0) 2 fun ch => { ch with periodLength := 1000, periodElapsed := 300 }

theorem witness_PeriodInForce :
    exec (.start (req 2 [1])) halfway = .next (after (.start (req 2 [1])) halfway) ∧ halfway.part = .ready ∧
    (after (.start (req 2 [1])) halfway).part = .ready ∧ (halfway.ch 2).state ≠ .follower ∧
    ((after (.start (req 2 [1])) halfway).ch 2).state ≠ .follower ∧ Instr.start (req 2 [1]) ≠ .periodEvent 2 ∧
    exec (.stop (req 2 [])) (placed .running 0) = .next (after (.stop (req 2 [])) (placed .running 0)) ∧
    ((placed .running 0).ch 2).state ≠ .follower ∧ isLeader (following (placed .running 0)) 2 = true :=
  ⟨rfl, rfl, by decide +kernel, by decide +kernel, by decide +kernel, by decide, rfl, by decide +kernel, by decide +kernel⟩

theorem witness_PeriodEvent :
    NoFrameDue (following quiet) ∧ ((following quiet).ch 3).state = .follower ∧
    NoFrameDue (on quiet 2 fun ch => { ch with taken := true }) ∧ isLeader quiet 2 = false ∧
    ((on quiet 2 fun ch => { ch with taken := true }).ch 2).state = .idle ∧
    ((on quiet 2 fun ch => { ch with taken := true }).ch 2).taken = true ∧ NoFrameDue resting ∧ paired resting 2 = false ∧
    (resting.ch 2).state = .running ∧ resting.hall.state = .active ∧ (resting.ch 2).taken = true ∧
    (resting.ch 2).port.presence = .present ∧ currentStep resting 2 = some (.rest [stepFor 1000]) ∧
    (resting.ch 2).port.standing = some ⟨.idle, 0, 0, 0⟩ ∧
    (StepRecord.rest [stepFor 1000]).kind ≠ .profile ∧
    firstFired 0 [stepFor 1000]
      (stepCounters (worked (resting.ch 2)) (lastFigures (resting.ch 2)) true [stepFor 1000] (resting.ch 2).confirms) =
      none := by
  refine ⟨noneDue rfl rfl, by decide +kernel, noneDue rfl rfl, by decide +kernel, by decide +kernel, by decide +kernel,
    noneDue rfl rfl, ?_⟩
  decide +kernel

/-- Channel 2 in IDLE, its stage PRESENT, after two missed periods and with nothing taken in this one. -/
def missing : State := on (put quiet 2 .idle) 2 fun ch => { ch with missed := 2, periodLength := 1000 }

theorem witness_MissedPeriod :
    missing.part = .ready ∧ paired missing 2 = false ∧ (missing.ch 2).taken = false ∧
    (missing.ch 2).port.presence = .present ∧ 3 ≤ min 65535 ((missing.ch 2).missed + 1) ∧
    hasKind (missing.ch 2).latched .stageSilent = false ∧ (missing.ch 2).state ≠ .faulted ∧
    (quiet.ch 2).port.presence = .absent ∧ NoFrameDue missing ∧ ArbiterQuiet missing ∧
    ((on missing 2 fun ch => { ch with missed := 1 }).ch 2).missed = 1 ∧
    hasKind ((on missing 2 fun ch => { ch with latched := onlyKind .stageSilent, state := .faulted }).ch 2).latched
      .stageSilent = true := by
  unfold ArbiterQuiet
  refine ⟨rfl, ?_, ?_, ?_, ?_, ?_, ?_, ?_, noneDue rfl rfl, ?_⟩ <;> decide +kernel

/-- Channel 2 STARTING its CHARGE step, which ends after a time, a REGULATE confirmed and the stage regulating its current. -/
def stageStarting (time : Int) : State :=
  busy (on (port2 (granted { placed .starting 1 with pool := [(0, .rest [stepFor 1000]),
      (1, .charge 2000 4200 none [stepFor time])] } [grant2] [] []) fun p => { p with lastConfirmed := some regulate2 }) 2
    fun ch => { ch with taken := true, last := { ch.last with reg := .current } })

theorem stageStarting_sound (time : Int) (h : time = 0 ∨ time = 1000) : ArbiterSound (stageStarting time) := by
  rcases h with rfl | rfl <;> refine arbiterSound ?_ ?_ ?_ ?_ ?_ ?_ <;> decide +kernel

theorem witness_StageStart :
    (stageStarting 1000).part = .ready ∧ paired (stageStarting 1000) 2 = false ∧
    ((stageStarting 1000).ch 2).state = .starting ∧ (stageStarting 1000).hall.state = .active ∧
    ((stageStarting 1000).ch 2).port.presence = .present ∧ ((stageStarting 1000).ch 2).taken = true ∧
    currentStep (stageStarting 1000) 2 = some (.charge 2000 4200 none [stepFor 1000]) ∧
    NoFrameDue (on (stageStarting 1000) 2 fun ch => { ch with taken := false }) ∧ ArbiterSound (stageStarting 1000) ∧
    ((stageStarting 1000).ch 2).port.outstanding = none ∧ ((stageStarting 1000).ch 2).port.pending = none ∧
    ((stageStarting 1000).ch 2).port.lastConfirmed = some regulate2 ∧ regulate2.mode = .regulate ∧
    ((stageStarting 1000).ch 2).last.reg = .current ∧ ((stageStarting 1000).ch 2).play.underrun = false ∧
    ((stageStarting 1000).ch 2).play.profileEnd = false ∧ playPoint ((stageStarting 1000).ch 2) = none := by
  refine ⟨by decide +kernel, by decide +kernel, by decide +kernel, by decide +kernel, by decide +kernel, by decide +kernel,
    by decide +kernel, .inl (by decide +kernel), stageStarting_sound 1000 (.inr rfl), ?_⟩
  decide +kernel

theorem witness_StageStart_conditions :
    firstFired 0 [stepFor 1000] (stepCounters ((stageStarting 1000).ch 2) (lastFigures ((stageStarting 1000).ch 2)) true
      [stepFor 1000] [0, 0, 0, 0]) = none ∧
    firstFired 0 [stepFor 0] (stepCounters ((stageStarting 0).ch 2) (lastFigures ((stageStarting 0).ch 2)) true
      [stepFor 0] [0, 0, 0, 0]) = some (0, stepFor 0) ∧
    ArbiterSound (stageStarting 0) ∧ (stageStarting 0).link.sending ≠ none ∧
    (stageStarting 0).link.reports.length ≤ 32 :=
  ⟨by decide +kernel, by decide +kernel, stageStarting_sound 0 (.inl rfl), by decide +kernel, by decide +kernel⟩

theorem witness_EndConditions :
    [7, 8][1]? = some 8 ∧ [stepFor 1000][1]? = none ∧ [stepFor 1000][0]? = some (stepFor 1000) ∧
    firstFired 0 [stepFor 1000, stepFor 0] [0, 1] = some (1, stepFor 0) ∧ firstFired 0 [stepFor 1000] [0] = none := by
  decide

theorem witness_Setpoint :
    ((placed .running 0).ch 2).state = .running ∧ currentStep (placed .running 0) 2 = some (.rest [stepFor 1000]) ∧
    ((placed .starting 1).ch 2).state = .starting ∧
    currentStep (placed .starting 1) 2 = some (.charge 2000 4200 none [stepFor 1000]) ∧
    (quiet.ch 2).state ∈ [.idle, .stopping, .complete, .faulted, .follower] ∧
    ((placed .gap 1).ch 2).state ∈ [.gap, .deferred, .held] ∧ isLeader (placed .gap 1) 2 = false ∧
    isLeader (following (placed .gap 1)) 2 = true := by
  decide +kernel

/-- Channel 2 RUNNING a PROFILE step with a queue, a mode, a play record and an underrun limit. -/
def playing (mode : ProfileMode) (queue : List Point) (play : Playback → Playback) (limit : Nat) : State :=
  busy (on { placed .running 0 with pool := [(0, .profile 4200 2500 none (some 100) [stepFor 1000]),
      (1, .rest [stepFor 1000])] } 2 fun ch =>
    { ch with
      taken := true
      queue := queue
      play := play ch.play
      settings := { ch.settings with profileMode := mode, underrunLimit := limit } })

/-- A playing state meets what is asked of every PROFILE step that goes on. -/
def playsOn (s : State) : Bool :=
  decide (s.part = .ready) && !paired s 2 && decide ((s.ch 2).state = .running) && decide (s.hall.state = .active) &&
  decide ((s.ch 2).port.presence = .present) && (s.ch 2).taken &&
  decide (currentStep s 2 = some (.profile 4200 2500 none (some 100) [stepFor 1000])) && !(s.ch 2).play.profileEnd &&
  (firstFired 0 [stepFor 1000] (stepCounters (worked (s.ch 2)) (lastFigures (s.ch 2)) true [stepFor 1000]
    (s.ch 2).confirms)).isNone && decide (s.link.sending ≠ none) && decide (s.link.reports.length ≤ 32)

theorem witness_ProfilePlays_points :
    playsOn (playing .repeat [⟨1, 2, false⟩] (fun p => { p with inPlay := true }) 1) = true ∧ 0 + 1 < 2 ∧
    playsOn (playing .repeat [⟨1, 1, true⟩] (fun p => { p with inPlay := true }) 1) = true ∧ 1 ≤ 0 + 1 ∧
    playsOn (playing .oneShot [⟨1, 1, false⟩, ⟨2, 1, true⟩] (fun p => { p with inPlay := true, lowArmed := true }) 1) =
      true ∧
    playsOn (playing .oneShot [⟨1, 1, false⟩] (fun p => { p with inPlay := true }) 1) = true ∧
    playsOn (playing .oneShot [⟨1, 1, true⟩] (fun p => { p with inPlay := true }) 1) = true := by
  decide +kernel

theorem witness_ProfilePlays_underrun :
    playsOn (playing .oneShot [⟨1, 1, true⟩] id 1) = true ∧ playsOn (playing .oneShot [] id 1) = true ∧
    playsOn (playing .oneShot [] id 0) = true ∧
    playsOn (playing .oneShot [] (fun p => { p with underrun := true }) 1) = true := by
  decide +kernel

/-- Channel 2 RUNNING a CHARGE step that a period event ends with an action, a second record after it, the grants given, with
a change of the channel. -/
def ends (action : Action) (second : StepRecord) (gs : List Grant) (f : Channel → Channel) : State :=
  busy (on (granted { placed .running 0 with pool := [(0, .charge 2000 4200 none [⟨.time, 20, action, 1⟩]), (1, second),
      (2, .rest [stepFor 1000])] } gs [] []) 2 fun ch =>
    f { ch with active := some ⟨0, 2⟩, taken := true, periodLength := 20 })

/-- A step that ends in such a state. -/
theorem stepFires {action : Action} {second : StepRecord} {gs : List Grant} {f : Channel → Channel}
    (h : let s := ends action second gs f
      paired s 2 = false ∧ (s.ch 2).state = .running ∧ (s.ch 2).taken = true ∧ (s.ch 2).port.presence = .present ∧
      (s.ch 2).active = some ⟨0, 2⟩ ∧ currentStep s 2 = some (.charge 2000 4200 none [⟨.time, 20, action, 1⟩]) ∧
      firstFired 0 [⟨.time, 20, action, 1⟩] (stepCounters (worked (s.ch 2)) (lastFigures (s.ch 2)) true
        [⟨.time, 20, action, 1⟩] (s.ch 2).confirms) = some (0, ⟨.time, 20, action, 1⟩) ∧
      testsHold s = true ∧ (listed s).Nodup ∧
      (∀ c ∈ listed s, (s.ch c).state ∈ [.gap, .deferred, .starting, .running, .held])) :
    StepFires (ends action second gs f) 2 ⟨0, 2⟩ (.charge 2000 4200 none [⟨.time, 20, action, 1⟩]) 0
      ⟨.time, 20, action, 1⟩ := by
  obtain ⟨h1, h2, h3, h4, h5, h6, h7, h8, h9, h10⟩ := h
  refine ⟨rfl, h1, h2, rfl, .inl h3, h4, h5, h6, nofun, ?_, arbiterSound h8 rfl h9 h10 nofun rfl⟩
  rw [h3]
  exact h7

/-- A live grant of 9 W for channel 2, which a CHARGE step of 2,000 mA to 4,200 mV claims (R6). -/
def live9 : Grant := ⟨2, .charge, 9, true, none⟩

/-- A second CHARGE step. -/
def secondCharge : StepRecord := .charge 2000 4200 none [stepFor 1000]

theorem witness_StepEnds_carried :
    StepFires (ends .next secondCharge [live9] id) 2 ⟨0, 2⟩ (.charge 2000 4200 none [⟨.time, 20, .next, 1⟩]) 0
      ⟨.time, 20, .next, 1⟩ ∧
    CreditSpared (ends .next secondCharge [live9] id) 2 ∧
    poolRead (ends .next secondCharge [live9] id).pool (0 + 1) = some secondCharge ∧ secondCharge.kind ≠ .mark ∧
    grantOf (ends .next secondCharge [live9] id) 2 = some live9 ∧ secondCharge.dir = live9.dir ∧ live9.dir ≠ .both ∧
    claimOf (ends .next secondCharge [live9] id) 2 secondCharge ≤ live9.amount := by
  refine ⟨stepFires ?_, ?_⟩
  · decide +kernel
  · unfold CreditSpared; decide +kernel

theorem witness_StepEnds_held :
    StepFires (ends .hold secondCharge [live9] id) 2 ⟨0, 2⟩ (.charge 2000 4200 none [⟨.time, 20, .hold, 1⟩]) 0
      ⟨.time, 20, .hold, 1⟩ ∧
    CreditSpared (ends .hold secondCharge [live9] id) 2 ∧
    StepFires (ends (.goto 1) (.rest [stepFor 1000]) [live9] id) 2 ⟨0, 2⟩
      (.charge 2000 4200 none [⟨.time, 20, .goto 1, 1⟩]) 0 ⟨.time, 20, .goto 1, 1⟩ ∧
    poolRead (ends (.goto 1) (.rest [stepFor 1000]) [live9] id).pool (0 + 1) = some (.rest [stepFor 1000]) ∧
    CreditSpared (ends (.goto 1) (.rest [stepFor 1000]) [live9] id) 2 := by
  refine ⟨stepFires ?_, ?_, stepFires ?_, ?_, ?_⟩
  all_goals first | decide +kernel | unfold CreditSpared; decide +kernel

/-- A DISCHARGE step. -/
def discharge2 : StepRecord := .discharge 2000 2500 none [stepFor 1000]

theorem witness_StepEnds_requests :
    StepFires (ends .next discharge2 [live9] id) 2 ⟨0, 2⟩ (.charge 2000 4200 none [⟨.time, 20, .next, 1⟩]) 0
      ⟨.time, 20, .next, 1⟩ ∧
    CreditSpared (ends .next discharge2 [live9] id) 2 ∧ discharge2.dir ≠ live9.dir ∧
    StepFires (ends .next secondCharge [] id) 2 ⟨0, 2⟩ (.charge 2000 4200 none [⟨.time, 20, .next, 1⟩]) 0
      ⟨.time, 20, .next, 1⟩ ∧
    CreditSpared (ends .next secondCharge [] id) 2 ∧ grantOf (ends .next secondCharge [] id) 2 = none ∧
    hasResume (ends .next secondCharge [] id) 2 = false := by
  refine ⟨stepFires ?_, ?_, ?_, stepFires ?_, ?_⟩
  all_goals first | decide +kernel | unfold CreditSpared; decide +kernel

theorem witness_WalkPasses_mark :
    StepFires (ends .next (.mark 0 3 true) [live9] id) 2 ⟨0, 2⟩ (.charge 2000 4200 none [⟨.time, 20, .next, 1⟩]) 0
      ⟨.time, 20, .next, 1⟩ ∧
    CreditSpared (ends .next (.mark 0 3 true) [live9] id) 2 ∧
    poolRead (ends .next (.mark 0 3 true) [live9] id).pool (0 + 1) = some (.mark 0 3 true) ∧
    loopCounter ((ends .next (.mark 0 3 true) [live9] id).ch 2).loops 1 + 1 < 3 ∧
    (ends .next (.mark 0 3 true) [live9] id).link.sending ≠ none ∧
    (ends .next (.mark 0 3 true) [live9] id).link.reports.length ≤ 32 := by
  refine ⟨stepFires ?_, ?_, ?_⟩
  all_goals first | decide +kernel | unfold CreditSpared; decide +kernel

/-- A swap pending to the window of the REST step at index 2. -/
def swapTo (kind : SwapKind) (ch : Channel) : Channel := { ch with swapPending := some kind, staged := some ⟨2, 1⟩ }

theorem witness_WalkPasses_swap :
    StepFires (ends .next (.mark 0 3 true) [live9] (swapTo .atCycleEnd)) 2 ⟨0, 2⟩
      (.charge 2000 4200 none [⟨.time, 20, .next, 1⟩]) 0 ⟨.time, 20, .next, 1⟩ ∧
    CreditSpared (ends .next (.mark 0 3 true) [live9] (swapTo .atCycleEnd)) 2 ∧
    ((ends .next (.mark 0 3 true) [live9] (swapTo .atCycleEnd)).ch 2).swapPending = some .atCycleEnd ∧
    ((ends .next (.mark 0 3 true) [live9] (swapTo .atCycleEnd)).ch 2).staged = some ⟨2, 1⟩ ∧
    poolRead (ends .next (.mark 0 3 true) [live9] (swapTo .atCycleEnd)).pool 2 = some (.rest [stepFor 1000]) ∧
    StepFires (ends .endSchedule secondCharge [live9] (swapTo .atScheduleEnd)) 2 ⟨0, 2⟩
      (.charge 2000 4200 none [⟨.time, 20, .endSchedule, 1⟩]) 0 ⟨.time, 20, .endSchedule, 1⟩ ∧
    CreditSpared (ends .endSchedule secondCharge [live9] (swapTo .atScheduleEnd)) 2 := by
  refine ⟨stepFires ?_, ?_, ?_, ?_, ?_, stepFires ?_, ?_⟩
  all_goals first | decide +kernel | unfold CreditSpared; decide +kernel

theorem witness_WalkPasses_end :
    StepFires (ends .endSchedule secondCharge [live9] id) 2 ⟨0, 2⟩
      (.charge 2000 4200 none [⟨.time, 20, .endSchedule, 1⟩]) 0 ⟨.time, 20, .endSchedule, 1⟩ ∧
    StepFires (ends (.goto 2) secondCharge [live9] id) 2 ⟨0, 2⟩ (.charge 2000 4200 none [⟨.time, 20, .goto 2, 1⟩]) 0
      ⟨.time, 20, .goto 2, 1⟩ ∧
    ((ends .endSchedule secondCharge [live9] id).ch 2).swapPending = none ∧
    ((ends .endSchedule secondCharge [live9] id).ch 2).port.standing ≠ some ⟨.off, 0, 0, 0⟩ := by
  refine ⟨stepFires ?_, stepFires ?_, ?_⟩ <;> decide +kernel

/-- Channel 2 in GAP before its CHARGE step, its timer run down, with the grants given. -/
def gapping (gs : List Grant) : State :=
  granted (on (placed .gap 1) 2 fun ch => { ch with gapTimer := some 0 }) gs [] []

theorem witness_GapAndArbiterTimers_gap :
    NoFrameDue quiet ∧ (quiet.ch 2).state ≠ .gap ∧ (gapping []).part = .ready ∧ ((gapping []).ch 2).state = .gap ∧
    ((gapping []).ch 2).gapTimer ≠ none ∧ currentStep (gapping []) 2 = some (.charge 2000 4200 none [stepFor 1000]) ∧
    holdsCover (gapping []) 2 (.charge 2000 4200 none [stepFor 1000]) = false ∧
    holdsCover (gapping [grant2]) 2 (.charge 2000 4200 none [stepFor 1000]) = true ∧ grantOf quiet 2 = none := by
  refine ⟨noneDue rfl rfl, ?_⟩
  decide +kernel

/-- Channel 2 in GAP with a reserved grant of 5 W, which its CHARGE step's claim has outgrown, under an intake ceiling. -/
def outgrown (cIn : Nat) : State :=
  (gapping [⟨2, .charge, 5, false, none⟩]).modArb fun a => { a with budget := { a.budget with cIn := cIn } }

/-- The grant list of `outgrown` released and the request for the step lodged, as log 46 has it. -/
def asked (cIn : Nat) : State :=
  (outgrown cIn).modArb fun a =>
    { a with grants := [], waiting := [⟨2, .charge, 9, .new, some 60000, (outgrown cIn).hall.partTime⟩] }

theorem witness_GapAndArbiterTimers_outgrown :
    grantOf (outgrown 8) 2 = some ⟨2, .charge, 5, false, none⟩ ∧
    holdsCover (outgrown 8) 2 (.charge 2000 4200 none [stepFor 1000]) = false ∧
    claimOf (outgrown 8) 2 (.charge 2000 4200 none [stepFor 1000]) = 9 ∧ ArbiterSound (outgrown 8) ∧
    (evaluate (asked 8)).2 = [] ∧ (2 : Ch) ∈ (evaluate (asked 400000)).2 ∧ ArbiterSound (outgrown 400000) := by
  refine ⟨?_, ?_, ?_, arbiterSound ?_ ?_ ?_ ?_ ?_ ?_, ?_, ?_, arbiterSound ?_ ?_ ?_ ?_ ?_ ?_⟩ <;> decide +kernel

/-- R102: a channel in DEFERRED holds no grant; the one its claim has outgrown goes, and a request waits in its place. -/
theorem test_outgrown_grant_is_exchanged :
    ((after (.gapTimerExpiry 2) (outgrown 8)).ch 2).state = .deferred ∧
    (after (.gapTimerExpiry 2) (outgrown 8)).arb.grants = [] ∧
    (after (.gapTimerExpiry 2) (outgrown 8)).arb.waiting.map Entry.claim = [9] ∧
    ((after (.gapTimerExpiry 2) (outgrown 400000)).ch 2).state = .starting := by
  decide +kernel

/-- Channel 2 RUNNING its REST step with an idle grant of 6,000 W; channel 4 on the same schedule, on its CHARGE step in a
state, with an entry that does not fit beside the grant and fits without it, waiting or in the resume queue. -/
def idling (state : ChState) (waits : Bool) : State :=
  let e : Entry := ⟨4, .charge, 6000, .new, some 5, 0⟩
  (granted (on (placed .running 0) 4 fun ch =>
      { ch with
        state := state, active := some ⟨0, 2⟩, stepIndex := 1
        holds := ⟨false, decide (state = .held), false, false, false⟩ })
    [⟨2, .charge, 6000, false, some 0⟩] (if waits then [e] else []) (if waits then [] else [e])).modArb fun a =>
      { a with budget := { a.budget with cIn := 10000, eta := 1000 } }

theorem witness_GapAndArbiterTimers_grant_hold (state : ChState) (h : state = .gap ∨ state = .deferred) :
    (idling state true).part = .ready ∧ NoFrameDue (idling state true) ∧
    grantOf (idling state true) 2 = some ⟨2, .charge, 6000, false, some 0⟩ ∧ ArbiterSound (idling state true) ∧
    (4 : Ch) ∈ (evaluate ((idling state true).modArb fun a => { a with grants := [] })).2 ∧
    currentStep (idling state true) 4 = some (.charge 2000 4200 none [stepFor 1000]) ∧
    holdsCover (evaluate ((idling state true).modArb fun a => { a with grants := [] })).1 4
      (.charge 2000 4200 none [stepFor 1000]) = true ∧
    (evaluate ((idling state true).modArb fun a => { a with grants := [], waiting := [] })).2 = [] := by
  rcases h with rfl | rfl <;>
    refine ⟨rfl, noneDue rfl rfl, ?_, arbiterSound ?_ ?_ ?_ ?_ ?_ ?_, ?_⟩ <;> decide +kernel

theorem witness_GapAndArbiterTimers_restored :
    ArbiterSound (idling .held false) ∧ ((idling .held false).ch 4).holds = ⟨false, true, false, false, false⟩ ∧
    ((idling .held false).ch 4).heldBefore = false ∧
    (4 : Ch) ∈ (evaluate ((idling .held false).modArb fun a => { a with grants := [] })).2 ∧
    currentStep (on (idling .held false) 4 fun ch => { ch with stepIndex := 0 }) 4 = some (.rest [stepFor 1000]) ∧
    ((after (.grantHoldExpiry 2) (on (idling .held false) 4 fun ch => { ch with stepIndex := 0 })).ch 4).state =
      .running := by
  refine ⟨arbiterSound ?_ ?_ ?_ ?_ ?_ ?_, ?_⟩ <;> decide +kernel

/-- Channel 2 DEFERRED in ABORT mode with its waiting entry. -/
def deferred : State :=
  granted (on (placed .deferred 1) 2 fun ch => { ch with settings := { ch.settings with excessMode := .abort } }) []
    [entry2] []

theorem witness_GapAndArbiterTimers_wait :
    quiet.part = .ready ∧ NoFrameDue (granted quiet [] [entry2] []) ∧ entry2.ch = 2 ∧ entry2.timer ≠ none ∧
    (quiet.ch 2).settings.excessMode = .wait ∧ entry2 ∈ (granted quiet [] [entry2] []).arb.waiting ∧
    NoFrameDue (granted quiet [] [] [entry2]) ∧ entry2 ∈ (granted quiet [] [] [entry2]).arb.resume ∧
    entry2 ∈ deferred.arb.waiting ∧ (deferred.ch 2).settings.excessMode = .abort ∧ (deferred.ch 2).state = .deferred ∧
    paired deferred 2 = false ∧ hasKind (deferred.ch 2).latched .deferLimit = false ∧ NoFrameDue quiet ∧
    quiet.arb.waiting ++ quiet.arb.resume = [] := by
  refine ⟨rfl, noneDue rfl rfl, rfl, by decide, by decide +kernel, List.mem_singleton.mpr rfl, noneDue rfl rfl,
    List.mem_singleton.mpr rfl, ?_, by decide +kernel, by decide +kernel, by decide +kernel, by decide +kernel,
    noneDue rfl rfl, rfl⟩
  exact List.mem_singleton.mpr rfl

/-! ### Witnesses: the hall, the arbiter, layouts and invariants -/

theorem witness_HallStop :
    NoFrameDue (stopped quiet) ∧ (stopped quiet).prot.hallStop = true ∧ State.reset.part ≠ .ready ∧ quiet.part = .ready ∧
    quiet.prot.hallStop = false ∧ (busy (stopped quiet)).part = .ready ∧ (busy (stopped quiet)).prot.hallStop = true ∧
    (busy (stopped quiet)).link.sending ≠ none ∧ NoFrameDue quiet := by
  refine ⟨noneDue rfl rfl, rfl, by decide, rfl, rfl, rfl, rfl, by decide +kernel, noneDue rfl rfl⟩

/-- Chamber alarm line 0 with a route, every channel in its mask, its timer run down and its raw level given. -/
def lineAt (s : State) (route : Route) (raw : Bool) : State :=
  s.modLine 0 fun _ => { settings := ⟨route, 0xFF, 200⟩, raw := raw, filtered := false, timer := some 0 }

theorem witness_ChamberAlarmLine :
    quiet.part = .ready ∧ NoFrameDue quiet ∧ (quiet.line 0).raw = false ∧ (quiet.line 0).settings.route = .report ∧
    State.reset.part ≠ .ready ∧ ((lineAt quiet .direct false).line 0).raw = false ∧
    ((lineAt quiet .direct false).line 0).settings.route = .direct ∧
    ((lineAt quiet .direct false).line 0).settings.mask.getLsbD (7 : Ch).val = true ∧
    paired (lineAt quiet .direct false) 7 = false ∧ ((lineAt quiet .direct false).ch 7).state ≠ .faulted ∧
    hasKind ((lineAt quiet .direct false).ch 7).latched .chamberAlarm = false ∧ (quiet.line 0).timer = none ∧
    ((lineAt quiet .report true).line 0).timer ≠ none ∧ (busy (lineAt quiet .report true)).link.sending ≠ none ∧
    (∀ c, ((lineAt quiet .report true).ch c).holds.chamber = false) ∧
    ((lineAt (placed .running 0) .localHold true).line 0).timer ≠ none ∧
    ((lineAt (placed .running 0) .localHold true).line 0).raw = true ∧
    covered (lineAt (placed .running 0) .localHold true) 2 = false ∧
    ((lineAt (placed .running 0) .localHold true).ch 2).state = .running := by
  refine ⟨rfl, noneDue rfl rfl, ?_⟩
  decide +kernel

theorem witness_ChamberAlarmLine_uncovers :
    (lineUp (on quiet 2 fun ch => { ch with state := .held, holds := ⟨false, true, false, false, false⟩ }) .localHold 4).part =
      .ready ∧
    ((lineUp quiet .localHold 4).line 0).timer ≠ none ∧
    covered (after (.alarmDebounceExpiry 0) ((lineUp quiet .localHold 4).modLine 0 fun l => { l with raw := false })) 2 =
      false ∧
    ((lineAt quiet .direct true).line 0).timer ≠ none ∧ ((lineAt quiet .direct true).line 0).settings.route ≠ .localHold ∧
    covered (lineUp quiet .localHold 4) 2 = true ∧ covered (after (.alarmDebounceExpiry 0) (lineUp quiet .localHold 4)) 2 = true := by
  decide +kernel

/-- The curtailment line's debounce timer run down. -/
def curtailing (s : State) : State := s.modHall fun h => { h with curtRaw := true, curtTimer := some 0 }

/-- A budget whose curtailed ceiling is its intake ceiling. -/
def evenBudget (s : State) : State := s.modArb fun a => { a with budget := ⟨10000, 10000, 10000, 950, 500⟩ }

theorem witness_CurtailmentLine :
    quiet.part = .ready ∧ NoFrameDue quiet ∧ quiet.hall.curtRaw ≠ true ∧ quiet.hall.curtDebounce ≠ 0 ∧
    quiet.hall.curtRaw = false ∧ State.reset.part ≠ .ready ∧ quiet.hall.curtTimer = none ∧
    (curtailing quiet).hall.curtTimer ≠ none ∧ (busy (curtailing (evenBudget quiet))).link.sending ≠ none ∧
    (busy (curtailing (evenBudget quiet))).arb.budget.cCurt = (busy (curtailing (evenBudget quiet))).arb.budget.cIn ∧
    (busy (curtailing (evenBudget quiet))).hall.state = .active ∧
    (busy (curtailing (evenBudget quiet))).hall.curtTimer ≠ none := by
  refine ⟨rfl, noneDue rfl rfl, ?_⟩
  decide +kernel

/-- A state whose curtailment line deasserts, with the hall paused and CURTAIL_END enabled. -/
def curtailEnds : State :=
  quiet.modHall fun h => { h with state := .paused, curtFiltered := true, curtTimer := some 0, wakeByCurtail := true }

/-- Channel 2 RUNNING its CHARGE step with a live grant of 6,000 W, the curtailment line's debounce run down. -/
def curtailSheds : State := curtailing (granted (placed .running 1) [⟨2, .charge, 6000, true, none⟩] [] [])

theorem witness_CurtailmentLine_sheds :
    quiet.hall.curtFiltered ≠ true ∧
    (quiet.modHall fun h => { h with curtDebounce := 0 }).hall.curtDebounce = 0 ∧ curtailEnds.part = .ready ∧
    curtailEnds.hall.curtTimer ≠ none ∧ curtailEnds.hall.curtRaw = false ∧ curtailEnds.hall.wakeByCurtail = true ∧
    curtailEnds.hall.state ≠ .active ∧ ArbiterSound curtailSheds ∧ curtailSheds.hall.curtTimer ≠ none ∧
    (shedLoop curtailSheds.arb.budget curtailSheds.arb.budget.cCurt 2 curtailSheds.arb.grants).2 ≠ [] ∧
    withinCeilings curtailSheds.arb.budget curtailSheds.arb.budget.cIn curtailSheds.arb.grants = true := by
  refine ⟨?_, ?_, ?_, ?_, ?_, ?_, ?_, arbiterSound ?_ ?_ ?_ ?_ ?_ ?_, ?_⟩ <;> decide +kernel

theorem witness_PauseAndWake_pause :
    ToPart (inHall quiet .pausing) (partReq []) 0 ∧ (inHall quiet .pausing).hall.state ≠ .active ∧
    ToPart (granted (placed .running 0) [grant2] [] []) (partReq []) 0 ∧
    (granted (placed .running 0) [grant2] [] []).hall.state = .active ∧
    ((granted (placed .running 0) [grant2] [] []).ch 2).state = .running ∧
    ((granted (placed .running 0) [grant2] [] []).ch 3).state = .idle :=
  ⟨toPart rfl rfl rfl rfl rfl rfl, by decide +kernel, toPart rfl rfl rfl rfl rfl rfl, rfl, by decide +kernel,
    by decide +kernel⟩

/-- The hall paused, its wake timer run down. -/
def sleeping (byTimer : Bool) : State :=
  quiet.modHall fun h => { h with state := .paused, wakeTimer := some 0, wakeByTimer := byTimer }

theorem witness_PauseAndWake_wake :
    ToPart quiet (partReq []) 0 ∧ quiet.hall.state = .active ∧ ToPart (sleeping true) (partReq []) 0 ∧
    (sleeping true).hall.state ≠ .active ∧ NoFrameDue quiet ∧ quiet.hall.wakeTimer = none ∧ NoFrameDue (sleeping false) ∧
    (sleeping false).hall.wakeTimer ≠ none ∧ (sleeping false).hall.wakeByTimer = false ∧
    (sleeping true).hall.wakeTimer ≠ none ∧ (sleeping true).hall.wakeByTimer = true :=
  ⟨toPart rfl rfl rfl rfl rfl rfl, rfl, toPart rfl rfl rfl rfl rfl rfl, by decide +kernel, noneDue rfl rfl, rfl,
    noneDue rfl rfl, by decide +kernel, rfl, by decide +kernel, rfl⟩

/-- The hall paused with channel 2 HELD with PAUSE, its CHARGE step's grant in the pause order. -/
def pausedWithOrder : State :=
  busy ((on (placed .held 1) 2 fun ch => { ch with holds := ⟨false, false, false, true, false⟩ }).modHall fun h =>
    { h with state := .paused, wakeTimer := some 0, wakeByTimer := true, pauseOrder := [⟨2, .grant, .charge, 9⟩] })

theorem witness_PauseAndWake_order :
    ArbiterSound pausedWithOrder ∧ ToPart pausedWithOrder (partReq []) 0 ∧ pausedWithOrder.hall.wakeTimer ≠ none ∧
    pausedWithOrder.link.sending ≠ none ∧ pausedWithOrder.link.reports.length < 64 ∧
    (pausedWithOrder.hall.pauseOrder.filter fun e =>
      decide ((pausedWithOrder.ch e.ch).state ∈ [.gap, .deferred, .starting, .running, .held])) = [⟨2, .grant, .charge, 9⟩] := by
  have sends : pausedWithOrder.link.sending = some (.report plainReport) := by decide +kernel
  refine ⟨⟨?_, ?_, ?_, ?_, ?_, ?_⟩, ⟨⟨rfl, rfl, rfl, fun r h => ?_⟩, rfl, rfl⟩, ?_⟩
  case refine_7 => simp [sends] at h
  all_goals decide +kernel

/-- A PAUSING hall with channel 2 HELD with PAUSE, its IDLE demand outstanding and every other stage ABSENT. -/
def pausingOn : State :=
  inHall (busy (on (port2 (put quiet 2 .held) fun p => { p with outstanding := some ⟨⟨.idle, 0, 0, 0⟩, 3⟩ }) 2 fun ch =>
    { ch with holds := ⟨false, false, false, true, false⟩ })) .pausing

theorem witness_PauseAndWake_settles :
    exec (.confirm 2 3) pausingOn = .next (after (.confirm 2 3) pausingOn) ∧ pausingOn.part = .ready ∧
    (after (.confirm 2 3) pausingOn).part = .ready ∧ pausingOn.hall.state = .pausing ∧
    (after (.confirm 2 3) pausingOn).hall.state = .paused ∧ (after (.confirm 2 4) pausingOn).hall.state = .pausing ∧
    (pausingOn.ch 2).state = .held ∧ (pausingOn.ch 2).port.presence = .present ∧
    (pausingOn.ch 2).port.outstanding = some ⟨⟨.idle, 0, 0, 0⟩, 3⟩ ∧ (pausingOn.ch 2).port.pending = none ∧
    ((3 : BitVec 4).zeroExtend 8) = 3 ∧ isLeader pausingOn 2 = false ∧
    (∀ d, d ≠ 2 → (pausingOn.ch d).port.presence = .absent ∧ isLeader pausingOn d = false) ∧
    pausingOn.link.sending ≠ none ∧ pausingOn.link.reports.length ≤ 32 :=
  ⟨rfl, rfl, by decide +kernel, by decide +kernel, by decide +kernel, by decide +kernel, by decide +kernel,
    by decide +kernel, by decide +kernel, by decide +kernel, by decide, by decide +kernel, by decide +kernel,
    by decide +kernel, by decide +kernel⟩

/-- A budget over its intake ceiling. -/
def overBudget : State := granted quiet [⟨2, .charge, 20000, false, none⟩] [] []

theorem witness_BudgetTests :
    withinCeilings quiet.arb.budget (cEffOf quiet) [grant2] = true ∧
    withinCeilings overBudget.arb.budget (cEffOf overBudget) overBudget.arb.grants = false ∧
    testsHold (granted quiet [grant2] [entry2] [{ entry2 with ch := 4 }]) = true ∧
    (evaluate (granted quiet [grant2] [] [{ entry2 with ch := 4, claim := 60000 }])).1.arb.resume ≠ [] := by
  decide +kernel

/-- The board of R93's worked example: C_in 4,000 W, η 1,000, u 0, channels 0 and 1 HIGH, an entry of 4,000 W of each of
CH0, CH1, CH3, CH4 and CH5 waiting, with the pointers as they stand before an evaluation. -/
def ringOfExample (hp : Nat) (lp : Ch) : State :=
  let high : Channel → Channel := fun ch => { ch with settings := { ch.settings with group := .high } }
  (on (on quiet 0 high) 1 high).modArb fun a =>
    { a with
      budget := ⟨4000, 4000, 4000, 1000, 0⟩, hp := hp, lp := some lp
      waiting := ([0, 1, 3, 4, 5] : List Ch).map fun c => ⟨c, .charge, 4000, .new, some 5, 0⟩ }

theorem witness_BudgetTests_resume :
    let s := granted quiet [grant2] [] [{ entry2 with ch := 4 }]
    s.arb.resume = { entry2 with ch := 4 } :: [] ∧
    withinCeilings s.arb.budget (cEffOf s) (s.arb.grants ++ [⟨4, .charge, 100, false, none⟩]) = true ∧
    withinCeilings s.arb.budget (cEffOf s) (s.arb.grants ++ [⟨4, .charge, 60000, false, none⟩]) = false := by
  decide +kernel

theorem witness_BudgetTests_walk :
    (ringOfExample 2 2).arb.resume = [] ∧ ((ringOfExample 2 2).arb.waiting.map Entry.ch).Nodup ∧
    walkOrder (ringOfExample 2 2) = [2] ++ 3 :: [4, 5, 6, 7, 0, 1] ∧
    (∃ e ∈ (ringOfExample 2 2).arb.waiting, e.ch = 3) ∧ (evaluate (ringOfExample 2 2)).2 = [3] := by
  decide +kernel

theorem witness_BudgetTests_shed :
    ([⟨4, .charge, 1000, false, none⟩, ⟨2, .charge, 20000, false, none⟩].map Grant.ch).Nodup ∧
    (shedLoop quiet.arb.budget (cEffOf quiet) 3 [⟨4, .charge, 1000, false, none⟩, ⟨2, .charge, 20000, false, none⟩]).2 =
      [] ++ (⟨2, .charge, 20000, false, none⟩, .intake) :: [] := by
  decide +kernel

theorem witness_Layouts_frame : (⟨0xC3, 7, 2, List.replicate 1024 0xC3⟩ : Frame).body.length ≤ 1024 := by decide +kernel

theorem witness_Layouts_record :
    Storable (.chargePower 60000 (2 ^ 32 - 1) (some 420000) (some 65535)
      [⟨.vDrop, -2 ^ 31, .goto 255, 8⟩, ⟨.time, 2 ^ 31 - 1, .hold, 1⟩]) ∧
    Storable (.mark 255 65535 true) ∧
    -2 ^ 31 ≤ (⟨-2 ^ 31, 65535, true⟩ : Point).current ∧ (⟨-2 ^ 31, 65535, true⟩ : Point).current < 2 ^ 31 ∧
    (⟨-2 ^ 31, 65535, true⟩ : Point).duration < 2 ^ 16 := by
  refine ⟨⟨by decide, by decide, by decide, fun n h => ?_, fun n h => ?_, by decide, fun e h => ?_⟩,
    ⟨by decide, by decide⟩, by decide, by decide, by decide⟩
  · cases h; decide
  · cases h; decide
  · rcases List.mem_cons.mp h with rfl | h
    · exact ⟨by decide, by decide, fun n h => by cases h; decide⟩
    · rcases List.mem_singleton.mp h with rfl
      exact ⟨by decide, by decide, nofun⟩

theorem witness_BoundsKept : Bounded quiet ∧ step quiet = .next (tick quiet) :=
  ⟨⟨by decide, by decide, by decide +kernel, by decide⟩, rfl⟩

theorem witness_SettingsStayInRange : SettingsInRange quiet ∧ step quiet = .next (tick quiet) :=
  ⟨defaultsInRange (by decide +kernel) rfl (by decide +kernel) rfl, rfl⟩

theorem witness_PortsStaySound : PortsSound quiet ∧ step quiet = .next (tick quiet) :=
  ⟨fun c => ⟨by revert c; decide +kernel, by revert c; decide +kernel⟩, rfl⟩

/-- Nothing runs on the quiet board. -/
theorem quiet_idle : ∀ c, (quiet.ch c).state = .idle := by decide +kernel

/-- The quiet board's fault records are sound. -/
theorem quiet_faults : FaultsSound quiet := faultsSound (by decide +kernel) rfl rfl

/-- The quiet board's arbiter is sound. -/
theorem quiet_arbiter : ArbiterSound quiet := by refine arbiterSound ?_ ?_ ?_ ?_ ?_ ?_ <;> decide +kernel

/-- The quiet board's runs are sound. -/
theorem quiet_runs : RunsSound quiet where
  windows c w h := by
    have : ∀ c, (quiet.ch c).active = none ∧ (quiet.ch c).staged = none := by decide +kernel
    simp [this c] at h
  active c _ h := by simp [quiet_idle c] at h
  swap c h := absurd (by revert c; decide +kernel : (quiet.ch c).swapPending = none) h
  staged c _ h := absurd (by revert c; decide +kernel : (quiet.ch c).swapPending = none) h
  index c h := by simp [quiet_idle c] at h
  loops c _ _ _ _ _ h := by simp [quiet_idle c] at h

/-- The quiet board's demands are sound. -/
theorem quiet_demands : DemandsSound quiet where
  granted c h := by simp [Working, quiet_idle c] at h
  demands c d h := by
    have : ∀ c, (quiet.ch c).port.standing = none := by decide +kernel
    simp [this c] at h

theorem witness_FaultsStaySound : FaultsSound quiet ∧ step quiet = .next (tick quiet) := ⟨quiet_faults, rfl⟩

theorem witness_ArbiterStaysSound : FaultsSound quiet ∧ ArbiterSound quiet ∧ step quiet = .next (tick quiet) :=
  ⟨quiet_faults, quiet_arbiter, rfl⟩

theorem witness_RunsStaySound : RunsSound quiet ∧ step quiet = .next (tick quiet) := ⟨quiet_runs, rfl⟩

theorem witness_DemandsStaySound :
    FaultsSound quiet ∧ ArbiterSound quiet ∧ RunsSound quiet ∧ DemandsSound quiet ∧ step quiet = .next (tick quiet) :=
  ⟨quiet_faults, quiet_arbiter, quiet_runs, quiet_demands, rfl⟩

theorem witness_LifetimeAccounts :
    exec (.periodEvent 2) resting = .next (after (.periodEvent 2) resting) ∧ (resting.ch 2).life.qChg ≤ 2 ^ 63 - 1 ∧
    (resting.ch 2).life.qDis ≤ 2 ^ 63 - 1 ∧ (resting.ch 2).life.eChg ≤ 2 ^ 63 - 1 ∧ (resting.ch 2).life.eDis ≤ 2 ^ 63 - 1 :=
  ⟨rfl, by decide +kernel, by decide +kernel, by decide +kernel, by decide +kernel⟩

/-! ### Small tests of one command each -/

/-- The worked example of R58: 312.5 rounds away from zero, 150,000.08 toward it, and 125,001 mV is over range. -/
theorem test_conversion_worked_example :
    convert 4096 5000 0 = 313 ∧ convert (-4096) 5000 0 = -313 ∧ convert (-1966081) 5000 0 = -150000 ∧
    convert 3276814 2500 0 = 125001 ∧ convert 16777215 2500 0 = 640000 := by decide

/-- R126: −7 mA gives the follower −3 mA and the leader −4 mA; +150,001 mA gives +75,000 and +75,001. -/
theorem test_pair_shares :
    (followerShare ⟨.regulate, -7, 0, 0⟩).current = -3 ∧ (leaderShare ⟨.regulate, -7, 0, 0⟩).current = -4 ∧
    (followerShare ⟨.regulate, 150001, 0, 0⟩).current = 75000 ∧ (leaderShare ⟨.regulate, 150001, 0, 0⟩).current = 75001 := by
  decide

/-- The CRC of R154 and R180 over the ASCII digits 1 to 9 is 0x29B1, as the polynomial, initial value and lack of
reflection give. -/
theorem test_crc : crc16 [0x31, 0x32, 0x33, 0x34, 0x35, 0x36, 0x37, 0x38, 0x39] = 0x29B1 := by decide +kernel

/-- R195: with a good image that holds the first pair, the start-up puts channel 1 in FOLLOWER and leaves channel 3. -/
theorem test_start_up_forms_pairs :
    let t := formStored (Image.load goodStart.image) goodStart [0, 1, 2, 3]
    (t.ch 1).state = .follower ∧ (t.ch 3).state = .idle := by
  rw [load_goodStart]; decide +kernel

/-- R197: power lost while a save is in flight leaves a bad image, so the settings are the defaults. -/
theorem test_power_loss_spoils_a_save :
    (Image.judge (after .powerLoss saving).image).isSome = true := cutShort_bad _

/-- R181: a fifth frame is an overrun. -/
theorem test_fifth_frame_is_an_overrun :
    (after (.controlFrame someFrame) (replying [someFrame, someFrame, someFrame, someFrame])).link.overrunCount = 1 ∧
    (after (.controlFrame someFrame) (replying [someFrame, someFrame, someFrame])).link.requests.length = 4 := by
  decide +kernel

/-- R186: a GET_STATUS that asks for it clears the link error count after taking its value. -/
theorem test_get_status_clears :
    (after (.getStatus (partReq [1])) (after (.badFrame .check) quiet)).link.linkErrCount = 0 ∧
    (after (.getStatus (partReq [0])) (after (.badFrame .check) quiet)).link.linkErrCount = 1 := by decide +kernel

/-- R8: a record written is read back from the pool. -/
theorem test_write_steps :
    poolRead (after (.writeSteps (partReq ([0xFF, 0x03] ++ restBytes))) quiet).pool 1023 =
      some (.rest [stepFor 1000]) := by decide +kernel

/-- R10: a record in a running channel's active window is not written. -/
theorem test_write_steps_is_kept_out :
    (after (.writeSteps (partReq ([1, 0] ++ restBytes))) (placed .running 0)).pool = loaded.pool := by decide +kernel

/-- R24, R22: START takes up a REST step at once, in cycle 1. -/
theorem test_start_rest :
    ((after (.start (req 2 [1])) (placed .complete 0)).ch 2).state = .running ∧
    ((after (.start (req 2 [1])) (placed .complete 0)).ch 2).cycleNumber = 1 := by decide +kernel

/-- R22: a CHARGE step begins with the reversal gap, its request granted at once where the link has room (R90). -/
theorem test_start_charge :
    ((after (.start (req 2 [1])) chargeFirst).ch 2).state = .gap ∧
    ((after (.start (req 2 [1])) chargeFirst).ch 2).gapTimer = some 200 ∧
    (after (.start (req 2 [1])) chargeFirst).arb.grants = [⟨2, .charge, 9, false, none⟩] := by decide +kernel

/-- R26, R27: at the end of the gap a covering grant leads to STARTING, and its lack to DEFERRED. -/
theorem test_gap_ends :
    ((after (.gapTimerExpiry 2) (gapping [grant2])).ch 2).state = .starting ∧
    ((after (.gapTimerExpiry 2) (gapping [])).ch 2).state = .deferred := by decide +kernel

/-- R37: STOP of a running channel waits for its OFF to be confirmed. -/
theorem test_stop :
    ((after (.stop (req 2 [])) (placed .running 0)).ch 2).state = .stopping ∧
    ((after (.stop (req 2 [])) (placed .running 0)).ch 2).port.standing = some ⟨.off, 0, 0, 0⟩ := by decide +kernel

/-- R38: the CONFIRM of the OFF ends the stop. -/
theorem test_confirm_ends_a_stop :
    ((after (.confirm 2 15) (waitingConfirm .stopping none)).ch 2).state = .idle ∧
    ((after (.confirm 2 14) (waitingConfirm .stopping none)).ch 2).state = .stopping := by decide +kernel

/-- R33, R34: HOLD holds with HOST, and RELEASE lets a REST step run on. -/
theorem test_hold_and_release :
    ((after (.hold (req 2 [])) (placed .running 0)).ch 2).holds = ⟨true, false, false, false, false⟩ ∧
    ((after (.release (req 2 [])) (heldBy ⟨true, false, false, false, false⟩)).ch 2).state = .running := by
  decide +kernel

/-- R39: an IDLE channel exchanges its windows. -/
theorem test_swap :
    ((after (.swap (req 2 [1])) (stagedToo .idle)).ch 2).active = some ⟨0, 2⟩ ∧
    ((after (.swap (req 2 [2])) (stagedToo .running)).ch 2).swapPending = some .atScheduleEnd := by decide +kernel

/-- R111: a point joins the queue at its tail. -/
theorem test_profile_append :
    ((after (.profileAppend (req 2 (pointAt (-5)))) quiet).ch 2).queue = [⟨-5, 1, true⟩] := by decide +kernel

/-- R142: STAGE_SILENT, named, is cleared; the first fault is cleared only with nothing else left. -/
theorem test_clear_faults :
    ((after (.clearFaults (req 2 [0x20, 0])) faulted2).ch 2).latched = onlyKind .stageNoAck ∧
    ((after (.clearFaults (req 2 [0x40, 0])) faulted2).ch 2).latched = (faulted2.ch 2).latched ∧
    ((after (.clearFaults (req 2 [0x60, 0])) faulted2).ch 2).state = .idle := by decide +kernel

/-- R123, R124: SET_PAIR on the odd member forms the pair. -/
theorem test_set_pair :
    ((after (.setPair (req 3 [])) quiet).ch 3).state = .follower ∧
    ((after (.unpair (req 2 [])) (following quiet)).ch 3).state = .idle := by decide +kernel

/-- R87, R86: C_in is clamped to 400,000 W and C_curt to C_in. -/
theorem test_set_budget_clamps :
    (after (.setBudget (partReq ([1, 0, 0, 0] ++ [0xFF, 0xFF, 0xFF, 0xFF] ++ List.replicate 12 0))) quiet).arb.budget.cIn =
      400000 ∧
    (after (.setBudget (partReq ([1, 0, 0, 0] ++ [1, 0, 0, 0] ++ List.replicate 12 0))) quiet).arb.budget.cCurt = 1 := by
  decide +kernel

/-- R134: V_min follows V_max down. -/
theorem test_set_channel_orders_limits :
    ((after (.setChannel (req 2 (setOne [0x20, 0, 0, 0] 19 1))) (on quiet 2 fun ch =>
      { ch with settings := { ch.settings with vMin := 100 } })).ch 2).settings.vMin = 1 := by decide +kernel

/-- R53, R57: a reading taken at the default calibration. -/
theorem test_reading :
    ((after (.reading 2 true rawSample) asking).ch 2).last.v = 4000 ∧
    ((after (.reading 2 true rawSample) asking).ch 2).last.i = 313 ∧
    ((after (.reading 2 true rawSample) asking).ch 2).last.t = 25 := by decide +kernel

/-- R51: the manual's example, a channel started 300 ms into a standby period with a working period of 20 ms. -/
theorem test_period_brought_forward :
    ((after (.start (req 2 [1])) halfway).ch 2).periodLength = 320 ∧
    ((after (.periodEvent 2) halfway).ch 2).periodLength = 1000 := by decide +kernel

/-- R55: in the worked example a channel faulted at its seventh period event samples at the standby period from then on. -/
theorem test_faulted_channel_samples_at_standby :
    ((after (.periodEvent 2) (on resting 2 fun ch => { ch with taken := false, missed := 2 })).ch 2).state = .faulted ∧
    ((after (.periodEvent 2) (on resting 2 fun ch => { ch with taken := false, missed := 2 })).ch 2).periodLength =
      1000 := by decide +kernel

/-- R93: evaluations 1 to 4 of the worked example: the channel granted and the pointers after it. -/
theorem test_rotation_worked_example :
    ([((0, 2) : Nat × Ch), (1, 2), (2, 2), (0, 4)].map fun p =>
      let r := evaluate (ringOfExample p.1 p.2)
      (r.2, r.1.arb.hp, r.1.arb.lp)) =
      [([0], 1, some 2), ([1], 2, some 2), ([3], 0, some 4), ([0], 1, some 4)] := by decide +kernel

/-- R96: with the walk 2 to 7, 0, 1, a STARVED entry of CH3 that does not fit ends it before CH4's; a NEW one is passed
over. -/
theorem test_starved_entry_ends_the_walk :
    let waits := fun mark : Mark => (ringOfExample 2 2).modArb fun a =>
      { a with waiting := [⟨3, .charge, 4001, mark, none, 0⟩, ⟨4, .charge, 100, .new, some 5, 0⟩] }
    (evaluate (waits .starved)).2 = [] ∧ (evaluate (waits .new)).2 = [4] := by decide +kernel

/-- R189: a report is framed with tag 0, its kind and its channel, and STAGE_DERATE carries the reading's three figures. -/
theorem test_stage_derate_report :
    (Report.frame ⟨1, 2, 3, .stageDerate 4000 (-1) 25⟩).tag = 0 ∧
    (ReportBody.stageDerate 4000 (-1) 25).bytes = some [0xA0, 0x0F, 0, 0, 0xFF, 0xFF, 0xFF, 0xFF, 25, 0] := by decide +kernel

/-- R141, R189 and the wire layouts: LIMIT_V_HIGH at 60,500 mV carries code 0, the voltage in 4 bytes, the warn-only mark,
step index 2 and step time 1,000 ms, the latched set and FAULTED; the value of LIMIT_T_LOW at -20.1 °C takes 2. -/
theorem test_fault_report :
    (ReportBody.fault .limitVHigh 60500 false 2 1000 1 .faulted).bytes =
      some [0, 0x54, 0xEC, 0, 0, 0, 2, 0, 0xE8, 3, 0, 0, 1, 0, 9] ∧
    (ReportBody.fault .limitTLow (-201) true 2 1000 0 .running).bytes =
      some [4, 0x37, 0xFF, 1, 2, 0, 0xE8, 3, 0, 0, 0, 0, 5] := by decide +kernel

/-- R178 and the wire layouts: PAUSED from PAUSING, SETTLED, TIMER enabled, and 60 s left on the wake timer. -/
theorem test_settled_report :
    (ReportBody.hallState .paused .pausing .settled none none true false (some 60000)).bytes =
      some [3, 2, 2, 1, 0x60, 0xEA, 0, 0] := by decide +kernel

/-- R193 and the wire layouts: the OK of a hold of 10,000 ms over ten queued reports; R175: of a wake timer of 60 s. -/
theorem test_timed_replies :
    (OkData.reportHold true (some 10000) 10).bytes = some [1, 0x10, 0x27, 0, 0, 10, 0] ∧
    (OkData.wake true false (some 60000) 1000 .active).bytes = some [1, 0x60, 0xEA, 0, 0, 0xE8, 3, 0, 0, 1] := by
  decide +kernel

/-- R60: SET_CALIBRATION of the voltage takes a gain of -1 and an offset of the most negative number as they stand. -/
theorem test_set_calibration :
    ((after (.setCalibration (req 2 ([1, 0, 0, 0, 0xFF, 0xFF, 0xFF, 0xFF, 0, 0, 0, 0x80] ++ List.replicate 16 0))) quiet).ch
      2).cal.vGain.toInt = -1 ∧
    ((after (.setCalibration (req 2 ([1, 0, 0, 0, 0xFF, 0xFF, 0xFF, 0xFF, 0, 0, 0, 0x80] ++ List.replicate 16 0))) quiet).ch
      2).cal.vOffset.toInt = -2 ^ 31 := by decide +kernel

/-- R80: RESET_CHANNEL on either member of a pair sets the follower's confirm counters to zero. -/
theorem test_reset_clears_follower_counters :
    ((after (.resetChannel (req 2 [])) (on (following quiet) 3 fun ch => { ch with confirms := [1, 2, 3, 4] })).ch 3).confirms =
      [0, 0, 0, 0] := by decide +kernel

/-- R55: a PRESENT stage's third missed period latches STAGE_SILENT. -/
theorem test_third_missed_period :
    ((after (.periodEvent 2) (on (put quiet 2 .idle) 2 fun ch => { ch with missed := 2 })).ch 2).state = .faulted := by
  decide +kernel

/-- R63 to R67: 1,000 mA at 4,000 mV for 20 ms are 20,000 mA·ms and 80,000 µJ. -/
theorem test_period_integrates :
    ((after (.periodEvent 2) (on resting 2 fun ch =>
      { ch with last := { ch.last with v := 4000, i := 1000 } })).ch 2).cycle = ⟨20000, 0, 80000, 0⟩ := by decide +kernel

/-- R161, R145: an OFF that times out sets the unsafe flag and is sent again with its own tag. -/
theorem test_confirmation_timeout :
    ((after (.confirmationTimerExpiry 2) (waitingConfirm .idle none)).ch 2).unsafeFlag = true ∧
    ((after (.confirmationTimerExpiry 2) (waitingConfirm .idle none)).ch 2).port.outstanding = some off15 := by
  decide +kernel

/-- R152: every channel faults; ALARM is the report being sent and eight FAULT reports wait. -/
theorem test_hall_stop :
    (∀ c, ((after .hallStopAssert (placed .running 0)).ch c).state = .faulted) ∧
    (after .hallStopAssert (placed .running 0)).link.reports.length = 8 := by decide +kernel

/-- R170, R171: with no demand ever confirmed and the running stage's demand outstanding the hall is PAUSING; with every
stage ABSENT it is PAUSED at once. -/
theorem test_pause_hall :
    (after (.pauseHall (partReq [])) (port2 (placed .running 0) fun p => { p with outstanding := some off15 })).hall.state =
      .pausing ∧
    (after (.pauseHall (partReq [])) quiet).hall.state = .paused := by decide +kernel

/-- R100 to R102: C_eff falling below the grants sheds the newest, and its channel is HELD with CURTAILED. -/
theorem test_curtailment_sheds :
    (after .curtailDebounceExpiry (curtailing (granted (placed .running 1) [⟨2, .charge, 6000, true, none⟩] [] []))).arb.grants =
      [] ∧
    ((after .curtailDebounceExpiry (curtailing (granted (placed .running 1) [⟨2, .charge, 6000, true, none⟩] [] []))).ch 2).holds.curtailed =
      true := by decide +kernel

/-- R44: RESET_CHANNEL brings a FAULTED channel whose stage is ABSENT to IDLE with no fault. -/
theorem test_reset_channel :
    ((after (.resetChannel (req 2 [])) (on faulted2 2 fun ch => { ch with port := { ch.port with presence := .absent } })).ch 2).state =
      .idle ∧
    ((after (.resetChannel (req 2 [])) faulted2).ch 2).latched = 0 := by decide +kernel

/-- R175: WAKE_TIMER_EXPIRY wakes a paused hall with TIMER enabled, and not otherwise. -/
theorem test_wake_timer :
    (after .wakeTimerExpiry (sleeping true)).hall.state = .active ∧
    (after .wakeTimerExpiry (sleeping false)).hall.state = .paused := by decide +kernel

/-- Channel 2 RUNNING a step with a latest voltage and a grant amount. -/
def atVoltage (x : StepRecord) (v amount : Nat) : State :=
  granted (on { placed .running 0 with pool := [(0, x)] } 2 fun ch =>
    { ch with active := some ⟨0, 1⟩, last := { ch.last with v := v } }) [⟨2, x.dir, amount, true, none⟩] [] []

/-- The worked example of setpoints (R46 to R48): 150,000 mA is unclamped at 52,130 mV and 149,745 mA at 58,900 mV. -/
theorem test_charge_setpoint :
    calledFor (atVoltage (.charge 150000 58800 none []) 52130 8820) 2 = (⟨.regulate, 150000, 58800, 0⟩, false) ∧
    calledFor (atVoltage (.charge 150000 58800 none []) 58900 8820) 2 = (⟨.regulate, 149745, 58800, 0⟩, true) ∧
    claimOf quiet 2 (.charge 150000 58800 none []) = 8820 := by
  decide +kernel

/-- The worked example of setpoints (R47, R48): 5,000 W at 48,300 mV and at 1,200 mV, with claims of 5,000 W and 5,001 W. -/
theorem test_power_setpoint :
    calledFor (atVoltage (.chargePower 5000 58800 none none []) 48300 5000) 2 = (⟨.regulate, 103519, 58800, 0⟩, true) ∧
    calledFor (atVoltage (.chargePower 5000 58800 none none []) 48300 5001) 2 = (⟨.regulate, 103520, 58800, 0⟩, false) ∧
    calledFor (atVoltage (.chargePower 5000 58800 none none []) 1200 5001) 2 = (⟨.regulate, 420000, 58800, 0⟩, true) ∧
    calledFor (atVoltage (.dischargePower 5000 2500 none none []) 48300 5000) 2 =
      (⟨.regulate, -103519, 125000, 2500⟩, true) := by
  decide +kernel

/-- R16: the reasons of a loop target beyond the window, one not below its MARK, and a MARK whose loop holds no step. -/
theorem test_validation_of_marks :
    validate { quiet with pool := [(0, .rest [stepFor 1]), (1, .mark 2 0 false)] } 2 (some ⟨0, 2⟩) =
      some (.targetOutside, 1) ∧
    validate { quiet with pool := [(0, .rest [stepFor 1]), (1, .mark 1 0 false)] } 2 (some ⟨0, 2⟩) =
      some (.loopForward, 1) ∧
    validate { quiet with pool := [(0, .rest [stepFor 1]), (1, .mark 0 0 false), (2, .mark 1 0 false)] } 2
      (some ⟨0, 3⟩) = some (.emptyLoop, 2) := by
  decide +kernel

/-- R27: a start completes at a taken period whose stage regulates, and its grant is live. -/
theorem test_stage_start_completes :
    ((after (.periodEvent 2) (stageStarting 1000)).ch 2).state = .running ∧
    (after (.periodEvent 2) (stageStarting 1000)).arb.grants = [{ grant2 with live := true }] := by decide +kernel

/-- R29, R22, R97: NEXT lands on the second step, after the reversal gap, its grant carried. -/
theorem test_step_ends :
    ((after (.periodEvent 2) (ends .next secondCharge [live9] id)).ch 2).state = .gap ∧
    ((after (.periodEvent 2) (ends .next secondCharge [live9] id)).ch 2).stepIndex = 1 ∧
    (after (.periodEvent 2) (ends .next secondCharge [live9] id)).arb.grants = [⟨2, .charge, 9, false, none⟩] := by
  decide +kernel

/-- R30, R32: a MARK that counts a cycle leads back to its target, its counter at 1 and the cycle closed. -/
theorem test_mark_loops :
    ((after (.periodEvent 2) (ends .next (.mark 0 3 true) [live9] id)).ch 2).stepIndex = 0 ∧
    loopCounter ((after (.periodEvent 2) (ends .next (.mark 0 3 true) [live9] id)).ch 2).loops 1 = 1 ∧
    ((after (.periodEvent 2) (ends .next (.mark 0 3 true) [live9] id)).ch 2).cycleNumber = 1 := by decide +kernel

/-- R40: the end of the schedule stops the channel toward COMPLETE and gives up its grant. -/
theorem test_schedule_ends :
    ((after (.periodEvent 2) (ends .endSchedule secondCharge [live9] id)).ch 2).state = .stopping ∧
    ((after (.periodEvent 2) (ends .endSchedule secondCharge [live9] id)).ch 2).stopDest = .complete ∧
    (after (.periodEvent 2) (ends .endSchedule secondCharge [live9] id)).arb.grants = [] := by decide +kernel

/-- R97: a step end whose grant is carried with its claim unchanged is followed by an evaluation, which grants what waits. -/
theorem test_step_end_evaluates :
    let s := ends .next secondCharge [live9] id
    let t := after (.periodEvent 2) (s.modArb fun a => { a with waiting := [{ entry2 with ch := 4 }] })
    t.arb.waiting = [] ∧ t.arb.grants.length = 2 := by decide +kernel

/-- R128: the second member's reading completes the pack reading with the sum of the currents. -/
theorem test_pack_completes :
    ((after (.reading 2 true rawSample) pairAsking).ch 2).pack.i = 313 ∧
    ((after (.reading 2 true rawSample) pairAsking).ch 2).packDone = true := by decide +kernel

/-- Log 2: a step with nothing waiting lets a millisecond pass. -/
theorem test_tick : (match step quiet with | .next t => t.hall.partTime | _ => 0) = 1 := by decide +kernel

end Sys2Proof.Tests
end

/-! PROOF. Validation and claims (R6, R15, R16). The model folds over the list of a window's records; the statement
speaks of the pool's records by window index. Each list operation of a record's checks is restated by window index, the
checks are then one equation for a blank record, one for a MARK and one for every other kind, and the scan over the
window is shown to find the first index at fault. -/
namespace Sys2Proof.Machine

/-! ### Claims (R6) -/

theorem rawClaim_of_declared {r : StepRecord} {g : Nat} (h : r.declared = some g) (vMax : Nat) :
    r.rawClaim vMax = g := by
  simp only [StepRecord.rawClaim, h]

/-! ### A window's records by window index (R7) -/

section
variable (s : State) (w : Window)

theorem windowRecords_length : (windowRecords s w).length = w.length := by
  simp [windowRecords]

theorem windowRecords_getD {k : Nat} (hk : k < w.length) : (windowRecords s w).getD k none = windowRead s w k := by
  simp [windowRecords, List.getD, hk]

theorem windowRecords_take {n : Nat} (hn : n ≤ w.length) :
    (windowRecords s w).take n = (List.range n).map (windowRead s w) := by
  rw [windowRecords, ← List.map_take, List.take_range, Nat.min_eq_left hn]

theorem isWorking_eq_any (r : Option StepRecord) : isWorking r = r.any fun x => decide (x.kind ≠ .mark) := by
  cases r <;> simp [isWorking, StepRecord.isMark]

theorem isMarkAt_eq_any (r : Option StepRecord) : isMarkAt r = r.any fun x => decide (x.kind = .mark) := by
  cases r <;> rfl

theorem windowRecords_idle_iff :
    (windowRecords s w).all (fun r => !isWorking r) = true ↔
      ∀ k, k < w.length → isWorking (windowRead s w k) = false := by
  simp [windowRecords]

/-- The loop of a MARK, from its target up to the MARK, which is itself no working record. -/
theorem loop_idle_iff {k : Nat} (t : Nat) (hk : k < w.length) (hmark : isWorking (windowRead s w k) = false) :
    (((windowRecords s w).take (k + 1)).drop t).all (fun r => !isWorking r) = true ↔
      ∀ j, j < k → t ≤ j → isWorking (windowRead s w j) = false := by
  rw [windowRecords_take s w hk, List.all_eq_true]
  constructor
  · intro h j hj ht
    have hmem : windowRead s w j ∈ ((List.range (k + 1)).map (windowRead s w)).drop t := by
      rw [List.mem_drop_iff_getElem]
      exact ⟨j - t, by simp; omega, by simp [Nat.add_sub_cancel' ht]⟩
    simpa using h _ hmem
  · intro h r hr
    obtain ⟨i, hi, rfl⟩ := List.mem_drop_iff_getElem.1 hr
    simp only [List.length_map, List.length_range] at hi
    rcases Nat.lt_or_ge (t + i) k with hlt | hge
    · simpa using h (t + i) hlt (Nat.le_add_right t i)
    · obtain rfl : t + i = k := by omega
      simpa using hmark

theorem marks_length {k : Nat} (hk : k < w.length) :
    (((windowRecords s w).take (k + 1)).filter isMarkAt).length =
      ((List.range (k + 1)).filter fun j => isMarkAt (windowRead s w j)).length := by
  rw [windowRecords_take s w hk, List.filter_map, List.length_map]
  rfl

end

/-! ### The checks of one record (R16) -/

theorem gotoTargets_eq_flatten (cs : List EndCond) :
    (cs.filterMap fun e => e.action.target) = (cs.map fun e => e.action.target.toList).flatten := by
  rw [List.filterMap_eq_flatMap_toList, List.flatMap_def]

/-- The last checks of R16, of a record that holds a step: VOLTAGE_ORDER and NO_PROFILE_CLAIM of a PROFILE, then
CLAIM_RANGE of a step that moves energy. -/
def claimFault (vMax limit : Nat) (r : StepRecord) : Option Reason :=
  let range := if r.rawClaim vMax < 1 ∨ limit < r.rawClaim vMax then some .claimRange else none
  match r with
  | .rest _ | .mark _ _ _ => none
  | .profile upper lower _ declared _ =>
    if upper < lower then some .voltageOrder else if declared = none then some .noProfileClaim else range
  | _ => range

section
variable {s : State} {w : Window} {k : Nat} (vMax limit : Nat)

theorem recordFault_blank (hk : k < w.length) (h : windowRead s w k = none) :
    recordFault (windowRecords s w) vMax limit k = some .blankStep := by
  simp only [recordFault, windowRecords_getD s w hk, h]

theorem recordFault_mark {t n : Nat} {counts : Bool} (hk : k < w.length)
    (h : windowRead s w k = some (.mark t n counts)) :
    recordFault (windowRecords s w) vMax limit k =
      if w.length ≤ t then some .targetOutside
      else if k ≤ t then some .loopForward
      else if ∀ j, j < k → t ≤ j → isWorking (windowRead s w j) = false then some .emptyLoop
      else if 8 < ((List.range (k + 1)).filter fun j => isMarkAt (windowRead s w j)).length then some .tooManyMarks
      else none := by
  simp only [recordFault, windowRecords_getD s w hk, h, windowRecords_length, marks_length s w hk,
    loop_idle_iff s w t hk (by rw [h]; rfl)]
  simp only [StepRecord.targets, StepRecord.isMark, StepRecord.kind, StepRecord.voltages, StepRecord.moves,
    StepRecord.dir, StepKind.dir, List.any_cons, List.any_nil, Bool.or_false, decide_eq_true_eq, decide_true,
    Bool.not_true, Bool.false_and, Bool.false_eq_true, if_false, ne_eq, not_true_eq_false, decide_false]
  split_ifs <;> rfl

theorem recordFault_step {r : StepRecord} (hk : k < w.length) (h : windowRead s w k = some r)
    (hkind : r.kind ≠ .mark) :
    recordFault (windowRecords s w) vMax limit k =
      if r.targets.any fun t => w.length ≤ t then some .targetOutside
      else if r.conds = [] then some .noEndCondition
      else if r.voltages.any fun v => 125000 < v then some .voltageRange
      else claimFault vMax limit r := by
  simp only [recordFault, windowRecords_getD s w hk, h, windowRecords_length]
  cases r with
  | mark => exact absurd rfl hkind
  | profile upper lower cap claim conds =>
    cases claim <;> simp [StepRecord.isMark, StepRecord.kind, claimFault, StepRecord.rawClaim, StepRecord.declared]
  | _ => simp [StepRecord.isMark, StepRecord.kind, claimFault, StepRecord.moves, StepRecord.dir, StepKind.dir]

end

/-! ### The scan over the window (R16) -/

section
variable {rs : List (Option StepRecord)} {vMax limit : Nat}

theorem firstRecordFault_eq_none {n i : Nat} (h : ∀ k, i ≤ k → k < i + n → recordFault rs vMax limit k = none) :
    firstRecordFault rs vMax limit n i = none := by
  induction n generalizing i with
  | zero => rfl
  | succ n ih =>
    rw [firstRecordFault, h i (Nat.le_refl i) (by omega)]
    exact ih fun k hk hlt => h k (by omega) (by omega)

theorem firstRecordFault_eq_some {n i k : Nat} {reason : Reason} (hik : i ≤ k) (hk : k < i + n)
    (hfault : recordFault rs vMax limit k = some reason)
    (hbefore : ∀ j, i ≤ j → j < k → recordFault rs vMax limit j = none) :
    firstRecordFault rs vMax limit n i = some (reason, k) := by
  induction n generalizing i with
  | zero => omega
  | succ n ih =>
    rcases Nat.eq_or_lt_of_le hik with rfl | hlt
    · rw [firstRecordFault, hfault]
    · rw [firstRecordFault, hbefore i (Nat.le_refl i) hlt]
      exact ih hlt (by omega) fun j hj => hbefore j (by omega)

end

section
variable {s : State} {w : Window}

theorem validate_of_idle (c : Ch) (h : ∀ k, k < w.length → isWorking (windowRead s w k) = false) :
    validate s c (some w) = some (.noWorkingStep, 0) :=
  if_pos ((windowRecords_idle_iff s w).2 h)

theorem validate_of_working (c : Ch) (h : ∃ k, k < w.length ∧ isWorking (windowRead s w k) = true) :
    validate s c (some w) =
      firstRecordFault (windowRecords s w) (s.ch c).settings.vMax (claimLimitOf s c) w.length 0 := by
  obtain ⟨k, hk, hworks⟩ := h
  have hbusy : ¬ (windowRecords s w).all (fun r => !isWorking r) = true := fun hidle => by
    simp [(windowRecords_idle_iff s w).1 hidle k hk] at hworks
  rw [← windowRecords_length s w]
  exact if_neg hbusy

end

/-! ### The statement -/

/-- Settles O13: the model's checks of a record agree with the statement's at every index of the window, so the model's
scan stops where the statement says. -/
theorem validation : Obligations.Validation := by
  unfold Obligations.Validation
  intro s c set limit claim outside
  have hclaim : ∀ x : StepRecord, x.rawClaim set.vMax = claim x := fun x => by
    cases h : x.declared with
    | some g => simp only [rawClaim_of_declared h, claim, h, Option.getD_some]
    | none =>
      simp only [StepRecord.rawClaim, claim, h, Option.getD_none]
      cases x <;> rfl
  refine ⟨fun x => congrArg (min · limit) (hclaim x), rfl, ?_⟩
  intro w row works marks targets fault
  have hworks : ∀ k, isWorking (windowRead s w k) = works k := fun k => isWorking_eq_any _
  have hmarks : ∀ k, isMarkAt (windowRead s w k) = marks k := fun k => isMarkAt_eq_any _
  have htargets : ∀ x : StepRecord, x.targets = targets x := fun x => by
    cases x with
    | mark => rfl
    | _ =>
      refine (gotoTargets_eq_flatten _).trans (congrArg List.flatten (List.map_congr_left fun e _ => ?_))
      cases e.action <;> rfl
  have hfault : ∀ k, k < w.length → recordFault (windowRecords s w) set.vMax limit k = fault k := fun k hk => by
    cases h : windowRead s w k with
    | none =>
      have hrow : row k = none := h
      simp only [fault, hrow]
      exact recordFault_blank _ _ hk h
    | some x =>
      have hrow : row k = some x := h
      simp only [fault, hrow]
      cases x with
      | mark t n counts =>
        rw [recordFault_mark _ _ hk h]
        simp only [hworks, hmarks, targets, List.any_cons, List.any_nil, Bool.or_false, decide_eq_true_eq]
      | _ =>
        rw [recordFault_step _ _ hk h (by simp [StepRecord.kind]), htargets]
        simp [claimFault, hclaim, outside]
  refine ⟨fun hidle => validate_of_idle c fun k hk => (hworks k).trans (hidle k hk), fun ⟨k, hk, hwork⟩ => ?_⟩
  have hscan : validate s c (some w) = firstRecordFault (windowRecords s w) set.vMax limit w.length 0 :=
    validate_of_working c ⟨k, hk, (hworks k).trans hwork⟩
  rw [hscan]
  constructor
  · intro hpass
    exact firstRecordFault_eq_none fun j _ hj => (hfault j (by omega)).trans (hpass j (by omega))
  · intro i reason hi hat hbefore
    exact firstRecordFault_eq_some (Nat.zero_le i) (by omega) ((hfault i hi).trans hat) fun j _ hj =>
      (hfault j (by omega)).trans (hbefore j hj)

end Sys2Proof.Machine

/-! PROOF. The conversion of a raw code (R57, R58). The quotient is fixed by two facts: it is nearest, and a tie goes away
from zero. Both are shown for a code that is not negative and carried over by the symmetry of the rounding; that an exact
multiple gives its factor back follows from the first alone. -/
namespace Sys2Proof.Machine

/-! ### Rounding half away from zero (R57) -/

theorem roundDiv_natCast (a d : Nat) : roundDiv a d = ((2 * a + d) / (2 * d) : Nat) := by
  simp [roundDiv]

theorem roundDiv_neg_natCast {a : Nat} (ha : 0 < a) (d : Nat) : roundDiv (-a) d = -roundDiv a d := by
  simp [roundDiv, ha]

/-- The quotient of a magnitude lies in the half-open interval that sends a tie upward. -/
theorem mul_halfUpDiv_bounds {d : Nat} (hd : 0 < d) (a : Nat) :
    2 * (d * ((2 * a + d) / (2 * d))) ≤ 2 * a + d ∧ 2 * a < 2 * (d * ((2 * a + d) / (2 * d))) + d := by
  have hle := Nat.mul_div_le (2 * a + d) (2 * d)
  have hlt := Nat.lt_mul_div_succ (2 * a + d) (show 0 < 2 * d by omega)
  rw [Nat.mul_assoc] at hle
  rw [Nat.mul_add_one, Nat.mul_assoc] at hlt
  omega

theorem roundDiv_natCast_nearest {d : Nat} (hd : 0 < d) (a : Nat) :
    2 * (d * roundDiv a d - a).natAbs ≤ d ∧
    (2 * (d * roundDiv a d - a).natAbs = d → a < d * (roundDiv a d).natAbs) := by
  obtain ⟨hle, hlt⟩ := mul_halfUpDiv_bounds hd a
  rw [roundDiv_natCast, ← Int.natCast_mul, Int.natAbs_natCast]
  omega

/-- The rounded quotient is nearest, and a tie has the larger magnitude. -/
theorem roundDiv_nearest {d : Nat} (hd : 0 < d) (n : Int) :
    2 * (d * roundDiv n d - n).natAbs ≤ d ∧
    (2 * (d * roundDiv n d - n).natAbs = d → n.natAbs < d * (roundDiv n d).natAbs) := by
  obtain ⟨a, rfl | rfl⟩ := n.eq_nat_or_neg
  · exact roundDiv_natCast_nearest hd a
  · rcases Nat.eq_zero_or_pos a with rfl | ha
    · exact roundDiv_natCast_nearest hd 0
    · have hdist : (d * -roundDiv a d - -(a : Int)).natAbs = (d * roundDiv a d - a).natAbs := by
        rw [mul_neg, ← neg_sub', Int.natAbs_neg]
      rw [roundDiv_neg_natCast ha, hdist, Int.natAbs_neg, Int.natAbs_neg]
      exact roundDiv_natCast_nearest hd a

theorem roundDiv_mul_self {d : Nat} (hd : 0 < d) (k : Int) : roundDiv (k * d) d = k := by
  obtain ⟨hnear, -⟩ := roundDiv_nearest hd (k * d)
  have hdist : (d * roundDiv (k * d) d - k * d : Int).natAbs = d * (roundDiv (k * d) d - k).natAbs := by
    rw [mul_comm k, ← mul_sub, Int.natAbs_mul, Int.natAbs_natCast]
  rw [hdist] at hnear
  have hzero : (roundDiv (k * d) d - k).natAbs = 0 := by
    by_contra hne
    have := Nat.le_mul_of_pos_right d (Nat.pos_of_ne_zero hne)
    omega
  omega

theorem roundDiv_zero {d : Nat} (hd : 0 < d) : roundDiv 0 d = 0 := by
  simpa using roundDiv_mul_self hd 0

/-! ### The product (R57) -/

theorem product_bounds {raw gain : Int} (hraw : raw.natAbs ≤ 2 ^ 24) (hgain : gain.natAbs ≤ 2 ^ 31) :
    -2 ^ 63 ≤ raw * gain ∧ raw * gain < 2 ^ 63 := by
  have hmul := Nat.mul_le_mul hraw hgain
  rw [← Int.natAbs_mul] at hmul
  omega

/-! ### The clamp (R58) -/

theorem toNat_clampInt_zero (hi : Nat) (n : Int) : ((clampInt 0 hi n).toNat : Int) = max 0 (min (hi : Int) n) :=
  Int.toNat_of_nonneg (clampInt_bounds 0 hi n (Int.natCast_nonneg hi)).1

theorem overRange_iff (lo hi n : Int) : (decide (n < lo) || decide (hi < n)) = true ↔ n < lo ∨ hi < n := by
  rw [Bool.or_eq_true, decide_eq_true_eq, decide_eq_true_eq]

/-! ### The statement -/

/-- Settles O36: the rounded quotient is the nearest one, the unit gain and gain 0 give exact multiples, and a reading
takes each conversion through its clamp. -/
theorem conversion : Obligations.Conversion := by
  unfold Obligations.Conversion
  refine ⟨fun raw gain offset => ?rounded, fun raw gain hrawLo hrawHi hgainLo hgainHi => ?product,
    fun raw offset => ⟨?unit, ?zero⟩, fun cal raw now => ?taken⟩
  case rounded => exact ⟨roundDiv (raw * gain) 65536, rfl, roundDiv_nearest (by decide) (raw * gain)⟩
  case product => exact product_bounds (by omega) (by omega)
  case unit => exact congrArg (· + offset) (roundDiv_mul_self (by decide) raw)
  case zero => rw [convert, mul_zero, roundDiv_zero (by decide), zero_add]
  case taken =>
    exact ⟨toNat_clampInt_zero 125000 _, overRange_iff _ _ _, rfl, overRange_iff _ _ _, rfl, overRange_iff _ _ _,
      rfl, rfl, rfl, rfl⟩

end Sys2Proof.Machine

section
/-! PROOF. What every step keeps of the bounds of the collections, the ranges of the settings and the ports' demand
records: each command's meaning is `.next` of an act that `Holds`. -/
namespace Sys2Proof.Machine

open Sys2Proof.Safety

/-- A request row's meaning is its frame ending whole on the control link. -/
theorem arrive_next_holds (f : Frame) (s : State) : ∃ t, (.next (arrive f s) : Next) = .next t ∧ Holds s t :=
  ⟨_, rfl, arrive_holds f s⟩

theorem whenReady_next_holds {s : State} {f : State → State} (h : Evolves s (f s)) :
    ∃ t, (.next (whenReady s f) : Next) = .next t ∧ Holds s t :=
  ⟨_, rfl, (whenReady_evolves s f h).holds⟩

/-- The rows of the hall lines, which outside READY change the line's raw level alone (log 14). -/
theorem finish_next_holds {s t u : State} (ht : Evolves s t) (hu : Evolves s u) :
    ∃ x, (.next (if s.part = .ready then finish s t else u) : Next) = .next x ∧ Holds s x := by
  refine ⟨_, rfl, ?_⟩
  split
  · exact (finish_evolves s ht).holds
  · exact hu.holds

theorem linkError_next_holds (s : State) :
    ∃ x, (.next (if linkUp s then s.modLink Link.countError else s) : Next) = .next x ∧ Holds s x :=
  ⟨_, rfl, (Evolves.ite _ (Evolves.modLink s _ id id) (Evolves.refl s)).holds⟩

/-- Every command has a next state, in which the invariants that held before hold still. -/
theorem exec_holds (i : Instr) (s : State) : ∃ t, exec i s = .next t ∧ Holds s t := by
  cases i with
  | powerOn => exact ⟨_, rfl, (losePower_holds s).trans (beginStartUp_holds _ _)⟩
  | powerLoss => exact ⟨_, rfl, losePower_holds s⟩
  | startUpEnd =>
    exact ⟨_, rfl, (Evolves.ite _ ((endStartUp_evolves s).trans (pump_evolves _)) (Evolves.refl s)).holds⟩
  | settingsSaveEnd result => exact ⟨_, rfl, (endSave_holds s result).trans (pump_evolves _).holds⟩
  | badFrame => exact linkError_next_holds s
  | controlByteGapTimeout => exact linkError_next_holds s
  | controlFrameWhollySent => exact ⟨_, rfl, frameSent_holds s⟩
  | reportHoldExpiry => exact whenReady_next_holds (reportHoldExpires_evolves s)
  | lineBreakEnd c => exact whenReady_next_holds (lineBreakEnds_evolves s c)
  | stageFrameWhollySent c => exact whenReady_next_holds (stageFrameSent_evolves s c)
  | confirm c tag => exact whenReady_next_holds (confirmArrives_evolves s c tag)
  | reading c after raw => exact whenReady_next_holds (readingArrives_evolves s c after raw)
  | stageBadFrame c => exact whenReady_next_holds (countError_evolves s c)
  | stageByteGapTimeout c => exact whenReady_next_holds (countError_evolves s c)
  | confirmationTimerExpiry c => exact whenReady_next_holds (confirmationExpires_evolves s c)
  | periodEvent c => exact whenReady_next_holds (periodExpires_evolves s c)
  | gapTimerExpiry c => exact whenReady_next_holds (gapTimerExpires_evolves s c)
  | startTimerExpiry c => exact whenReady_next_holds (startTimerExpires_evolves s c)
  | grantHoldExpiry c => exact whenReady_next_holds (grantHoldExpires_evolves s c)
  | waitTimerExpiry c => exact whenReady_next_holds (waitTimerExpires_evolves s c)
  | underrunTimerExpiry c => exact whenReady_next_holds (underrunExpires_evolves s c)
  | alarmDebounceExpiry line => exact whenReady_next_holds (alarmDebounceExpires_evolves s line)
  | curtailDebounceExpiry => exact whenReady_next_holds (curtailDebounceExpires_evolves s)
  | wakeTimerExpiry => exact whenReady_next_holds (wakeTimerExpires_evolves s)
  | hallStopAssert => exact finish_next_holds (hallStopAsserts_evolves s) (Evolves.modHallStop s _)
  | hallStopDeassert => exact finish_next_holds (hallStopDeasserts_evolves s) (Evolves.modHallStop s _)
  | chamberAlarmLineChange line level =>
    exact finish_next_holds (alarmRawChange_evolves s line level) (Evolves.modLine s line _ id)
  | curtailmentLineChange level => exact finish_next_holds (curtailRawChange_evolves s level) (Evolves.modHall s _ id)
  | _ => exact arrive_next_holds _ s

/-- An invariant that does not look at the waiting commands, and that `exec` and the passing of a millisecond keep, is
kept by every step. -/
theorem step_keeps {P : State → Prop} {s t : State} (hs : P s) (hrest : ∀ rest, P s → P { s with pending := rest })
    (hexec : ∀ (i : Instr) (u v : State), P u → exec i u = .next v → P v) (htick : P s → P (tick s))
    (h : step s = .next t) : P t := by
  unfold step at h
  split at h
  · exact hexec _ _ _ (hrest _ hs) h
  · cases h
    exact htick hs

/-- The same for what `Holds` keeps. -/
theorem step_keeps_of_holds {P : State → Prop} {s t : State} (hs : P s)
    (hrest : ∀ rest, P s → P { s with pending := rest }) (hP : ∀ u v : State, Holds u v → P u → P v)
    (h : step s = .next t) : P t := by
  refine step_keeps hs hrest (fun i u v hu he => ?_) (hP s _ (tick_evolves s).holds) h
  obtain ⟨w, hw, hkeeps⟩ := exec_holds i u
  cases he.symm.trans hw
  exact hP u v hkeeps hu

/-- Settles O53. -/
theorem boundsKept : Obligations.BoundsKept := by
  unfold Obligations.BoundsKept
  exact fun s t hs => step_keeps_of_holds hs (fun _ b => ⟨b.requests, b.reports, b.queues, b.pool⟩)
    fun _ _ h => h.bounded

/-- Settles O54. -/
theorem settingsStayInRange : Obligations.SettingsStayInRange := by
  unfold Obligations.SettingsStayInRange
  exact fun s t hs => step_keeps_of_holds hs (fun _ b => ⟨b.chans, b.budget, b.alarms, b.debounce⟩)
    fun _ _ h => h.settings

/-- Settles O55. -/
theorem portsStaySound : Obligations.PortsStaySound := by
  unfold Obligations.PortsStaySound
  exact fun s t hs => step_keeps_of_holds hs (fun _ b => b) fun _ _ h => h.ports

/-- Settles O2: no arm of `exec` answers anything but a next state. -/
theorem everyCommandCompletes : Obligations.EveryCommandCompletes := by
  unfold Obligations.EveryCommandCompletes
  intro i s
  obtain ⟨t, ht, hkeeps⟩ := exec_holds i s
  exact ⟨t, ht, hkeeps.pending⟩

end Sys2Proof.Machine
end

section
/-! PROOF. The control link (R180 to R193, R196, R198): frames that arrive, the transmitter's choice, the report queue and
the part reset; the passing of a millisecond; and the state after reset. -/
namespace Sys2Proof.Machine

open Sys2Proof.Safety

/-! ### Requests at a free link -/

/-- A request that leaves the state alone. -/
theorem arrive_same {k : ReqKind} {r : Request} {s : State} {body : ReplyBody} (h : LinkFree s)
    (hb : r.body.length ≤ 1024) (ht : takeKind k r s = (s, body)) :
    arrive (k.frame r) s = replied s (replyTo k r body) := by
  have hcalm := arrive_calm k r h hb
  rw [ht] at hcalm
  exact hcalm (fun _ => rfl) (fun _ => rfl) rfl

/-- A request that changes neither a channel's state, nor its settings, nor the hall state. -/
theorem arrive_to {k : ReqKind} {r : Request} {s t : State} {body : ReplyBody} (h : LinkFree s)
    (hb : r.body.length ≤ 1024) (ht : takeKind k r s = (t, body)) (hs : ∀ c, (t.ch c).state = (s.ch c).state)
    (hk : ∀ c, (t.ch c).settings = (s.ch c).settings) (hh : t.hall.state = s.hall.state) :
    arrive (k.frame r) s = replied t (replyTo k r body) := by
  have hcalm := arrive_calm k r h hb
  rw [ht] at hcalm
  exact hcalm hs hk hh

theorem takePart_of {k : ReqKind} {r : Request} {s : State} {n : Nat} (hto : ToPart s r n) (hk : k.lengthOk n = true)
    (f : State → State × ReplyBody) : takePart k r s f = f s :=
  takePart_ok (by rw [hto.length]; exact hk) hto.channel

theorem takeCh_of {k : ReqKind} {r : Request} {s : State} {c : Ch} {n : Nat} (hto : ToChannel s r c n)
    (hk : k.lengthOk n = true) (f : Ch → State → State × ReplyBody) : takeCh k r s f = f c s :=
  takeCh_ok (by rw [hto.length]; exact hk) hto.channel

theorem next_congr {s t : State} (h : s = t) : (.next s : Next) = .next t := congrArg _ h

/-! ### An event's end that brings no period forward and finds no frame due -/

theorem finish_calm {s t : State} (hs : ∀ c, (t.ch c).state = (s.ch c).state)
    (hk : ∀ c, (t.ch c).settings = (s.ch c).settings) (hh : t.hall.state = s.hall.state) : finish s t = pump t := by
  unfold finish
  rw [bringForwardAll_same allCh hs hk hh, ite_self]

theorem finish_modLink (s : State) (f : Link → Link) : finish s (s.modLink f) = pump (s.modLink f) :=
  finish_calm (fun _ => rfl) (fun _ => rfl) rfl

theorem pump_noFrameDue {s : State} (h : NoFrameDue s) : pump s = s := by
  cases hs : s.link.sending with
  | some f => exact pump_busy hs
  | none =>
    rcases h with h | ⟨hr, hq⟩
    · exact absurd hs h
    · refine pump_none hs hr (.inr (hq.imp_left fun ht => ?_))
      exact Option.isSome_iff_ne_none.2 ht

/-- A change of a channel that leaves what `g` reads of it leaves that of every channel. -/
theorem ch_modCh_eq {α : Type} (s : State) (c : Ch) (f : Channel → Channel) (g : Channel → α)
    (h : g (f (s.ch c)) = g (s.ch c)) (d : Ch) : g ((s.modCh c f).ch d) = g (s.ch d) := by
  rw [State.ch_modCh]
  split
  · rename_i e; rw [e, h]
  · rfl

theorem finish_modCh (s : State) (c : Ch) (f : Channel → Channel) (hs : (f (s.ch c)).state = (s.ch c).state)
    (hk : (f (s.ch c)).settings = (s.ch c).settings) : finish s (s.modCh c f) = pump (s.modCh c f) :=
  finish_calm (ch_modCh_eq s c f Channel.state hs) (ch_modCh_eq s c f Channel.settings hk) rfl

theorem finish_modPort (s : State) (c : Ch) (f : Port → Port) : finish s (s.modPort c f) = pump (s.modPort c f) :=
  finish_modCh s c _ rfl rfl

/-! ### Frames that arrive (R155, R180, R181) -/

theorem linkUp_of {s : State} (h : s.part = .ready ∨ s.part = .starting) : linkUp s = true := by
  rcases h with h | h <;> simp [linkUp, h]

theorem linkUp_down {s : State} (h : s.part = .off ∨ s.part = .halted) : linkUp s = false := by
  rcases h with h | h <;> simp [linkUp, h]

/-- No request is taken while a reply waits or is being sent (R182). -/
theorem takeNext_replyBusy {s : State} (h : s.link.replyFree = false) : takeNext s = s := by
  unfold takeNext
  split
  · rfl
  · simp [h]

theorem replyFree_false {l : Link} (h : (∃ x, l.sending = some (.reply x)) ∨ l.reply ≠ none) :
    l.replyFree = false := by
  unfold Link.replyFree
  rcases h with ⟨x, hx⟩ | h
  · simp [hx]
  · simp [h]

@[simp] theorem Link.enqueue_sending (l : Link) (f : Frame) : (l.enqueue f).sending = l.sending := by
  unfold Link.enqueue; split <;> rfl

@[simp] theorem Link.enqueue_reply (l : Link) (f : Frame) : (l.enqueue f).reply = l.reply := by
  unfold Link.enqueue; split <;> rfl

theorem arrive_busy {f : Frame} {s : State} (hp : s.part = .ready ∨ s.part = .starting) (hb : f.body.length ≤ 1024)
    (h : (∃ x, s.link.sending = some (.reply x)) ∨ (s.link.sending ≠ none ∧ s.link.reply ≠ none)) :
    arrive f s = s.modLink fun l => l.enqueue f := by
  have hfree : (s.modLink fun l => l.enqueue f).link.replyFree = false := by
    refine replyFree_false ?_
    simpa using h.imp_right And.right
  have hbusy : (s.modLink fun l => l.enqueue f).link.sending ≠ none := by
    rcases h with ⟨x, hx⟩ | h
    · simp [hx]
    · simpa using h.1
  unfold arrive
  rw [if_pos (linkUp_of hp), if_neg (Nat.not_lt.2 hb), takeNext_replyBusy hfree,
    finish_modLink, pump_noFrameDue (.inl hbusy)]

/-- Settles O4. -/
theorem framesArrive : Obligations.FramesArrive := by
  unfold Obligations.FramesArrive
  refine ⟨fun f s hp hb h => congrArg _ (arrive_busy hp hb h), fun cause s => ⟨fun hp => ?_, fun hp => ?_⟩,
    fun s c cause hp hdue => ?_⟩
  · have h : (if linkUp s then s.modLink Link.countError else s) = s.modLink Link.countError :=
      if_pos (linkUp_of (hp.imp id id))
    exact ⟨congrArg _ h, congrArg _ h⟩
  · have h : (if linkUp s then s.modLink Link.countError else s) = s := if_neg (by simp [linkUp_down hp])
    exact ⟨congrArg _ h, congrArg _ h⟩
  · have h : whenReady s (fun s => s.modPort c Port.countError) = s.modPort c Port.countError := by
      unfold whenReady
      rw [if_pos hp]
      exact (finish_modPort s c _).trans (pump_noFrameDue hdue)
    exact ⟨congrArg _ h, congrArg _ h⟩

/-! ### Request frames (R182, R196) -/

theorem ofCode_eq_none_iff : ∀ kind : Byte, ReqKind.ofCode kind = none ↔
    ¬(0x01 ≤ kind.toNat ∧ kind.toNat ≤ 0x0B ∨ 0x10 ≤ kind.toNat ∧ kind.toNat ≤ 0x12 ∨
      0x20 ≤ kind.toNat ∧ kind.toNat ≤ 0x31) := by
  intro kind
  have hfind : ReqKind.ofCode kind = none ↔ ∀ k ∈ ReqKind.all, k.code ≠ kind := by
    simp [ReqKind.ofCode, List.find?_eq_none]
  rw [hfind]
  simp only [ReqKind.all, List.forall_mem_cons, ReqKind.code, ne_eq, ← BitVec.toNat_inj]
  simp only [BitVec.toNat_ofNat, List.not_mem_nil, false_imp_iff, implies_true, and_true]
  omega

/-- The link port is ready for a request: none waits and no reply is outstanding (R182). -/
theorem replyFree_true {l : Link} (hr : l.reply = none) (hs : ∀ x, l.sending ≠ some (.reply x)) :
    l.replyFree = true := by
  unfold Link.replyFree
  rw [hr]
  generalize l.sending = x at hs
  match x, hs with
  | none, _ => rfl
  | some (.report _), _ => rfl
  | some (.reply y), hs => exact absurd rfl (hs y)

/-- With no request waiting and no reply outstanding, a frame is taken as it ends (R182). -/
theorem arrive_taken {f : Frame} {s : State} (hp : s.part = .ready ∨ s.part = .starting)
    (hb : f.body.length ≤ 1024) (hq : s.link.requests = []) (hfree : s.link.replyFree = true) :
    arrive f s = finish s (answer f s) := by
  have hqueue : (s.modLink fun l => l.enqueue f).link.requests = [f] := by simp [Link.enqueue, hq]
  have hfree' : (s.modLink fun l => l.enqueue f).link.replyFree = true := by
    simpa [Link.replyFree] using hfree
  have hrest : (s.modLink fun l => l.enqueue f).modLink (fun l => { l with requests := [] }) = s := by
    simp only [State.modLink, Link.enqueue, hq, List.length_nil, Nat.zero_lt_succ, if_true]
    rw [← hq]
  unfold arrive
  rw [if_pos (linkUp_of hp), if_neg (Nat.not_lt.2 hb)]
  unfold takeNext
  simp only [hqueue, hfree', if_true, hrest]

/-- A reply made in an event that changes nothing else is sent, or waits behind the report being sent (R183). -/
theorem finish_reply {s : State} (x : Reply) (hr : s.link.reply = none) :
    finish s (s.modLink fun l => { l with reply := some x }) = replied s x := by
  rw [finish_modLink]
  unfold replied
  cases hsend : s.link.sending with
  | some y => rw [pump_busy (by exact hsend)]; simp [State.modLink, hsend]
  | none => rw [pump_reply (by exact hsend) rfl]; simp [State.modLink, hsend, ← hr]

/-- A frame whose taking leaves the state alone. -/
theorem arrive_answered {f : Frame} {s : State} {body : ReplyBody} (hp : s.part = .ready ∨ s.part = .starting)
    (hb : f.body.length ≤ 1024) (hq : s.link.requests = []) (hr : s.link.reply = none)
    (hs : ∀ x, s.link.sending ≠ some (.reply x)) (ht : takeFrame f s = (s, body)) :
    arrive f s = replied s ⟨f.tag, f.channel, f.kind, body⟩ := by
  rw [arrive_taken hp hb hq (replyFree_true hr hs), answer, ht]
  exact finish_reply _ hr

/-- Settles O8. -/
theorem requestFrames : Obligations.RequestFrames := by
  unfold Obligations.RequestFrames
  refine ⟨fun r s => ?_, ofCode_eq_none_iff, fun kind r s hk hb hfree => ?_, fun f s hb hp hq hr hs hkind => ?_⟩
  · refine ⟨rfl, rfl, rfl, rfl, rfl, rfl, rfl, rfl, rfl, rfl, rfl, rfl, rfl, rfl, rfl, rfl, rfl, rfl, rfl, rfl, rfl,
      rfl, rfl, rfl, rfl, rfl, rfl, rfl, rfl, rfl, rfl, rfl, fun _ => rfl⟩
  · refine congrArg _ (arrive_answered (.inl hfree.ready) hb hfree.requests hfree.reply hfree.sending ?_)
    simp [takeFrame, hk, hfree.ready, refuse]
  · refine congrArg _ (arrive_answered (.inr hp) hb hq hr hs ?_)
    unfold takeFrame
    cases hk : ReqKind.ofCode f.kind with
    | none => simp [hp]
    | some k =>
      have hne : k ≠ .identify := by
        rintro rfl
        have := List.find?_some hk
        simp only [decide_eq_true_eq] at this
        exact hkind this.symm
      simp [hp, hne]

/-! ### One step (R169) -/

theorem runDown_eq (t : Option Nat) : runDown t = t.map (· - 1) := rfl

/-- Settles O1. -/
theorem stepTakesFront : Obligations.StepTakesFront := by
  unfold Obligations.StepTakesFront
  refine ⟨fun i q s => rfl, fun s hq hp => ?_, fun s hq hp => ?_⟩
  · simp [step, hq, tick, hp]
  · refine ⟨tick s, by simp [step, hq], ?_⟩
    have hch : ∀ c, (tick s).ch c = Channel.tick (s.ch c) := fun c => by simp [tick, hp, State.ch]
    have hline : ∀ l, (tick s).line l = AlarmLine.tick (s.line l) := fun l => by simp [tick, hp, State.line]
    simp only [hch, hline]
    rw [tick, if_pos hp]
    exact ⟨rfl, rfl, rfl, rfl, rfl, hp, hq, rfl, rfl, rfl, rfl, fun _ => rfl, fun _ => rfl⟩

/-! ### The transmitter (R183, R191, R193) -/

/-- A transmitter that has chosen a frame, or found none, does not choose again. -/
theorem pump_pump (s : State) : pump (pump s) = pump s := by
  cases hs : s.link.sending with
  | some f => rw [pump_busy hs, pump_busy hs]
  | none =>
    cases hr : s.link.reply with
    | some x => rw [pump_reply hs hr]; exact pump_busy rfl
    | none =>
      by_cases hq : s.part ≠ .ready ∨ s.link.holdTimer.isSome ∨ s.link.reports = []
      · rw [pump_none hs hr hq, pump_none hs hr hq]
      · push Not at hq
        obtain ⟨hp, ht, hreports⟩ := hq
        obtain ⟨r, rest, hcons⟩ := List.exists_cons_of_ne_nil hreports
        rw [pump_report hs hr hp (by simpa using ht) hcons]
        exact pump_busy (f := .report r) (Link.recover_keeps _ _).sending

/-- An event that reaches the link port alone ends with the transmitter's choice. -/
theorem finish_of_link {s t : State} (h : t = { s with link := t.link }) : finish s t = pump t := by
  rw [h]
  exact finish_modLink s fun _ => t.link

/-- The state with its transmitter freed. -/
def State.freed (s : State) : State := s.modLink fun l => { l with sending := none }

theorem frameSent_eq {s : State} {f : LinkFrame} (hs : s.link.sending = some f) (hreset : s.link.resetPending = false) :
    frameSent s = finish s (takeNext (pump s.freed)) := by
  simp [frameSent, hs, hreset, State.freed]

theorem takeNext_nil {s : State} (h : s.link.requests = []) : takeNext s = s := by
  simp [takeNext, h]

theorem pump_requests (s : State) : (pump s).link.requests = s.link.requests := by
  unfold pump
  split
  · rfl
  · split
    · rfl
    · split
      · split
        · rfl
        · exact (Link.recover_keeps _ _).requests
      · rfl

/-- With no request waiting, the end of a frame is the transmitter's next choice. -/
theorem frameSent_noRequest {s : State} {f : LinkFrame} (hs : s.link.sending = some f)
    (hreset : s.link.resetPending = false) (hq : s.link.requests = []) : frameSent s = pump s.freed := by
  rw [frameSent_eq hs hreset, takeNext_nil (by rw [pump_requests]; exact hq), finish_of_link, pump_pump]
  rw [pump_eq]
  rfl

/-- A report that leaves 48 behind it while the lost flag is set makes REPORTS_LOST (R191). -/
theorem recover_lost {l : Link} (now : Nat) (hn : l.reports.length = 48) (hl : l.lost = true) :
    l.recover now =
      { l with
        reports := l.reports ++ [⟨l.nextSeq, now, partWide, .reportsLost l.lostCount l.lostFaultCount⟩]
        nextSeq := l.nextSeq + 1
        lost := false
        lostCount := 0
        lostFaultCount := 0 } := by
  simp [Link.recover, hn, hl, Link.make, Link.accept]

theorem recover_none {l : Link} (now : Nat) (h : l.reports.length ≠ 48 ∨ l.lost = false) : l.recover now = l := by
  unfold Link.recover
  rw [if_neg]
  rintro ⟨hn, hl⟩
  rcases h with h | h
  · exact h hn
  · rw [hl] at h; cases h

/-! ### Reports (R189, R190) -/

/-- The oldest non-fault report leaves the queue. -/
theorem evictOldest_split {a b : List Report} {x : Report} (ha : ∀ y ∈ a, y.isFault = true) (hx : x.isFault = false) :
    evictOldest (a ++ x :: b) = some (a ++ b) := by
  induction a with
  | nil => simp [evictOldest, hx]
  | cons y a ih =>
    rw [List.forall_mem_cons] at ha
    simp [evictOldest, ha.1, ih ha.2]

theorem accept_room {l : Link} (r : Report) (h : l.reports.length < 64) :
    l.accept r = { l with reports := l.reports ++ [r] } := by
  simp [Link.accept, h]

theorem accept_drop {l : Link} {r : Report} (h : 64 ≤ l.reports.length) (hr : r.isFault = false) :
    l.accept r = l.countLost false := by
  simp [Link.accept, Nat.not_lt.2 h, hr]

theorem accept_evict {l : Link} {r : Report} {rest : List Report} (h : 64 ≤ l.reports.length) (hr : r.isFault = true)
    (he : evictOldest l.reports = some rest) :
    l.accept r = { l.countLost false with reports := rest ++ [r] } := by
  simp [Link.accept, Nat.not_lt.2 h, hr, he]

theorem accept_noneLeft {l : Link} {r : Report} (h : 64 ≤ l.reports.length) (hr : r.isFault = true)
    (he : evictOldest l.reports = none) : l.accept r = l.countLost true := by
  simp [Link.accept, Nat.not_lt.2 h, hr, he]

/-- With the queue full a report is dropped or another is, and the lost flag and count say so. -/
theorem accept_full_counts {l : Link} (r : Report) (h : 64 ≤ l.reports.length) :
    (l.accept r).lost = true ∧ (l.accept r).lostCount = min 65535 (l.lostCount + 1) := by
  cases hr : r.isFault with
  | false => rw [accept_drop h hr]; exact ⟨rfl, rfl⟩
  | true =>
    cases he : evictOldest l.reports with
    | none => rw [accept_noneLeft h hr he]; exact ⟨rfl, rfl⟩
    | some rest => rw [accept_evict h hr he]; exact ⟨rfl, rfl⟩

theorem make_drop_rule (l : Link) (now : Nat) (channel : Byte) (body : ReportBody) :
    let r : Report := ⟨l.nextSeq, now, channel, body⟩
    let t := l.make now channel body
    t.nextSeq = l.nextSeq + 1 ∧
    (l.reports.length < 64 → t.reports = l.reports ++ [r] ∧ t.lost = l.lost ∧ t.lostCount = l.lostCount ∧
      t.lostFaultCount = l.lostFaultCount) ∧
    (64 ≤ l.reports.length → t.lost = true ∧ t.lostCount = min 65535 (l.lostCount + 1) ∧
      (r.isFault = false → t.reports = l.reports ∧ t.lostFaultCount = l.lostFaultCount) ∧
      (∀ a x b, r.isFault = true → l.reports = a ++ x :: b → (∀ y ∈ a, y.isFault = true) → x.isFault = false →
        t.reports = a ++ b ++ [r] ∧ t.lostFaultCount = l.lostFaultCount) ∧
      (r.isFault = true → (∀ y ∈ l.reports, y.isFault = true) →
        t.reports = l.reports ∧ t.lostFaultCount = min 65535 (l.lostFaultCount + 1))) := by
  intro r t
  have ht : t = { l with nextSeq := l.nextSeq + 1 }.accept r := rfl
  refine ⟨Link.make_nextSeq l now channel body, fun h => ?_, fun h => ?_⟩
  · rw [ht, accept_room r (by exact h)]
    exact ⟨rfl, rfl, rfl, rfl⟩
  · have hc := accept_full_counts (l := { l with nextSeq := l.nextSeq + 1 }) r h
    refine ⟨hc.1, hc.2, fun hr => ?_, fun a x b hr hl ha hx => ?_, fun hr hall => ?_⟩
    · rw [ht, accept_drop (by exact h) hr]
      exact ⟨rfl, rfl⟩
    · rw [ht, accept_evict (by exact h) hr (by simpa [hl] using evictOldest_split ha hx)]
      exact ⟨rfl, rfl⟩
    · rw [ht, accept_noneLeft (l := { l with nextSeq := l.nextSeq + 1 }) h hr (evictOldest_none.2 hall)]
      exact ⟨rfl, rfl⟩

/-! ### Holding reports back (R193) -/

/-- The expiry of the report hold timer in READY. -/
theorem reportHoldExpiry_eq {s : State} (hp : s.part = .ready) (ht : s.link.holdTimer ≠ none) :
    exec .reportHoldExpiry s = .next (pump (s.modLink fun l => { l with holdTimer := none })) := by
  refine next_congr ?_
  rw [whenReady, if_pos hp, reportHoldExpires, if_pos (Option.isSome_iff_ne_none.2 ht), finish_modLink]

/-- Settles O7. -/
theorem reportQueue : Obligations.ReportQueue := by
  unfold Obligations.ReportQueue
  refine ⟨make_drop_rule, fun r s hto => ?_, fun s hp ht => ⟨fun h => ?_, fun r rest hs hr hreports hn => ?_⟩⟩
  · have htake : takeKind .holdReports r s =
        (s.modLink fun l => { l with holdTimer := if field r.body 0 2 = 0 then none else some (field r.body 0 2) },
          .ok (.reportHold (decide (field r.body 0 2 ≠ 0))
            (if field r.body 0 2 = 0 then none else some (field r.body 0 2)) s.link.reports.length)) := by
      rw [takeKind, takeHoldReports, takePart_of hto rfl]
      by_cases h : field r.body 0 2 = 0 <;> simp [h]
    exact next_congr (arrive_to hto.free (by rw [hto.length]; decide) htake (fun _ => rfl) (fun _ => rfl) rfl)
  · rw [reportHoldExpiry_eq hp ht]
    refine next_congr (pump_noFrameDue ?_)
    exact h.imp id fun h => ⟨h.2, .inr h.1⟩
  · rw [reportHoldExpiry_eq hp ht]
    refine next_congr ((pump_report (s := s.modLink fun l => { l with holdTimer := none }) (r := r) (rest := rest) hs hr hp rfl hreports).trans ?_)
    simp only [State.modLink]
    rw [recover_none _ (.inl hn)]

/-! ### The end of a frame (R182, R183, R191) -/

theorem takeFrame_stays (f : Frame) (s : State) : Stays s (takeFrame f s).1 := by
  unfold takeFrame
  split
  · split
    · exact Stays.refl s
    · exact takeKind_stays _ _ _
  · split <;> exact Stays.refl s

theorem pump_part (s : State) : (pump s).part = s.part := by rw [pump_eq]

/-- The transmitter's choice among reports, with no reply waiting. -/
theorem pump_freed_reports {s : State} (hr : s.link.reply = none) (hp : s.part = .ready) :
    (pump s.freed).link.reply = none ∧
      (s.link.holdTimer = none ∧ s.link.reports ≠ [] →
        ∃ r, s.link.reports.head? = some r ∧ (pump s.freed).link.sending = some (.report r)) ∧
      (¬(s.link.holdTimer = none ∧ s.link.reports ≠ []) → (pump s.freed).link.sending = none) := by
  by_cases hq : s.link.holdTimer = none ∧ s.link.reports ≠ []
  · obtain ⟨ht, hreports⟩ := hq
    obtain ⟨r, rest, hcons⟩ := List.exists_cons_of_ne_nil hreports
    rw [pump_report (s := s.freed) rfl hr hp ht hcons]
    exact ⟨(Link.recover_keeps _ _).reply.trans hr,
      fun _ => ⟨r, by rw [hcons]; rfl, (Link.recover_keeps _ _).sending⟩, fun h => absurd ⟨ht, hreports⟩ h⟩
  · rw [pump_none (s := s.freed) rfl hr]
    · exact ⟨hr, fun h => absurd h hq, fun _ => rfl⟩
    · rw [not_and_or, not_not] at hq
      exact .inr (hq.imp_left Option.isSome_iff_ne_none.2)

theorem replyFree_reports {l : Link} (hr : l.reply = none) (hs : l.sending = none ∨ ∃ r, l.sending = some (.report r)) :
    l.replyFree = true := by
  refine replyFree_true hr fun x hx => ?_
  rcases hs with h | ⟨r, h⟩ <;> rw [h] at hx <;> cases hx

/-- A link port that is ready for a request takes the head of the queue. -/
theorem takeNext_cons {s : State} {g : Frame} {rest : List Frame} (hq : s.link.requests = g :: rest)
    (hfree : s.link.replyFree = true) : takeNext s = answer g (s.modLink fun l => { l with requests := rest }) := by
  simp [takeNext, hq, hfree]

theorem finish_link {s t : State} : ∃ u, PeriodKeeps t u ∧ finish s t = pump u := by
  unfold finish
  split
  · exact ⟨_, bringForwardAll_period s t allCh, rfl⟩
  · exact ⟨t, PeriodKeeps.refl t, rfl⟩

/-- A reply made as the request at the head of the queue is taken: it is sent at once, or waits behind a report. -/
theorem frameSent_answers {s : State} {f : LinkFrame} {g : Frame} {rest : List Frame} (hp : s.part = .ready)
    (hs : s.link.sending = some f) (hreset : s.link.resetPending = false) (hq : s.link.requests = g :: rest)
    (hr : s.link.reply = none) : ∃ t body, frameSent s = t ∧ t.link.requests = rest ∧
      if s.link.holdTimer = none ∧ s.link.reports ≠ [] then
        (∃ r, s.link.reports.head? = some r ∧ t.link.sending = some (.report r)) ∧
        t.link.reply = some ⟨g.tag, g.channel, g.kind, body⟩
      else t.link.sending = some (.reply ⟨g.tag, g.channel, g.kind, body⟩) ∧ t.link.reply = none := by
  obtain ⟨hreply, hreport, hidle⟩ := pump_freed_reports hr hp
  have hqueue : (pump s.freed).link.requests = g :: rest := by rw [pump_requests]; exact hq
  have hfree : (pump s.freed).link.replyFree = true := by
    refine replyFree_reports hreply ?_
    by_cases h : s.link.holdTimer = none ∧ s.link.reports ≠ []
    · obtain ⟨r, -, hr⟩ := hreport h
      exact .inr ⟨r, hr⟩
    · exact .inl (hidle h)
  have hstays := takeFrame_stays g ((pump s.freed).modLink fun l => { l with requests := rest })
  obtain ⟨u, hu, hfinish⟩ := finish_link (s := s) (t := takeNext (pump s.freed))
  rw [takeNext_cons hqueue hfree] at hu hfinish
  have hreq : u.link.requests = rest := by rw [hu.link]; exact hstays.link.requests
  have hsend : u.link.sending = (pump s.freed).link.sending := by rw [hu.link]; exact hstays.link.sending
  obtain ⟨body, hrep⟩ : ∃ body, u.link.reply = some ⟨g.tag, g.channel, g.kind, body⟩ := ⟨_, by rw [hu.link]; rfl⟩
  refine ⟨_, body, rfl, ?_, ?_⟩
  · rw [frameSent_eq hs hreset, takeNext_cons hqueue hfree, hfinish, pump_requests, hreq]
  · rw [frameSent_eq hs hreset, takeNext_cons hqueue hfree, hfinish]
    split
    · rename_i h
      obtain ⟨r, hhead, hsending⟩ := hreport h
      rw [pump_busy (hsend.trans hsending)]
      exact ⟨⟨r, hhead, hsend.trans hsending⟩, hrep⟩
    · rename_i h
      rw [pump_reply (hsend.trans (hidle h)) hrep]
      exact ⟨rfl, rfl⟩

/-! ### The part reset (R198) and the beginning of a start-up (R195) -/

theorem poolRead_nil (i : Nat) : poolRead [] i = none := rfl

theorem allCh_eq_finRange : allCh = List.finRange 8 := by decide

theorem powerOn_fresh (settings : ChanSettings) (cal : Calibration) : Fresh (Channel.powerOn settings cal) where
  windows := ⟨rfl, rfl⟩
  state := rfl
  holds := ⟨rfl, rfl⟩
  step := ⟨rfl, rfl, rfl, rfl, rfl, rfl⟩
  cycle := ⟨rfl, rfl, rfl, rfl⟩
  life := ⟨rfl, rfl⟩
  ends := ⟨rfl, rfl, rfl, rfl⟩
  timers := ⟨rfl, rfl⟩
  faults := ⟨rfl, rfl, rfl⟩
  warned := ⟨rfl, rfl⟩
  last := ⟨rfl, rfl, rfl, rfl, rfl, rfl, rfl, rfl⟩
  lastFlags := ⟨rfl, rfl, rfl, rfl, rfl, rfl⟩
  readings := ⟨rfl, rfl, rfl, rfl⟩
  pack := ⟨rfl, rfl, rfl, rfl, rfl, rfl, rfl, rfl, rfl⟩
  period := ⟨rfl, rfl⟩
  queue := rfl
  playback := ⟨rfl, rfl, rfl, rfl, rfl, rfl, rfl, rfl⟩
  demands := ⟨rfl, rfl, rfl, rfl, rfl, rfl⟩
  line := ⟨rfl, rfl, rfl, rfl, rfl, rfl, rfl⟩

section
variable (part : PartState) (cause : StartCause) (loaded : StoredSettings) (speed : LinkSpeed) (image : Image)
  (lines : Vector Bool 4) (hallStop curtailment : Bool) (freeCount : Nat) (pending : List Instr)

theorem powerOn_ch (c : Ch) :
    (State.powerOn part cause loaded speed image lines hallStop curtailment freeCount pending).ch c =
      Channel.powerOn loaded.chans[c] loaded.cals[c] := by
  simp [State.powerOn, State.ch]

theorem powerOn_line (l : LineNo) :
    (State.powerOn part cause loaded speed image lines hallStop curtailment freeCount pending).line l =
      { settings := loaded.alarms[l], raw := lines[l], filtered := false, timer := none } := by
  simp [State.powerOn, State.line]

theorem powerOn_lowList :
    lowList (State.powerOn part cause loaded speed image lines hallStop curtailment freeCount pending) =
      lowChannels (loaded.chans.map ChanSettings.group) := by
  unfold lowList lowChannels
  rw [allCh_eq_finRange]
  congr 1
  funext c
  simp only [groupOfCh, powerOn_ch, Channel.powerOn, Fin.getElem_fin, Vector.getElem_map]

/-- What a start-up begins from is the power-on state with the settings of its image. -/
theorem powerOn_begun : Begun image
    (State.powerOn part cause (Image.load image) (Image.speed image) image lines hallStop curtailment freeCount
      pending) where
  stored := rfl
  save := rfl
  blank _ := rfl
  fresh c := by rw [powerOn_ch]; exact powerOn_fresh _ _
  settings c := by rw [powerOn_ch]; exact ⟨rfl, rfl⟩
  budget := rfl
  arbiter := ⟨rfl, rfl, rfl, rfl⟩
  pointers := ⟨rfl, by rw [powerOn_lowList]; rfl⟩
  lines l := by rw [powerOn_line]; exact ⟨rfl, rfl, rfl⟩
  hall := ⟨rfl, rfl, rfl, rfl, rfl, rfl⟩
  wake := ⟨rfl, rfl, rfl⟩
  queues := ⟨rfl, rfl, rfl, rfl⟩
  counters := ⟨rfl, rfl, rfl, rfl, rfl, rfl, rfl, rfl⟩
  waits := ⟨rfl, rfl⟩
  speed := rfl

end

/-- Settles O6. -/
theorem resetPart : Obligations.ResetPart := by
  unfold Obligations.ResetPart
  refine ⟨fun r s hto => ?_, fun s x hs hreset => ⟨fun hsave => ?_, fun y hsave => ?_⟩⟩
  · have htake : takeKind .resetPart r s = (s.modLink fun l => { l with resetPending := true }, .ok .done) := by
      rw [takeKind, takeResetPart, takePart_of hto rfl]
    exact next_congr (arrive_to hto.free (by rw [hto.length]; decide) htake (fun _ => rfl) (fun _ => rfl) rfl)
  · refine ⟨beginStartUp s.freed .resetPart, next_congr ?_, rfl, rfl, powerOn_begun ..⟩
    simp [frameSent, hs, hreset, resetPartNow, hsave, State.freed]
  · refine ⟨_, rfl, ?_⟩
    simp [frameSent, hs, hreset, resetPartNow, hsave]

end Sys2Proof.Machine
end

section
/-! PROOF. Power and start-up (R195, R197): the state a start-up begins from, in which every invariant holds, and what the
end of start-up makes of it. -/
namespace Sys2Proof.Machine

open Sys2Proof.Safety

/-! ### The invariants at power-on -/

section
variable (part : PartState) (cause : StartCause) (loaded : StoredSettings) (speed : LinkSpeed) (image : Image)
  (lines : Vector Bool 4) (hallStop curtailment : Bool) (freeCount : Nat) (pending : List Instr)

theorem powerOn_faultsSound (hp : part ≠ .ready) :
    FaultsSound (State.powerOn part cause loaded speed image lines hallStop curtailment freeCount pending) where
  faulted c _ := by rw [powerOn_ch]; simp [Channel.powerOn]
  first c h := by rw [powerOn_ch] at h; exact absurd rfl h
  noFirst c _ := by rw [powerOn_ch]; rfl
  follower c h := by rw [powerOn_ch] at h; cases h
  hallStop h := absurd h hp
  starting _ c := by rw [powerOn_ch]; rfl

theorem powerOn_arbiterSound :
    ArbiterSound (State.powerOn part cause loaded speed image lines hallStop curtailment freeCount pending) where
  tests := by
    simp [testsHold, withinCeilings, intakeOk, returnOk, intakeSide, returnSide, sumsOf, State.powerOn]
  quiet := rfl
  once := List.nodup_nil
  states c h := by cases h
  waits e h := by cases h
  paused h := absurd rfl h

theorem powerOn_runsSound :
    RunsSound (State.powerOn part cause loaded speed image lines hallStop curtailment freeCount pending) where
  windows c w h := by rw [powerOn_ch] at h; rcases h with h | h <;> cases h
  active c w _ h := by rw [powerOn_ch] at h; cases h
  swap c h := by rw [powerOn_ch] at h; exact absurd rfl h
  staged c w h := by rw [powerOn_ch] at h; exact absurd rfl h
  index c h := by rw [powerOn_ch] at h; simp [Channel.powerOn] at h
  loops c w e target count cyc h := by rw [powerOn_ch] at h; simp [Channel.powerOn] at h

theorem powerOn_demandsSound :
    DemandsSound (State.powerOn part cause loaded speed image lines hallStop curtailment freeCount pending) where
  granted c h := by
    unfold Working at h
    rw [powerOn_ch] at h
    rcases h with h | ⟨h, -⟩ <;> cases h
  demands c d h := by rw [powerOn_ch] at h; cases h

end

/-- Settles O60. -/
theorem resetMeetsInvariants : Obligations.ResetMeetsInvariants := by
  unfold Obligations.ResetMeetsInvariants
  have hload : Image.load ⟨.other, 0, StoredSettings.default⟩ = StoredSettings.default := rfl
  have hsound := powerOn_sound .starting .powerOn ⟨.other, 0, StoredSettings.default⟩ ⟨.other, 0, StoredSettings.default⟩
    .baud921600 (Vector.replicate 4 false) false false 0 []
  rw [hload] at hsound
  exact ⟨hsound.1, hsound.2.1, hsound.2.2, rfl, rfl, rfl, powerOn_begun .., powerOn_faultsSound _ _ _ _ _ _ _ _ _ _ nofun,
    powerOn_arbiterSound .., powerOn_runsSound .., powerOn_demandsSound ..⟩

/-! ### Power (R195, R197) -/

theorem losePower_image (s : State) :
    (losePower s).image = if s.saveInFlight.isSome then Image.cutShort s.freeCount else s.image := rfl

theorem losePower_begun (s : State) : Begun (losePower s).image (losePower s) := powerOn_begun ..

theorem applyPower_begun (s : State) : Begun (losePower s).image (applyPower s) := powerOn_begun ..

theorem losePower_raw (s : State) (l : LineNo) : ((losePower s).line l).raw = (s.line l).raw := by
  unfold losePower
  rw [powerOn_line]
  simp [rawLevels, State.line]

theorem beginStartUp_raw (s : State) (cause : StartCause) (l : LineNo) :
    ((beginStartUp s cause).line l).raw = (s.line l).raw := by
  unfold beginStartUp
  rw [powerOn_line]
  simp [rawLevels, State.line]

/-- A power loss during a save leaves a bad image (R197). -/
theorem losePower_cut {s : State} {x : SaveInFlight} (h : s.saveInFlight = some x) :
    Image.judge (losePower s).image ≠ none := by
  rw [losePower_image, h]
  exact Option.isSome_iff_ne_none.1 (cutShort_bad s.freeCount)

theorem losePower_store {s : State} (h : s.saveInFlight = none) : (losePower s).image = s.image := by
  rw [losePower_image, h]
  rfl

/-! ### The end of start-up (R195) -/

/-- What the hall lines' being watched leaves, whatever they show. -/
structure WatchKeeps (s t : State) : Prop where
  startCause : t.startCause = s.startCause
  image      : t.image = s.image
  pool       : t.pool = s.pool
  partTime   : t.hall.partTime = s.hall.partTime
  chans      : ∀ c, ChKeeps (s.ch c) (t.ch c)

theorem WatchKeeps.refl (s : State) : WatchKeeps s s := ⟨rfl, rfl, rfl, rfl, fun _ => ChKeeps.refl _⟩

theorem WatchKeeps.trans {s t u : State} (h : WatchKeeps s t) (k : WatchKeeps t u) : WatchKeeps s u :=
  ⟨k.startCause.trans h.startCause, k.image.trans h.image, k.pool.trans h.pool,
   k.partTime.trans h.partTime, fun c => (h.chans c).trans (k.chans c)⟩

theorem Keeps.watch {s t : State} (h : Keeps s t) : WatchKeeps s t :=
  ⟨h.startCause, h.image, h.pool, by rw [h.hall], h.chans⟩

theorem WatchKeeps.modHall (s : State) (f : Hall → Hall) (h : (f s.hall).partTime = s.hall.partTime) :
    WatchKeeps s (s.modHall f) := ⟨rfl, rfl, rfl, h, fun _ => ChKeeps.refl _⟩

theorem WatchKeeps.modLine (s : State) (l : LineNo) (f : AlarmLine → AlarmLine) : WatchKeeps s (s.modLine l f) :=
  ⟨rfl, rfl, rfl, rfl, fun _ => ChKeeps.refl _⟩

theorem WatchKeeps.setPart (s : State) (p : PartState) : WatchKeeps s { s with part := p } :=
  ⟨rfl, rfl, rfl, rfl, fun _ => ChKeeps.refl _⟩

theorem wakeHall_watch (s : State) (cause : HallCause) : WatchKeeps s (wakeHall s cause) := by
  unfold wakeHall
  dsimp only
  exact (WatchKeeps.modHall s (fun h => { h with state := .active, wakeTimer := none, pauseOrder := [] }) rfl).trans
    (((appendAll_keeps _ _).trans (unpauseAll_keeps _ _)).trans
      ((settleEvaluating_keeps _).trans (reportPart_keeps _ _))).watch

theorem curtailChanges_watch (s : State) : WatchKeeps s (curtailChanges s) := by
  unfold curtailChanges
  dsimp only
  have h0 : ∀ body, WatchKeeps s
      (reportPart (s.modHall fun h => { h with curtFiltered := s.hall.curtRaw, curtTimer := none }) body) := fun body =>
    (WatchKeeps.modHall s (fun h => { h with curtFiltered := s.hall.curtRaw, curtTimer := none }) rfl).trans
      (reportPart_keeps _ body).watch
  refine iteInduction (motive := WatchKeeps s) (fun _ => WatchKeeps.trans ?_ (wakeHall_watch _ _)) fun _ => ?_
  all_goals
    refine iteInduction (motive := WatchKeeps s) (fun _ => (h0 _).trans (settleEvaluating_keeps _).watch) fun _ => ?_
    exact iteInduction (motive := WatchKeeps s) (fun _ => (h0 _).trans (settle_keeps _).watch) fun _ => h0 _

theorem curtailFollows_watch (s : State) : WatchKeeps s (curtailFollows s) := by
  unfold curtailFollows
  split
  · exact WatchKeeps.modHall s _ rfl
  · split
    · exact curtailChanges_watch s
    · exact WatchKeeps.modHall s _ rfl

theorem watchLine_watch (s : State) (line : LineNo) : WatchKeeps s (watchLine s line) := by
  unfold watchLine
  split
  · refine (WatchKeeps.modLine s line fun l => { l with raw := false }).trans ?_
    unfold alarmRawChange
    split
    · exact WatchKeeps.refl _
    · dsimp only
      split
      · exact (WatchKeeps.modLine _ line _).trans (offerAlarm_keeps _ _ _ _).watch
      · exact WatchKeeps.modLine _ line _
  · exact WatchKeeps.refl s

theorem watchLines_watch (s : State) : WatchKeeps s (watchLines s) := by
  have hfold : ∀ (l : List LineNo) (u : State), WatchKeeps u (l.foldl watchLine u) := by
    intro l
    induction l with
    | nil => exact WatchKeeps.refl
    | cons line l ih => exact fun u => (watchLine_watch u line).trans (ih _)
  unfold watchLines
  dsimp only
  refine WatchKeeps.trans (t := if s.prot.hallStop then hallStopActs s else s) ?_
    ((hfold allLines _).trans (curtailFollows_watch _))
  split
  · exact (hallStopActs_keeps s).watch
  · exact WatchKeeps.refl s

theorem reportStarted_keeps (s : State) : Keeps s (reportStarted s) := by
  unfold reportStarted
  split
  · exact (reportPart_keeps s _).trans (reportPart_keeps _ _)
  · exact reportPart_keeps s _

/-- With no hall line asserted the watching of the lines changes nothing but the curtailment timer. -/
theorem watchLines_quiet {s : State} (hstop : s.prot.hallStop = false) (hraw : ∀ l, (s.line l).raw = false)
    (hcurt : s.hall.curtRaw = s.hall.curtFiltered) : watchLines s = s.modHall fun h => { h with curtTimer := none } := by
  have hfold : ∀ l : List LineNo, l.foldl watchLine s = s := by
    intro l
    induction l with
    | nil => rfl
    | cons line l ih => rw [List.foldl_cons, watchLine, hraw, if_neg Bool.false_ne_true, ih]
  simp [watchLines, hstop, hfold, curtailFollows, hcurt]

/-- A change of channels' contexts and ports alone. -/
theorem formStored_rest (stored : StoredSettings) (l : List (Fin 4)) (s : State) :
    formStored stored s l = { s with chans := (formStored stored s l).chans } := by
  induction l generalizing s with
  | nil => rfl
  | cons p l ih =>
    rw [formStored, ih]
    split <;> rfl

theorem openFirst_rest (l : List Ch) (s : State) : openFirst s l = { s with chans := (openFirst s l).chans } := by
  induction l generalizing s with
  | nil => rfl
  | cons c l ih => rw [openFirst, ih]; rfl

theorem oddMember_inj {p q : Fin 4} (h : oddMember p = oddMember q) : p = q := by
  revert p q; decide

theorem formStored_state (stored : StoredSettings) (l : List (Fin 4)) (s : State) (c : Ch) :
    ((formStored stored s l).ch c).state =
      if ∃ p ∈ l, c = oddMember p ∧ stored.pairs[p] = true then .follower else (s.ch c).state := by
  induction l generalizing s with
  | nil => simp [formStored]
  | cons p l ih =>
    rw [formStored, ih]
    by_cases hl : ∃ q ∈ l, c = oddMember q ∧ stored.pairs[q] = true
    · rw [if_pos hl, if_pos (by simpa using .inr hl)]
    · rw [if_neg hl]
      by_cases hp : stored.pairs[p] = true
      · rw [if_pos hp, State.ch_modCh]
        by_cases hc : c = oddMember p
        · rw [if_pos hc, if_pos ⟨p, by simp, hc, hp⟩]
        · rw [if_neg hc, if_neg]
          rintro ⟨q, hq, hqc, hqp⟩
          rcases List.mem_cons.1 hq with rfl | hq
          · exact hc hqc
          · exact hl ⟨q, hq, hqc, hqp⟩
      · rw [if_neg hp, if_neg]
        rintro ⟨q, hq, hqc, hqp⟩
        rcases List.mem_cons.1 hq with rfl | hq
        · exact hp hqp
        · exact hl ⟨q, hq, hqc, hqp⟩

theorem openFirst_state (l : List Ch) (s : State) (c : Ch) : ((openFirst s l).ch c).state = (s.ch c).state := by
  induction l generalizing s with
  | nil => rfl
  | cons d l ih =>
    rw [openFirst, ih]
    exact ch_modCh_eq s d _ Channel.state rfl c

/-- Every channel's first standby period is open (R51, R52). -/
theorem openFirst_period (l : List Ch) (s : State) (c : Ch)
    (h : c ∈ l ∨ (s.ch c).periodLength = 1000 ∧ (s.ch c).periodElapsed = 0 ∧ (s.ch c).taken = false) :
    ((openFirst s l).ch c).periodLength = 1000 ∧ ((openFirst s l).ch c).periodElapsed = 0 ∧
      ((openFirst s l).ch c).taken = false := by
  induction l generalizing s with
  | nil => exact h.resolve_left nofun
  | cons d l ih =>
    refine ih (openPeriod s d standbyPeriod) ?_
    unfold openPeriod
    rw [State.ch_modCh]
    by_cases hc : c = d
    · rw [if_pos hc]
      exact .inr ⟨rfl, rfl, rfl⟩
    · rw [if_neg hc]
      exact h.imp_left fun h => (List.mem_cons.1 h).resolve_left hc

/-- The state in which the hall lines begin to be watched (R195 steps 1 and 2). -/
def beforeWatch (s : State) : State :=
  openFirst ((formStored (Image.load s.image) s [0, 1, 2, 3]).modHall fun h => { h with partTime := 0 }) allCh

theorem endStartUp_eq (s : State) :
    endStartUp s = { reportStarted (watchLines (beforeWatch s)) with part := .ready } := rfl

theorem beforeWatch_rest (s : State) :
    beforeWatch s = { s with hall := { s.hall with partTime := 0 }, chans := (beforeWatch s).chans } := by
  unfold beforeWatch
  rw [openFirst_rest, formStored_rest]
  rfl

theorem beforeWatch_state (s : State) (c : Ch) : ((beforeWatch s).ch c).state =
    if ∃ p : Fin 4, c = oddMember p ∧ (Image.load s.image).pairs[p] = true then .follower else (s.ch c).state := by
  have hall : ∀ p : Fin 4, p ∈ ([0, 1, 2, 3] : List (Fin 4)) := by decide
  have h := formStored_state (Image.load s.image) [0, 1, 2, 3] s c
  simp only [hall, true_and] at h
  rw [beforeWatch, openFirst_state]
  exact h

theorem beforeWatch_period (s : State) (c : Ch) :
    ((beforeWatch s).ch c).periodLength = 1000 ∧ ((beforeWatch s).ch c).periodElapsed = 0 ∧
      ((beforeWatch s).ch c).taken = false := by
  refine openFirst_period allCh _ c (.inl ?_)
  rw [allCh_eq_finRange]
  exact List.mem_finRange c

theorem mem_allCh (c : Ch) : c ∈ allCh := by
  rw [allCh_eq_finRange]
  exact List.mem_finRange c

/-- The end of start-up leaves what the watching of the hall lines leaves. -/
theorem endStartUp_watch (s : State) : WatchKeeps (beforeWatch s) (endStartUp s) :=
  ((watchLines_watch (beforeWatch s)).trans (reportStarted_keeps _).watch).trans (WatchKeeps.setPart _ _)

theorem beforeWatch_link (s : State) : (beforeWatch s).link = s.link := by rw [beforeWatch_rest]
theorem beforeWatch_image (s : State) : (beforeWatch s).image = s.image := by rw [beforeWatch_rest]
theorem beforeWatch_pool (s : State) : (beforeWatch s).pool = s.pool := by rw [beforeWatch_rest]
theorem beforeWatch_startCause (s : State) : (beforeWatch s).startCause = s.startCause := by rw [beforeWatch_rest]
theorem beforeWatch_prot (s : State) : (beforeWatch s).prot = s.prot := by rw [beforeWatch_rest]
theorem beforeWatch_hall (s : State) : (beforeWatch s).hall = { s.hall with partTime := 0 } := by rw [beforeWatch_rest]

theorem startUpEnd_next {s : State} (hp : s.part = .starting) : exec .startUpEnd s = .next (pump (endStartUp s)) :=
  next_congr (if_pos hp)

theorem pump_ch (s : State) (c : Ch) : (pump s).ch c = s.ch c := by rw [pump_eq]; rfl

theorem pump_hall (s : State) : (pump s).hall = s.hall := by rw [pump_eq]
theorem pump_pool (s : State) : (pump s).pool = s.pool := by rw [pump_eq]
theorem pump_image (s : State) : (pump s).image = s.image := by rw [pump_eq]

theorem startUpEnd_effect {s : State} (hp : s.part = .starting) : ∃ t, exec .startUpEnd s = .next t ∧
    t.part = .ready ∧ t.hall.partTime = 0 ∧ t.pool = s.pool ∧ t.image = s.image ∧
    (∀ c, (t.ch c).periodLength = 1000 ∧ (t.ch c).periodElapsed = 0 ∧ (t.ch c).taken = false) ∧
    (∀ p : Fin 4, (Image.load s.image).pairs[p] = true → (t.ch (oddMember p)).state = .follower) ∧
    (∀ c, (t.ch c).state = .follower → (s.ch c).state = .follower ∨
      ∃ p : Fin 4, c = oddMember p ∧ (Image.load s.image).pairs[p] = true) := by
  have h := endStartUp_watch s
  refine ⟨pump (endStartUp s), startUpEnd_next hp, by rw [pump_part, endStartUp_eq], ?_, ?_, ?_, fun c => ?_, fun p hpair => ?_, fun c hc => ?_⟩
  · rw [pump_hall, h.partTime, beforeWatch_hall]
  · rw [pump_pool, h.pool, beforeWatch_pool]
  · rw [pump_image, h.image, beforeWatch_image]
  · rw [pump_ch, (h.chans c).length, (h.chans c).elapsed, (h.chans c).taken]
    exact beforeWatch_period s c
  · rw [pump_ch, (h.chans _).follower, beforeWatch_state, if_pos ⟨p, rfl, hpair⟩]
  · rw [pump_ch, (h.chans c).follower, beforeWatch_state] at hc
    by_cases hp : ∃ p : Fin 4, c = oddMember p ∧ (Image.load s.image).pairs[p] = true
    · exact .inr hp
    · rw [if_neg hp] at hc
      exact .inl hc

theorem reportPart_link (s : State) (body : ReportBody) :
    (reportPart s body).link = s.link.make s.hall.partTime partWide body := rfl

/-- The link port at the end of a start-up that no asserted hall line disturbs: its reports have been made. -/
theorem endStartUp_link {s : State} (hstop : s.prot.hallStop = false) (hraw : ∀ l, (s.line l).raw = false)
    (hcurt : s.hall.curtRaw = s.hall.curtFiltered) : (endStartUp s).link =
      match Image.judge s.image with
      | some reason => (s.link.make 0 partWide (.settingsDefaulted reason)).make 0 partWide
          (.started s.startCause true Config.firmwareMajor Config.firmwareMinor)
      | none => s.link.make 0 partWide (.started s.startCause false Config.firmwareMajor Config.firmwareMinor) := by
  have hline : ∀ l, ((beforeWatch s).line l).raw = false := fun l => by
    simpa [State.line, beforeWatch_prot] using hraw l
  have hquiet := watchLines_quiet (s := beforeWatch s) (by rw [beforeWatch_prot]; exact hstop) hline
    (by rw [beforeWatch_hall]; exact hcurt)
  rw [endStartUp_eq, hquiet]
  simp only [reportStarted, State.modHall_image, State.modHall_startCause, beforeWatch_image, beforeWatch_startCause]
  cases Image.judge s.image with
  | some reason =>
    simp only [reportPart, State.modLink_link, State.modLink_hall, State.modHall_hall, State.modHall_link,
      beforeWatch_hall, beforeWatch_link]
  | none =>
    simp only [reportPart, State.modLink_link, State.modHall_hall, State.modHall_link, beforeWatch_hall,
      beforeWatch_link]

theorem make_room {l : Link} (now : Nat) (channel : Byte) (body : ReportBody) (h : l.reports.length < 64) :
    l.make now channel body =
      { l with nextSeq := l.nextSeq + 1, reports := l.reports ++ [⟨l.nextSeq, now, channel, body⟩] } :=
  accept_room _ (by exact h)

/-- With no hall line asserted and nothing waiting at the link port, the reports of the start-up are the only ones. -/
theorem startUpEnd_reports {s : State} (hp : s.part = .starting) (hreports : s.link.reports = [])
    (hr : s.link.reply = none) (hs : s.link.sending = none) (ht : s.link.holdTimer = none)
    (hstop : s.prot.hallStop = false) (hraw : ∀ l, (s.line l).raw = false)
    (hcurt : s.hall.curtRaw = s.hall.curtFiltered) : ∃ t, exec .startUpEnd s = .next t ∧
      (∀ reason, Image.judge s.image = some reason →
        t.link.sending = some (.report ⟨s.link.nextSeq, 0, partWide, .settingsDefaulted reason⟩) ∧
        t.link.reports = [⟨s.link.nextSeq + 1, 0, partWide,
          .started s.startCause true Config.firmwareMajor Config.firmwareMinor⟩]) ∧
      (Image.judge s.image = none →
        t.link.sending = some (.report ⟨s.link.nextSeq, 0, partWide,
          .started s.startCause false Config.firmwareMajor Config.firmwareMinor⟩) ∧
        t.link.reports = []) := by
  have hlink := endStartUp_link hstop hraw hcurt
  refine ⟨_, startUpEnd_next hp, fun reason hj => ?_, fun hj => ?_⟩
  · rw [hj] at hlink
    simp only [make_room, hreports, List.length_nil, List.length_cons, Nat.reduceAdd, Nat.reduceLT,
      List.nil_append, List.cons_append] at hlink
    rw [pump_report (s := endStartUp s) (by rw [hlink]; exact hs) (by rw [hlink]; exact hr) rfl
      (by rw [hlink]; exact ht) (congrArg Link.reports hlink), State.modLink_link, hlink,
      recover_none _ (.inl (by simp))]
    exact ⟨rfl, rfl⟩
  · rw [hj] at hlink
    simp only [make_room, hreports, List.length_nil, Nat.reduceLT, List.nil_append] at hlink
    rw [pump_report (s := endStartUp s) (by rw [hlink]; exact hs) (by rw [hlink]; exact hr) rfl
      (by rw [hlink]; exact ht) (congrArg Link.reports hlink), State.modLink_link, hlink,
      recover_none _ (.inl (by simp))]
    exact ⟨rfl, rfl⟩

/-- Settles O3. -/
theorem powerAndStartUp : Obligations.PowerAndStartUp := by
  unfold Obligations.PowerAndStartUp
  refine ⟨⟨fun s hsave => ⟨⟨_, rfl, rfl, rfl, ?_⟩, ⟨_, rfl, rfl, ?_⟩⟩,
    fun s x hsave => ⟨⟨_, rfl, rfl, rfl, losePower_cut hsave, applyPower_begun s⟩,
      ⟨_, rfl, rfl, losePower_cut hsave, losePower_begun s⟩⟩, fun s t h => ?_⟩,
    ⟨fun s hp => next_congr (if_neg hp), fun s hp => startUpEnd_effect hp, fun x => rfl,
      fun s hp hreports hr hs ht _ hstop hraw hcurt => startUpEnd_reports hp hreports hr hs ht hstop hraw hcurt⟩⟩
  · rw [← losePower_store hsave]
    exact applyPower_begun s
  · rw [← losePower_store hsave]
    exact losePower_begun s
  · rcases h with h | h <;> cases h
    · exact ⟨rfl, rfl, fun l => (beginStartUp_raw _ _ l).trans (losePower_raw s l)⟩
    · exact ⟨rfl, rfl, losePower_raw s⟩

end Sys2Proof.Machine
end

section
/-! PROOF. O58 fails: a stored pair makes a follower of a channel that waits in STOPPING with a swap pending. `RunsSound`
allows such a channel while the board is STARTING, since it is `FaultsSound` that has every channel IDLE there (R195). -/
namespace Sys2Proof.Machine

open Sys2Proof.Safety

/-- Start-up's first two steps leave what a follower's state and an open period are not part of. -/
theorem beforeWatch_leaves {α : Type} (g : Channel → α) (s : State) (c : Ch)
    (hstate : ∀ ch : Channel, g { ch with state := .follower } = g ch)
    (hopen : ∀ (ch : Channel) (n : Nat),
      g { ch with
        taken := false, packDone := false, periodElapsed := 0, periodLength := n, port := ch.port.openPeriod } = g ch) : g ((beforeWatch s).ch c) = g (s.ch c) := by
  have hform : ∀ (stored : StoredSettings) (l : List (Fin 4)) (u : State),
      g ((formStored stored u l).ch c) = g (u.ch c) := by
    intro stored l
    induction l with
    | nil => exact fun _ => rfl
    | cons p l ih =>
      intro u
      rw [formStored, ih]
      split
      · exact ch_modCh_eq u _ _ g (hstate _) c
      · rfl
  have hfirst : ∀ (l : List Ch) (u : State), g ((openFirst u l).ch c) = g (u.ch c) := by
    intro l
    induction l with
    | nil => exact fun _ => rfl
    | cons d l ih =>
      intro u
      rw [openFirst, ih]
      exact ch_modCh_eq u d _ g (hopen _ _) c
  exact (hfirst allCh _).trans (hform _ _ _)

/-- With no hall line asserted, the end of start-up leaves every channel as its first two steps do. -/
theorem endStartUp_ch {s : State} (hstop : s.prot.hallStop = false) (hraw : ∀ l, (s.line l).raw = false)
    (hcurt : s.hall.curtRaw = s.hall.curtFiltered) (c : Ch) : (endStartUp s).ch c = (beforeWatch s).ch c := by
  have hline : ∀ l, ((beforeWatch s).line l).raw = false := fun l => by
    simpa [State.line, beforeWatch_prot] using hraw l
  have hreport : ∀ u : State, (reportStarted u).ch c = u.ch c := fun u => by
    unfold reportStarted
    split <;> rfl
  have hpart : ∀ u : State, ({ u with part := .ready } : State).ch c = u.ch c := fun _ => rfl
  rw [endStartUp_eq, hpart, hreport, watchLines_quiet (by rw [beforeWatch_prot]; exact hstop) hline
    (by rw [beforeWatch_hall]; exact hcurt), State.ch_modHall]

/-- An image that has every pair formed. -/
def pairedImage : Image := Image.fresh { StoredSettings.default with pairs := Vector.replicate 4 true }

/-- A board in STARTING whose CH1 waits in STOPPING with a swap pending. -/
def stoppingInStartUp (pending : List Instr) : State :=
  (State.powerOn .starting .powerOn StoredSettings.default .baud921600 pairedImage (Vector.replicate 4 false) false false 0
    pending).modCh 1 fun ch => { ch with state := .stopping, swapPending := some .atCycleEnd }

theorem stoppingInStartUp_ch (pending : List Instr) (c : Ch) : (stoppingInStartUp pending).ch c =
    if c = 1 then
      { Channel.powerOn ChanSettings.default Calibration.default with
        state := .stopping, swapPending := some .atCycleEnd }
    else Channel.powerOn ChanSettings.default Calibration.default := by
  have hdefault : ∀ d : Ch, StoredSettings.default.chans[d] = ChanSettings.default ∧
      StoredSettings.default.cals[d] = Calibration.default := fun d => by simp [StoredSettings.default]
  rw [stoppingInStartUp, State.ch_modCh, powerOn_ch, powerOn_ch, (hdefault _).1, (hdefault _).2, (hdefault _).1,
    (hdefault _).2]

theorem stoppingInStartUp_runsSound (pending : List Instr) : RunsSound (stoppingInStartUp pending) := by
  have hch := stoppingInStartUp_ch pending
  have hwindows : ∀ c, ((stoppingInStartUp pending).ch c).active = none ∧
      ((stoppingInStartUp pending).ch c).staged = none := fun c => by
    rw [hch]; split <;> exact ⟨rfl, rfl⟩
  refine ⟨fun c w h => ?_, fun c w _ h => ?_, fun c h => ?_, fun c w _ h => ?_, fun c h => ?_,
    fun c w e target count cyc _ h => ?_⟩
  · rw [(hwindows c).1, (hwindows c).2] at h
    rcases h with h | h <;> cases h
  · rw [(hwindows c).1] at h; cases h
  · rw [hch] at h ⊢
    split at h
    · rename_i hc; simp [hc]
    · exact absurd rfl h
  · rw [(hwindows c).2] at h; cases h
  · rw [hch] at h
    split at h <;> simp [Channel.powerOn] at h
  · rw [(hwindows c).1] at h; cases h

/-- Refutes O58: START_UP_END makes CH1 of `stoppingInStartUp` a follower and leaves its swap pending, while `RunsSound` has
a swap pending only in an engaged channel. -/
theorem not_runsStaySound : ¬ Obligations.RunsStaySound := by
  unfold Obligations.RunsStaySound
  intro h
  obtain ⟨t, ht, -, -, -, -, -, hfollower, -⟩ := startUpEnd_effect (s := stoppingInStartUp []) rfl
  have hstep : step (stoppingInStartUp [.startUpEnd]) = .next t := ht
  have hswap : (t.ch 1).swapPending = some .atCycleEnd := by
    cases (startUpEnd_next (s := stoppingInStartUp []) rfl).symm.trans ht
    rw [pump_ch, endStartUp_ch rfl (fun l => by simp [stoppingInStartUp, powerOn_line]) rfl,
      beforeWatch_leaves Channel.swapPending _ 1 (fun _ => rfl) (fun _ _ => rfl), stoppingInStartUp_ch, if_pos rfl]
  have hstate : (t.ch 1).state = .follower := by
    refine hfollower 0 ?_
    have hload : Image.load (stoppingInStartUp []).image =
        StoredSettings.clamp { StoredSettings.default with pairs := Vector.replicate 4 true } := by
      simp [stoppingInStartUp, State.powerOn, pairedImage, Image.load, judge_fresh]
      rfl
    rw [hload]
    rfl
  have hengaged := (h _ _ (stoppingInStartUp_runsSound _) hstep).swap 1 (by rw [hswap]; exact nofun)
  rw [hstate] at hengaged
  simp at hengaged

end Sys2Proof.Machine
end

section
/-! PROOF. Requests that set what they carry and nothing else: windows and swaps (R13, R39, R41), calibration (R60), the wake
settings (R175), the settings save (R197), and the profile queue (R111, R112). -/
namespace Sys2Proof.Machine

open Sys2Proof.Safety

/-! ### How a request is answered -/

theorem takeCh_bad {k : ReqKind} {r : Request} {s : State} (hl : k.lengthOk r.body.length = true)
    (hc : 8 ≤ r.channel.toNat) (f : Ch → State → State × ReplyBody) :
    takeCh k r s f = (s, .refused ⟨.invalid, some .badChannel, 0, 0, 0⟩) := by
  simp [takeCh, hl, channelOf, Nat.not_lt.2 hc, invalid]

/-- A request that changes something of one channel, other than its state and its settings. -/
theorem arrive_modCh {k : ReqKind} {r : Request} {s : State} {c : Ch} {f : Channel → Channel} {body : ReplyBody}
    (h : LinkFree s) (hb : r.body.length ≤ 1024) (ht : takeKind k r s = (s.modCh c f, body))
    (hs : (f (s.ch c)).state = (s.ch c).state) (hk : (f (s.ch c)).settings = (s.ch c).settings) :
    arrive (k.frame r) s = replied (s.modCh c f) (replyTo k r body) :=
  arrive_to h hb ht (ch_modCh_eq s c f Channel.state hs) (ch_modCh_eq s c f Channel.settings hk) rfl

theorem modCh_congr {s : State} {c : Ch} {f g : Channel → Channel} (h : f (s.ch c) = g (s.ch c)) :
    s.modCh c f = s.modCh c g := by
  simp only [State.modCh, h]

theorem engaged_iff (x : ChState) :
    x.engaged = true ↔ x ∈ [.gap, .deferred, .starting, .running, .held, ChState.stopping] := by
  cases x <;> decide

theorem isFollower_iff (s : State) (c : Ch) : isFollower s c = true ↔ (s.ch c).state = .follower := by
  simp [isFollower]

theorem isFollower_false {s : State} {c : Ch} (h : (s.ch c).state ≠ .follower) : isFollower s c = false := by
  simp [isFollower, h]

/-! ### Windows (R13) -/

theorem setWindow_answers (r : Request) (s : State) (c : Ch) (hto : ToChannel s r c 5) :
    let choice := field r.body 0 1
    let base := field r.body 1 2
    let length := field r.body 3 2
    let answers := fun t body => exec (.setWindow r) s = .next (replied t (replyTo .setWindow r body))
    let w : Option Window := if length = 0 then none else some ⟨base, length⟩
    let ch := s.ch c
    if choice ≠ 1 ∧ choice ≠ 2 then answers s (.refused ⟨.invalid, some .badForm, 0, 0, 0⟩)
    else if ch.state = .follower then answers s (.refused ⟨.paired, none, 0, 0, 0⟩)
    else if choice = 1 ∧ ch.state ∈ [.gap, .deferred, .starting, .running, .held, .stopping] then
      answers s (.refused ⟨.wrongState, none, 0, 0, 0⟩)
    else if choice = 2 ∧ ch.swapPending ≠ none then answers s (.refused ⟨.protectedState, none, 0, 0, 0⟩)
    else if length ≠ 0 ∧ (1023 < base ∨ 256 < length ∨ 1024 < base + length) then
      answers s (.refused ⟨.invalid, some .windowRange, 0, 0, 0⟩)
    else if choice = 1 then
      answers (s.modCh c fun ch => { ch with active := w }) (.ok (.windows w ch.staged))
    else answers (s.modCh c fun ch => { ch with staged := w }) (.ok (.windows ch.active w)) := by
  intro choice base length answers w ch
  have hb : r.body.length ≤ 1024 := by rw [hto.length]; decide
  have hsame : ∀ body, takeKind .setWindow r s = (s, body) → answers s body := fun body h =>
    next_congr (arrive_same hto.free hb h)
  have htake : takeKind .setWindow r s = _ := takeSetWindow.eq_def r s
  rw [takeCh_of hto rfl] at htake
  dsimp only at htake
  simp only [engaged_iff, Option.isSome_iff_ne_none] at htake
  split
  · exact hsame _ (by rw [htake, if_pos ‹_›]; rfl)
  split
  · exact hsame _ (by rw [htake, if_neg ‹_›, if_pos ‹_›]; rfl)
  split
  · exact hsame _ (by rw [htake, if_neg ‹_›, if_neg ‹_›, if_pos ‹_›]; rfl)
  split
  · exact hsame _ (by rw [htake, if_neg ‹_›, if_neg ‹_›, if_neg ‹_›, if_pos ‹_›]; rfl)
  split
  · exact hsame _ (by rw [htake, if_neg ‹_›, if_neg ‹_›, if_neg ‹_›, if_neg ‹_›, if_pos ‹_›]; rfl)
  rw [if_neg ‹_›, if_neg ‹_›, if_neg ‹_›, if_neg ‹_›, if_neg ‹_›] at htake
  split
  · rename_i h
    refine next_congr (arrive_modCh hto.free hb ?_ rfl rfl)
    simp only [htake, State.ch_modCh_self, show field r.body 0 1 = 1 from h, if_true]
    rfl
  · rename_i h
    refine next_congr (arrive_modCh hto.free hb ?_ rfl rfl)
    simp only [htake, State.ch_modCh_self, show ¬field r.body 0 1 = 1 from h, if_false]
    rfl

/-! ### Swaps (R39, R41) -/

theorem swapKindOf_eq (code : Nat) : swapKindOf code =
    if code ≠ 1 ∧ code ≠ 2 then none else some (if code = 1 then .atCycleEnd else .atScheduleEnd) := by
  unfold swapKindOf
  split
  · rfl
  · rfl
  · rename_i h1 h2
    rw [if_pos ⟨h1, h2⟩]

theorem swap_answers (r : Request) (s : State) (c : Ch) (hto : ToChannel s r c 1) :
    let ch := s.ch c
    let code := field r.body 0 1
    let answers := fun t body => exec (.swap r) s = .next (replied t (replyTo .swap r body))
    if ch.state = .follower then answers s (.refused ⟨.paired, none, 0, 0, 0⟩)
    else if ch.state = .complete ∨ ch.state = .faulted then answers s (.refused ⟨.wrongState, none, 0, 0, 0⟩)
    else if code ≠ 1 ∧ code ≠ 2 then answers s (.refused ⟨.invalid, some .badForm, 0, 0, 0⟩)
    else (∀ reason index, validate s c ch.staged = some (reason, index) →
        answers s (.refused ⟨.invalid, some reason, index, 0, 0⟩)) ∧
      (validate s c ch.staged = none → ch.state = .idle →
        answers (s.modCh c fun ch => { ch with active := ch.staged, staged := ch.active })
          (.ok (.windows ch.staged ch.active))) ∧
      (validate s c ch.staged = none → ch.state ≠ .idle →
        answers (s.modCh c fun ch =>
          { ch with swapPending := some (if code = 1 then .atCycleEnd else .atScheduleEnd) }) (.ok .done)) := by
  intro ch code answers
  have hb : r.body.length ≤ 1024 := by rw [hto.length]; decide
  have hsame : ∀ body, takeKind .swap r s = (s, body) → answers s body := fun body h =>
    next_congr (arrive_same hto.free hb h)
  have htake : takeKind .swap r s = _ := takeSwap.eq_def r s
  rw [takeCh_of hto rfl] at htake
  dsimp only at htake
  simp only [swapKindOf_eq] at htake
  split
  · exact hsame _ (by rw [htake, if_pos ‹_›]; rfl)
  split
  · exact hsame _ (by rw [htake, if_neg ‹_›, if_pos ‹_›]; rfl)
  rw [if_neg ‹_›, if_neg ‹_›] at htake
  split
  · rename_i hcode
    rw [if_pos hcode] at htake
    exact hsame _ htake
  · rename_i hcode
    rw [if_neg hcode] at htake
    refine ⟨fun reason index hv => ?_, fun hv hidle => ?_, fun hv hidle => ?_⟩
    · simp only [show validate s c (s.ch c).staged = _ from hv] at htake
      exact hsame _ htake
    · simp only [show validate s c (s.ch c).staged = _ from hv, if_pos (show (s.ch c).state = _ from hidle)] at htake
      refine next_congr (arrive_modCh hto.free hb ?_ rfl rfl)
      rw [htake, State.ch_modCh_self]
    · simp only [show validate s c (s.ch c).staged = _ from hv, if_neg (show ¬(s.ch c).state = _ from hidle)] at htake
      exact next_congr (arrive_modCh hto.free hb htake rfl rfl)

/-- Settles O14. -/
theorem windows : Obligations.Windows := by
  unfold Obligations.Windows
  refine ⟨fun r s hfree hl => ⟨fun hc => ?_, fun c hc => setWindow_answers r s c ⟨hfree, hc, hl⟩⟩, swap_answers,
    fun r s c hto => ?_⟩
  · refine next_congr (arrive_same hfree (by rw [hl]; decide) ?_)
    rw [takeKind, takeSetWindow, takeCh_bad (by rw [hl]; rfl) hc]
  · have hb : r.body.length ≤ 1024 := by rw [hto.length]; decide
    have htake : takeKind .cancelSwap r s = _ := takeCancelSwap.eq_def r s
    rw [takeCh_of hto rfl] at htake
    split
    · rename_i h
      exact next_congr (arrive_same hto.free hb (htake.trans (if_pos ((isFollower_iff s c).2 h))))
    · rename_i h
      exact next_congr (arrive_modCh hto.free hb
        (htake.trans (if_neg (by rw [isFollower_false h]; exact Bool.false_ne_true))) rfl rfl)

/-! ### Calibration and the wake settings (R60, R175) -/

theorem carried_getD {α : Type} (m b : Nat) (x y : α) : (carried m b x).getD y = if m.testBit b then x else y := by
  unfold carried
  split <;> rfl

theorem calibrationPatch_apply (bs : List Byte) (old : Calibration) :
    let m := field bs 0 4
    let value := fun offset => BitVec.ofNat 32 (field bs offset 4)
    (calibrationPatch bs).apply old =
      { vGain := if m.testBit 0 then value 4 else old.vGain
        vOffset := if m.testBit 0 then value 8 else old.vOffset
        iGain := if m.testBit 1 then value 12 else old.iGain
        iOffset := if m.testBit 1 then value 16 else old.iOffset
        tGain := if m.testBit 2 then value 20 else old.tGain
        tOffset := if m.testBit 2 then value 24 else old.tOffset } := by
  simp only [CalibrationPatch.apply, calibrationPatch, carried_getD]
  congr 1 <;> split <;> rfl

/-- The hall record that SET_WAKE leaves (R175). -/
theorem takeSetWake_to {r : Request} {s : State} (hto : ToPart s r 14) :
    let m := field r.body 0 4
    let seconds := field r.body 6 4
    let hall : Hall :=
      { s.hall with
        wakeByTimer := if m.testBit 0 then flagOf (r.body.getD 4 0) else s.hall.wakeByTimer
        wakeByCurtail := if m.testBit 1 then flagOf (r.body.getD 5 0) else s.hall.wakeByCurtail
        wakeTimer :=
          if m.testBit 2 then (if seconds = 0 then none else some (1000 * min 604800 seconds)) else s.hall.wakeTimer
        curtDebounce := if m.testBit 3 then min 10000 (field r.body 10 4) else s.hall.curtDebounce }
    takeKind .setWake r s =
      ({ s with hall := hall },
        .ok (.wake hall.wakeByTimer hall.wakeByCurtail hall.wakeTimer hall.curtDebounce hall.state)) := by
  intro m seconds hall
  have htake : takeKind .setWake r s = _ := takeSetWake.eq_def r s
  rw [takePart_of hto rfl] at htake
  simp only [htake, hall, wakePatch, carried_getD, State.modHall, show field r.body 0 4 = m from rfl,
    show field r.body 6 4 = seconds from rfl]
  generalize m.testBit 0 = carries0, m.testBit 1 = carries1
  unfold carried
  cases m.testBit 2 with
  | false => cases m.testBit 3 <;> simp [clampNat]
  | true => cases m.testBit 3 <;> cases seconds <;> simp [clampNat]

/-- Settles O16. -/
theorem calibrationAndWake : Obligations.CalibrationAndWake := by
  unfold Obligations.CalibrationAndWake
  refine ⟨fun r s c hto => ?_, fun r s hto => ?_⟩
  · intro m old value new
    have hnew : (calibrationPatch r.body).apply (s.ch c).cal = new := calibrationPatch_apply r.body old
    have htake : takeKind .setCalibration r s = _ := takeSetCalibration.eq_def r s
    rw [takeCh_of hto rfl] at htake
    refine next_congr (arrive_modCh hto.free (by rw [hto.length]; decide) (htake.trans ?_) rfl rfl)
    simp only [State.ch_modCh_self, hnew]
    rw [modCh_congr (g := fun ch => { ch with cal := new }) (by simp only [hnew])]
  · exact next_congr (arrive_to hto.free (by rw [hto.length]; decide) (takeSetWake_to hto) (fun _ => rfl)
      (fun _ => rfl) rfl)

/-! ### The settings save (R197, R198) -/

theorem capture_speedCode (n : Nat) (h : n ≤ 4) : (BitVec.ofNat 8 n).toNat = n := by
  rw [BitVec.toNat_ofNat, Nat.mod_eq_of_lt (by omega)]

theorem LinkSpeed.code_le (x : LinkSpeed) : x.code ≤ 4 := by cases x <;> decide

theorem saveSettings_answers (r : Request) (s : State) (hto : ToPart s r 1) :
    let code := field r.body 0 1
    let refused := fun c reason => exec (.saveSettings r) s =
      .next (replied s (replyTo .saveSettings r (.refused ⟨c, reason, 0, 0, 0⟩)))
    if 4 < code then refused .invalid (some .badForm)
    else if s.saveInFlight ≠ none then refused .busy none
    else ∃ x : StoredSettings,
      exec (.saveSettings r) s =
        .next (replied { s with
          saveInFlight := some ⟨⟨.c8, crc16 (Config.imageBytes .c8 x), x⟩, s.hall.partTime⟩ }
          (replyTo .saveSettings r (.ok .done))) ∧
      Image.judge ⟨.c8, crc16 (Config.imageBytes .c8 x), x⟩ = none ∧
      x.speedCode.toNat = (if code = 0 then s.link.speed.code else code) ∧ x.budget = s.arb.budget ∧
      (∀ c : Ch, x.chans[c] = (s.ch c).settings ∧ x.cals[c] = (s.ch c).cal) ∧
      (∀ l : LineNo, x.alarms[l] = (s.line l).settings) ∧
      (∀ p : Fin 4, x.pairs[p] = true ↔ (s.ch (oddMember p)).state = .follower) ∧
      x.wakeByTimer = s.hall.wakeByTimer ∧ x.wakeByCurtail = s.hall.wakeByCurtail ∧
      x.curtailDebounce = s.hall.curtDebounce := by
  intro code refused
  have hb : r.body.length ≤ 1024 := by rw [hto.length]; decide
  have htake : takeKind .saveSettings r s = _ := takeSaveSettings.eq_def r s
  rw [takePart_of hto rfl] at htake
  simp only [Option.isSome_iff_ne_none] at htake
  split
  · rename_i h
    exact next_congr (arrive_same hto.free hb (htake.trans (if_pos h)))
  rename_i hcode
  rw [if_neg hcode] at htake
  split
  · rename_i h
    exact next_congr (arrive_same hto.free hb (htake.trans (if_pos h)))
  rename_i hsave
  rw [if_neg hsave] at htake
  refine ⟨_, next_congr (arrive_to hto.free hb htake (fun _ => rfl) (fun _ => rfl) rfl), judge_fresh _,
    capture_speedCode _ ?_, rfl, fun c => ?_, fun l => ?_, fun p => ?_, rfl, rfl, rfl⟩
  · split
    · exact LinkSpeed.code_le _
    · exact Nat.le_of_not_lt hcode
  · simp [capture, State.ch]
  · simp [capture, State.line]
  · simp [capture, isFollower]

/-- A save that ends in a running board, the transmitter being busy. -/
theorem settingsSaveEnd_running {s : State} {x : SaveInFlight} (result : SaveEnd) (hsave : s.saveInFlight = some x)
    (hpart : s.part ≠ .halted) (hsend : s.link.sending ≠ none) : exec (.settingsSaveEnd result) s = .next
      { s with
        image := SaveEnd.image result x.image
        saveInFlight := none
        link := s.link.make s.hall.partTime 0xFF (.settingsSaved (SaveEnd.ok result) x.capturedAt) } := by
  refine next_congr ?_
  rw [endSave, hsave]
  simp only [if_neg hpart]
  exact pump_noFrameDue (.inl fun h => hsend ((Link.make_keeps ..).sending.symm.trans h))

/-- Settles O19. -/
theorem settingsSave : Obligations.SettingsSave := by
  unfold Obligations.SettingsSave
  refine ⟨saveSettings_answers, fun result s => ⟨fun x hsave hpart hsend => ?_, fun x hsave hpart => ?_,
    fun hsave hdue => ?_⟩⟩
  · rw [settingsSaveEnd_running result hsave hpart hsend]
    cases result <;> rfl
  · refine ⟨pump (beginStartUp { s with image := SaveEnd.image result x.image, saveInFlight := none } .resetPart),
      next_congr ?_, ?_, ?_, ?_⟩
    · rw [endSave, hsave]
      simp only [if_pos hpart]
    all_goals rw [pump_noFrameDue (.inr ⟨rfl, .inr rfl⟩)]
    · rfl
    · rfl
    · cases result <;> exact powerOn_begun ..
  · refine next_congr ?_
    rw [endSave, hsave]
    exact pump_noFrameDue hdue

/-! ### The profile queue (R111, R112, R117, R119) -/

theorem pieces_eq (size n : Nat) (bs : List Byte) :
    pieces size n bs = (List.range n).map fun k => (bs.drop (size * k)).take size := by
  induction n generalizing bs with
  | zero => rfl
  | succ n ih =>
    rw [pieces, ih, List.range_succ_eq_map, List.map_cons, List.map_map]
    congr 1
    refine List.map_congr_left fun k _ => ?_
    simp only [Function.comp_apply, List.drop_drop, Nat.succ_eq_add_one, Nat.mul_succ, Nat.add_comm]

theorem pointsOf_eq {bs : List Byte} {n : Nat} (h : bs.length = 8 * n) :
    pointsOf bs = (List.range n).map fun k => pointOf ((bs.drop (8 * k)).take 8) := by
  rw [pointsOf, h, Nat.mul_div_cancel_left n (by decide), pieces_eq, List.map_map]
  rfl

theorem badPoint_iff (p : Point) : badPoint p = true ↔ p.duration = 0 ∨ p.current < -840000 ∨ 840000 < p.current := by
  simp [badPoint, or_assoc]

/-- The first bad point of a list (R111 check 5). -/
theorem findIdx_badPoint {points : List Point} {k : Nat} {p : Point} (hk : points[k]? = some p)
    (hbad : p.duration = 0 ∨ p.current < -840000 ∨ 840000 < p.current)
    (hfirst : ∀ j q, j < k → points[j]? = some q → ¬(q.duration = 0 ∨ q.current < -840000 ∨ 840000 < q.current)) :
    points.findIdx? badPoint = some k := by
  obtain ⟨hlt, hget⟩ := List.getElem?_eq_some_iff.1 hk
  refine List.findIdx?_eq_some_iff_getElem.2 ⟨hlt, ?_, fun j hj => ?_⟩
  · rw [hget]; exact (badPoint_iff p).2 hbad
  · rw [badPoint_iff]
    exact hfirst j _ hj (List.getElem?_eq_getElem _)

/-- The channel after PROFILE_APPEND, `room` being what its queue has left. -/
theorem append_eq (ch : Channel) (points : List Point) (room : Nat) (hne : points ≠ []) :
    ch.append (points.take room) =
      if room = 0 then ch
      else
        { ch with
          queue := ch.queue ++ points.take room
          play :=
            { ch.play with
              underrun := false
              underrunTimer := none
              lowArmed :=
                if ch.settings.lowWater < (ch.queue ++ points.take room).length then true else ch.play.lowArmed } } := by
  unfold Channel.append
  by_cases h : room = 0
  · simp [h]
  · have hempty : (points.take room).isEmpty = false := by simp [h, hne]
    rw [hempty, if_neg h, if_neg Bool.false_ne_true]
    simp only [Playback.arm]
    congr 1
    split <;> rfl

theorem append_queue_eq (ch : Channel) (points : List Point) : (ch.append points).queue = ch.queue ++ points := by
  unfold Channel.append
  split
  · rename_i h
    rw [List.isEmpty_iff.1 h, List.append_nil]
  · rfl

theorem append_state (ch : Channel) (points : List Point) : (ch.append points).state = ch.state := by
  unfold Channel.append
  split <;> rfl

theorem append_settings (ch : Channel) (points : List Point) : (ch.append points).settings = ch.settings := by
  unfold Channel.append
  split <;> rfl

theorem modCh_self {s : State} {c : Ch} {f : Channel → Channel} (h : f (s.ch c) = s.ch c) : s.modCh c f = s := by
  rw [State.modCh, h]
  simp [State.ch]

theorem profileAppend_answers (r : Request) (s : State) (c : Ch) (n : Nat) (hto : ToChannel s r c (8 * n)) (h1 : 1 ≤ n)
    (h32 : n ≤ 32) :
    let ch := s.ch c
    let points := (List.range n).map fun k => pointOf ((r.body.drop (8 * k)).take 8)
    let room := 512 - ch.queue.length
    let bad := fun p : Point => p.duration = 0 ∨ p.current < -840000 ∨ 840000 < p.current
    let queue := ch.queue ++ points.take room
    let answers := fun t body => exec (.profileAppend r) s = .next (replied t (replyTo .profileAppend r body))
    let done := fun body => answers (if room = 0 then s else s.modCh c fun ch =>
      { ch with
        queue := queue
        play :=
          { ch.play with
            underrun := false
            underrunTimer := none
            lowArmed := if ch.settings.lowWater < queue.length then true else ch.play.lowArmed } }) body
    if ch.state = .follower then answers s (.refused ⟨.paired, none, 0, 0, 0⟩)
    else if ch.settings.profileMode = .repeat ∧ ch.state ∈ [.gap, .deferred, .starting, .running, .held, .stopping] ∧
        onProfile s c = true then answers s (.refused ⟨.protectedState, none, 0, 0, 0⟩)
    else (∀ k p, points[k]? = some p → bad p → (∀ j q, j < k → points[j]? = some q → ¬bad q) →
        answers s (.refused ⟨.invalid, some .badPoint, k, 0, 0⟩)) ∧
      ((∀ p ∈ points, ¬bad p) → n ≤ room → done (.ok (.appended n queue.length))) ∧
      ((∀ p ∈ points, ¬bad p) → room < n → done (.refused ⟨.full, none, queue.length, 0, room⟩)) := by
  intro ch points room bad queue answers done
  have hb : r.body.length ≤ 1024 := by rw [hto.length]; omega
  have hlen : points.length = n := by simp [points]
  have hpoints : pointsOf r.body = points := pointsOf_eq hto.length
  have hok : ReqKind.profileAppend.lengthOk (8 * n) = true := by simp [ReqKind.lengthOk]; omega
  have htake : takeKind .profileAppend r s = _ := takeProfileAppend.eq_def r s
  rw [takeCh_of hto hok] at htake
  simp only [hpoints, isFollower_iff, engaged_iff] at htake
  split
  · rename_i h
    exact next_congr (arrive_same hto.free hb (htake.trans (if_pos h)))
  rename_i hfollower
  rw [if_neg hfollower] at htake
  split
  · rename_i h
    exact next_congr (arrive_same hto.free hb (htake.trans (if_pos h)))
  rename_i hplaying
  rw [if_neg hplaying] at htake
  refine ⟨fun k p hk hbad hfirst => ?_, ?_⟩
  · rw [findIdx_badPoint hk hbad hfirst] at htake
    exact next_congr (arrive_same hto.free hb htake)
  have happend : (s.modCh c fun ch => ch.append (points.take room)) = if room = 0 then s else s.modCh c fun ch =>
      { ch with
        queue := queue
        play :=
          { ch.play with
            underrun := false
            underrunTimer := none
            lowArmed := if ch.settings.lowWater < queue.length then true else ch.play.lowArmed } } := by
    have hne : points ≠ [] := List.ne_nil_of_length_pos (by omega)
    split
    · rename_i h
      exact modCh_self ((append_eq _ _ _ hne).trans (if_pos h))
    · rename_i h
      exact modCh_congr ((append_eq _ _ _ hne).trans (if_neg h))
  have hcount : ((s.ch c).append (points.take room)).queue.length = queue.length := by rw [append_queue_eq]
  have hanswer : ∀ body, takeKind .profileAppend r s = (s.modCh c fun ch => ch.append (points.take room), body) →
      done body := fun body h => by
    refine next_congr ?_
    rw [arrive_modCh hto.free hb h (append_state _ _) (append_settings _ _), happend]
  have hnone : (∀ p ∈ points, ¬bad p) → points.findIdx? badPoint = none := fun h =>
    List.findIdx?_eq_none_iff.2 fun p hp => by
      rw [← Bool.not_eq_true, badPoint_iff]
      exact h p hp
  refine ⟨fun hall hfit => hanswer _ ?_, fun hall hfit => hanswer _ ?_⟩
  · rw [htake, hnone hall]
    have hlength : (points.take room).length = points.length := by rw [List.length_take]; omega
    simp only [queueLimit, State.ch_modCh_self]
    rw [if_pos hlength, hlength, hlen, hcount]
  · rw [htake, hnone hall]
    have hlength : (points.take room).length = room := by rw [List.length_take]; omega
    simp only [queueLimit, State.ch_modCh_self]
    rw [if_neg (by rw [hlength]; omega), hlength, hcount]

/-- Settles O23. -/
theorem profileQueue : Obligations.ProfileQueue := by
  unfold Obligations.ProfileQueue
  refine ⟨profileAppend_answers, fun r s c hto => ?_⟩
  have hb : r.body.length ≤ 1024 := by rw [hto.length]; decide
  have htake : takeKind .profileFlush r s = _ := takeProfileFlush.eq_def r s
  rw [takeCh_of hto rfl] at htake
  simp only [isFollower_iff] at htake
  intro ch answers
  split
  · rename_i h
    exact next_congr (arrive_same hto.free hb (htake.trans (if_pos h)))
  rename_i hfollower
  rw [if_neg hfollower] at htake
  split
  · rename_i h
    exact next_congr (arrive_same hto.free hb (htake.trans (if_pos h)))
  · rename_i h
    exact next_congr (arrive_modCh hto.free hb (htake.trans (if_neg h)) rfl rfl)

end Sys2Proof.Machine
end

section
/-! PROOF. What a command can do: the acts that end in READY with the bringing forward of periods and the transmitter's
choice, the requests taken, and the rest, which reach the link port, the raw levels or the part state alone. Laws over every
command are proved along `Happens`. -/
namespace Sys2Proof.Machine

open Sys2Proof.Safety

/-- The act of a command that acts only in READY: of every row but the requests, the link port's own and those of power,
start-up and the store. -/
def eventAct : Instr → Option (State → State)
  | .lineBreakEnd c => some fun s => lineBreakEnds s c
  | .stageFrameWhollySent c => some fun s => stageFrameSent s c
  | .confirm c tag => some fun s => confirmArrives s c tag
  | .reading c after raw => some fun s => readingArrives s c after raw
  | .stageBadFrame c _ => some fun s => s.modPort c Port.countError
  | .stageByteGapTimeout c => some fun s => s.modPort c Port.countError
  | .confirmationTimerExpiry c => some fun s => confirmationExpires s c
  | .periodEvent c => some fun s => periodExpires s c
  | .gapTimerExpiry c => some fun s => gapTimerExpires s c
  | .startTimerExpiry c => some fun s => startTimerExpires s c
  | .grantHoldExpiry c => some fun s => grantHoldExpires s c
  | .waitTimerExpiry c => some fun s => waitTimerExpires s c
  | .underrunTimerExpiry c => some fun s => underrunExpires s c
  | .hallStopAssert => some hallStopAsserts
  | .hallStopDeassert => some hallStopDeasserts
  | .chamberAlarmLineChange line level => some fun s => alarmRawChange s line level
  | .alarmDebounceExpiry line => some fun s => alarmDebounceExpires s line
  | .curtailmentLineChange level => some fun s => curtailRawChange s level
  | .curtailDebounceExpiry => some curtailDebounceExpires
  | .wakeTimerExpiry => some wakeTimerExpires
  | _ => none

/-- A frame is taken by a command: it stood at the head of the queue, or the command is its arrival on a link with no
request waiting. -/
def TakenBy (i : Instr) (s : State) (g : Frame) : Prop :=
  s.link.requests.head? = some g ∨ s.link.requests = [] ∧ exec i s = exec (.controlFrame g) s

/-- The states a command can lead to. -/
inductive Happens (i : Instr) (s : State) : State → Prop
  /-- Only the link port changes. -/
  | link (l : Link) : Happens i s { s with link := l }
  /-- An event of the hall or of a channel. -/
  | event (f : State → State) (hf : eventAct i = some f) (hp : s.part = .ready) : Happens i s (finish s (f s))
  /-- A request is taken. -/
  | request (g : Frame) (k : ReqKind) (l : Link) (reply : Reply) (hp : s.part ≠ .starting)
      (hk : ReqKind.ofCode g.kind = some k) (hg : TakenBy i s g) :
      Happens i s (finish s ((takeKind k (Frame.request g) { s with link := l }).1.modLink fun m =>
        { m with reply := some reply }))
  /-- A level of the hall stop line, of a chamber alarm line or of the curtailment line, out of READY. -/
  | hallStopLevel (hp : s.part ≠ .ready) (x : Bool) : Happens i s (s.modProt fun p => { p with hallStop := x })
  | alarmLevel (hp : s.part ≠ .ready) (line : LineNo) (x : Bool) : Happens i s (s.modLine line fun l => { l with raw := x })
  | curtailLevel (hp : s.part ≠ .ready) (x : Bool) : Happens i s (s.modHall fun h => { h with curtRaw := x })
  /-- A settings save ends. -/
  | saved (image : Image) (l : Link) : Happens i s { s with image := image, saveInFlight := none, link := l }
  /-- A start-up begins or ends, or the board halts, or the supply fails. -/
  | startUp (u : State) (cause : StartCause) : Happens i s (beginStartUp u cause)
  | startUpEnd (hp : s.part = .starting) : Happens i s (pump (endStartUp s))
  | halt (l : Link) : Happens i s { s with part := .halted, link := l }
  | off : Happens i s (losePower s)

theorem Happens.of_link {i : Instr} {s t : State} (h : t = { s with link := t.link }) : Happens i s t := by
  rw [h]; exact .link _

/-- IDENTIFY changes nothing. -/
theorem takeKind_identify (r : Request) (s : State) : (takeKind .identify r s).1 = s := by
  rw [takeKind, takeIdentify]
  exact takePart_ind (P := fun t => t = s) _ _ _ _ rfl rfl

/-- The taking of a frame: the request of its kind, or the link port alone. -/
theorem answer_happens {i : Instr} {s : State} {g : Frame} (l : Link) (hg : TakenBy i s g) :
    Happens i s (finish s (answer g { s with link := l })) := by
  have hlink : (takeFrame g { s with link := l }).1 = { s with link := l } →
      Happens i s (finish s (answer g { s with link := l })) := by
    intro hsame
    rw [answer, hsame]
    refine .of_link ?_
    rw [finish_of_link rfl, pump_eq]
    rfl
  cases hk : ReqKind.ofCode g.kind with
  | none => exact hlink (by simp only [takeFrame, hk]; split <;> rfl)
  | some k =>
    by_cases hp : s.part = .starting
    · refine hlink ?_
      simp only [takeFrame, hk]
      split
      · rfl
      · rename_i h
        rw [not_and_not_right.1 h hp]
        exact takeKind_identify _ _
    · have hframe : takeFrame g { s with link := l } = takeKind k (Frame.request g) { s with link := l } := by
        simp only [takeFrame, hk]
        exact if_neg fun h => hp h.1
      rw [answer, hframe]
      exact .request g k l _ hp hk hg

theorem takeNext_happens {i : Instr} {s : State} (l : Link) (hg : ∀ g rest, l.requests = g :: rest → TakenBy i s g) :
    Happens i s (finish s (takeNext { s with link := l })) := by
  have hlink : takeNext { s with link := l } = { s with link := l } →
      Happens i s (finish s (takeNext { s with link := l })) := by
    intro hsame
    rw [hsame]
    refine .of_link ?_
    rw [finish_of_link rfl, pump_eq]
  cases hq : l.requests with
  | nil => exact hlink (takeNext_nil hq)
  | cons g rest =>
    by_cases hfree : l.replyFree = true
    · rw [takeNext_cons (s := { s with link := l }) hq hfree]
      exact answer_happens { l with requests := rest } (hg g rest hq)
    · exact hlink (takeNext_replyBusy (s := { s with link := l }) (by simpa using hfree))

theorem enqueue_head {l : Link} {f g : Frame} {rest : List Frame} (h : (l.enqueue f).requests = g :: rest) :
    l.requests.head? = some g ∨ l.requests = [] ∧ g = f := by
  unfold Link.enqueue at h
  cases hq : l.requests with
  | nil =>
    simp only [hq, List.length_nil, Nat.zero_lt_succ, if_true, List.nil_append] at h
    injection h with h _
    exact .inr ⟨rfl, h.symm⟩
  | cons x xs =>
    refine .inl ?_
    split at h
    · simp only [hq, List.cons_append] at h
      injection h with h _
      rw [h]; rfl
    · simp only [Link.countOverrun, hq] at h
      injection h with h _
      rw [h]; rfl

theorem arrive_happens {i : Instr} {s : State} {f : Frame} (hi : exec i s = exec (.controlFrame f) s) :
    Happens i s (arrive f s) := by
  unfold arrive
  split
  · split
    · exact .of_link rfl
    · refine takeNext_happens (s.link.enqueue f) fun g rest h => ?_
      rcases enqueue_head h with hhead | ⟨hempty, rfl⟩
      · exact .inl hhead
      · exact .inr ⟨hempty, hi⟩
  · exact .of_link rfl

theorem frameSent_happens (i : Instr) (s : State) : Happens i s (frameSent s) := by
  unfold frameSent
  split
  · exact .of_link rfl
  · rename_i f hs
    refine iteInduction (motive := Happens i s) (fun _ => ?_) fun _ => ?_
    · unfold resetPartNow
      refine iteInduction (motive := Happens i s) (fun _ => ?_) fun _ => ?_
      · exact .halt _
      · exact .startUp _ _
    · have hpump : pump (s.modLink fun l => { l with sending := none }) =
          { s with link := (pump (s.modLink fun l => { l with sending := none })).link } := by
        rw [pump_eq]; rfl
      rw [hpump]
      refine takeNext_happens _ fun g rest h => .inl ?_
      rw [pump_requests] at h
      exact congrArg List.head? h

theorem pump_startUp (u : State) (cause : StartCause) : pump (beginStartUp u cause) = beginStartUp u cause :=
  pump_noFrameDue (.inr ⟨rfl, .inr rfl⟩)

theorem endSave_happens (i : Instr) (s : State) (result : SaveEnd) : Happens i s (pump (endSave s result)) := by
  unfold endSave
  split
  · exact .of_link (pump_eq s)
  · refine iteInduction (motive := fun t => Happens i s (pump t)) (fun _ => ?_) fun _ => ?_
    · rw [pump_startUp]
      exact .startUp _ _
    · rw [pump_eq]
      exact .saved _ _

theorem linkError_happens (i : Instr) (s : State) :
    Happens i s (if linkUp s then s.modLink Link.countError else s) := by
  split
  · exact .of_link rfl
  · exact .of_link rfl

theorem whenReady_happens {i : Instr} {s : State} (f : State → State) (hf : eventAct i = some f) :
    Happens i s (whenReady s f) := by
  unfold whenReady
  split
  · exact .event f hf ‹_›
  · exact .of_link rfl

/-- The report hold timer's expiry reaches the link port alone. -/
theorem reportHoldExpiry_happens (i : Instr) (s : State) : Happens i s (whenReady s reportHoldExpires) := by
  have hlink : reportHoldExpires s = { s with link := (reportHoldExpires s).link } := by
    unfold reportHoldExpires
    split <;> rfl
  unfold whenReady
  split
  · refine .of_link ?_
    rw [finish_of_link hlink, pump_eq, hlink]
  · exact .of_link rfl

/-- The rows of the hall lines. -/
theorem hallLine_happens {i : Instr} {s : State} (f : State → State) (hf : eventAct i = some f) {u : State}
    (hu : s.part ≠ .ready → Happens i s u) : Happens i s (if s.part = .ready then finish s (f s) else u) := by
  split
  · exact .event f hf ‹_›
  · exact hu ‹_›

theorem happens_of_exec {i : Instr} {s t : State} (h : exec i s = .next t) : Happens i s t := by
  have key : ∃ u, exec i s = .next u ∧ Happens i s u := by
    cases i with
    | powerOn => exact ⟨_, rfl, .startUp _ _⟩
    | powerLoss => exact ⟨_, rfl, .off⟩
    | startUpEnd =>
      refine ⟨_, rfl, ?_⟩
      split
      · exact .startUpEnd ‹_›
      · exact .of_link rfl
    | settingsSaveEnd result => exact ⟨_, rfl, endSave_happens _ s result⟩
    | badFrame => exact ⟨_, rfl, linkError_happens _ s⟩
    | controlByteGapTimeout => exact ⟨_, rfl, linkError_happens _ s⟩
    | controlFrameWhollySent => exact ⟨_, rfl, frameSent_happens _ s⟩
    | reportHoldExpiry => exact ⟨_, rfl, reportHoldExpiry_happens _ s⟩
    | hallStopAssert => exact ⟨_, rfl, hallLine_happens _ rfl fun hp => .hallStopLevel hp true⟩
    | hallStopDeassert => exact ⟨_, rfl, hallLine_happens _ rfl fun hp => .hallStopLevel hp false⟩
    | chamberAlarmLineChange line level =>
      exact ⟨_, rfl, hallLine_happens (fun s => alarmRawChange s line level) rfl fun hp => .alarmLevel hp line level⟩
    | curtailmentLineChange level =>
      exact ⟨_, rfl, hallLine_happens (fun s => curtailRawChange s level) rfl fun hp => .curtailLevel hp level⟩
    | lineBreakEnd | stageFrameWhollySent | confirm | reading | stageBadFrame | stageByteGapTimeout
    | confirmationTimerExpiry | periodEvent | gapTimerExpiry | startTimerExpiry | grantHoldExpiry | waitTimerExpiry
    | underrunTimerExpiry | alarmDebounceExpiry | curtailDebounceExpiry | wakeTimerExpiry =>
      exact ⟨_, rfl, whenReady_happens _ rfl⟩
    | _ => exact ⟨_, rfl, arrive_happens rfl⟩
  obtain ⟨u, hu, hhappens⟩ := key
  cases hu.symm.trans h
  exact hhappens

end Sys2Proof.Machine
end

section
/-! PROOF. The lifetime accounts (R45, R67, R69), end conditions (R73 to R78), and the port's own events. -/
namespace Sys2Proof.Machine

open Sys2Proof.Safety

/-! ### Lifetime accounts -/

theorem eventAct_evolves {i : Instr} {f : State → State} (hf : eventAct i = some f) (s : State) : Evolves s (f s) := by
  cases i with
  | lineBreakEnd c => cases hf; exact lineBreakEnds_evolves s c
  | stageFrameWhollySent c => cases hf; exact stageFrameSent_evolves s c
  | confirm c tag => cases hf; exact confirmArrives_evolves s c tag
  | reading c after raw => cases hf; exact readingArrives_evolves s c after raw
  | stageBadFrame c => cases hf; exact countError_evolves s c
  | stageByteGapTimeout c => cases hf; exact countError_evolves s c
  | confirmationTimerExpiry c => cases hf; exact confirmationExpires_evolves s c
  | periodEvent c => cases hf; exact periodExpires_evolves s c
  | gapTimerExpiry c => cases hf; exact gapTimerExpires_evolves s c
  | startTimerExpiry c => cases hf; exact startTimerExpires_evolves s c
  | grantHoldExpiry c => cases hf; exact grantHoldExpires_evolves s c
  | waitTimerExpiry c => cases hf; exact waitTimerExpires_evolves s c
  | underrunTimerExpiry c => cases hf; exact underrunExpires_evolves s c
  | hallStopAssert => cases hf; exact hallStopAsserts_evolves s
  | hallStopDeassert => cases hf; exact hallStopDeasserts_evolves s
  | chamberAlarmLineChange line level => cases hf; exact alarmRawChange_evolves s line level
  | alarmDebounceExpiry line => cases hf; exact alarmDebounceExpires_evolves s line
  | curtailmentLineChange level => cases hf; exact curtailRawChange_evolves s level
  | curtailDebounceExpiry => cases hf; exact curtailDebounceExpires_evolves s
  | wakeTimerExpiry => cases hf; exact wakeTimerExpires_evolves s
  | _ => cases hf

theorem ofCode_some {b : Byte} {k : ReqKind} (h : ReqKind.ofCode b = some k) : b = k.code := by
  have hcode := List.find?_some h
  simp only [decide_eq_true_eq] at hcode
  exact hcode.symm

theorem channelOf_some {b : Byte} {c : Ch} (h : channelOf b = some c) : b = chByte c := by
  unfold channelOf at h
  split at h
  · injection h with h
    subst h
    exact BitVec.eq_of_toNat_eq (by simp only [chByte, BitVec.toNat_ofNat]; omega)
  · cases h

/-- CLEAR_LIFETIME reaches the lifetime accounts of the channel it names, out of FOLLOWER and of the engaged states. -/
theorem takeClearLifetime_zeroes {r : Request} {s : State} {c : Ch}
    (h : ((takeKind .clearLifetime r s).1.ch c).life ≠ (s.ch c).life) :
    ((takeKind .clearLifetime r s).1.ch c).life = Accounts.zero ∧ r.channel = chByte c ∧ r.body = [] ∧
      (s.ch c).state ∈ [.idle, .complete, .faulted] := by
  have htake : takeKind .clearLifetime r s = _ := takeClearLifetime.eq_def r s
  unfold takeCh at htake
  rw [htake] at h ⊢
  split at h
  · exact absurd rfl h
  rename_i hlen
  have hbody : r.body = [] := by simpa [ReqKind.lengthOk] using hlen
  split at h
  · exact absurd rfl h
  rename_i d hd
  dsimp only at h
  split at h
  · exact absurd rfl h
  rename_i hfollower
  split at h
  · exact absurd rfl h
  rename_i hengaged
  rw [State.ch_modCh] at h
  split at h
  · rename_i hcd
    subst hcd
    simp only [if_neg hlen, if_neg hfollower, if_neg hengaged]
    refine ⟨by rw [State.ch_modCh_self], channelOf_some hd, hbody, ?_⟩
    rw [isFollower_iff] at hfollower
    cases hx : (s.ch c).state <;> simp_all [ChState.engaged]
  · exact absurd rfl h

/-- How a command zeroes a channel's lifetime accounts. -/
def LifeZeroed (i : Instr) (s t : State) (c : Ch) : Prop :=
  (t.ch c).life = ⟨0, 0, 0, 0⟩ ∧ (t.part = .starting ∨ t.part = .off ∨
    (s.ch c).state ∈ [.idle, .complete, .faulted] ∧
      ∃ f, TakenBy i s f ∧ f.kind = 0x2D ∧ f.channel = chByte c ∧ f.body = [])

theorem life_law {i : Instr} {s t : State} (h : exec i s = .next t) (c : Ch) :
    LifeZeroed i s t c ∨ AccountsLe (s.ch c).life (t.ch c).life := by
  cases happens_of_exec h with
  | link l => exact .inr (accountsLe_refl _)
  | event f hf hp =>
    rw [finish_life]
    exact .inr ((eventAct_evolves hf s).life c)
  | request g k l reply hp hk hg =>
    rw [finish_life]
    by_cases hclear : k = .clearLifetime
    · subst hclear
      by_cases hsame : ((takeKind .clearLifetime (Frame.request g) { s with link := l }).1.ch c).life = (s.ch c).life
      · refine .inr ?_
        rw [State.ch_modLink, hsame]
        exact accountsLe_refl _
      · obtain ⟨hzero, hchannel, hbody, hstate⟩ := takeClearLifetime_zeroes hsame
        refine .inl ⟨?_, .inr (.inr ⟨hstate, g, hg, ofCode_some hk, hchannel, hbody⟩)⟩
        rw [finish_life]
        exact hzero
    · refine .inr ?_
      by_cases hw : k = .writeSteps
      · subst hw
        rw [State.ch_modLink, (writeSteps_holds _ _).2 c]
        exact accountsLe_refl _
      · exact (takeKind_evolves k (Frame.request g) { s with link := l } hclear hw).life c
  | hallStopLevel hp x => exact .inr (accountsLe_refl _)
  | alarmLevel hp line x => exact .inr (accountsLe_refl _)
  | curtailLevel hp x => exact .inr (accountsLe_refl _)
  | saved image l => exact .inr (accountsLe_refl _)
  | startUp u cause => exact .inl ⟨beginStartUp_life u cause c, .inl rfl⟩
  | startUpEnd hp =>
    rw [pump_life]
    exact .inr ((endStartUp_evolves s).life c)
  | halt l => exact .inr (accountsLe_refl _)
  | off => exact .inl ⟨losePower_life s c, .inr (.inl rfl)⟩

/-- Settles O24. -/
theorem lifetimeAccounts : Obligations.LifetimeAccounts := by
  unfold Obligations.LifetimeAccounts
  refine ⟨fun i s t c h => ?_, fun r s hfree hbody => ?_⟩
  · intro a b limit clears hqc hqd hec hed
    rcases life_law h c with ⟨hzero, hwhy⟩ | hle
    · refine .inl ⟨hzero, hwhy.imp_right (Or.imp_right (And.imp_right ?_))⟩
      rintro ⟨f, hf | ⟨hq, hi⟩, hclears⟩
      · exact .inl ⟨f, hf, hclears⟩
      · exact .inr ⟨hq, f, hi, hclears⟩
    · have hgrown : ∀ {x y : Nat}, Grown x y → x ≤ limit → x ≤ y ∧ y ≤ limit := fun h hx =>
        ⟨le_trans (le_min le_rfl hx) h.1, h.2 hx⟩
      obtain ⟨h1, h2, h3, h4⟩ := hle
      obtain ⟨h1, h1'⟩ := hgrown h1 hqc
      obtain ⟨h2, h2'⟩ := hgrown h2 hqd
      obtain ⟨h3, h3'⟩ := hgrown h3 hec
      obtain ⟨h4, h4'⟩ := hgrown h4 hed
      exact .inr ⟨h1, h1', h2, h2', h3, h3', h4, h4'⟩
  · refine ⟨fun hc => ?_, fun c hc => ?_⟩
    · refine next_congr (arrive_same hfree (by simp [hbody]) ?_)
      rw [takeKind, takeClearLifetime, takeCh_bad (by rw [hbody]; rfl) hc]
    · have hb : r.body.length ≤ 1024 := by simp [hbody]
      have htake : takeKind .clearLifetime r s = _ := takeClearLifetime.eq_def r s
      rw [takeCh_ok (by rw [hbody]; rfl) hc] at htake
      simp only [isFollower_iff, engaged_iff] at htake
      split
      · rename_i hf
        exact next_congr (arrive_same hfree hb (htake.trans (if_pos hf)))
      rename_i hf
      rw [if_neg hf] at htake
      split
      · rename_i he
        exact next_congr (arrive_same hfree hb (htake.trans (if_pos he)))
      · rename_i he
        exact next_congr (arrive_modCh hfree hb (htake.trans (if_neg he)) rfl rfl)

/-! ### End conditions -/

theorem condHolds_kinds (ch : Channel) (f : Figures) (taken : Bool) (e : EndCond) :
    let n := e.threshold
    let measured := fun p : Bool => condHolds ch f taken e = if taken then some p else none
    (e.kind = .vAbove → measured (n ≤ f.v)) ∧ (e.kind = .vBelow → measured ((f.v : Int) ≤ n)) ∧
    (e.kind = .tAbove → measured (n ≤ f.t)) ∧
    (e.kind = .vDrop → measured (n ≤ 0 ∨ n ≤ (ch.vPeak : Int) - f.v)) ∧
    (e.kind = .iBelow → measured (f.reg = .voltageLimited ∧ (f.i.natAbs : Int) ≤ n)) ∧
    (e.kind = .time → condHolds ch f taken e = some (decide (n ≤ ch.stepTime))) ∧
    (e.kind = .charge → condHolds ch f taken e = some (decide (n * 3600 ≤ ch.qStep.natAbs))) ∧
    (e.kind = .energy → condHolds ch f taken e = some (decide (n * 3600 ≤ ch.eStep.natAbs))) := by
  intro n measured
  have hdrop : e.threshold ≤ (dropFrom ch.vPeak f.v : Int) ↔ n ≤ 0 ∨ n ≤ (ch.vPeak : Int) - f.v := by
    unfold dropFrom
    show n ≤ _ ↔ _
    omega
  refine ⟨fun h => ?_, fun h => ?_, fun h => ?_, fun h => ?_, fun h => ?_, fun h => ?_, fun h => ?_, fun h => ?_⟩ <;>
    simp only [measured, condHolds, h, hdrop, Bool.decide_and] <;> rfl

theorem stepCounters_get (ch : Channel) (f : Figures) (taken : Bool) (es : List EndCond) (ns : List Nat) (j n : Nat)
    (hn : ns[j]? = some n) :
    (es[j]? = none → (stepCounters ch f taken es ns)[j]? = some n) ∧
      ∀ e, es[j]? = some e → (stepCounters ch f taken es ns)[j]? = some (stepCounter (condHolds ch f taken e) n) := by
  induction es generalizing ns j with
  | nil => exact ⟨fun _ => hn, fun e he => by cases he⟩
  | cons d es ih =>
    cases ns with
    | nil => cases hn
    | cons m ns =>
      cases j with
      | zero =>
        cases hn
        exact ⟨fun h => (by cases h), fun e he => by cases he; rfl⟩
      | succ j => exact ih ns j hn

theorem firstFired_ge {k i : Nat} {es : List EndCond} {ns : List Nat} {e : EndCond}
    (h : firstFired k es ns = some (i, e)) : k ≤ i := by
  induction es generalizing k ns with
  | nil => cases h
  | cons d es ih =>
    cases ns with
    | nil => cases h
    | cons n ns =>
      rw [firstFired] at h
      split at h
      · cases h; exact Nat.le_refl _
      · exact Nat.le_of_succ_le (ih h)

/-- The positions of `firstFired` count from its first argument. -/
theorem firstFired_iff (k : Nat) (es : List EndCond) (ns : List Nat) (i : Nat) (e : EndCond) :
    firstFired k es ns = some (k + i, e) ↔
      (es[i]? = some e ∧ ∃ n, ns[i]? = some n ∧ e.confirm ≤ n) ∧
        ∀ (j : Nat) (d : EndCond) (m : Nat), j < i → es[j]? = some d → ns[j]? = some m → m < d.confirm := by
  induction es generalizing k ns i with
  | nil => simp [firstFired]
  | cons d es ih =>
    cases ns with
    | nil => simp [firstFired]
    | cons n ns =>
      rw [firstFired]
      by_cases hfired : d.confirm ≤ n
      · rw [if_pos hfired]
        cases i with
        | zero =>
          refine ⟨fun h => ?_, fun ⟨⟨he, _⟩, _⟩ => ?_⟩
          · cases h
            exact ⟨⟨rfl, n, rfl, hfired⟩, fun j _ _ hj => absurd hj (Nat.not_lt_zero j)⟩
          · cases he; rfl
        | succ i =>
          refine ⟨fun h => ?_, fun ⟨_, hbefore⟩ => ?_⟩
          · injection h with h
            injection h with h _
            omega
          · exact absurd (hbefore 0 d n (Nat.succ_pos i) rfl rfl) (Nat.not_lt.2 hfired)
      · rw [if_neg hfired]
        cases i with
        | zero =>
          refine ⟨fun h => absurd (firstFired_ge h) (by omega), fun ⟨⟨he, m, hm, hle⟩, _⟩ => ?_⟩
          cases he
          cases hm
          exact absurd hle hfired
        | succ i =>
          rw [show k + (i + 1) = k + 1 + i by omega, ih (k + 1) ns i]
          refine and_congr Iff.rfl ⟨fun h j x m hj hx hm => ?_, fun h j x m hj hx hm => ?_⟩
          · cases j with
            | zero => cases hx; cases hm; exact Nat.lt_of_not_le hfired
            | succ j => exact h j x m (Nat.lt_of_succ_lt_succ hj) hx hm
          · exact h (j + 1) x m (Nat.succ_lt_succ hj) hx hm

theorem firstFired_none {k : Nat} {es : List EndCond} {ns : List Nat} (h : firstFired k es ns = none) (j : Nat)
    (d : EndCond) (m : Nat) (hd : es[j]? = some d) (hm : ns[j]? = some m) : m < d.confirm := by
  induction es generalizing k ns j with
  | nil => cases hd
  | cons e es ih =>
    cases ns with
    | nil => cases hm
    | cons n ns =>
      rw [firstFired] at h
      split at h
      · cases h
      cases j with
      | zero => cases hd; cases hm; omega
      | succ j => exact ih h j hd hm

/-- Settles O41. -/
theorem endConditions : Obligations.EndConditions := by
  unfold Obligations.EndConditions
  refine ⟨condHolds_kinds, fun ch f taken es ns j n hn => ?_, fun es ns i e => ?_, fun es ns h => firstFired_none h⟩
  · obtain ⟨h1, h2⟩ := stepCounters_get ch f taken es ns j n hn
    exact ⟨h1, fun e he => by rw [h2 e he]; rfl⟩
  · simpa using firstFired_iff 0 es ns i e

end Sys2Proof.Machine
end

section
/-! PROOF. The demand a channel calls for and its issue (R46 to R48, R126, R127, R158). -/
namespace Sys2Proof.Machine

open Sys2Proof.Safety

theorem clampCurrent_eq (i : Int) (limit : Nat) :
    clampCurrent i limit = (max (-(limit : Int)) (min limit i), decide (limit < i.natAbs)) := by
  unfold clampCurrent
  split
  · rename_i h
    simp only [h, decide_true, Prod.mk.injEq, and_true]
    split <;> omega
  · rename_i h
    simp only [h, decide_false, Prod.mk.injEq, and_true]
    omega

theorem roundDiv_power (p d : Nat) :
    roundDiv ((p : Int) * 1000000) d = ((2 * (p * 1000000) + d) / (2 * d) : Nat) := by
  have h := roundDiv_natCast (p * 1000000) d
  push_cast at h ⊢
  exact h

theorem claimCurrent_eq (s : State) (c : Ch) : claimCurrent s c =
    ((s.arb.grants.find? fun g => g.ch = c).map fun g => g.amount * 1000000 / divisorVoltage s c).getD 0 := by
  unfold claimCurrent grantOf
  cases s.arb.grants.find? fun g => g.ch = c <;> rfl

theorem currentCap_eq (s : State) (c : Ch) (x : StepRecord) :
    let both := 2 * min (s.ch c).settings.iMax (s.ch (partner c)).settings.iMax
    currentCap s c x =
      if isLeader s c then min (x.cap.getD both) both else x.cap.getD (s.ch c).settings.iMax := by
  intro both
  unfold currentCap
  split
  · cases x.cap with
    | none => exact (Nat.min_self _).symm
    | some cap => rfl
  · rfl

theorem playCurrent_eq (ch : Channel) : playCurrent ch =
    ((ch.queue[if ch.settings.profileMode = .repeat then ch.play.position else 0]?).map Point.current).getD
      ch.play.heldCurrent := by
  unfold playCurrent playPoint playPosition
  generalize ch.queue[if ch.settings.profileMode = .repeat then ch.play.position else 0]? = p
  cases p <;> rfl

theorem calledFor_working {s : State} {c : Ch} {x : StepRecord}
    (hs : (s.ch c).state = .starting ∨ (s.ch c).state = .running) (hx : currentStep s c = some x) :
    calledFor s c = regulateDemand s c x := by
  unfold calledFor
  rcases hs with hs | hs <;> simp only [hs, hx]

theorem calledFor_step : ∀ (s : State) (c : Ch) (x : StepRecord), (s.ch c).state = .starting ∨ (s.ch c).state = .running →
    currentStep s c = some x →
    let set := (s.ch c).settings
    let play := (s.ch c).play
    let leads := isLeader s c
    let v := max (if leads then (s.ch c).pack.v else (s.ch c).last.v) 2000
    let both := 2 * min set.iMax (s.ch (partner c)).settings.iMax
    let cap := if leads then min (x.cap.getD both) both else x.cap.getD set.iMax
    let claim := ((s.arb.grants.find? fun g => g.ch = c).map fun g => g.amount * 1000000 / v).getD 0
    let limit := min cap claim
    let rounded := fun p : Nat => (2 * (p * 1000000) + v) / (2 * v)
    let point := (s.ch c).queue[if set.profileMode = .repeat then play.position else 0]?
    let figures : Int × Nat × Nat :=
      match x with
      | .charge i upper _ _ => (i, upper, set.vMin)
      | .discharge i lower _ _ => (-i, set.vMax, lower)
      | .chargePower p upper _ _ _ => (rounded p, upper, set.vMin)
      | .dischargePower p lower _ _ _ => (-(rounded p), set.vMax, lower)
      | .profile upper lower _ _ _ => ((point.map Point.current).getD play.heldCurrent, upper, lower)
      | _ => (0, 0, 0)
    calledFor s c = if x.kind = .rest ∨ x.kind = .mark then (⟨.idle, 0, 0, 0⟩, false)
      else (⟨.regulate, max (-(limit : Int)) (min limit figures.1), figures.2.1, figures.2.2⟩,
        decide (limit < figures.1.natAbs)) := by
  intro s c x hs hx set play leads v both cap claim limit rounded point figures
  have hlimit : min (currentCap s c x) (claimCurrent s c) = limit := by
    rw [currentCap_eq, claimCurrent_eq]
    rfl
  have hpower : ∀ p : Nat, roundDiv ((p : Int) * 1000000) (divisorVoltage s c) = (rounded p : Int) := fun p =>
    roundDiv_power p v
  have hplay : playCurrent (s.ch c) = (point.map Point.current).getD play.heldCurrent := playCurrent_eq _
  rw [calledFor_working hs hx]
  unfold regulateDemand
  rw [hlimit, clampCurrent_eq]
  cases x with
  | rest | mark => rfl
  | charge | discharge => rfl
  | chargePower | dischargePower => simp only [rawCurrent, hpower]; rfl
  | profile => simp only [rawCurrent, hplay]; rfl

/-- What a port makes of a demand it is handed (R158). -/
theorem handNew_eq (p : Port) (d : Demand) :
    let tagged : Tagged := ⟨d, p.nextTag⟩
    let free : Prop := p.sending = none ∧ p.due = [] ∧ p.breaking = false
    p.handNew d =
      if p.standing = some d then p
      else if p.presence = .absent then { p with standing := some d, pending := some d }
      else if p.outstanding = none then
        { p with
          standing := some d, outstanding := some tagged, nextTag := p.nextTag + 1
          sending := if free then some (.demand tagged) else p.sending
          due := if free then p.due else p.due ++ [.demand tagged] }
      else { p with
        standing := some d
        pending := if p.outstanding.map Tagged.demand = some d then none else some d } := by
  intro tagged free
  unfold Port.handNew
  split
  · rfl
  unfold Port.hand
  dsimp only
  split
  · rfl
  cases ho : p.outstanding with
  | none =>
    rw [if_pos rfl]
    simp only [Port.send, Port.enqueue]
    by_cases h : free
    · obtain ⟨h1, h2, h3⟩ := h
      simp [free, h1, h2, h3, tagged]
    · have hbusy : (p.sending.isNone && p.due.isEmpty && !p.breaking) = false := by
        simpa [free, List.isEmpty_iff, imp_iff_not_or, or_assoc] using h
      simp only [hbusy, if_neg h]
      rfl
  | some t =>
    rw [if_neg (by simp)]
    by_cases h : t.demand = d <;> simp [h]

theorem handNew_standing (p : Port) (d : Demand) : (p.handNew d).standing = some d := by
  rw [handNew_eq]
  split
  · assumption
  · split
    · rfl
    · split <;> rfl

theorem modCh_modCh (s : State) (c : Ch) (f g : Channel → Channel) :
    (s.modCh c f).modCh c g = s.modCh c fun ch => g (f ch) := by
  simp only [State.modCh, State.ch, Fin.getElem_fin, Vector.getElem_set_self, Vector.set_set]

/-- A channel that leads no pair issues its demand to its own port. -/
theorem issue_single {s : State} {c : Ch} (h : isLeader s c = false) : issue s c = s.modCh c fun ch =>
    { ch with clamped := ch.clamped || (calledFor s c).2, port := ch.port.handNew (calledFor s c).1 } := by
  unfold issue
  rw [h, if_neg Bool.false_ne_true]
  cases hd : (calledFor s c).2 with
  | false => simp only [Bool.or_false]; rfl
  | true =>
    simp only [Bool.or_true, if_true, State.modPort]
    exact modCh_modCh _ _ _ _

theorem partner_ne (c : Ch) : partner c ≠ c := by revert c; decide

/-- A leader issues the shares of its demand to both ports. -/
theorem issue_leader {s : State} {c : Ch} (h : isLeader s c = true) :
    issue s c = (s.modCh c fun ch =>
        { ch with
          clamped := ch.clamped || (calledFor s c).2
          port := ch.port.handNew (leaderShare (calledFor s c).1) }).modPort (partner c) fun p =>
      p.handNew (followerDemand (s.ch (partner c)).latched (calledFor s c).1) := by
  unfold issue
  rw [if_pos h]
  cases hd : (calledFor s c).2 with
  | false => simp only [Bool.or_false]; rfl
  | true =>
    simp only [Bool.or_true, if_true]
    congr 1
    exact modCh_modCh _ _ _ _

/-- An issue reaches the clamp flag and the port of a channel alone. -/
theorem issue_ch (s : State) (c e : Ch) : ∃ x p, (issue s c).ch e = { s.ch e with clamped := x, port := p } := by
  have hport : ∀ (u : State) (d : Ch) (f : Port → Port), ∃ p, (u.modPort d f).ch e = { u.ch e with port := p } := by
    intro u d f
    rw [State.ch_modPort]
    split
    · rename_i h; subst h; exact ⟨_, rfl⟩
    · exact ⟨_, rfl⟩
  have hclamp : ∀ (x : Channel → Bool) (p : Channel → Port), ∃ y q, (s.modCh c fun ch => { ch with clamped := x ch, port := p ch }).ch e =
      { s.ch e with clamped := y, port := q } := by
    intro x p
    rw [State.ch_modCh]
    split
    · rename_i h; subst h; exact ⟨_, _, rfl⟩
    · exact ⟨_, _, rfl⟩
  cases h : isLeader s c with
  | false =>
    rw [issue_single h]
    exact hclamp _ _
  | true =>
    rw [issue_leader h]
    obtain ⟨q, hq⟩ := hport _ (partner c) fun p => p.handNew (followerDemand (s.ch (partner c)).latched (calledFor s c).1)
    obtain ⟨x, p, hx⟩ := hclamp (fun ch => ch.clamped || (calledFor s c).2)
      fun ch => ch.port.handNew (leaderShare (calledFor s c).1)
    exact ⟨x, q, by rw [hq, hx]⟩

/-- Settles O42. -/
theorem setpoint : Obligations.Setpoint := by
  unfold Obligations.Setpoint
  refine ⟨calledFor_step, fun s c => ⟨fun h => ?_, fun h => ?_⟩, fun s c h => ?_, fun s c h => ?_⟩
  · unfold calledFor
    cases hx : (s.ch c).state <;> simp_all [idleDemand]
  · unfold calledFor
    cases hx : (s.ch c).state <;> simp_all [offDemand]
  · intro d p tagged free
    rw [issue_single h]
    refine modCh_congr ?_
    simp only [handNew_eq]
    rfl
  · intro d t latched
    have hne := partner_ne c
    have ht : t = _ := issue_leader h
    have hother : ∀ e, e ≠ c → e ≠ partner c → t.ch e = s.ch e := fun e h1 h2 => by
      rw [ht, State.ch_modPort, if_neg h2, State.ch_modCh_ne _ h1]
    refine ⟨?_, ?_, fun e => ?_, hother⟩
    · rw [ht, State.ch_modPort, if_neg hne.symm, State.ch_modCh_self]
      exact handNew_standing _ _
    · rw [ht, State.ch_modPort_self]
      refine (handNew_standing _ _).trans ?_
      unfold followerDemand
      split <;> rfl
    · obtain ⟨x, p, he⟩ := issue_ch s c e
      rw [show t.ch e = _ from he]
      exact ⟨rfl, rfl⟩

end Sys2Proof.Machine
end

section
/-! PROOF. A port's own events (R156 to R160, R166), the pairs (R123, R124, R126), and the clearing of faults (R132, R142,
R143). -/
namespace Sys2Proof.Machine

open Sys2Proof.Safety

/-! ### The stage line transmitter (R156) -/

/-- A transmitter that frees itself takes the next due frame. -/
theorem transmitNext_free {p : Port} (hs : p.sending = none) (hb : p.breaking = false) :
    p.transmitNext = { p with sending := p.due.head?, due := p.due.tail } := by
  obtain ⟨presence, outstanding, pending, lastConfirmed, nextTag, confTimer, standing, queryAwaiting, lineErr,
    lineErrCount, sending, due, breaking⟩ := p
  cases hs
  cases hb
  cases due <;> rfl

theorem whollySent_none {p : Port} (n : Nat) (h : p.sending = none) : p.whollySent n = p := by
  simp [Port.whollySent, h]

/-- The state with one channel's port set. -/
theorem modPort_eq (s : State) (c : Ch) (f : Port → Port) :
    s.modPort c f = s.modCh c fun ch => { ch with port := f (s.ch c).port } :=
  modCh_congr rfl

/-- An event of READY that sets one port, with no frame due at the control link. -/
theorem whenReady_port {s : State} {c : Ch} {f : State → State} {q : Port} (hp : s.part = .ready) (hdue : NoFrameDue s)
    (hf : f s = s.modCh c fun ch => { ch with port := q }) :
    whenReady s f = s.modCh c fun ch => { ch with port := q } := by
  rw [whenReady, if_pos hp, hf, finish_modCh s c (fun ch => { ch with port := q }) rfl rfl]
  exact pump_noFrameDue hdue

theorem whenReady_same {s : State} {f : State → State} (hp : s.part = .ready) (hdue : NoFrameDue s) (hf : f s = s) :
    whenReady s f = s := by
  rw [whenReady, if_pos hp, hf, finish_of_link rfl]
  exact pump_noFrameDue hdue

theorem stageFrameSent_port {s : State} {c : Ch} {q : Port} (hp : s.part = .ready) (hdue : NoFrameDue s)
    (hq : (s.ch c).port.whollySent (s.ch c).settings.confTimeout = q) :
    exec (.stageFrameWhollySent c) s = .next (s.modCh c fun ch => { ch with port := q }) := by
  subst hq
  exact next_congr (whenReady_port hp hdue (modCh_congr rfl))

theorem stageFrame_sent (s : State) (c : Ch) (hp : s.part = .ready) (hdue : NoFrameDue s) :
    let p := (s.ch c).port
    let took := fun (q : Port) => { q with sending := q.due.head?, due := q.due.tail }
    let sent := fun q => exec (.stageFrameWhollySent c) s = .next (s.modCh c fun ch => { ch with port := q })
    (p.sending = none → exec (.stageFrameWhollySent c) s = .next s) ∧
    (∀ t, p.sending = some (.demand t) → p.outstanding = some t → p.breaking = false →
      sent (took { p with confTimer := some (s.ch c).settings.confTimeout })) ∧
    (∀ t, p.sending = some (.demand t) → p.outstanding ≠ some t → p.breaking = false → sent (took p)) ∧
    (p.sending = some (.query true) → p.breaking = false → sent (took { p with queryAwaiting := true })) ∧
    (p.sending = some (.query false) → p.breaking = false → sent (took p)) ∧
    (p.breaking = false → exec (.lineBreakEnd c) s = .next s) ∧
    (p.breaking = true → p.sending = none → exec (.lineBreakEnd c) s =
      .next (s.modCh c fun ch => { ch with port := took { p with breaking := false } })) := by
  intro p took sent
  refine ⟨fun h => ?_, fun t h ho hb => ?_, fun t h ho hb => ?_, fun h hb => ?_, fun h hb => ?_, fun hb => ?_,
    fun hb hs => ?_⟩
  · refine next_congr (whenReady_same hp hdue (modCh_self ?_))
    rw [whollySent_none _ h]
  · refine stageFrameSent_port hp hdue ?_
    simp only [Port.whollySent, show (s.ch c).port.sending = _ from h, if_pos (show (s.ch c).port.outstanding = _ from ho)]
    exact transmitNext_free rfl hb
  · refine stageFrameSent_port hp hdue ?_
    simp only [Port.whollySent, show (s.ch c).port.sending = _ from h,
      if_neg (show (s.ch c).port.outstanding ≠ _ from ho)]
    exact transmitNext_free rfl hb
  · refine stageFrameSent_port hp hdue ?_
    simp only [Port.whollySent, show (s.ch c).port.sending = _ from h, if_true]
    exact transmitNext_free rfl hb
  · refine stageFrameSent_port hp hdue ?_
    simp only [Port.whollySent, show (s.ch c).port.sending = _ from h]
    exact transmitNext_free rfl hb
  · refine next_congr (whenReady_same hp hdue ?_)
    rw [lineBreakEnds, show (s.port c).breaking = false from hb]
    rfl
  · refine next_congr (whenReady_port hp hdue ?_)
    rw [lineBreakEnds, show (s.port c).breaking = true from hb, if_pos rfl, modPort_eq]
    refine modCh_congr ?_
    have hfree : (s.ch c).port.breakEnd = took { p with breaking := false } :=
      transmitNext_free (p := { p with breaking := false }) hs rfl
    rw [hfree]

/-! ### Confirmations (R160) -/

theorem settlingTest_calm {s : State} (h : s.hall.state ≠ .pausing) : settlingTest s = s := by
  simp [settlingTest, h]

/-- A port that has become settled changes nothing more where its channel does not wait in STOPPING and the hall is not
PAUSING. -/
theorem portSettled_calm {s : State} {c : Ch} (hh : s.hall.state ≠ .pausing) (hs : (s.ch (leaderOf s c)).state ≠ .stopping) :
    portSettled s c = s := by
  unfold portSettled
  dsimp only
  rw [if_neg fun h => hs h.1]
  exact settlingTest_calm hh

theorem leaderOf_follower {s : State} {c : Ch} (h : (s.ch c).state = .follower) : leaderOf s c = partner c := by
  simp [leaderOf, isFollower, h]

theorem leaderOf_self {s : State} {c : Ch} (h : (s.ch c).state ≠ .follower) : leaderOf s c = c := by
  simp [leaderOf, isFollower, h]

theorem leaderOf_ne_stopping {s : State} {c : Ch} (h : (s.ch c).state ≠ .stopping)
    (hf : (s.ch c).state = .follower → (s.ch (partner c)).state ≠ .stopping) :
    (s.ch (leaderOf s c)).state ≠ .stopping := by
  by_cases hc : (s.ch c).state = .follower
  · rw [leaderOf_follower hc]; exact hf hc
  · rw [leaderOf_self hc]; exact h

theorem zeroExtend_eq_iff (tag : Byte) (t : BitVec 4) : tag = t.zeroExtend 8 ↔ tag.toNat = t.toNat := by
  rw [← BitVec.toNat_inj]
  simp only [BitVec.truncate_eq_setWidth, BitVec.toNat_setWidth]
  have := t.isLt
  omega

theorem retire_pending_none {p : Port} {t : Tagged} (h : p.pending = none) : p.retire t =
    { p with
      confTimer := none, lastConfirmed := some t.demand, outstanding := none,
      due := p.due.filter fun f => match f with | .query _ => true | .demand _ => false } := by
  have hfun : (fun f : StageFrame => !f.isDemand) = fun f => match f with | .query _ => true | .demand _ => false := by
    funext f
    cases f <;> rfl
  simp only [Port.retire, h, hfun]

theorem retire_pending_some {p : Port} {t : Tagged} {d : Demand} (h : p.pending = some d) (hs : p.sending = none)
    (hd : p.due = []) (hb : p.breaking = false) : p.retire t =
    { p with
      confTimer := none, lastConfirmed := some t.demand, outstanding := some ⟨d, p.nextTag⟩, pending := none,
      nextTag := p.nextTag + 1, sending := some (.demand ⟨d, p.nextTag⟩) } := by
  simp [Port.retire, h, Port.send, Port.enqueue, hs, hd, hb]

theorem confirmArrives_error {s : State} {c : Ch} {tag : Byte}
    (h : (s.ch c).port.outstanding = none ∨ ∃ t, (s.ch c).port.outstanding = some t ∧ tag.toNat ≠ t.tag.toNat) :
    confirmArrives s c tag = s.modPort c Port.countError := by
  unfold confirmArrives
  rcases h with h | ⟨t, h, ht⟩
  · rw [show (s.port c).outstanding = _ from h]
  · rw [show (s.port c).outstanding = _ from h]
    dsimp only
    rw [if_neg fun e => ht ((zeroExtend_eq_iff _ _).1 e)]

/-- A CONFIRM of the outstanding demand, on a port whose channel does not wait in STOPPING. -/
theorem confirmArrives_retires {s : State} {c : Ch} {tag : Byte} {t : Tagged} (hh : s.hall.state ≠ .pausing)
    (hs : (s.ch (leaderOf s c)).state ≠ .stopping) (h : (s.ch c).port.outstanding = some t)
    (ht : tag.toNat = t.tag.toNat) : confirmArrives s c tag = s.modPort c fun p => p.retire t := by
  unfold confirmArrives
  rw [show (s.port c).outstanding = _ from h]
  dsimp only
  rw [if_pos ((zeroExtend_eq_iff _ _).2 ht)]
  split
  · have hstate : ∀ d, ((s.modPort c fun p => p.retire t).ch d).state = (s.ch d).state :=
      ch_modCh_eq s c _ Channel.state rfl
    refine portSettled_calm hh ?_
    have hleader : leaderOf (s.modPort c fun p => p.retire t) c = leaderOf s c := by
      simp only [leaderOf, isFollower, hstate]
      rfl
    rw [hleader, hstate]
    exact hs
  · rfl

theorem confirm_port {s : State} {c : Ch} {tag : Byte} {f : Port → Port} {q : Port} (hp : s.part = .ready)
    (hdue : NoFrameDue s) (h : confirmArrives s c tag = s.modPort c f) (hq : f (s.ch c).port = q) :
    exec (.confirm c tag) s = .next (s.modCh c fun ch => { ch with port := q }) := by
  subst hq
  exact next_congr (whenReady_port hp hdue (h.trans (modPort_eq _ _ _)))

theorem confirm_gives (s : State) (c : Ch) (tag : Byte) (hp : s.part = .ready) (hdue : NoFrameDue s)
    (hh : s.hall.state ≠ .pausing) (hs : (s.ch c).state ≠ .stopping)
    (hf : (s.ch c).state = .follower → (s.ch (partner c)).state ≠ .stopping) :
    let p := (s.ch c).port
    let gives := fun q => exec (.confirm c tag) s = .next (s.modCh c fun ch => { ch with port := q })
    ((p.outstanding = none ∨ ∃ t, p.outstanding = some t ∧ tag.toNat ≠ t.tag.toNat) →
      gives { p with lineErr := true, lineErrCount := min 65535 (p.lineErrCount + 1) }) ∧
    (∀ t, p.outstanding = some t → tag.toNat = t.tag.toNat → p.pending = none →
      gives { p with
        confTimer := none, lastConfirmed := some t.demand, outstanding := none,
        due := p.due.filter fun f => match f with | .query _ => true | .demand _ => false }) ∧
    (∀ t d, p.outstanding = some t → tag.toNat = t.tag.toNat → p.pending = some d →
      p.sending = none → p.due = [] → p.breaking = false →
      gives { p with
        confTimer := none, lastConfirmed := some t.demand, outstanding := some ⟨d, p.nextTag⟩, pending := none,
        nextTag := p.nextTag + 1, sending := some (.demand ⟨d, p.nextTag⟩) }) := by
  intro p gives
  have hl := leaderOf_ne_stopping hs hf
  refine ⟨fun h => ?_, fun t ho ht hpend => ?_, fun t d ho ht hpend hsend hd hb => ?_⟩
  · exact confirm_port hp hdue (confirmArrives_error h) rfl
  · exact confirm_port hp hdue (confirmArrives_retires hh hl ho ht) (retire_pending_none hpend)
  · exact confirm_port hp hdue (confirmArrives_retires hh hl ho ht) (retire_pending_some hpend hsend hd hb)

/-- A channel that leaves STOPPING as its port retires the OFF it waited for (R38). -/
def stoppedBy (t : Tagged) (ch : Channel) : Channel :=
  { ch with state := ch.stopDest.state, swapPending := none, port := ch.port.retire t }

/-- A STOPPING channel outside a pair whose OFF is confirmed enters its stop destination; the settling test is made on
that. -/
theorem confirmArrives_stops {s : State} {c : Ch} {tag : Byte} {t : Tagged} (hs : (s.ch c).state = .stopping)
    (hl : isLeader s c = false) (h : (s.ch c).port.outstanding = some t) (ht : tag.toNat = t.tag.toNat)
    (hoff : t.demand.mode = .off) (hpend : (s.ch c).port.pending = none) :
    confirmArrives s c tag = settlingTest (s.modCh c (stoppedBy t)) := by
  have hretire := retire_pending_none (t := t) hpend
  have hport : (s.modPort c fun p => p.retire t).port c = (s.ch c).port.retire t := State.port_modPort_self _ _ _
  have hstate : ∀ d, ((s.modPort c fun p => p.retire t).ch d).state = (s.ch d).state :=
    ch_modCh_eq s c _ Channel.state rfl
  have hleader : leaderOf (s.modPort c fun p => p.retire t) c = c := leaderOf_self (by rw [hstate, hs]; decide)
  have hsingle : isLeader (s.modPort c fun p => p.retire t) c = false := by
    simpa [isLeader, isFollower, hstate] using hl
  unfold confirmArrives
  rw [show (s.port c).outstanding = _ from h]
  dsimp only
  rw [if_pos ((zeroExtend_eq_iff _ _).2 ht), if_pos (by rw [hport, hretire]; simp [Port.settled, hpend])]
  unfold portSettled
  dsimp only
  rw [hleader, if_pos]
  · congr 1
    exact modCh_modCh _ _ _ _
  · refine ⟨by rw [hstate, hs], ?_⟩
    simp [stopConfirmed, portsOf, hsingle, hport, hretire, Port.offConfirmed, Port.settled, hoff, hpend]

theorem settlingTest_cases (s : State) :
    settlingTest s = s ∨ ∃ l, settlingTest s = { s with hall := { s.hall with state := .paused }, link := l } := by
  unfold settlingTest
  split
  · exact .inr ⟨_, rfl⟩
  · exact .inl rfl

/-- With settings in range no working period is longer than the standby period. -/
theorem workingPeriod_le {x : ChanSettings} (h : InRange x) : workingPeriod x ≤ standbyPeriod := by
  have := Nat.pow_le_pow_right (n := 2) (by decide) h.periodExp
  unfold workingPeriod standbyPeriod
  omega

theorem periodInForce_le_standby {s : State} (h : SettingsInRange s) (c : Ch) : periodInForce s c ≤ standbyPeriod := by
  unfold periodInForce
  split
  · exact workingPeriod_le (h.chans c)
  · exact Nat.le_refl _

/-- The event's end of a change that puts a channel, and perhaps the hall, at the standby period. -/
theorem finish_standby {s t : State} (h : SettingsInRange s) (hk : ∀ c, (t.ch c).settings = (s.ch c).settings)
    (hs : ∀ c, (t.ch c).state = (s.ch c).state ∨ (t.ch c).state.engaged = false)
    (hh : t.hall.state = s.hall.state ∨ t.hall.state = .paused) : finish s t = pump t := by
  unfold finish
  rw [bringForwardAll_eq, ite_self]
  intro c
  refine .inr (.inr ?_)
  by_cases hc : (t.ch c).state.engaged = true ∧ t.hall.state ≠ .paused
  · have hstate := (hs c).resolve_right (by rw [hc.1]; exact Bool.true_eq_false.mp.comp id)
    have hhall := hh.resolve_right hc.2
    simp [periodInForce, hk, hstate, hhall]
  · rw [show periodInForce t c = standbyPeriod from if_neg hc]
    exact periodInForce_le_standby h c

theorem confirm_stops (s : State) (c : Ch) (tag : Byte) (t : Tagged) (hp : s.part = .ready) (hset : SettingsInRange s)
    (hs : (s.ch c).state = .stopping) (hl : isLeader s c = false) (h : (s.ch c).port.outstanding = some t)
    (ht : tag.toNat = t.tag.toNat) (hoff : t.demand.mode = .off) (hpend : (s.ch c).port.pending = none) :
    ∃ u, exec (.confirm c tag) s = .next u ∧
      (u.ch c).state = (match (s.ch c).stopDest with | .idle => .idle | .complete => .complete) ∧
      (u.ch c).swapPending = none ∧ (u.ch c).port.lastConfirmed = some t.demand ∧ (u.ch c).port.outstanding = none ∧
      (u.ch c).port.confTimer = none ∧ u.pool = s.pool ∧ u.arb = s.arb ∧ u.prot = s.prot ∧
      ∀ d, d ≠ c → u.ch d = s.ch d := by
  have hact := confirmArrives_stops hs hl h ht hoff hpend
  have hretire := retire_pending_none (t := t) hpend
  generalize hv : s.modCh c (stoppedBy t) = v at hact
  have hvc : v.ch c = stoppedBy t (s.ch c) := by rw [← hv, State.ch_modCh_self]
  have hvd : ∀ d, d ≠ c → v.ch d = s.ch d := fun d hd => by rw [← hv, State.ch_modCh_ne _ hd]
  obtain ⟨w, hw, hch, hhall, hrest⟩ : ∃ w, settlingTest v = w ∧ (∀ d, w.ch d = v.ch d) ∧
      (w.hall.state = v.hall.state ∨ w.hall.state = .paused) ∧ w.pool = v.pool ∧ w.arb = v.arb ∧ w.prot = v.prot := by
    rcases settlingTest_cases v with hsame | ⟨l, hpaused⟩
    · exact ⟨v, hsame, fun _ => rfl, .inl rfl, rfl, rfl, rfl⟩
    · exact ⟨_, hpaused, fun _ => rfl, .inr rfl, rfl, rfl, rfl⟩
  have hfinish : finish s w = pump w := by
    refine finish_standby hset (fun d => ?_) (fun d => ?_) (by rw [← hv] at hhall; exact hhall)
    · rw [hch]
      by_cases hd : d = c
      · rw [hd, hvc]; rfl
      · rw [hvd d hd]
    · rw [hch]
      by_cases hd : d = c
      · rw [hd, hvc]
        refine .inr ?_
        show ((s.ch c).stopDest.state).engaged = false
        cases (s.ch c).stopDest <;> rfl
      · rw [hvd d hd]; exact .inl rfl
  obtain ⟨hpool, harb, hprot⟩ := hrest
  have hpump : ∀ d, (pump w).ch d = v.ch d := fun d => by rw [pump_eq]; exact hch d
  refine ⟨pump w, next_congr ?_, ?_, ?_, ?_, ?_, ?_, ?_, ?_, ?_, fun d hd => by rw [hpump, hvd d hd]⟩
  · rw [whenReady, if_pos hp, hact, hw, hfinish]
  · rw [hpump, hvc]
    show (s.ch c).stopDest.state = _
    cases (s.ch c).stopDest <;> rfl
  · rw [hpump, hvc]; rfl
  · rw [hpump, hvc, stoppedBy, hretire]
  · rw [hpump, hvc, stoppedBy, hretire]
  · rw [hpump, hvc, stoppedBy, hretire]
  · rw [pump_eq]; exact hpool.trans (by rw [← hv]; rfl)
  · rw [pump_eq]; exact harb.trans (by rw [← hv]; rfl)
  · rw [pump_eq]; exact hprot.trans (by rw [← hv]; rfl)

/-- Settles O31. -/
theorem demandsConfirmed : Obligations.DemandsConfirmed := by
  unfold Obligations.DemandsConfirmed
  exact ⟨stageFrame_sent, confirm_gives, confirm_stops⟩

end Sys2Proof.Machine
end

section
/-! PROOF. The stage line reset (R166), the pairs (R123, R124, R126), and the clearing of faults (R132, R142, R143). -/
namespace Sys2Proof.Machine

open Sys2Proof.Safety

/-- A request after which no channel's period in force has become shorter, followers apart (R51). -/
theorem arrive_periods {k : ReqKind} {r : Request} {s t : State} {body : ReplyBody} (h : LinkFree s)
    (hb : r.body.length ≤ 1024) (ht : takeKind k r s = (t, body))
    (hperiods : ∀ c, isFollower t c = true ∨ isFollower s c = true ∨ periodInForce s c ≤ periodInForce t c) :
    arrive (k.frame r) s = replied t (replyTo k r body) := by
  rw [arrive_request k r h hb, ht, bringForwardAll_eq allCh hperiods]

/-! ### The stage line reset (R166) -/

theorem engaged_leaderOf_iff (s : State) (c : Ch) :
    (s.ch (leaderOf s c)).state.engaged = true ↔ (s.ch c).state.engaged = true ∨
      (s.ch c).state = .follower ∧ (s.ch (partner c)).state.engaged = true := by
  by_cases hc : (s.ch c).state = .follower
  · rw [leaderOf_follower hc, hc]
    simp [ChState.engaged]
  · rw [leaderOf_self hc]
    simp [hc]

/-- Settles O30. -/
theorem resetStageLine : Obligations.ResetStageLine := by
  unfold Obligations.ResetStageLine
  intro r s c hto engaged p answers
  have hb : r.body.length ≤ 1024 := by rw [hto.length]; decide
  have htake : takeKind .resetStageLine r s = _ := takeResetStageLine.eq_def r s
  rw [takeCh_of hto rfl] at htake
  simp only [engaged_leaderOf_iff] at htake
  simp only [engaged_iff] at htake
  refine ⟨fun h => ?_, fun h1 h2 hh => ?_⟩
  · exact next_congr (arrive_same hto.free hb (htake.trans (if_pos h)))
  · rw [if_neg (not_or.2 ⟨h1, h2⟩), settlingTest_calm (by exact hh)] at htake
    exact next_congr (arrive_modCh hto.free hb htake rfl rfl)

/-! ### The pairs (R123, R124, R126) -/

theorem pair_members {l f : Ch} (hl : l.val % 2 = 0) (hf : f.val = l.val + 1) :
    partner l = f ∧ evenMember l = l ∧ evenMember f = l := by
  revert l f
  decide

theorem isLeader_even {s : State} {l : Ch} (hl : l.val % 2 = 0) :
    isLeader s l = true ↔ (s.ch (partner l)).state = .follower := by
  simp [isLeader, evenCh, hl, isFollower]

/-- A pair that is formed: the odd member alone changes its state, to FOLLOWER. -/
theorem formPair_periods (s : State) (l c : Ch) : isFollower (formPair s l) c = true ∨ isFollower s c = true ∨
    periodInForce s c ≤ periodInForce (formPair s l) c := by
  by_cases hc : c = partner l
  · subst hc
    refine .inl ?_
    simp [formPair, isFollower]
  · refine .inr (.inr (le_of_eq ?_))
    have hch : ∀ {α : Type} (g : Channel → α), (∀ ch : Channel, g { ch with resume := none, packDone := false } = g ch) →
        g ((formPair s l).ch c) = g (s.ch c) := fun g hg => by
      rw [formPair, State.ch_modCh_ne _ hc]
      exact ch_modCh_eq s l _ g (hg _) c
    unfold periodInForce
    rw [hch Channel.state fun _ => rfl, hch Channel.settings fun _ => rfl]
    rfl

/-- A pair that is parted, as one change of each member. -/
theorem partPair_eq (s : State) (l : Ch) :
    partPair s l = (s.modCh l fun ch => { ch with resume := none }).modCh (partner l) fun ch =>
      { ch with
        state := .idle, taken := false, packDone := false, periodElapsed := 0, periodLength := 1000,
        port := ch.port.openPeriod } := by
  unfold partPair openPeriod
  exact modCh_modCh _ _ _ _

theorem partPair_periods (s : State) (l c : Ch) (hf : (s.ch (partner l)).state = .follower) :
    isFollower (partPair s l) c = true ∨ isFollower s c = true ∨ periodInForce s c ≤ periodInForce (partPair s l) c := by
  by_cases hc : c = partner l
  · subst hc
    exact .inr (.inl ((isFollower_iff _ _).2 hf))
  · refine .inr (.inr (le_of_eq ?_))
    have hch : ∀ {α : Type} (g : Channel → α), (∀ ch : Channel, g { ch with resume := none } = g ch) →
        g ((partPair s l).ch c) = g (s.ch c) := fun g hg => by
      rw [partPair_eq, State.ch_modCh_ne _ hc]
      exact ch_modCh_eq s l _ g (hg _) c
    unfold periodInForce
    rw [hch Channel.state fun _ => rfl, hch Channel.settings fun _ => rfl]
    rfl

theorem tdiv_two (n : Int) : n.tdiv 2 = if 0 ≤ n then n / 2 else -(-n / 2) := by
  split
  · rename_i h
    exact Int.tdiv_eq_ediv_of_nonneg h
  · rename_i h
    rw [← Int.tdiv_eq_ediv_of_nonneg (by omega), Int.neg_tdiv, neg_neg]

theorem shares (d : Demand) (limit : Nat) (h : d.current.natAbs ≤ 2 * limit) :
    (leaderShare d).current + (followerShare d).current = d.current ∧
    ((leaderShare d).current - (followerShare d).current).natAbs ≤ 1 ∧
    (followerShare d).current = d.current.tdiv 2 ∧
    (leaderShare d).current.natAbs ≤ limit ∧ (followerShare d).current.natAbs ≤ limit ∧
    (leaderShare d).mode = d.mode ∧ (followerShare d).mode = d.mode ∧
    (leaderShare d).upper = d.upper ∧ (followerShare d).upper = d.upper ∧
    (leaderShare d).lower = d.lower ∧ (followerShare d).lower = d.lower := by
  have hhalf := tdiv_two d.current
  generalize hq : d.current.tdiv 2 = q at hhalf
  have hleader : (leaderShare d).current = d.current - q := by rw [← hq]; rfl
  have hfollower : (followerShare d).current = q := hq
  rw [hleader, hfollower]
  refine ⟨by omega, ?_, rfl, ?_, ?_, rfl, rfl, rfl, rfl, rfl, rfl⟩ <;> split at hhalf <;> omega

/-- Settles O27. -/
theorem pairs : Obligations.Pairs := by
  unfold Obligations.Pairs
  refine ⟨fun r s c l f hto hl hf hc => ?_, shares⟩
  intro set part
  obtain ⟨hpartner, hel, hef⟩ := pair_members hl hf
  have hb : r.body.length ≤ 1024 := by rw [hto.length]; decide
  have hmember : evenMember c = l := by rcases hc with rfl | rfl <;> assumption
  have hleader : isLeader s l = true ↔ (s.ch f).state = .follower := by rw [isLeader_even hl, hpartner]
  have hset : takeKind .setPair r s = _ := takeSetPair.eq_def r s
  have hpart : takeKind .unpair r s = _ := takeUnpair.eq_def r s
  rw [takeCh_of hto rfl] at hset hpart
  simp only [hmember, hpartner, hleader, ← Bool.not_eq_true] at hset hpart
  refine ⟨fun h => ?_, fun h hidle => ?_, fun hidle hfidle => ?_, fun h => ?_, fun h hidle => ?_, fun h hidle => ?_⟩
  · exact next_congr (arrive_same hto.free hb (hset.trans (if_pos h)))
  · exact next_congr (arrive_same hto.free hb (hset.trans ((if_neg h).trans (if_pos hidle))))
  · have hform := hset.trans ((if_neg (by rw [hfidle]; decide)).trans (if_neg (by simp [hidle, hfidle])))
    refine next_congr ((arrive_periods hto.free hb hform (formPair_periods s l)).trans ?_)
    rw [formPair, hpartner]
  · exact next_congr (arrive_same hto.free hb (hpart.trans (if_pos h)))
  · exact next_congr (arrive_same hto.free hb (hpart.trans ((if_neg (not_not.2 h)).trans (if_pos hidle))))
  · have hparted := hpart.trans ((if_neg (not_not.2 h)).trans (if_neg (not_not.2 hidle)))
    refine next_congr ((arrive_periods hto.free hb hparted fun c => partPair_periods s l c (by rw [hpartner, h])).trans ?_)
    rw [partPair_eq, hpartner]

end Sys2Proof.Machine
end

section
/-! PROOF. Sets of fault kinds (R137), and the clearing of faults (R132, R142, R143). -/
namespace Sys2Proof.Machine

open Sys2Proof.Safety

/-! ### Sets of kinds -/

theorem FaultKind.code_lt (k : FaultKind) : k.code < 16 := by cases k <;> decide

theorem FaultKind.code_inj {j k : FaultKind} : j.code = k.code ↔ j = k := by
  cases j <;> cases k <;> decide

theorem FaultKind.mem_all (k : FaultKind) : k ∈ FaultKind.all := by cases k <;> decide

/-- Every bit of a set is a kind's. -/
theorem FaultKind.exists_code {n : Nat} (h : n < 16) : ∃ k : FaultKind, k.code = n := by
  have hall : ∀ n : Fin 16, ∃ k ∈ FaultKind.all, k.code = n.val := by decide
  obtain ⟨k, -, hk⟩ := hall ⟨n, h⟩
  exact ⟨k, hk⟩

theorem kinds_ext {x y : BitVec 16} (h : ∀ k, hasKind x k = hasKind y k) : x = y :=
  BitVec.eq_of_getLsbD_eq fun n hn => by
    obtain ⟨k, rfl⟩ := FaultKind.exists_code hn
    exact h k

@[simp] theorem hasKind_zero (k : FaultKind) : hasKind 0 k = false := by simp [hasKind]

theorem kinds_eq_zero_iff {x : BitVec 16} : x = 0 ↔ ∀ k, hasKind x k = false :=
  ⟨fun h k => by rw [h, hasKind_zero], fun h => kinds_ext fun k => by rw [h, hasKind_zero]⟩

theorem kinds_ne_zero_iff {x : BitVec 16} : x ≠ 0 ↔ ∃ k, hasKind x k = true := by
  rw [Ne, kinds_eq_zero_iff]
  simp

theorem hasKind_onlyKind (j k : FaultKind) : hasKind (onlyKind k) j = decide (j = k) := by
  simp [hasKind, onlyKind, FaultKind.code_lt, ← FaultKind.code_inj]

@[simp] theorem hasKind_addKind (x : BitVec 16) (j k : FaultKind) :
    hasKind (addKind x k) j = (hasKind x j || decide (j = k)) := by
  rw [← hasKind_onlyKind]
  simp [hasKind, addKind]

@[simp] theorem hasKind_and (x y : BitVec 16) (k : FaultKind) : hasKind (x &&& y) k = (hasKind x k && hasKind y k) := by
  simp [hasKind]

@[simp] theorem hasKind_not (x : BitVec 16) (k : FaultKind) : hasKind (~~~x) k = !hasKind x k := by
  simp [hasKind, FaultKind.code_lt]

@[simp] theorem hasKind_dropKind (x : BitVec 16) (j k : FaultKind) :
    hasKind (dropKind x k) j = (hasKind x j && !decide (j = k)) := by
  rw [dropKind, hasKind_and, hasKind_not, hasKind_onlyKind]

theorem addKind_ne_zero (x : BitVec 16) (k : FaultKind) : addKind x k ≠ 0 :=
  kinds_ne_zero_iff.2 ⟨k, by simp⟩

/-- The set of the kinds of a list that satisfy a predicate. -/
theorem hasKind_foldl (p : FaultKind → Bool) (l : List FaultKind) (x : BitVec 16) (k : FaultKind) :
    hasKind (l.foldl (fun set j => if p j then addKind set j else set) x) k =
      (hasKind x k || (decide (k ∈ l) && p k)) := by
  induction l generalizing x with
  | nil => simp
  | cons j l ih =>
    rw [List.foldl_cons, ih]
    by_cases hkj : k = j
    · subst hkj
      cases hp : p k <;> simp
    · cases hp : p j <;> simp [hkj]

/-! ### What holds a kind (R143) -/

theorem directLine_isSome (s : State) (c : Ch) : (directLine s c).isSome = true ↔
    ∃ l, (s.line l).raw = true ∧ (s.line l).settings.route = .direct ∧ (s.line l).settings.mask.getLsbD c.val = true := by
  have hmem : ∀ l : LineNo, l ∈ allLines := by decide
  simp only [directLine, List.find?_isSome, Bool.and_eq_true, decide_eq_true_eq]
  constructor
  · rintro ⟨l, -, ⟨hroute, hraw⟩, hmask⟩
    exact ⟨l, hraw, hroute, hmask⟩
  · rintro ⟨l, hraw, hroute, hmask⟩
    exact ⟨l, hmem l, ⟨hroute, hraw⟩, hmask⟩

theorem dropKind_ne_zero_iff (x : BitVec 16) (k : FaultKind) :
    dropKind x k ≠ 0 ↔ ∃ j, j ≠ k ∧ hasKind x j = true := by
  rw [kinds_ne_zero_iff]
  simp [and_comm]

theorem heldByCause_kinds (s : State) (c : Ch) :
    let ch := s.ch c
    let v := if isLeader s c then ch.pack.v else ch.last.v
    let temp := if isLeader s c then ch.pack.t else ch.last.t
    let held := fun k (cause : Prop) => heldByCause s c k = true ↔ cause
    held .limitVHigh (ch.settings.vMax < v) ∧ held .limitVLow (v < ch.settings.vMin) ∧
    held .limitTHigh (ch.settings.tMax < temp) ∧ held .limitTLow (temp < ch.settings.tMin) ∧
    held .limitI (ch.settings.iMax < ch.last.i.natAbs) ∧
    held .stageReported (ch.last.fault = true ∨ ch.last.interlock = true) ∧ held .stageUnsafe (ch.unsafeFlag = true) ∧
    held .chamberAlarm (∃ l, (s.line l).raw = true ∧ (s.line l).settings.route = .direct ∧
      (s.line l).settings.mask.getLsbD c.val = true) ∧
    held .hallStop (s.prot.hallStop = true) ∧
    held .pairPartner (isLeader s c = true ∧ ∃ k, k ≠ .pairPartner ∧ hasKind (s.ch (partner c)).latched k = true) ∧
    ∀ k ∈ [FaultKind.stageSilent, .stageNoAck, .stageStartTimeout, .profileUnderrun, .deferLimit, .pairMismatch],
      heldByCause s c k = false := by
  intro ch v temp held
  refine ⟨?_, ?_, ?_, ?_, ?_, ?_, Iff.rfl, directLine_isSome s c, Iff.rfl, ?_, ?_⟩
  · cases h : isLeader s c <;> simp [held, heldByCause, failsCheck, v, h, ch]
  · cases h : isLeader s c <;> simp [held, heldByCause, failsCheck, v, h, ch]
  · cases h : isLeader s c <;> simp [held, heldByCause, failsCheck, temp, h, ch]
  · cases h : isLeader s c <;> simp [held, heldByCause, failsCheck, temp, h, ch]
  · simp [held, heldByCause, failsCheck, ch]
  · simp [held, heldByCause, ch]
  · simp only [held, heldByCause, Bool.and_eq_true, decide_eq_true_eq, dropKind_ne_zero_iff]
  · intro k hk
    simp only [List.mem_cons, List.not_mem_nil, or_false] at hk
    rcases hk with rfl | rfl | rfl | rfl | rfl | rfl <;> rfl

/-! ### CLEAR_FAULTS (R142, R43, R132) -/

/-- A kind that CLEAR_FAULTS may remove: named, latched and held by no cause (R142, R143). -/
def Free (s : State) (c : Ch) (named : BitVec 16) (k : FaultKind) : Prop :=
  hasKind named k = true ∧ hasKind (s.ch c).latched k = true ∧ heldByCause s c k = false

theorem hasKind_freeKinds (s : State) (c : Ch) (named : BitVec 16) (k : FaultKind) :
    hasKind (FaultKind.all.foldl (fun set k => if hasKind named k && hasKind (s.ch c).latched k && !heldByCause s c k
      then addKind set k else set) 0#16) k = true ↔ Free s c named k := by
  rw [hasKind_foldl (fun k => hasKind named k && hasKind (s.ch c).latched k && !heldByCause s c k)]
  simp [FaultKind.mem_all, Free, and_assoc, hasKind]

/-- The first-fault kind is kept back while another latched kind remains (R142). -/
theorem clearedKinds_first {s : State} {c : Ch} {named : BitVec 16} {f : FirstFault} (hf : (s.ch c).firstFault = some f)
    (k : FaultKind) : hasKind (clearedKinds s c named) k = true ↔ Free s c named k ∧
      (f.kind = k → ∀ j, j ≠ f.kind → hasKind (s.ch c).latched j = true → Free s c named j) := by
  simp only [clearedKinds, hf]
  generalize hfree : FaultKind.all.foldl (fun set k =>
    if hasKind named k && hasKind (s.ch c).latched k && !heldByCause s c k then addKind set k else set) 0#16 = free
  have hmem : ∀ k, hasKind free k = true ↔ Free s c named k := fun k => by rw [← hfree]; exact hasKind_freeKinds s c named k
  have hothers : dropKind ((s.ch c).latched &&& ~~~free) f.kind = 0 ↔
      ∀ j, j ≠ f.kind → hasKind (s.ch c).latched j = true → Free s c named j := by
    rw [← not_iff_not, ← Ne, dropKind_ne_zero_iff]
    simp [← hmem]
  split
  · rename_i h
    rw [hmem]
    exact ⟨fun hk => ⟨hk, fun _ => hothers.1 h⟩, And.left⟩
  · rename_i h
    rw [hasKind_dropKind, Bool.and_eq_true, hmem]
    refine and_congr_right fun _ => ⟨fun hk hfk => ?_, fun hk => ?_⟩
    · simp [hfk] at hk
    · simpa using fun hfk : k = f.kind => h (hothers.2 (hk hfk.symm))

theorem hasKind_clearedKinds (s : State) (c : Ch) (named : BitVec 16) (k : FaultKind) :
    hasKind (clearedKinds s c named) k = true ↔ Free s c named k ∧
      ∀ f, (s.ch c).firstFault = some f → f.kind = k → ∀ j, j ≠ k → hasKind (s.ch c).latched j = true →
        Free s c named j := by
  cases hf : (s.ch c).firstFault with
  | none =>
    simp only [clearedKinds, hf]
    rw [hasKind_freeKinds]
    simp
  | some f =>
    rw [clearedKinds_first hf]
    refine and_congr_right fun _ => ⟨fun h g hg hk => ?_, fun h hk => ?_⟩
    · cases hg
      exact hk ▸ h hk
    · exact hk ▸ h f rfl hk

/-- Once the first-fault kind leaves, the set is empty. -/
theorem clearedKinds_all {s : State} {c : Ch} {named : BitVec 16} {f : FirstFault}
    (hf : (s.ch c).firstFault = some f) (h : hasKind (clearedKinds s c named) f.kind = true) :
    (s.ch c).latched &&& ~~~(clearedKinds s c named) = 0 := by
  obtain ⟨-, hothers⟩ := (clearedKinds_first hf _).1 h
  refine kinds_eq_zero_iff.2 fun j => ?_
  rw [hasKind_and, hasKind_not]
  by_cases hj : j = f.kind
  · rw [hj, h]; simp
  · cases hlatched : hasKind (s.ch c).latched j with
    | false => rfl
    | true =>
      rw [(clearedKinds_first hf j).2 ⟨hothers rfl j hj hlatched, fun h => absurd h.symm hj⟩]
      rfl

theorem clearKinds_ch (s : State) (c : Ch) (x : BitVec 16) : (clearKinds s c x).ch c =
    { s.ch c with
      latched := (s.ch c).latched &&& ~~~x
      firstFault := if (s.ch c).latched &&& ~~~x = 0 then none else (s.ch c).firstFault
      state := if (s.ch c).latched &&& ~~~x = 0 ∧ (s.ch c).state = .faulted then .idle else (s.ch c).state } := by
  unfold clearKinds
  dsimp only
  split
  · rw [State.ch_modCh_ne _ (partner_ne c).symm, State.ch_modCh_self]
  · rw [State.ch_modCh_self]

theorem clearKinds_other (s : State) (c d : Ch) (x : BitVec 16) (hd : d ≠ c) : (clearKinds s c x).ch d =
    if d = partner c ∧ (s.ch c).state = .faulted ∧ (s.ch c).latched &&& ~~~x = 0 ∧ isLeader s c = true then
      dropPartner (s.ch d) else s.ch d := by
  unfold clearKinds
  dsimp only
  rw [State.ch_modCh_self]
  have hstate : (s.ch c).state = .faulted → ((if (s.ch c).latched &&& ~~~x = 0 ∧ (s.ch c).state = .faulted then .idle
      else (s.ch c).state : ChState) = .idle ↔ (s.ch c).latched &&& ~~~x = 0) := fun h => by
    rw [h]
    by_cases h0 : (s.ch c).latched &&& ~~~x = 0 <;> simp [h0]
  by_cases hp : d = partner c
  · subst hp
    by_cases hs : (s.ch c).state = .faulted ∧ (s.ch c).latched &&& ~~~x = 0 ∧ isLeader s c = true
    · rw [if_pos ⟨hs.1, (hstate hs.1).2 hs.2.1, hs.2.2⟩, if_pos ⟨rfl, hs⟩, State.ch_modCh_self, State.ch_modCh_ne _ hd]
    · rw [if_neg fun h => hs ⟨h.1, (hstate h.1).1 h.2.1, h.2.2⟩, if_neg fun h => hs h.2, State.ch_modCh_ne _ hd]
  · have hcond : ¬(d = partner c ∧ (s.ch c).state = .faulted ∧ (s.ch c).latched &&& ~~~x = 0 ∧ isLeader s c = true) :=
      fun h => hp h.1
    rw [if_neg hcond]
    refine iteInduction (motive := fun t : State => t.ch d = s.ch d) (fun _ => ?_) fun _ => ?_
    · rw [State.ch_modCh_ne _ hp, State.ch_modCh_ne _ hd]
    · rw [State.ch_modCh_ne _ hd]

theorem clearKinds_rest (s : State) (c : Ch) (x : BitVec 16) :
    clearKinds s c x = { s with chans := (clearKinds s c x).chans } := by
  unfold clearKinds
  dsimp only
  split <;> rfl

/-- Clearing faults leaves every period in force. -/
theorem clearKinds_period (s : State) (c d : Ch) (x : BitVec 16) :
    periodInForce s d = periodInForce (clearKinds s c x) d := by
  have hhall : (clearKinds s c x).hall = s.hall := by rw [clearKinds_rest]
  have hset : ((clearKinds s c x).ch d).settings = (s.ch d).settings := by
    by_cases hd : d = c
    · rw [hd, clearKinds_ch]
    · rw [clearKinds_other s c d x hd]
      split <;> rfl
  have hengaged : ((clearKinds s c x).ch d).state.engaged = (s.ch d).state.engaged := by
    by_cases hd : d = c
    · rw [hd, clearKinds_ch]
      by_cases h : (s.ch c).latched &&& ~~~x = 0 ∧ (s.ch c).state = .faulted
      · simp [h, ChState.engaged]
      · rw [if_neg h]
    · rw [clearKinds_other s c d x hd]
      split <;> rfl
  simp only [periodInForce, hhall, hset, hengaged]

/-- Settles O25. -/
theorem clearFaults : Obligations.ClearFaults := by
  unfold Obligations.ClearFaults
  refine ⟨heldByCause_kinds, fun r s c hto => ?_⟩
  intro named ch free
  have hb : r.body.length ≤ 1024 := by rw [hto.length]; decide
  have htake : takeKind .clearFaults r s = _ := takeClearFaults.eq_def r s
  rw [takeCh_of hto rfl] at htake
  have hperiods : ∀ d, isFollower (clearKinds s c (clearedKinds s c named)) d = true ∨ isFollower s d = true ∨
      periodInForce s d ≤ periodInForce (clearKinds s c (clearedKinds s c named)) d := fun d =>
    .inr (.inr (le_of_eq (clearKinds_period s c d _)))
  have harrive := arrive_periods hto.free hb htake hperiods
  have hrest := clearKinds_rest s c (clearedKinds s c named)
  have hlink : (clearKinds s c (clearedKinds s c named)).link = s.link := by rw [hrest]
  have hown : (clearKinds s c (clearedKinds s c named)).ch c = _ := clearKinds_ch s c _
  have hother := fun d => clearKinds_other s c d (clearedKinds s c named)
  generalize hu : clearKinds s c (clearedKinds s c named) = u at harrive hlink hrest hown hother
  refine ⟨replied u _, clearedKinds s c named, next_congr harrive, ?_, ?_, ?_, fun f hf hk => ?_, ?_, fun d hd h => ?_,
    fun hl hf h0 => ?_, ?_⟩
  · exact replied_answered _ (by rw [hlink]; exact LinkStays.refl _) hto.free.reply
  · exact congrArg Channel.latched hown
  · exact hasKind_clearedKinds s c named
  · have hzero := clearedKinds_all hf hk
    refine ⟨(congrArg Channel.latched hown).trans hzero, (congrArg Channel.firstFault hown).trans (if_pos hzero),
      fun hs => (congrArg Channel.state hown).trans (if_pos ⟨hzero, hs⟩)⟩
  · have hlatched : (u.ch c).latched = _ := congrArg Channel.latched hown
    show u.ch c = { ch with
      latched := (u.ch c).latched
      firstFault := if (u.ch c).latched = 0 then none else ch.firstFault
      state := if (u.ch c).latched = 0 ∧ ch.state = .faulted then .idle else ch.state }
    rw [hlatched]
    exact hown
  · show u.ch d = s.ch d
    have hlatched : (u.ch c).latched = _ := congrArg Channel.latched hown
    rw [hother d hd]
    refine if_neg fun ⟨hp, hf, h0, hl⟩ => ?_
    rcases h with h | h | h | h
    · exact h hp
    · rw [hl] at h; cases h
    · exact h hf
    · exact h (hlatched.trans h0)
  · show (u.ch (partner c)).latched = _
    have hlatched : (u.ch c).latched = _ := congrArg Channel.latched hown
    rw [hother _ (partner_ne c), if_pos ⟨rfl, hf, hlatched.symm.trans h0, hl⟩]
    rfl
  · show u.pool = s.pool ∧ u.arb = s.arb ∧ u.prot = s.prot ∧ u.hall = s.hall ∧ u.image = s.image
    rw [hrest]
    exact ⟨rfl, rfl, rfl, rfl, rfl⟩

end Sys2Proof.Machine
end

section
/-! PROOF. The first checks of every request and what a refusal leaves (R184); and the requests that read a channel's figures
(R71, R187). -/
namespace Sys2Proof.Machine

open Sys2Proof.Safety

/-! ### The first checks of a request -/

/-- A request to the board as a whole is taken by `takePart`, any other by `takeCh`. -/
theorem takeKind_form (k : ReqKind) (r : Request) (s : State) :
    (k ∈ partWideKinds → ∃ f, takeKind k r s = takePart k r s f) ∧
      (k ∉ partWideKinds → ∃ f, takeKind k r s = takeCh k r s f) := by
  cases k with
  | identify => exact ⟨fun _ => ⟨_, takeIdentify.eq_def r s⟩, fun h => absurd (by decide) h⟩
  | getStatus => exact ⟨fun _ => ⟨_, takeGetStatus.eq_def r s⟩, fun h => absurd (by decide) h⟩
  | getBudget => exact ⟨fun _ => ⟨_, takeGetBudget.eq_def r s⟩, fun h => absurd (by decide) h⟩
  | setBudget => exact ⟨fun _ => ⟨_, takeSetBudget.eq_def r s⟩, fun h => absurd (by decide) h⟩
  | setAlarmRoute => exact ⟨fun _ => ⟨_, takeSetAlarmRoute.eq_def r s⟩, fun h => absurd (by decide) h⟩
  | pauseHall => exact ⟨fun _ => ⟨_, takePauseHall.eq_def r s⟩, fun h => absurd (by decide) h⟩
  | resumeHall => exact ⟨fun _ => ⟨_, takeResumeHall.eq_def r s⟩, fun h => absurd (by decide) h⟩
  | setWake => exact ⟨fun _ => ⟨_, takeSetWake.eq_def r s⟩, fun h => absurd (by decide) h⟩
  | holdReports => exact ⟨fun _ => ⟨_, takeHoldReports.eq_def r s⟩, fun h => absurd (by decide) h⟩
  | saveSettings => exact ⟨fun _ => ⟨_, takeSaveSettings.eq_def r s⟩, fun h => absurd (by decide) h⟩
  | resetPart => exact ⟨fun _ => ⟨_, takeResetPart.eq_def r s⟩, fun h => absurd (by decide) h⟩
  | writeSteps => exact ⟨fun _ => ⟨_, takeWriteSteps.eq_def r s⟩, fun h => absurd (by decide) h⟩
  | readSteps => exact ⟨fun _ => ⟨_, takeReadSteps.eq_def r s⟩, fun h => absurd (by decide) h⟩
  | setWindow => exact ⟨fun h => absurd h (by decide), fun _ => ⟨_, takeSetWindow.eq_def r s⟩⟩
  | getChannel => exact ⟨fun h => absurd h (by decide), fun _ => ⟨_, takeGetChannel.eq_def r s⟩⟩
  | setChannel => exact ⟨fun h => absurd h (by decide), fun _ => ⟨_, takeSetChannel.eq_def r s⟩⟩
  | setCalibration => exact ⟨fun h => absurd h (by decide), fun _ => ⟨_, takeSetCalibration.eq_def r s⟩⟩
  | start => exact ⟨fun h => absurd h (by decide), fun _ => ⟨_, takeStart.eq_def r s⟩⟩
  | stop => exact ⟨fun h => absurd h (by decide), fun _ => ⟨_, takeStop.eq_def r s⟩⟩
  | hold => exact ⟨fun h => absurd h (by decide), fun _ => ⟨_, takeHold.eq_def r s⟩⟩
  | release => exact ⟨fun h => absurd h (by decide), fun _ => ⟨_, takeRelease.eq_def r s⟩⟩
  | swap => exact ⟨fun h => absurd h (by decide), fun _ => ⟨_, takeSwap.eq_def r s⟩⟩
  | cancelSwap => exact ⟨fun h => absurd h (by decide), fun _ => ⟨_, takeCancelSwap.eq_def r s⟩⟩
  | profileAppend => exact ⟨fun h => absurd h (by decide), fun _ => ⟨_, takeProfileAppend.eq_def r s⟩⟩
  | profileFlush => exact ⟨fun h => absurd h (by decide), fun _ => ⟨_, takeProfileFlush.eq_def r s⟩⟩
  | clearFaults => exact ⟨fun h => absurd h (by decide), fun _ => ⟨_, takeClearFaults.eq_def r s⟩⟩
  | readAccounts => exact ⟨fun h => absurd h (by decide), fun _ => ⟨_, takeReadAccounts.eq_def r s⟩⟩
  | clearLifetime => exact ⟨fun h => absurd h (by decide), fun _ => ⟨_, takeClearLifetime.eq_def r s⟩⟩
  | setPair => exact ⟨fun h => absurd h (by decide), fun _ => ⟨_, takeSetPair.eq_def r s⟩⟩
  | unpair => exact ⟨fun h => absurd h (by decide), fun _ => ⟨_, takeUnpair.eq_def r s⟩⟩
  | resetChannel => exact ⟨fun h => absurd h (by decide), fun _ => ⟨_, takeResetChannel.eq_def r s⟩⟩
  | resetStageLine => exact ⟨fun h => absurd h (by decide), fun _ => ⟨_, takeResetStageLine.eq_def r s⟩⟩

theorem takeKind_badLength {k : ReqKind} {r : Request} (s : State) (h : k.lengthOk r.body.length = false) :
    takeKind k r s = (s, refuse .badLength) := by
  by_cases hk : k ∈ partWideKinds
  · obtain ⟨f, hf⟩ := (takeKind_form k r s).1 hk
    rw [hf, takePart, if_pos h]
  · obtain ⟨f, hf⟩ := (takeKind_form k r s).2 hk
    rw [hf, takeCh, if_pos h]

theorem takeKind_badChannel {k : ReqKind} {r : Request} (s : State) (h : k.lengthOk r.body.length = true)
    (hc : (k ∈ partWideKinds ∧ r.channel ≠ 0xFF) ∨ (k ∉ partWideKinds ∧ 8 ≤ r.channel.toNat)) :
    takeKind k r s = (s, invalid .badChannel 0) := by
  rcases hc with ⟨hk, hc⟩ | ⟨hk, hc⟩
  · obtain ⟨f, hf⟩ := (takeKind_form k r s).1 hk
    rw [hf, takePart, if_neg (by simp [h])]
    exact if_pos hc
  · obtain ⟨f, hf⟩ := (takeKind_form k r s).2 hk
    rw [hf, takeCh_bad h hc]
    rfl

/-! ### Refusals -/

/-- A refusal other than FULL leaves the state as it was (R184). -/
def RefusesSame (s : State) (x : State × ReplyBody) : Prop := ∀ d, x.2 = .refused d → d.code ≠ .full → x.1 = s

theorem RefusesSame.same (s : State) (body : ReplyBody) : RefusesSame s (s, body) := fun _ _ _ => rfl

theorem RefusesSame.ok (s t : State) (data : OkData) : RefusesSame s (t, .ok data) := fun _ h _ => by cases h

theorem RefusesSame.takePart {k : ReqKind} {r : Request} {s : State} {f : State → State × ReplyBody}
    (h : RefusesSame s (f s)) : RefusesSame s (takePart k r s f) := by
  unfold Machine.takePart
  split
  · exact .same _ _
  · split
    · exact .same _ _
    · exact h

theorem RefusesSame.takeCh {k : ReqKind} {r : Request} {s : State} {f : Ch → State → State × ReplyBody}
    (h : ∀ c, RefusesSame s (f c s)) : RefusesSame s (takeCh k r s f) := by
  unfold Machine.takeCh
  split
  · exact .same _ _
  · split
    · exact .same _ _
    · exact h _

/-- A check that fails refuses; the rest of the request comes after it. -/
theorem RefusesSame.check {s : State} {p : Prop} [Decidable p] {body : ReplyBody} {x : State × ReplyBody}
    (h : RefusesSame s x) : RefusesSame s (if p then (s, body) else x) := by
  split
  · exact .same _ _
  · exact h

theorem takeKind_refuses (k : ReqKind) (r : Request) (s : State) : RefusesSame s (takeKind k r s) := by
  cases k with
  | identify | getStatus | getBudget | setBudget | setWake | holdReports | resetPart => exact .takePart (.ok _ _ _)
  | setAlarmRoute =>
    refine .takePart ?_
    dsimp only
    split
    · split
      · exact .same _ _
      · exact .ok _ _ _
    · exact .same _ _
  | pauseHall =>
    refine .takePart ?_
    split <;> exact .ok _ _ _
  | resumeHall => exact .takePart (.check (.ok _ _ _))
  | saveSettings => exact .takePart (.check (.check (.ok _ _ _)))
  | writeSteps =>
    refine .takePart (.check ?_)
    split
    · exact .same _ _
    · split
      · exact .same _ _
      · exact .ok _ _ _
  | readSteps => exact .takePart (.check (.ok _ _ _))
  | setWindow => exact .takeCh fun c => .check (.check (.check (.check (.check (.ok _ _ _)))))
  | getChannel =>
    refine .takeCh fun c => ?_
    split <;> exact .same _ _
  | setChannel => exact .takeCh fun c => .check (.check (.check (.ok _ _ _)))
  | setCalibration | clearFaults | readAccounts | resetChannel => exact .takeCh fun c => .ok _ _ _
  | start =>
    refine .takeCh fun c => ?_
    dsimp only
    split
    · exact .same _ _
    · refine .check ?_
      split
      · exact .same _ _
      · exact .ok _ _ _
  | stop =>
    refine .takeCh fun c => ?_
    split
    all_goals first | exact .same _ _ | exact .ok _ _ _
  | hold | release =>
    refine .takeCh fun c => ?_
    split
    · exact .same _ _
    · exact .ok _ _ _
  | swap =>
    refine .takeCh fun c => .check (.check ?_)
    split
    · exact .same _ _
    · split
      · exact .same _ _
      · split <;> exact .ok _ _ _
  | cancelSwap => exact .takeCh fun c => .check (.ok _ _ _)
  | profileAppend =>
    refine .takeCh fun c => .check (.check ?_)
    split
    · exact .same _ _
    · dsimp only
      split
      · exact .ok _ _ _
      · intro d hd hfull
        cases hd
        exact absurd rfl hfull
  | profileFlush | clearLifetime => exact .takeCh fun c => .check (.check (.ok _ _ _))
  | setPair => exact .takeCh fun c => .check (.check (.ok _ _ _))
  | unpair => exact .takeCh fun c => .check (.check (.ok _ _ _))
  | resetStageLine => exact .takeCh fun c => .check (.ok _ _ _)

/-- The reply on its way is the only one. -/
theorem answered_unique {s t : State} {x y : Reply} (hx : Answered s t x) (hy : Answered s t y) : x = y := by
  unfold Answered at hx hy
  split at hx
  · rename_i h
    rw [if_pos h] at hy
    have := hx.1.symm.trans hy.1
    injection this with this
    injection this
  · rename_i h
    rw [if_neg h] at hy
    have := hx.2.symm.trans hy.2
    injection this

/-- Settles O9. -/
theorem requestsRefused : Obligations.RequestsRefused := by
  unfold Obligations.RequestsRefused
  refine ⟨fun k r s hfree hb => ⟨fun h => ?_, fun h hc => ?_⟩, fun k r s t d hfree hb ht hans hfull => ?_⟩
  · exact next_congr (arrive_same hfree hb (takeKind_badLength s h))
  · exact next_congr (arrive_same hfree hb (takeKind_badChannel s h hc))
  · have harrive := arrive_request k r hfree hb
    have hstays := takeKind_stays k r s
    have hlink : (bringForwardAll s (takeKind k r s).1 allCh).link = (takeKind k r s).1.link :=
      (bringForwardAll_period s _ allCh).link
    have hother := replied_answered (t := bringForwardAll s (takeKind k r s).1 allCh)
      (replyTo k r (takeKind k r s).2) (by rw [hlink]; exact hstays.link) hfree.reply
    cases (show Host.Outcome.next (arrive (k.frame r) s) = .next t from ht)
    rw [harrive] at hans ⊢
    have hreply := answered_unique hother hans
    have hbody : (takeKind k r s).2 = .refused d := congrArg Reply.body hreply
    have hsame : (takeKind k r s).1 = s := takeKind_refuses k r s d hbody hfull
    rw [hbody, hsame, bringForwardAll_same allCh (fun _ => rfl) (fun _ => rfl) rfl]

/-! ### READ_ACCOUNTS and GET_CHANNEL (R71, R187, R122) -/

theorem isLeader_eq (s : State) (c : Ch) :
    isLeader s c = decide (c.val % 2 = 0 ∧ (s.ch (partner c)).state = .follower) := by
  simp [isLeader, evenCh, isFollower]

theorem pairRole_eq (s : State) (c : Ch) : pairRole s c =
    if (s.ch c).state = .follower then .follower
    else if c.val % 2 = 0 ∧ (s.ch (partner c)).state = .follower then .leader else .single := by
  simp only [pairRole, isFollower_iff, isLeader_eq, decide_eq_true_eq]

/-- Settles O11. -/
theorem channelReads : Obligations.ChannelReads := by
  unfold Obligations.ChannelReads
  refine ⟨fun r s hfree hb => ?_, fun r s c hto => ?_⟩
  · intro answers
    split
    · rename_i h
      exact next_congr (arrive_same hfree hb (takeKind_badLength s (by simp [ReqKind.lengthOk, h])))
    · rename_i h
      have hlen : ReqKind.readAccounts.lengthOk r.body.length = true := by
        simpa [ReqKind.lengthOk] using h
      refine ⟨fun hc => next_congr (arrive_same hfree hb (takeKind_badChannel s hlen (.inr ⟨by decide, hc⟩))),
        fun c hc => next_congr (arrive_same hfree hb ?_)⟩
      rw [takeKind, takeReadAccounts, takeCh_ok hlen hc]
      rfl
  · intro ch p leads position shown answers
    have hb : r.body.length ≤ 1024 := by rw [hto.length]; decide
    have htake : takeKind .getChannel r s = _ := takeGetChannel.eq_def r s
    rw [takeCh_of hto rfl] at htake
    have hleads : isLeader s c = leads := isLeader_eq s c
    have hpair : pairRole s c =
        if ch.state = .follower then .follower else if leads then .leader else .single := by
      rw [pairRole_eq]
      simp only [leads, decide_eq_true_eq]
      rfl
    refine ⟨fun h => ?_, fun h => ?_, fun h => ?_, fun h => ?_, fun h => ?_, fun x h hx => ?_⟩
    · refine next_congr (arrive_same hto.free hb ?_)
      rw [htake, h]
      show (s, ReplyBody.ok (.context (contextView s c))) = _
      rw [contextView, hpair]
      rfl
    · refine next_congr (arrive_same hto.free hb ?_)
      rw [htake, h]
      show (s, ReplyBody.ok (.reading (readingView s c))) = _
      rw [readingView, hleads]
    · refine next_congr (arrive_same hto.free hb ?_)
      rw [htake, h]
      rfl
    · refine next_congr (arrive_same hto.free hb ?_)
      rw [htake, h]
      rfl
    · refine next_congr (arrive_same hto.free hb ?_)
      rw [htake, h]
      rfl
    · refine next_congr (arrive_same hto.free hb ?_)
      rw [htake, h]
      have hfield : field [x] 0 1 = x.toNat := by simp [field, leNat]
      have hsection : x.toNat = 0 ∨ 6 ≤ x.toNat := hx.imp_left fun h => by rw [h]; rfl
      rw [hfield]
      split
      case h_6 => rfl
      all_goals omega

end Sys2Proof.Machine
end

section
/-! PROOF. Layouts: fields of bytes, the record and point layouts (R9, R12), and the frames of the control link and of the
stage lines as their receivers take them (R154, R155, R180). -/
namespace Sys2Proof.Machine

open Sys2Proof.Safety

/-! ### Fields -/

@[simp] theorem leBytes_length (size n : Nat) : (leBytes size n).length = size := by
  induction size generalizing n with
  | zero => rfl
  | succ size ih => rw [leBytes, List.length_cons, ih]

theorem leNat_leBytes (size n : Nat) : leNat (leBytes size n) = n % 256 ^ size := by
  induction size generalizing n with
  | zero => simp [leBytes, leNat, Nat.mod_one]
  | succ size ih =>
    have hsplit : n % 256 ^ (size + 1) = n % 256 + 256 * (n / 256 % 256 ^ size) := by
      rw [Nat.pow_succ', Nat.mod_mul]
    rw [leBytes, leNat, ih, BitVec.toNat_ofNat, hsplit]

/-- A field that lies past the first piece. -/
theorem field_skip (a b : List Byte) (offset size : Nat) (h : a.length ≤ offset) :
    field (a ++ b) offset size = field b (offset - a.length) size := by
  rw [field, field, List.drop_append, List.drop_eq_nil_of_le h, List.nil_append]

/-- A field that lies past the first field. -/
theorem field_next {m : Nat} (n : Nat) (b : List Byte) (offset size : Nat) (h : m ≤ offset) :
    field (leBytes m n ++ b) offset size = field b (offset - m) size := by
  rw [field_skip _ _ _ _ (by rwa [leBytes_length]), leBytes_length]

/-- The field that is the first piece. -/
theorem field_here (size n : Nat) (b : List Byte) : field (leBytes size n ++ b) 0 size = n % 256 ^ size := by
  rw [field, List.drop_zero, List.take_left' (leBytes_length size n), leNat_leBytes]

/-! ### Profile points (R109) -/

theorem signed_emod {size : Nat} {n : Int} (hsize : 0 < size) (hlow : -2 ^ (8 * size - 1) ≤ n)
    (hhigh : n < 2 ^ (8 * size - 1)) : signed (8 * size) (n % 2 ^ (8 * size)).toNat = n := by
  have hpow : (2 : Int) ^ (8 * size) = 2 * 2 ^ (8 * size - 1) := by
    rw [← pow_succ']
    congr 1
    omega
  have hpos : (0 : Int) < 2 ^ (8 * size - 1) := by positivity
  unfold signed
  by_cases h : 0 ≤ n
  · have hmod : n % 2 ^ (8 * size) = n := Int.emod_eq_of_lt h (by omega)
    rw [hmod, if_pos]
    · exact Int.toNat_of_nonneg h
    · zify
      rw [Int.toNat_of_nonneg h]
      exact hhigh
  · have hmod : n % 2 ^ (8 * size) = n + 2 ^ (8 * size) := by
      rw [← Int.add_emod_right, Int.emod_eq_of_lt (by omega) (by omega)]
    rw [hmod, if_neg, Int.toNat_of_nonneg (by omega)]
    · omega
    · zify
      rw [Int.toNat_of_nonneg (by omega)]
      omega

/-- A signed field that is the first piece. -/
theorem fieldInt_here {size : Nat} {n : Int} (b : List Byte) (hsize : 0 < size) (hlow : -2 ^ (8 * size - 1) ≤ n)
    (hhigh : n < 2 ^ (8 * size - 1)) : fieldInt (leBytesInt size n ++ b) 0 size = n := by
  have hpow : (256 : Nat) ^ size = 2 ^ (8 * size) := by
    rw [Nat.pow_mul]
  have hlt : (n % 2 ^ (8 * size)).toNat < 256 ^ size := by
    have hpos : (0 : Int) < 2 ^ (8 * size) := by positivity
    zify
    rw [Int.toNat_of_nonneg (Int.emod_nonneg n hpos.ne'), show (256 : Int) ^ size = 2 ^ (8 * size) by exact_mod_cast hpow]
    exact Int.emod_lt_of_pos n hpos
  rw [fieldInt, leBytesInt, field_here, Nat.mod_eq_of_lt hlt]
  exact signed_emod hsize hlow hhigh

@[simp] theorem leBytesInt_length (size : Nat) (n : Int) : (leBytesInt size n).length = size := leBytes_length _ _

theorem pointOf_pointBytes (p : Point) (hlow : -2 ^ 31 ≤ p.current) (hhigh : p.current < 2 ^ 31)
    (hduration : p.duration < 2 ^ 16) : (pointBytes p).length = 8 ∧ pointOf (pointBytes p) = p := by
  refine ⟨by simp [pointBytes], ?_⟩
  have hcurrent : fieldInt (pointBytes p) 0 4 = p.current := by
    rw [pointBytes, List.append_assoc, List.append_assoc]
    exact fieldInt_here _ (by decide) hlow hhigh
  have hdur : field (pointBytes p) 4 2 = p.duration := by
    rw [pointBytes, List.append_assoc, List.append_assoc, field_skip _ _ _ _ (by simp)]
    simp only [leBytesInt_length, Nat.sub_self]
    rw [field_here, Nat.mod_eq_of_lt (by simpa using hduration)]
  have hflag : (field (pointBytes p) 6 1).testBit 0 = p.endFlag := by
    rw [pointBytes, List.append_assoc, List.append_assoc, field_skip _ _ _ _ (by simp)]
    simp only [leBytesInt_length]
    rw [field_next _ _ _ _ (by decide), field_here]
    cases p.endFlag <;> rfl
  rw [pointOf, hcurrent, hdur, hflag]

/-! ### Presence bits (R9) -/

/-- Bits below the first goto target's stand. -/
theorem targetBits_low (es : List EndCond) : ∀ (k x j : Nat), j < k → (x + targetBits k es).testBit j = x.testBit j := by
  induction es with
  | nil => exact fun _ _ _ _ => rfl
  | cons e es ih =>
    intro k x j hj
    rw [targetBits, ← Nat.add_assoc, ih (k + 1) _ j (by omega)]
    split
    · rw [Nat.add_comm, Nat.testBit_two_pow_add_gt hj]
    · rfl

theorem targetBits_lt (es : List EndCond) : ∀ (k x : Nat), x < 2 ^ k → x + targetBits k es < 2 ^ (k + es.length) := by
  induction es with
  | nil => exact fun _ _ h => h
  | cons e es ih =>
    intro k x hx
    have hpow : 2 ^ (k + 1) = 2 ^ k + 2 ^ k := by rw [Nat.pow_succ]; omega
    rw [targetBits, ← Nat.add_assoc, List.length_cons, show k + (es.length + 1) = k + 1 + es.length by omega]
    refine ih (k + 1) _ ?_
    split <;> omega

/-- The bit of an end condition's goto target (R9). -/
theorem targetBits_bit (es : List EndCond) : ∀ (k x i : Nat) (e : EndCond), x < 2 ^ k → es[i]? = some e →
    (x + targetBits k es).testBit (k + i) = e.action.target.isSome := by
  induction es with
  | nil => exact fun _ _ _ _ _ h => by cases h
  | cons d es ih =>
    intro k x i e hx he
    have hpow : 2 ^ (k + 1) = 2 ^ k + 2 ^ k := by rw [Nat.pow_succ]; omega
    rw [targetBits, ← Nat.add_assoc]
    cases i with
    | zero =>
      cases he
      rw [show k + 0 = k from rfl, targetBits_low es (k + 1) _ k (by omega)]
      have hbit : x.testBit k = false := Nat.testBit_lt_two_pow hx
      split
      · rename_i h
        rw [Nat.add_comm, Nat.testBit_two_pow_add_eq, hbit, h]
        rfl
      · rename_i h
        rw [Nat.add_zero, hbit]
        simpa using h
    | succ i =>
      rw [show k + (i + 1) = k + 1 + i by omega]
      refine ih (k + 1) _ i e ?_ he
      split <;> omega

/-! ### The record layout (R2 to R5, R9, R12) -/

section
variable (kind : Nat) (cap claim : Option Nat) (conds : List EndCond) (countsCycle : Bool)
  (current power upper lower loopTarget loopCount : Nat)

/-- The presence byte of the record layout. -/
def presenceOf (cap claim : Option Nat) (conds : List EndCond) : Nat :=
  (if claim.isSome then 1 else 0) + (if cap.isSome then 2 else 0) + targetBits 2 conds

theorem presenceOf_bits {conds : List EndCond} (h : conds.length ≤ 4) :
    (presenceOf cap claim conds % 256).testBit 0 = claim.isSome ∧
      (presenceOf cap claim conds % 256).testBit 1 = cap.isSome ∧
      ∀ i e, conds[i]? = some e → (presenceOf cap claim conds % 256).testBit (2 + i) = e.action.target.isSome := by
  have hlt : (if claim.isSome then 1 else 0) + (if cap.isSome then 2 else 0) < 2 ^ 2 := by
    split <;> split <;> decide
  have hmod : presenceOf cap claim conds % 256 = presenceOf cap claim conds := by
    refine Nat.mod_eq_of_lt (lt_of_lt_of_le (targetBits_lt conds 2 _ hlt) ?_)
    exact (Nat.pow_le_pow_right (by decide) (by omega)).trans (by decide : 2 ^ 6 ≤ 256)
  have hbits : ∀ a b : Bool, ((if a then 1 else 0) + (if b then 2 else 0) : Nat).testBit 0 = a ∧
      ((if a then 1 else 0) + (if b then 2 else 0) : Nat).testBit 1 = b := by decide
  rw [hmod]
  refine ⟨?_, ?_, fun i e he => targetBits_bit conds 2 _ i e hlt he⟩
  · rw [presenceOf, targetBits_low conds 2 _ 0 (by decide)]
    exact (hbits _ _).1
  · rw [presenceOf, targetBits_low conds 2 _ 1 (by decide)]
    exact (hbits _ _).2

theorem condBytes_length (e : EndCond) : (condBytes e).length = 8 := by simp [condBytes]

theorem condsBytes_length : (conds.map condBytes).flatten.length = 8 * conds.length := by
  induction conds with
  | nil => rfl
  | cons e es ih =>
    rw [List.map_cons, List.flatten_cons, List.length_append, ih, condBytes_length, List.length_cons]
    omega

/-- The layout as its head of 32 bytes and its end conditions. -/
theorem layoutRecord_eq : layoutRecord kind cap claim conds countsCycle current power upper lower loopTarget loopCount =
    leBytes 1 kind ++ (leBytes 1 (presenceOf cap claim conds) ++ (leBytes 1 conds.length ++
      (leBytes 1 (if countsCycle then 1 else 0) ++ (leBytes 4 current ++ (leBytes 4 power ++ (leBytes 4 upper ++
        (leBytes 4 lower ++ (leBytes 4 (cap.getD 0) ++ (leBytes 2 (claim.getD 0) ++ (leBytes 1 loopTarget ++ (leBytes 1 0 ++
          (leBytes 2 loopCount ++ (leBytes 2 0 ++ ((conds.map condBytes).flatten ++
            List.replicate (32 - (conds.map condBytes).flatten.length) 0)))))))))))))) := by
  simp only [layoutRecord, presenceOf, List.append_assoc]

theorem layoutRecord_length (h : conds.length ≤ 4) :
    (layoutRecord kind cap claim conds countsCycle current power upper lower loopTarget loopCount).length = 64 := by
  rw [layoutRecord_eq]
  simp only [List.length_append, leBytes_length, List.length_replicate, condsBytes_length]
  omega

/-- The fields of the head. -/
theorem layoutRecord_fields :
    let bs := layoutRecord kind cap claim conds countsCycle current power upper lower loopTarget loopCount
    field bs 0 1 = kind % 256 ∧ field bs 1 1 = presenceOf cap claim conds % 256 ∧ field bs 2 1 = conds.length % 256 ∧
    field bs 3 1 = (if countsCycle then 1 else 0) ∧ field bs 4 4 = current % 2 ^ 32 ∧ field bs 8 4 = power % 2 ^ 32 ∧
    field bs 12 4 = upper % 2 ^ 32 ∧ field bs 16 4 = lower % 2 ^ 32 ∧ field bs 20 4 = cap.getD 0 % 2 ^ 32 ∧
    field bs 24 2 = claim.getD 0 % 2 ^ 16 ∧ field bs 26 1 = loopTarget % 256 ∧ field bs 28 2 = loopCount % 2 ^ 16 := by
  intro bs
  simp only [bs, layoutRecord_eq]
  refine ⟨?_, ?_, ?_, ?_, ?_, ?_, ?_, ?_, ?_, ?_, ?_, ?_⟩
  case refine_4 =>
    repeat rw [field_next _ _ _ _ (by decide)]
    rw [field_here]
    cases countsCycle <;> rfl
  all_goals
    repeat rw [field_next _ _ _ _ (by decide)]
    exact field_here _ _ _

/-- The entry of an end condition in the layout. -/
theorem layoutRecord_cond {i : Nat} {e : EndCond} (he : conds[i]? = some e) : ∃ rest,
    (layoutRecord kind cap claim conds countsCycle current power upper lower loopTarget loopCount).drop (32 + 8 * i) =
      condBytes e ++ rest := by
  have hdrop : ∀ (cs : List EndCond) (i : Nat) (tail : List Byte), cs[i]? = some e →
      ∃ rest, ((cs.map condBytes).flatten ++ tail).drop (8 * i) = condBytes e ++ rest := by
    intro cs
    induction cs with
    | nil => exact fun i _ h => by cases h
    | cons d cs ih =>
      intro i tail h
      rw [List.map_cons, List.flatten_cons, List.append_assoc]
      cases i with
      | zero => cases h; exact ⟨_, rfl⟩
      | succ i =>
        rw [show 8 * (i + 1) = (condBytes d).length + 8 * i by rw [condBytes_length]; omega, ← List.drop_drop,
          List.drop_left]
        exact ih i tail h
  obtain ⟨rest, hrest⟩ := hdrop conds i (List.replicate (32 - (conds.map condBytes).flatten.length) 0) he
  refine ⟨rest, ?_⟩
  rw [layoutRecord_eq]
  simp only [← List.append_assoc] at hrest ⊢
  simp only [List.append_assoc ((_ : List Byte) ++ leBytes 2 0)]
  rw [← List.drop_drop, List.drop_left' (by simp)]
  exact hrest

theorem field_drop (bs : List Byte) (k offset size : Nat) : field (bs.drop k) offset size = field bs (k + offset) size := by
  rw [field, field, List.drop_drop]

theorem condKindOf_code (k : CondKind) : condKindOf k.code = some k := by cases k <;> rfl

theorem CondKind.code_lt (k : CondKind) : k.code < 256 := by cases k <;> decide

theorem actionOf_code (a : Action) (h : ∀ n, a = .goto n → n < 256) :
    actionOf (a.code % 256) (a.target.getD 0 % 256) a.target.isSome = some a := by
  cases a with
  | goto n =>
    have hn := h n rfl
    simp only [Action.code, Action.target, Option.getD_some, Option.isSome_some, Nat.mod_eq_of_lt hn]
    rfl
  | next | endSchedule | hold => rfl

/-- The fields of an end condition's entry. -/
theorem condBytes_fields {e : EndCond} (h : StorableCond e) (rest : List Byte) :
    field (condBytes e ++ rest) 0 1 = e.kind.code ∧ field (condBytes e ++ rest) 1 1 = e.action.code % 256 ∧
      field (condBytes e ++ rest) 2 1 = e.confirm ∧ field (condBytes e ++ rest) 3 1 = e.action.target.getD 0 % 256 ∧
      fieldInt (condBytes e ++ rest) 4 4 = e.threshold := by
  have heq : condBytes e ++ rest = leBytes 1 e.kind.code ++ (leBytes 1 e.action.code ++ (leBytes 1 e.confirm ++
      (leBytes 1 (e.action.target.getD 0) ++ (leBytesInt 4 e.threshold ++ rest)))) := by
    simp only [condBytes, List.append_assoc]
  have hconfirm := h.confirm
  rw [heq]
  refine ⟨?_, ?_, ?_, ?_, ?_⟩
  · rw [field_here]
    exact Nat.mod_eq_of_lt (CondKind.code_lt _)
  · rw [field_next _ _ _ _ (by decide)]
    exact field_here _ _ _
  · repeat rw [field_next _ _ _ _ (by decide)]
    exact (field_here _ _ _).trans (Nat.mod_eq_of_lt (by omega))
  · repeat rw [field_next _ _ _ _ (by decide)]
    exact field_here _ _ _
  · have hskip : ∀ (m : Nat) (b : List Byte), 4 = m →
        fieldInt (leBytes 1 e.kind.code ++ (leBytes 1 e.action.code ++ (leBytes 1 e.confirm ++
          (leBytes 1 (e.action.target.getD 0) ++ b)))) m 4 = fieldInt b 0 4 := by
      rintro m b rfl
      unfold fieldInt
      repeat rw [field_next _ _ _ _ (by decide)]
    rw [hskip 4 _ rfl]
    exact fieldInt_here _ (by decide) h.threshold.1 h.threshold.2

/-- An end condition read back from the layout. -/
theorem condAt_layout (hconds : StorableConds conds) {i : Nat} {e : EndCond} (he : conds[i]? = some e) :
    condAt (layoutRecord kind cap claim conds countsCycle current power upper lower loopTarget loopCount) i = some e := by
  obtain ⟨rest, hrest⟩ := layoutRecord_cond kind cap claim conds countsCycle current power upper lower loopTarget
    loopCount he
  obtain ⟨-, hpresence, -⟩ := layoutRecord_fields kind cap claim conds countsCycle current power upper lower loopTarget
    loopCount
  obtain ⟨-, -, hbit⟩ := presenceOf_bits cap claim hconds.1
  have hstorable := hconds.2 e (List.mem_of_getElem? he)
  obtain ⟨h0, h1, h2, h3, h4⟩ := condBytes_fields hstorable rest
  rw [← hrest] at h0 h1 h2 h3 h4
  rw [field_drop] at h0 h1 h2 h3
  rw [fieldInt, field_drop] at h4
  rw [Nat.add_zero] at h0
  unfold condAt
  simp only [fieldInt, show 32 + 8 * i + 1 = 33 + 8 * i by omega] at *
  simp only [h0, h1, h2, h3, h4, hpresence, hbit i e he, condKindOf_code, actionOf_code _ hstorable.target]
  rw [if_pos hstorable.confirm]

theorem mapM_eq_some {α β : Type} {f : α → Option β} {l : List α} {es : List β}
    (h : List.Forall₂ (fun a b => f a = some b) l es) : l.mapM f = some es := by
  induction h with
  | nil => rfl
  | cons ha _ ih => simp [ha, ih]

theorem condsOf_layout (hconds : StorableConds conds) :
    condsOf (layoutRecord kind cap claim conds countsCycle current power upper lower loopTarget loopCount) =
      some conds := by
  obtain ⟨-, -, hcount, -⟩ := layoutRecord_fields kind cap claim conds countsCycle current power upper lower loopTarget
    loopCount
  have hlen := hconds.1
  unfold condsOf
  rw [hcount, Nat.mod_eq_of_lt (by omega)]
  dsimp only
  rw [if_pos hlen]
  refine mapM_eq_some (List.forall₂_iff_get.2 ⟨List.length_range, fun i h1 h2 => ?_⟩)
  simp only [List.get_eq_getElem, List.getElem_range]
  exact condAt_layout kind cap claim conds countsCycle current power upper lower loopTarget loopCount hconds
    (List.getElem?_eq_getElem _)

/-- The cap and the claim read back from the layout. -/
theorem capOf_layout (hconds : conds.length ≤ 4) (hcap : ∀ n, cap = some n → n < 2 ^ 32) :
    capOf (layoutRecord kind cap claim conds countsCycle current power upper lower loopTarget loopCount) = cap := by
  obtain ⟨-, hpresence, -, -, -, -, -, -, hfield, -⟩ := layoutRecord_fields kind cap claim conds countsCycle current power
    upper lower loopTarget loopCount
  obtain ⟨-, hbit, -⟩ := presenceOf_bits cap claim hconds
  rw [capOf, hpresence, hbit, hfield]
  cases cap with
  | none => rfl
  | some n => exact congrArg some (Nat.mod_eq_of_lt (hcap n rfl))

theorem declaredClaimOf_layout (hconds : conds.length ≤ 4) (hclaim : StorableClaim claim) :
    declaredClaimOf (layoutRecord kind cap claim conds countsCycle current power upper lower loopTarget loopCount) =
      claim := by
  obtain ⟨-, hpresence, -, -, -, -, -, -, -, hfield, -⟩ := layoutRecord_fields kind cap claim conds countsCycle current
    power upper lower loopTarget loopCount
  obtain ⟨hbit, -⟩ := presenceOf_bits cap claim hconds
  rw [declaredClaimOf, hpresence, hbit, hfield]
  cases claim with
  | none => rfl
  | some n => exact congrArg some (Nat.mod_eq_of_lt (hclaim n rfl))

end

theorem StorableCap.bound {cap : Option Nat} (h : StorableCap cap) : ∀ n, cap = some n → n < 2 ^ 32 := fun n hn =>
  lt_of_le_of_lt (h n hn).2 (by decide)

theorem StorableCap.good {cap : Option Nat} (h : StorableCap cap) : badCap cap = false := by
  cases cap with
  | none => rfl
  | some n =>
    obtain ⟨h1, h2⟩ := h n rfl
    simp [badCap]
    omega

/-- A record whose fields fit is read back from its 64 bytes as it was written (R9, R12). -/
theorem recordOf_recordBytes (x : StepRecord) (h : Storable x) :
    (recordBytes (some x)).length = 64 ∧ recordOf (recordBytes (some x)) = .ok x := by
  cases x with
  | rest conds =>
    refine ⟨layoutRecord_length _ _ _ _ _ _ _ _ _ _ _ (And.left h), ?_⟩
    obtain ⟨hkind, -⟩ := layoutRecord_fields 1 none none conds false 0 0 0 0 0 0
    have hconds := condsOf_layout 1 none none conds false 0 0 0 0 0 0 h
    rw [recordBytes, recordOf, hkind, hconds]
    rfl
  | charge i v claim conds =>
    obtain ⟨h1, h2, hv, hclaim, hc⟩ := h
    refine ⟨layoutRecord_length _ _ _ _ _ _ _ _ _ _ _ hc.1, ?_⟩
    obtain ⟨hkind, -, -, -, hi, -, hu, -⟩ := layoutRecord_fields 2 none claim conds false i 0 v 0 0 0
    have hconds := condsOf_layout 2 none claim conds false i 0 v 0 0 0 hc
    have hdeclared := declaredClaimOf_layout 2 none claim conds false i 0 v 0 0 0 hc.1 hclaim
    rw [Nat.mod_eq_of_lt (by omega)] at hi hu
    rw [recordBytes, recordOf, hkind, hconds, hi, hu, hdeclared]
    simp [stepKindOf, show ¬i < 1 by omega, Nat.not_lt.2 h2]
  | discharge i v claim conds =>
    obtain ⟨h1, h2, hv, hclaim, hc⟩ := h
    refine ⟨layoutRecord_length _ _ _ _ _ _ _ _ _ _ _ hc.1, ?_⟩
    obtain ⟨hkind, -, -, -, hi, -, -, hl, -⟩ := layoutRecord_fields 3 none claim conds false i 0 0 v 0 0
    have hconds := condsOf_layout 3 none claim conds false i 0 0 v 0 0 hc
    have hdeclared := declaredClaimOf_layout 3 none claim conds false i 0 0 v 0 0 hc.1 hclaim
    rw [Nat.mod_eq_of_lt (by omega)] at hi hl
    rw [recordBytes, recordOf, hkind, hconds, hi, hl, hdeclared]
    simp [stepKindOf, show ¬i < 1 by omega, Nat.not_lt.2 h2]
  | chargePower p v cap claim conds =>
    obtain ⟨h1, h2, hv, hcap, hclaim, hc⟩ := h
    refine ⟨layoutRecord_length _ _ _ _ _ _ _ _ _ _ _ hc.1, ?_⟩
    obtain ⟨hkind, -, -, -, -, hp, hu, -⟩ := layoutRecord_fields 4 cap claim conds false 0 p v 0 0 0
    have hconds := condsOf_layout 4 cap claim conds false 0 p v 0 0 0 hc
    have hdeclared := declaredClaimOf_layout 4 cap claim conds false 0 p v 0 0 0 hc.1 hclaim
    have hcapped := capOf_layout 4 cap claim conds false 0 p v 0 0 0 hc.1 (StorableCap.bound hcap)
    rw [Nat.mod_eq_of_lt (by omega)] at hp hu
    rw [recordBytes, recordOf, hkind, hconds, hp, hu, hdeclared, hcapped, StorableCap.good hcap]
    simp [stepKindOf, show ¬p < 1 by omega, Nat.not_lt.2 h2]
  | dischargePower p v cap claim conds =>
    obtain ⟨h1, h2, hv, hcap, hclaim, hc⟩ := h
    refine ⟨layoutRecord_length _ _ _ _ _ _ _ _ _ _ _ hc.1, ?_⟩
    obtain ⟨hkind, -, -, -, -, hp, -, hl, -⟩ := layoutRecord_fields 5 cap claim conds false 0 p 0 v 0 0
    have hconds := condsOf_layout 5 cap claim conds false 0 p 0 v 0 0 hc
    have hdeclared := declaredClaimOf_layout 5 cap claim conds false 0 p 0 v 0 0 hc.1 hclaim
    have hcapped := capOf_layout 5 cap claim conds false 0 p 0 v 0 0 hc.1 (StorableCap.bound hcap)
    rw [Nat.mod_eq_of_lt (by omega)] at hp hl
    rw [recordBytes, recordOf, hkind, hconds, hp, hl, hdeclared, hcapped, StorableCap.good hcap]
    simp [stepKindOf, show ¬p < 1 by omega, Nat.not_lt.2 h2]
  | profile u l cap claim conds =>
    obtain ⟨hu', hl', hcap, hclaim, hc⟩ := h
    refine ⟨layoutRecord_length _ _ _ _ _ _ _ _ _ _ _ hc.1, ?_⟩
    obtain ⟨hkind, -, -, -, -, -, hu, hl, -⟩ := layoutRecord_fields 6 cap claim conds false 0 0 u l 0 0
    have hconds := condsOf_layout 6 cap claim conds false 0 0 u l 0 0 hc
    have hdeclared := declaredClaimOf_layout 6 cap claim conds false 0 0 u l 0 0 hc.1 hclaim
    have hcapped := capOf_layout 6 cap claim conds false 0 0 u l 0 0 hc.1 (StorableCap.bound hcap)
    rw [Nat.mod_eq_of_lt (by omega)] at hu hl
    rw [recordBytes, recordOf, hkind, hconds, hu, hl, hdeclared, hcapped, StorableCap.good hcap]
    simp [stepKindOf]
  | mark target count cycles =>
    obtain ⟨ht, hc⟩ := h
    refine ⟨layoutRecord_length _ _ _ _ _ _ _ _ _ _ _ (by decide), ?_⟩
    obtain ⟨hkind, -, hcount, hflag, -, -, -, -, -, -, htarget, hloops⟩ :=
      layoutRecord_fields 7 none none [] cycles 0 0 0 0 target count
    rw [Nat.mod_eq_of_lt (by omega)] at htarget hloops
    rw [recordBytes, recordOf, hkind, hcount, hflag, htarget, hloops]
    cases cycles <;> rfl

/-! ### Receivers (R155, R180) -/

/-- Bytes that do not yet make a whole frame. -/
theorem controlReceiveAll_wait (pre : List Byte) (bs rest : List Byte)
    (h : ∀ n, n < bs.length → controlJudge (pre ++ bs.take (n + 1)) = (some (pre ++ bs.take (n + 1)), [])) :
    controlReceiveAll (some pre) (bs ++ rest) = controlReceiveAll (some (pre ++ bs)) rest := by
  induction bs generalizing pre with
  | nil => simp
  | cons b bs ih =>
    have hfirst := h 0 (Nat.succ_pos _)
    simp only [List.take_succ_cons, List.take_zero] at hfirst
    rw [List.cons_append, controlReceiveAll]
    simp only [controlReceive, hfirst, Bool.false_eq_true, if_false, List.nil_append]
    rw [ih (pre ++ [b])]
    · simp
    · intro n hn
      have := h (n + 1) (by simpa using hn)
      simpa using this

/-- A frame whose length field is in range, before its last byte. -/
theorem controlJudge_wait {bs : List Byte} {len m : Nat} (hlen : leNat (bs.take 2) = len) (h3 : 3 ≤ len)
    (h1027 : len ≤ 1027) (hm : m < len + 4) (hbs : m ≤ bs.length) : controlJudge (bs.take m) = (some (bs.take m), []) := by
  have hlength : (bs.take m).length = m := List.length_take_of_le hbs
  unfold controlJudge
  rw [hlength]
  split
  · rfl
  · rename_i h2
    rw [List.take_take, Nat.min_eq_left (by omega), hlen]
    simp only [show ¬(len < 3 ∨ 1027 < len) by omega, if_false, hm, if_true]

theorem frameCore_length (f : Frame) : (frameCore f).length = 3 + f.body.length + 2 := by
  simp [frameCore]
  omega

/-- The length field of a frame. -/
theorem frameCore_field (f : Frame) (hb : f.body.length ≤ 1024) (rest : List Byte) :
    leNat ((frameCore f ++ rest).take 2) = 3 + f.body.length := by
  have htake : (frameCore f ++ rest).take 2 = leBytes 2 (3 + f.body.length) := by
    simp only [frameCore, List.append_assoc]
    exact List.take_left' (leBytes_length _ _)
  rw [htake, leNat_leBytes, Nat.mod_eq_of_lt (by omega)]

theorem controlJudge_frame (f : Frame) (hb : f.body.length ≤ 1024) :
    controlJudge (frameCore f ++ leBytes 2 (crc16 (frameCore f)).toNat) = (none, [.controlFrame f]) := by
  have hcore := frameCore_length f
  have hlen := frameCore_field f hb (leBytes 2 (crc16 (frameCore f)).toNat)
  have hcheck : leNat (((frameCore f ++ leBytes 2 (crc16 (frameCore f)).toNat).drop (3 + f.body.length + 2)).take 2) =
      (crc16 (frameCore f)).toNat := by
    rw [List.drop_left' hcore, List.take_of_length_le (by simp), leNat_leBytes]
    exact Nat.mod_eq_of_lt (crc16 (frameCore f)).isLt
  have hbody : ((frameCore f ++ leBytes 2 (crc16 (frameCore f)).toNat).drop 5).take (3 + f.body.length - 3) = f.body := by
    have hdrop : (frameCore f ++ leBytes 2 (crc16 (frameCore f)).toNat).drop 5 =
        f.body ++ leBytes 2 (crc16 (frameCore f)).toNat := by
      rw [frameCore, List.append_assoc, List.drop_left' (by simp)]
    rw [hdrop, List.take_left' (by omega)]
  unfold controlJudge
  rw [hlen]
  dsimp only
  rw [hcheck, List.take_left' hcore, hbody]
  simp only [List.length_append, leBytes_length, hcore, show ¬3 + f.body.length + 2 + 2 < 2 by omega,
    show ¬(3 + f.body.length < 3 ∨ 1027 < 3 + f.body.length) by omega,
    show ¬3 + f.body.length + 2 + 2 < 3 + f.body.length + 4 by omega, if_false, if_true]
  rfl

theorem controlReceiveAll_frame (f : Frame) (hb : f.body.length ≤ 1024) :
    controlReceiveAll none (frameBytes f) = (none, [.controlFrame f]) := by
  have hjudge := controlJudge_frame f hb
  have hfield := frameCore_field f hb (leBytes 2 (crc16 (frameCore f)).toNat)
  have hlength : (frameCore f ++ leBytes 2 (crc16 (frameCore f)).toNat).length = 3 + f.body.length + 4 := by
    rw [List.length_append, frameCore_length, leBytes_length]
  have hbytes : frameBytes f = 0xC3#8 :: (frameCore f ++ leBytes 2 (crc16 (frameCore f)).toNat) := rfl
  generalize frameCore f ++ leBytes 2 (crc16 (frameCore f)).toNat = bs at *
  have hne : bs ≠ [] := List.ne_nil_of_length_pos (by omega)
  have hstart : controlReceiveAll none (0xC3#8 :: bs) = controlReceiveAll (some []) bs := by
    simp [controlReceiveAll, controlReceive, controlHunt]
  have hinit : bs.dropLast = bs.take (bs.length - 1) := List.dropLast_eq_take
  have hwait : controlReceiveAll (some []) (bs.dropLast ++ [bs.getLast hne]) =
      controlReceiveAll (some bs.dropLast) [bs.getLast hne] := by
    refine controlReceiveAll_wait [] bs.dropLast _ fun n hn => ?_
    rw [List.length_dropLast] at hn
    rw [List.nil_append, hinit, List.take_take, Nat.min_eq_left (by omega)]
    exact controlJudge_wait hfield (by omega) (by omega) (by omega) (by omega)
  rw [List.dropLast_append_getLast hne] at hwait
  rw [hbytes, hstart, hwait]
  simp only [controlReceiveAll, controlReceive, List.dropLast_append_getLast hne, hjudge, Bool.false_eq_true, if_false]
  rfl

/-- The stage line receiver taking a byte of a frame, none of them late. -/
def stageTake (c : Ch) (after : Bool) (x : RxState × List Instr) (b : Byte) : RxState × List Instr :=
  ((stageReceive c after false x.1 b).1, x.2 ++ (stageReceive c after false x.1 b).2)

/-- Bytes that do not yet make a whole frame. -/
theorem stageTake_wait (c : Ch) (after : Bool) (pre bs : List Byte)
    (h : ∀ n, n < bs.length → stageJudge c after (pre ++ bs.take (n + 1)) = (some (pre ++ bs.take (n + 1)), [])) :
    bs.foldl (stageTake c after) (some pre, []) = (some (pre ++ bs), []) := by
  induction bs generalizing pre with
  | nil => simp
  | cons b bs ih =>
    have hfirst := h 0 (Nat.succ_pos _)
    simp only [List.take_succ_cons, List.take_zero] at hfirst
    have hstep : stageTake c after (some pre, []) b = (some (pre ++ [b]), []) := by
      simp [stageTake, stageReceive, hfirst]
    rw [List.foldl_cons, hstep, ih (pre ++ [b])]
    · simp
    · intro n hn
      have := h (n + 1) (by simpa using hn)
      simpa using this

/-- A frame whose kind and length bytes agree, before its last byte. -/
theorem stageJudge_wait {c : Ch} {after : Bool} {n : Nat} {kind : Byte} {bs : List Byte} {m : Nat}
    (hkind : stageBodyLength kind = some n) (hn : n + 1 < 256) (hm : m < n + 4) (hbs : n + 4 ≤ bs.length + 2) :
    stageJudge c after ((BitVec.ofNat 8 (n + 1) :: kind :: bs).take m) =
      (some ((BitVec.ofNat 8 (n + 1) :: kind :: bs).take m), []) := by
  have hlength : ((BitVec.ofNat 8 (n + 1) :: kind :: bs).take m).length = m :=
    List.length_take_of_le (by simp only [List.length_cons]; omega)
  unfold stageJudge
  rw [hlength]
  split
  · rfl
  · rename_i h2
    obtain ⟨m, rfl⟩ : ∃ j, m = j + 2 := ⟨m - 2, by omega⟩
    have hfield : field ((BitVec.ofNat 8 (n + 1) :: kind :: bs).take (m + 2)) 0 1 = n + 1 := by
      simp [field, leNat, Nat.mod_eq_of_lt hn]
    have hget : ((BitVec.ofNat 8 (n + 1) :: kind :: bs).take (m + 2)).getD 1 0 = kind := rfl
    rw [hget, hkind]
    simp only [hfield, ne_eq, not_true_eq_false, if_false, hm, if_true]

/-- A whole frame is judged at its last byte. -/
theorem stageTake_frame {c : Ch} {after : Bool} {n : Nat} {kind : Byte} {body : List Byte} (hbody : body.length = n)
    (hkind : stageBodyLength kind = some n) (hn : n + 1 < 256) :
    let core := BitVec.ofNat 8 (n + 1) :: kind :: body
    (0x5A :: core ++ leBytes 2 (crc16 core).toNat).foldl (stageTake c after) (none, []) =
      stageJudge c after (core ++ leBytes 2 (crc16 core).toNat) := by
  intro core
  have hlength : (core ++ leBytes 2 (crc16 core).toNat).length = n + 4 := by simp [core, hbody]
  have hcons : core ++ leBytes 2 (crc16 core).toNat = BitVec.ofNat 8 (n + 1) :: kind ::
    (body ++ leBytes 2 (crc16 core).toNat) := rfl
  have hwaits : ∀ m, m < n + 4 → stageJudge c after ((core ++ leBytes 2 (crc16 core).toNat).take m) =
      (some ((core ++ leBytes 2 (crc16 core).toNat).take m), []) := fun m hm => by
    rw [hcons]
    exact stageJudge_wait hkind hn hm (by simp [hbody])
  rw [List.cons_append, List.foldl_cons]
  generalize core ++ leBytes 2 (crc16 core).toNat = bs at *
  have hne : bs ≠ [] := List.ne_nil_of_length_pos (by omega)
  have hstart : stageTake c after (none, []) 0x5A = (some [], []) := by simp [stageTake, stageReceive, stageHunt]
  have hinit : bs.dropLast = bs.take (bs.length - 1) := List.dropLast_eq_take
  have hwait : bs.dropLast.foldl (stageTake c after) (some [], []) = (some bs.dropLast, []) := by
    refine (stageTake_wait c after [] bs.dropLast fun m hm => ?_).trans (by simp)
    rw [List.length_dropLast] at hm
    rw [List.nil_append, hinit, List.take_take, Nat.min_eq_left (by omega)]
    exact hwaits _ (by omega)
  rw [hstart]
  conv_lhs => rw [← List.dropLast_append_getLast hne]
  rw [List.foldl_append, hwait]
  simp [stageTake, stageReceive, List.dropLast_append_getLast hne]

/-- A whole frame with a good check, judged. -/
theorem stageJudge_whole {c : Ch} {after : Bool} {n : Nat} {kind : Byte} {body : List Byte} (hbody : body.length = n)
    (hkind : stageBodyLength kind = some n) (hn : n + 1 < 256) :
    let core := BitVec.ofNat 8 (n + 1) :: kind :: body
    let bs := core ++ leBytes 2 (crc16 core).toNat
    stageJudge c after bs =
      if n = 1 then (none, [.confirm c (bs.getD 2 0)])
      else (none, [.reading c after
        { rawV := BitVec.ofNat 24 (field bs 2 3), rawI := BitVec.ofNat 24 (field bs 5 3),
          rawT := BitVec.ofNat 16 (field bs 8 2), reg := bs.getD 10 0, flags := bs.getD 11 0 }]) := by
  intro core bs
  have hcore : core.length = n + 2 := by simp [core, hbody]
  have hlength : bs.length = n + 4 := by simp [bs, hcore]
  have hcheck : field bs (n + 2) 2 = (crc16 core).toNat := by
    rw [← hcore, field_skip _ _ _ _ (Nat.le_refl _), Nat.sub_self, ← List.append_nil (leBytes 2 _), field_here]
    exact Nat.mod_eq_of_lt (crc16 core).isLt
  have htake : bs.take (n + 2) = core := List.take_left' hcore
  have hfield : field bs 0 1 = n + 1 := by simp [field, leNat, bs, core, Nat.mod_eq_of_lt hn]
  have hget : bs.getD 1 0 = kind := rfl
  unfold stageJudge
  rw [hget, hkind, hlength]
  simp only [hfield, hcheck, htake, ne_eq, not_true_eq_false, if_false, show ¬n + 4 < 2 by omega, Nat.lt_irrefl]

theorem stage_confirm (c : Ch) (after : Bool) (tag : Byte) :
    let core : List Byte := [0x02, 0x11, tag]
    (0x5A :: core ++ leBytes 2 (crc16 core).toNat).foldl (stageTake c after) (none, []) = (none, [.confirm c tag]) :=
  (stageTake_frame (n := 1) (kind := 0x11) (body := [tag]) rfl rfl (by decide)).trans
    (stageJudge_whole (n := 1) (kind := 0x11) (body := [tag]) rfl rfl (by decide))

/-- The three raw codes of a READING's body read back. -/
theorem reading_fields (raw : RawReading) (head tail : List Byte) (hhead : head.length = 2) :
    let bs := head ++ (leBytes 3 raw.rawV.toNat ++ (leBytes 3 raw.rawI.toNat ++ (leBytes 2 raw.rawT.toNat ++
      ([raw.reg, raw.flags] ++ tail))))
    BitVec.ofNat 24 (field bs 2 3) = raw.rawV ∧ BitVec.ofNat 24 (field bs 5 3) = raw.rawI ∧
      BitVec.ofNat 16 (field bs 8 2) = raw.rawT ∧ bs.getD 10 0 = raw.reg ∧ bs.getD 11 0 = raw.flags := by
  intro bs
  have hv : raw.rawV.toNat % 256 ^ 3 = raw.rawV.toNat := Nat.mod_eq_of_lt raw.rawV.isLt
  have hi : raw.rawI.toNat % 256 ^ 3 = raw.rawI.toNat := Nat.mod_eq_of_lt raw.rawI.isLt
  have ht : raw.rawT.toNat % 256 ^ 2 = raw.rawT.toNat := Nat.mod_eq_of_lt raw.rawT.isLt
  obtain ⟨a, b, rfl⟩ := List.length_eq_two.1 hhead
  refine ⟨?_, ?_, ?_, rfl, rfl⟩
  · rw [field_skip _ _ _ _ (by simp)]
    simp only [List.length_cons, List.length_nil]
    rw [field_here, hv, BitVec.ofNat_toNat, BitVec.setWidth_eq]
  · rw [field_skip _ _ _ _ (by simp), field_next _ _ _ _ (by simp)]
    simp only [List.length_cons, List.length_nil]
    rw [field_here, hi, BitVec.ofNat_toNat, BitVec.setWidth_eq]
  · rw [field_skip _ _ _ _ (by simp), field_next _ _ _ _ (by simp), field_next _ _ _ _ (by simp)]
    simp only [List.length_cons, List.length_nil]
    rw [field_here, ht, BitVec.ofNat_toNat, BitVec.setWidth_eq]

theorem stage_reading (c : Ch) (after : Bool) (raw : RawReading) :
    let core : List Byte := [0x0B, 0x12] ++ leBytes 3 raw.rawV.toNat ++ leBytes 3 raw.rawI.toNat ++
      leBytes 2 raw.rawT.toNat ++ [raw.reg, raw.flags]
    (0x5A :: core ++ leBytes 2 (crc16 core).toNat).foldl (stageTake c after) (none, []) =
      (none, [.reading c after raw]) := by
  intro core
  have hcore : core = BitVec.ofNat 8 (10 + 1) :: 0x12 :: (leBytes 3 raw.rawV.toNat ++ (leBytes 3 raw.rawI.toNat ++
      (leBytes 2 raw.rawT.toNat ++ [raw.reg, raw.flags]))) := by
    simp only [core, List.append_assoc]
    rfl
  obtain ⟨hv, hi, ht, hreg, hflags⟩ := reading_fields raw [BitVec.ofNat 8 (10 + 1), 0x12]
    (leBytes 2 (crc16 core).toNat) rfl
  have hframe := (stageTake_frame (c := c) (after := after) (n := 10) (kind := 0x12) (by simp) rfl (by decide)).trans
    (stageJudge_whole (c := c) (after := after) (n := 10) (kind := 0x12)
      (body := leBytes 3 raw.rawV.toNat ++ (leBytes 3 raw.rawI.toNat ++
        (leBytes 2 raw.rawT.toNat ++ [raw.reg, raw.flags]))) (by simp) rfl (by decide))
  rw [← hcore] at hframe
  refine hframe.trans ?_
  have hbytes : ∀ check : List Byte, core ++ check = [BitVec.ofNat 8 (10 + 1), 0x12] ++ (leBytes 3 raw.rawV.toNat ++
      (leBytes 3 raw.rawI.toNat ++ (leBytes 2 raw.rawT.toNat ++ ([raw.reg, raw.flags] ++ check)))) := fun check => by
    rw [hcore]
    simp only [List.cons_append, List.append_assoc, List.nil_append]
  rw [if_neg (by decide), hbytes, hv, hi, ht, hreg, hflags]

/-- Settles O52. -/
theorem layouts : Obligations.Layouts := by
  unfold Obligations.Layouts
  exact ⟨⟨controlReceiveAll_frame, stage_confirm, stage_reading⟩, recordOf_recordBytes, pointOf_pointBytes⟩

end Sys2Proof.Machine
end

section
/-! PROOF. The requests that read the board's figures (R12, R108, R185, R186). -/
namespace Sys2Proof.Machine

open Sys2Proof.Safety

theorem identify_answers (r : Request) (s : State) (hc : r.channel = 0xFF) (hbody : r.body = [])
    (hp : s.part = .ready ∨ s.part = .starting) (hq : s.link.requests = []) (hr : s.link.reply = none)
    (hs : ∀ x, s.link.sending ≠ some (.reply x)) :
    exec (.identify r) s = .next (replied s (replyTo .identify r (.ok (.identity "Brestal" "Vorund C8"
      Config.serialNumber Config.firmwareMajor Config.firmwareMinor s.part s.link.speed s.hall.partTime)))) := by
  refine next_congr (arrive_answered hp (by show r.body.length ≤ 1024; simp [hbody]) hq hr hs ?_)
  have htake : takeKind .identify r s = _ := takeIdentify.eq_def r s
  rw [takePart_ok (by rw [hbody]; rfl) hc] at htake
  rw [← htake]
  simp [takeFrame, ReqKind.frame, ofCode_code, Frame.request]

/-! ### GET_STATUS (R186) -/

theorem getStatus_answers {r : Request} {s : State} (hto : ToPart s r 1) :
    exec (.getStatus r) s = .next (replied (if flagOf (r.body.getD 0 0) then s.modLink Link.clearCounters else s)
      (replyTo .getStatus r (.ok (.status (statusView s))))) := by
  have htake : takeKind .getStatus r s = _ := takeGetStatus.eq_def r s
  rw [takePart_of hto rfl] at htake
  refine next_congr (arrive_to hto.free (by rw [hto.length]; decide) htake ?_ ?_ ?_) <;> split <;> intros <;> rfl

theorem status_reads (r : Request) (s : State) (hto : ToPart s r 1) : ∃ v : StatusView,
    v.partTime = s.hall.partTime ∧ v.speed = s.link.speed ∧ v.hall.state = s.hall.state ∧
    v.hall.wakeByTimer = s.hall.wakeByTimer ∧ v.hall.wakeByCurtail = s.hall.wakeByCurtail ∧
    v.hall.wakeTimer = s.hall.wakeTimer ∧ v.hall.curtRaw = s.hall.curtRaw ∧
    v.hall.curtFiltered = s.hall.curtFiltered ∧ v.hall.curtDebounce = s.hall.curtDebounce ∧
    (s.hall.state = .active → v.hall.pauseOrder = none) ∧
    (s.hall.state ≠ .active → v.hall.pauseOrder = some s.hall.pauseOrder) ∧
    v.hallStop = s.prot.hallStop ∧
    v.lines = [((s.line 0).raw, (s.line 0).filtered), ((s.line 1).raw, (s.line 1).filtered),
      ((s.line 2).raw, (s.line 2).filtered), ((s.line 3).raw, (s.line 3).filtered)] ∧
    v.channels.length = 8 ∧
    (∀ c : Ch, ∃ x, v.channels[c.val]? = some x ∧ x.state = (s.ch c).state ∧ x.latched = (s.ch c).latched ∧
      x.presence = (s.ch c).port.presence ∧ x.lineErr = (s.ch c).port.lineErr ∧
      x.pair = (if (s.ch c).state = .follower then .follower
        else if c.val % 2 = 0 ∧ (s.ch (partner c)).state = .follower then .leader else .single)) ∧
    v.linkErr = s.link.linkErr ∧ v.linkErrCount = s.link.linkErrCount ∧ v.overrun = s.link.overrun ∧
    v.overrunCount = s.link.overrunCount ∧ v.lost = s.link.lost ∧ v.reportCount = s.link.reports.length ∧
    v.holdTimer = s.link.holdTimer ∧ v.saveInFlight = s.saveInFlight.isSome ∧
    (r.body = [0] → exec (.getStatus r) s = .next (replied s (replyTo .getStatus r (.ok (.status v))))) ∧
    (r.body = [1] → exec (.getStatus r) s =
      .next (replied (s.modLink fun l =>
        { l with linkErr := false, linkErrCount := 0, overrun := false, overrunCount := 0 })
        (replyTo .getStatus r (.ok (.status v))))) := by
  have hanswer := getStatus_answers hto
  refine ⟨statusView s, rfl, rfl, rfl, rfl, rfl, rfl, rfl, rfl, rfl, fun h => if_pos h, fun h => if_neg h, rfl, rfl, rfl,
    fun c => ⟨channelStatus s c, ?_, rfl, rfl, rfl, rfl, pairRole_eq s c⟩, rfl, rfl, rfl, rfl, rfl, rfl, rfl, rfl,
    fun h => ?_, fun h => ?_⟩
  · simp [statusView, allCh_eq_finRange]
  · rw [hanswer, h]; rfl
  · rw [hanswer, h]; rfl

/-! ### GET_BUDGET (R108) -/

theorem mem_lowFrom {s : State} {c : Ch} (h : groupOfCh s c = .low) : c ∈ lowFrom s := by
  have hlow : c ∈ lowList s := by simp [lowList, mem_allCh, h]
  unfold lowFrom
  split
  · exact hlow
  · rename_i lp _
    rw [List.mem_append, List.mem_filter, List.mem_filter]
    by_cases hc : lp ≤ c
    · exact .inl ⟨hlow, by simpa using hc⟩
    · exact .inr ⟨hlow, by simpa using hc⟩

/-- The walk passes every channel. -/
theorem mem_walkOrder (s : State) (c : Ch) : c ∈ walkOrder s := by
  have hring : ∃ p ∈ ringOf s, c ∈ (match p with | some c => [c] | none => lowFrom s) := by
    unfold ringOf
    cases h : groupOfCh s c with
    | high => exact ⟨some c, by simp [mem_allCh, h], by simp⟩
    | low =>
      have hne : (lowList s).isEmpty = false := by
        rw [List.isEmpty_eq_false_iff]
        exact List.ne_nil_of_mem (a := c) (by simp [lowList, mem_allCh, h])
      exact ⟨none, by simp [hne], mem_lowFrom h⟩
  obtain ⟨p, hp, hc⟩ := hring
  unfold walkOrder
  rw [List.mem_flatten]
  refine ⟨_, List.mem_map_of_mem (f := _) ?_, hc⟩
  rw [List.mem_append, or_comm, ← List.mem_append, List.take_append_drop]
  exact hp

theorem budget_reads (r : Request) (s : State) (hto : ToPart s r 0) : ∃ v : BudgetView,
    let all : List Ch := [0, 1, 2, 3, 4, 5, 6, 7]
    let inGroup := fun g => all.filter fun c => (s.ch c).settings.group = g
    let ring : List (Option Ch) := (inGroup .high).map some ++ (if inGroup .low = [] then [] else [none])
    let lowTurn :=
      match s.arb.lp with
      | none => inGroup .low
      | some p => (inGroup .low).filter (fun c => p ≤ c) ++ (inGroup .low).filter (fun c => c < p)
    let walk := ((ring.drop s.arb.hp ++ ring.take s.arb.hp).map fun p =>
      match p with
      | some c => [c]
      | none => lowTurn).flatten
    let shown := fun e : Entry => (⟨e.ch, e.dir, e.claim, e.mark, s.hall.partTime - e.lodgedAt, e.timer⟩ : EntryView)
    v.grants = s.arb.grants.map (fun g => ⟨g.ch, g.dir, g.amount, lcOf s.arb.budget.eta g.amount,
      ldOf s.arb.budget.eta g.amount, g.live, g.hold⟩) ∧
    v.resume = s.arb.resume.map shown ∧
    v.waiting = (walk.map fun c => (s.arb.waiting.filter fun e => e.ch = c).map shown).flatten ∧
    (∀ e ∈ s.arb.waiting, shown e ∈ v.waiting) ∧ v.ring = ring ∧
    v.groups = all.map (fun c => (s.ch c).settings.group) ∧
    v.hp = s.arb.hp ∧ v.lp = s.arb.lp ∧ v.sums = sumsOf s.arb.budget.eta s.arb.grants ∧
    v.intake = (v.sums.chgAll : Int) - (v.sums.disLive * s.arb.budget.u / 1000 : Nat) ∧
    v.returned = (v.sums.disAll : Int) - (v.sums.chgLive * s.arb.budget.u / 1000 : Nat) ∧
    v.cEff = (if s.hall.curtFiltered then s.arb.budget.cCurt else s.arb.budget.cIn) ∧ v.cRet = s.arb.budget.cRet ∧
    v.curtailed = s.hall.curtFiltered ∧ v.settings = s.arb.budget ∧
    exec (.getBudget r) s = .next (replied s (replyTo .getBudget r (.ok (.budget v)))) := by
  refine ⟨budgetView s, ?_⟩
  intro all inGroup ring lowTurn walk shown
  have hring : ringOf s = ring := by
    unfold ringOf
    simp only [List.isEmpty_iff]
    rfl
  have hlow : lowFrom s = lowTurn := by
    unfold lowFrom
    rfl
  have hwalk : walkOrder s = walk := by
    unfold walkOrder
    exact hring ▸ hlow ▸ rfl
  have hwaiting : (budgetView s).waiting = (walk.map fun c => (s.arb.waiting.filter fun e => e.ch = c).map shown).flatten := by
    show ((waitingInOrder s).map (entryView s.hall.partTime)) = _
    rw [waitingInOrder, hwalk, List.map_flatten]
    exact congrArg List.flatten List.map_map
  refine ⟨rfl, rfl, hwaiting, fun e he => ?_, hring, rfl, rfl, rfl, rfl, rfl, rfl, rfl, rfl, rfl, rfl, ?_⟩
  · show shown e ∈ (waitingInOrder s).map (entryView s.hall.partTime)
    refine List.mem_map_of_mem (f := entryView s.hall.partTime) (List.mem_flatten.2
      ⟨_, List.mem_map_of_mem (f := fun c => s.arb.waiting.filter fun x => x.ch = c) (mem_walkOrder s e.ch), ?_⟩)
    simp [he]
  · refine next_congr (arrive_same hto.free (by rw [hto.length]; decide) ?_)
    rw [takeKind, takeGetBudget, takePart_of hto rfl]

/-! ### READ_STEPS (R12) -/

theorem readSteps_answers (r : Request) (s : State) (hfree : LinkFree s) (hb : r.body.length ≤ 1024) :
    let start := field r.body 0 2
    let count := field r.body 2 2
    exec (.readSteps r) s = .next (replied s (replyTo .readSteps r
      (if r.body.length ≠ 4 then .refused ⟨.badLength, none, 0, 0, 0⟩
      else if r.channel ≠ 0xFF then .refused ⟨.invalid, some .badChannel, 0, 0, 0⟩
      else if 1 ≤ count ∧ count ≤ 15 ∧ start + count ≤ 1024 then
        .ok (.steps ((List.range count).map fun i => poolRead s.pool (start + i)))
      else .refused ⟨.invalid, some .poolRange, 0, 0, 0⟩))) := by
  intro start count
  split
  · rename_i h
    exact next_congr (arrive_same hfree hb (takeKind_badLength s (by simp [ReqKind.lengthOk, h])))
  rename_i hlen
  have hok : ReqKind.readSteps.lengthOk r.body.length = true := by simpa [ReqKind.lengthOk] using hlen
  split
  · rename_i h
    exact next_congr (arrive_same hfree hb (takeKind_badChannel s hok (.inl ⟨by decide, h⟩)))
  rename_i hc
  have htake : takeKind .readSteps r s = _ := takeReadSteps.eq_def r s
  rw [takePart_ok hok (not_not.1 hc)] at htake
  split
  · rename_i h
    refine next_congr (arrive_same hfree hb (htake.trans (if_neg ?_)))
    show ¬(count < 1 ∨ 15 < count ∨ 1024 < start + count)
    omega
  · rename_i h
    refine next_congr (arrive_same hfree hb (htake.trans (if_pos ?_)))
    show count < 1 ∨ 15 < count ∨ 1024 < start + count
    omega

theorem layoutRecord_head (kind : Nat) (cap claim : Option Nat) (conds : List EndCond) (countsCycle : Bool)
    (current power upper lower loopTarget loopCount : Nat) :
    let bs := layoutRecord kind cap claim conds countsCycle current power upper lower loopTarget loopCount
    bs.take 2 = [BitVec.ofNat 8 kind, BitVec.ofNat 8 (presenceOf cap claim conds)] ∧
      field bs 24 2 = claim.getD 0 % 2 ^ 16 := by
  obtain ⟨-, -, -, -, -, -, -, -, -, hclaim, -⟩ := layoutRecord_fields kind cap claim conds countsCycle current power
    upper lower loopTarget loopCount
  refine ⟨?_, hclaim⟩
  rw [layoutRecord_eq]
  simp [leBytes]

/-- A record's first two bytes, its kind and its presence bits, and its claim field. -/
theorem recordBytes_head (x : StepRecord) :
    (recordBytes (some x)).take 2 =
      [BitVec.ofNat 8 x.kind.code,
        BitVec.ofNat 8 ((if x.declared.isSome then 1 else 0) + (if x.cap.isSome then 2 else 0) + targetBits 2 x.conds)] ∧
      field (recordBytes (some x)) 24 2 = x.declared.getD 0 % 2 ^ 16 := by
  cases x with
  | rest conds => exact layoutRecord_head 1 none none conds false 0 0 0 0 0 0
  | charge i v claim conds => exact layoutRecord_head 2 none claim conds false i 0 v 0 0 0
  | discharge i v claim conds => exact layoutRecord_head 3 none claim conds false i 0 0 v 0 0
  | chargePower p v cap claim conds => exact layoutRecord_head 4 cap claim conds false 0 p v 0 0 0
  | dischargePower p v cap claim conds => exact layoutRecord_head 5 cap claim conds false 0 p 0 v 0 0
  | profile u l cap claim conds => exact layoutRecord_head 6 cap claim conds false 0 0 u l 0 0
  | mark t n c => exact layoutRecord_head 7 none none [] c 0 0 0 0 t n

/-- Settles O10. -/
theorem boardReads : Obligations.BoardReads := by
  unfold Obligations.BoardReads
  refine ⟨⟨identify_answers, status_reads⟩, budget_reads, readSteps_answers, fun _ => rfl, rfl, fun x => ?_⟩
  obtain ⟨hhead, hclaim⟩ := recordBytes_head x
  refine ⟨hhead, fun h => ?_, fun n h hn => ?_⟩
  · rw [hclaim, h]; rfl
  · rw [hclaim, h]
    exact Nat.mod_eq_of_lt hn

end Sys2Proof.Machine
end

section
/-! PROOF. SET_CHANNEL (R188): what it carries, its refusals in order, and the settings it leaves. -/
namespace Sys2Proof.Machine
open Sys2Proof.Safety

/-! ### Carried codes and clamped values -/

theorem badCode_eq {α : Type} {f : Nat → Option α} {a b : α} (h1 : f 1 = some a) (h2 : f 2 = some b)
    (h : ∀ n, n ≠ 1 → n ≠ 2 → f n = none) (code : Option Nat) :
    badCode f code = decide (code ≠ none ∧ code ≠ some 1 ∧ code ≠ some 2) := by
  cases code with
  | none => rfl
  | some n =>
    by_cases hn1 : n = 1
    · subst hn1; simp [badCode, h1]
    by_cases hn2 : n = 2
    · subst hn2; simp [badCode, h2]
    simp [badCode, h n hn1 hn2, hn1, hn2]

theorem codeOr_cases {α : Type} {f : Nat → Option α} {a b : α} (h1 : f 1 = some a) (h2 : f 2 = some b)
    (code : Option Nat) (old : α) :
    (code = none → codeOr f code old = old) ∧ (code = some 1 → codeOr f code old = a) ∧
      (code = some 2 → codeOr f code old = b) := by
  refine ⟨?_, ?_, ?_⟩ <;> rintro rfl
  · rfl
  · simp [codeOr, h1]
  · simp [codeOr, h2]

theorem clampNat_zero (hi n : Nat) : clampNat 0 hi n = min hi n := Nat.zero_max _

theorem ChannelPatch.badForm_eq (p : ChannelPatch) :
    p.badForm = [p.group, p.excessMode, p.profileMode, p.warnTLow, p.warnMismatch].any fun code =>
      decide (code ≠ none ∧ code ≠ some 1 ∧ code ≠ some 2) := by
  have hgroup : ∀ n, n ≠ 1 → n ≠ 2 → groupOf n = none := fun n h1 h2 => by unfold groupOf; split <;> simp_all
  have hexcess : ∀ n, n ≠ 1 → n ≠ 2 → excessOf n = none := fun n h1 h2 => by unfold excessOf; split <;> simp_all
  have hmode : ∀ n, n ≠ 1 → n ≠ 2 → profileModeOf n = none := fun n h1 h2 => by unfold profileModeOf; split <;> simp_all
  have hwarn : ∀ n, n ≠ 1 → n ≠ 2 → warnOf n = none := fun n h1 h2 => by unfold warnOf; split <;> simp_all
  rw [ChannelPatch.badForm, badCode_eq (f := groupOf) rfl rfl hgroup, badCode_eq (f := excessOf) rfl rfl hexcess,
    badCode_eq (f := profileModeOf) rfl rfl hmode, badCode_eq (f := warnOf) rfl rfl hwarn,
    badCode_eq (f := warnOf) rfl rfl hwarn]
  simp [Bool.or_assoc]

/-! ### The channel and the pointers after a change of settings (R92, R110, R117) -/

/-- The playback record of a channel whose settings become others. -/
def takenPlay (ch : Channel) (x : ChanSettings) : Playback := (ch.takeSettings x).play

theorem takeSettings_eq (ch : Channel) (x : ChanSettings) :
    ch.takeSettings x = { ch with settings := x, play := takenPlay ch x } := rfl

theorem takenPlay_fields (ch : Channel) (x : ChanSettings) :
    let play := takenPlay ch x
    play.inPlay = ch.play.inPlay ∧ play.played = ch.play.played ∧ play.heldCurrent = ch.play.heldCurrent ∧
      play.underrun = ch.play.underrun ∧ play.underrunTimer = ch.play.underrunTimer ∧
      play.profileEnd = ch.play.profileEnd ∧
      play.position = (if x.profileMode ≠ ch.settings.profileMode then 0 else ch.play.position) ∧
      play.lowArmed = (if x.lowWater ≠ ch.settings.lowWater then decide (x.lowWater < ch.queue.length)
        else ch.play.lowArmed) := by
  unfold takenPlay Channel.takeSettings
  by_cases hmode : x.profileMode = ch.settings.profileMode <;> by_cases hlow : x.lowWater = ch.settings.lowWater <;>
    simp [hmode, hlow]

/-- The rotation pointers of a board one of whose channels takes a group (R92). -/
def takenPointers (s : State) (c : Ch) (group : Group) : Nat × Option Ch :=
  if group ≠ (s.ch c).settings.group then
    (0, ([0, 1, 2, 3, 4, 5, 6, 7] : List Ch).find? fun d =>
      (if d = c then group else (s.ch d).settings.group) = .low)
  else (s.arb.hp, s.arb.lp)

theorem setSettings_eq (s : State) (c : Ch) (x : ChanSettings) :
    setSettings s c x = (s.modCh c fun ch => { ch with settings := x, play := takenPlay (s.ch c) x }).modArb fun a =>
      { a with hp := (takenPointers s c x.group).1, lp := (takenPointers s c x.group).2 } := by
  have hmod : s.modCh c (fun ch => ch.takeSettings x) =
      s.modCh c fun ch => { ch with settings := x, play := takenPlay (s.ch c) x } := modCh_congr rfl
  unfold setSettings takenPointers
  rw [hmod]
  dsimp only
  split
  · rename_i hgroup
    have hfind : ∀ t : State, (∀ d, (t.ch d).settings.group = if d = c then x.group else (s.ch d).settings.group) →
        (lowList t).head? = ([0, 1, 2, 3, 4, 5, 6, 7] : List Ch).find? fun d =>
          (if d = c then x.group else (s.ch d).settings.group) = .low := by
      intro t ht
      rw [lowList, List.head?_filter]
      simp only [groupOfCh, ht]
      rfl
    rw [resetPointers, hfind]
    · intro d
      by_cases hd : d = c
      · subst hd; rw [State.ch_modCh_self, if_pos rfl]
      · rw [State.ch_modCh_ne s hd _, if_neg hd]
  · rfl

/-- A channel's period in force stands where its exponent does, and in the standby period. -/
theorem setChannel_period {s t : State} {c : Ch} (hother : ∀ d, d ≠ c → t.ch d = s.ch d)
    (hstate : (t.ch c).state = (s.ch c).state) (hhall : t.hall.state = s.hall.state)
    (hexp : (s.ch c).state.engaged = true → (t.ch c).settings.periodExp = (s.ch c).settings.periodExp) (d : Ch) :
    periodInForce t d = periodInForce s d := by
  unfold periodInForce workingPeriod
  by_cases hd : d = c
  · subst hd
    rw [hstate, hhall]
    split
    · rename_i h; rw [hexp h.1]
    · rfl
  · rw [hother d hd, hhall]

/-- Settles O15. -/
theorem setChannel : Obligations.SetChannel := by
  unfold Obligations.SetChannel
  intro r s c hto hrange p carries
  refine ⟨rfl, ?_⟩
  intro badForm old refused leaderOnly
  have hb : r.body.length ≤ 1024 := by rw [hto.length]; decide
  have htake : takeKind .setChannel r s = _ := takeSetChannel.eq_def r s
  rw [takeCh_of hto rfl] at htake
  dsimp only at htake
  rw [ChannelPatch.badForm_eq] at htake
  refine iteInduction (motive := fun t => t) (fun h => ?_) fun h => ?_
  · exact next_congr (arrive_same hto.free hb (htake.trans (if_pos h)))
  rw [if_neg h] at htake
  simp only [Bool.and_eq_true, isFollower_iff, engaged_iff] at htake
  refine iteInduction (motive := fun t => t) (fun h => ?_) fun h => ?_
  · exact next_congr (arrive_same hto.free hb (htake.trans (if_pos h)))
  rw [if_neg (show ¬(_ ∧ (channelPatch r.body).forLeader = true) from h)] at htake
  refine iteInduction (motive := fun t => t) (fun h => ?_) fun h => ?_
  · exact next_congr (arrive_same hto.free hb (htake.trans (if_pos h)))
  rw [if_neg (show ¬(_ ∧ (channelPatch r.body).forResting = true) from h), setSettings_eq] at htake
  let new := p.apply old
  obtain ⟨hplay, hplayed, hheld, hunder, htimer, hend, hposition, hlow⟩ := takenPlay_fields (s.ch c) new
  obtain ⟨hg0, hg1, hg2⟩ := codeOr_cases (f := groupOf) rfl rfl p.group old.group
  obtain ⟨he0, he1, he2⟩ := codeOr_cases (f := excessOf) rfl rfl p.excessMode old.excessMode
  obtain ⟨hm0, hm1, hm2⟩ := codeOr_cases (f := profileModeOf) rfl rfl p.profileMode old.profileMode
  obtain ⟨ht0, ht1, ht2⟩ := codeOr_cases (f := warnOf) rfl rfl p.warnTLow old.warnTLow
  obtain ⟨hw0, hw1, hw2⟩ := codeOr_cases (f := warnOf) rfl rfl p.warnMismatch old.warnMismatch
  refine ⟨new, takenPlay (s.ch c) new, (takenPointers s c new.group).1, (takenPointers s c new.group).2, ?_,
    clampNat_zero _ _, rfl, clampNat_zero _ _, rfl, rfl, clampNat_zero _ _,
    congrArg (fun v => min v new.vMax) (clampNat_zero _ _), clampNat_zero _ _, rfl, rfl, rfl, clampNat_zero _ _,
    clampNat_zero _ _, clampNat_zero _ _, rfl, rfl, hg0, hg1, hg2, he0, he1, he2, hm0, hm1, hm2, ht0, ht1, ht2,
    hw0, hw1, hw2, fun hgroup => ?_, fun hgroup => ?_, hplay, hplayed, hheld, hunder, htimer, hend, hposition, hlow⟩
  · refine next_congr (arrive_periods hto.free hb (htake.trans ?_) fun d => .inr (.inr (le_of_eq (Eq.symm ?_))))
    · rw [State.ch_modArb, State.ch_modCh_self]
    refine setChannel_period (c := c) (fun d hd => ?_) ?_ ?_ (fun hengaged => ?_) d
    · rw [State.ch_modArb, State.ch_modCh_ne s hd]
    · rw [State.ch_modArb, State.ch_modCh_self]
    · rfl
    · rw [State.ch_modArb, State.ch_modCh_self]
      have hnone : p.periodExp = none := by
        rw [engaged_iff] at hengaged
        by_contra hsome
        exact h ⟨hengaged, by simp [Option.isSome_iff_ne_none.2 hsome]⟩
      show clampNat 0 4 (p.periodExp.getD old.periodExp) = old.periodExp
      rw [hnone, clampNat_zero]
      exact min_eq_right hrange.periodExp
  · rw [takenPointers, if_neg (not_not.2 hgroup)]
    exact ⟨rfl, rfl⟩
  · rw [takenPointers, if_pos hgroup]
    exact ⟨rfl, rfl⟩

end Sys2Proof.Machine
end

section
/-! PROOF. WRITE_STEPS (R8 to R11): the form of a record, what the request writes, and the protection of the records in
use. -/
namespace Sys2Proof.Machine
open Sys2Proof.Safety

/-! ### The form of a record (R9) -/

theorem condKindOf_none_iff (code : Nat) : condKindOf code = none ↔ code < 1 ∨ 8 < code := by
  unfold condKindOf
  split <;> simp_all
  omega

theorem actionOf_none_iff (code target : Nat) (present : Bool) :
    actionOf code target present = none ↔ (code < 1 ∨ 4 < code) ∨ code = 2 ∧ present = false := by
  unfold actionOf
  split <;> simp_all
  omega

theorem stepKindOf_none_iff (code : Nat) : stepKindOf code = none ↔ code < 1 ∨ 7 < code := by
  unfold stepKindOf
  split <;> simp_all
  omega

/-- What is wrong with the entry of an end condition (R9). -/
def EntryBad (bs : List Byte) (i : Nat) : Prop :=
  (field bs (32 + 8 * i) 1 < 1 ∨ 8 < field bs (32 + 8 * i) 1) ∨
    (field bs (33 + 8 * i) 1 < 1 ∨ 4 < field bs (33 + 8 * i) 1) ∨
    (field bs (34 + 8 * i) 1 < 1 ∨ 8 < field bs (34 + 8 * i) 1) ∨
    field bs (33 + 8 * i) 1 = 2 ∧ (field bs 1 1).testBit (2 + i) = false

theorem condAt_none_iff (bs : List Byte) (i : Nat) : condAt bs i = none ↔ EntryBad bs i := by
  have hkind := condKindOf_none_iff (field bs (32 + 8 * i) 1)
  have haction := actionOf_none_iff (field bs (32 + 8 * i + 1) 1) (field bs (32 + 8 * i + 3) 1)
    ((field bs 1 1).testBit (2 + i))
  rw [EntryBad, show 33 + 8 * i = 32 + 8 * i + 1 by omega, show 34 + 8 * i = 32 + 8 * i + 2 by omega, ← hkind, condAt]
  cases hk : condKindOf (field bs (32 + 8 * i) 1) with
  | none => simp
  | some kind =>
    cases ha : actionOf (field bs (32 + 8 * i + 1) 1) (field bs (32 + 8 * i + 3) 1) ((field bs 1 1).testBit (2 + i)) with
    | none =>
      rcases haction.1 ha with h | h
      · exact iff_of_true rfl (.inr (.inl h))
      · exact iff_of_true rfl (.inr (.inr (.inr h)))
    | some action =>
      rw [ha] at haction
      simp only [reduceCtorEq, false_iff, not_or, false_or] at haction ⊢
      obtain ⟨hin, hgoto⟩ := haction
      split
      · simp only [reduceCtorEq, false_iff]
        rintro (h | h | h)
        · omega
        · omega
        · exact hgoto h
      · simp only [true_iff]
        omega

theorem mapM_eq_none {α β : Type} {f : α → Option β} {l : List α} {a : α} (ha : a ∈ l) (h : f a = none) :
    l.mapM f = none := by
  induction l with
  | nil => cases ha
  | cons b l ih =>
    rw [List.mapM_cons]
    rcases List.mem_cons.1 ha with rfl | ha
    · rw [h]; rfl
    · rw [ih ha]; cases f b <;> rfl

theorem condsOf_none_iff (bs : List Byte) :
    condsOf bs = none ↔ 4 < field bs 2 1 ∨ ∃ i : Fin 4, i.val < field bs 2 1 ∧ EntryBad bs i := by
  unfold condsOf
  dsimp only
  split
  · rename_i hle
    constructor
    · intro hnone
      by_contra hgood
      push Not at hgood
      obtain ⟨-, hgood⟩ := hgood
      have hall : ∀ i ∈ List.range (field bs 2 1), ∃ e, condAt bs i = some e := by
        intro i hi
        rw [List.mem_range] at hi
        rw [← Option.isSome_iff_exists, Option.isSome_iff_ne_none, Ne, condAt_none_iff]
        exact hgood ⟨i, by omega⟩ hi
      choose g hg using hall
      have hmap : List.Forall₂ (fun i e => condAt bs i = some e) (List.range (field bs 2 1))
          ((List.range (field bs 2 1)).pmap g fun i hi => hi) := by
        rw [List.forall₂_iff_get]
        refine ⟨by simp, fun i h1 h2 => ?_⟩
        simp only [List.get_eq_getElem, List.getElem_pmap]
        exact hg _ _
      rw [mapM_eq_some hmap] at hnone
      cases hnone
    · rintro (h | ⟨i, hi, hbad⟩)
      · omega
      · exact mapM_eq_none (List.mem_range.2 hi) ((condAt_none_iff bs i).2 hbad)
  · simp only [true_iff]
    exact .inl (by omega)

/-- What is wrong with the fields of a record's kind (R9). -/
def FieldsBad (bs : List Byte) : Prop :=
  let outside := fun low high n : Nat => n < low ∨ high < n
  let cap : Prop := (field bs 1 1).testBit 1 = true ∧ outside 1 420000 (field bs 20 4)
  (field bs 0 1 = 2 ∨ field bs 0 1 = 3) ∧ outside 1 400000 (field bs 4 4) ∨
    (field bs 0 1 = 4 ∨ field bs 0 1 = 5) ∧ (outside 1 60000 (field bs 8 4) ∨ cap) ∨ field bs 0 1 = 6 ∧ cap

theorem badCap_iff (bs : List Byte) :
    badCap (capOf bs) = true ↔ (field bs 1 1).testBit 1 = true ∧ (field bs 20 4 < 1 ∨ 420000 < field bs 20 4) := by
  unfold capOf
  split <;> simp_all [badCap]

/-- The outcome of the form check of a step that is not a MARK, once its fields are judged. -/
def formed (bad : Bool) (mk : List EndCond → StepRecord) (conds : Option (List EndCond)) : Except Reason StepRecord :=
  if bad then .error .badField
  else match conds with
    | some conds => .ok (mk conds)
    | none => .error .badCondition

theorem recordOf_step {bs : List Byte} (hlow : 1 ≤ field bs 0 1) (hhigh : field bs 0 1 ≤ 6) :
    ∃ bad mk, (bad = true ↔ FieldsBad bs) ∧ (∀ conds, (mk conds).kind.code = field bs 0 1) ∧
      recordOf bs = formed bad mk (condsOf bs) := by
  have hcap := badCap_iff bs
  unfold FieldsBad recordOf
  generalize hkind : field bs 0 1 = kind at hlow hhigh ⊢
  obtain rfl | rfl | rfl | rfl | rfl | rfl : kind = 1 ∨ kind = 2 ∨ kind = 3 ∨ kind = 4 ∨ kind = 5 ∨ kind = 6 := by omega
  · exact ⟨_, _, by simp, fun _ => rfl, rfl⟩
  · exact ⟨_, _, by simp, fun _ => rfl, rfl⟩
  · exact ⟨_, _, by simp, fun _ => rfl, rfl⟩
  · exact ⟨_, _, by simp [hcap, or_assoc], fun _ => rfl, rfl⟩
  · exact ⟨_, _, by simp [hcap, or_assoc], fun _ => rfl, rfl⟩
  · exact ⟨_, _, by simp [hcap], fun _ => rfl, rfl⟩

theorem recordOf_mark {bs : List Byte} (hkind : field bs 0 1 = 7) :
    recordOf bs = if field bs 2 1 ≠ 0 then .error .markConditions
      else .ok (.mark (field bs 26 1) (field bs 28 2) (flagOf (BitVec.ofNat 8 (field bs 3 1)))) := by
  unfold recordOf
  rw [hkind]
  rfl

theorem recordOf_badKind {bs : List Byte} (hkind : field bs 0 1 < 1 ∨ 7 < field bs 0 1) :
    recordOf bs = .error .badKind := by
  unfold recordOf
  rw [(stepKindOf_none_iff _).2 hkind]

/-- What the form check answers (R9). -/
theorem record_form (bs : List Byte) :
    let kind := field bs 0 1
    let count := field bs 2 1
    let outside := fun low high n : Nat => n < low ∨ high < n
    let badCondition : Prop := 4 < count ∨ ∃ i : Fin 4, i.val < count ∧ EntryBad bs i
    let faults := fun reason => recordOf bs = .error reason
    (faults .badKind ↔ outside 1 7 kind) ∧ (faults .badField ↔ FieldsBad bs) ∧
    (faults .markConditions ↔ kind = 7 ∧ count ≠ 0) ∧
    (faults .badCondition ↔ 1 ≤ kind ∧ kind ≤ 6 ∧ ¬FieldsBad bs ∧ badCondition) ∧
    (¬outside 1 7 kind → ¬FieldsBad bs → ¬(kind = 7 ∧ count ≠ 0) → ¬(kind ≠ 7 ∧ badCondition) →
      ∃ x, recordOf bs = .ok x ∧ x.kind.code = kind) := by
  intro kind count outside badCondition faults
  have hfields : FieldsBad bs → 2 ≤ kind ∧ kind ≤ 6 := by
    unfold FieldsBad
    show _ → 2 ≤ field bs 0 1 ∧ field bs 0 1 ≤ 6
    omega
  have hconds : condsOf bs = none ↔ badCondition := condsOf_none_iff bs
  by_cases hout : outside 1 7 kind
  · have hrec : recordOf bs = .error .badKind := recordOf_badKind hout
    have hk : kind < 1 ∨ 7 < kind := hout
    simp only [faults, hrec, Except.error.injEq, reduceCtorEq, false_iff, true_iff]
    exact ⟨hout, fun h => by have := hfields h; omega, fun h => by omega, fun h => by omega, fun h => absurd hout h⟩
  have hk : 1 ≤ kind ∧ kind ≤ 7 := by
    have : ¬(kind < 1 ∨ 7 < kind) := hout
    omega
  by_cases hmark : kind = 7
  · have hrec := recordOf_mark hmark
    have hgood : ¬FieldsBad bs := fun h => by have := hfields h; omega
    by_cases hcount : count = 0
    · rw [if_neg (not_not.2 hcount)] at hrec
      simp only [faults, hrec, reduceCtorEq, false_iff]
      exact ⟨hout, hgood, fun h => h.2 hcount, fun h => by omega, fun _ _ _ _ => ⟨_, rfl, hmark.symm⟩⟩
    · rw [if_pos hcount] at hrec
      simp only [faults, hrec, Except.error.injEq, reduceCtorEq, false_iff, true_iff]
      exact ⟨hout, hgood, ⟨hmark, hcount⟩, fun h => by omega, fun _ _ h => absurd ⟨hmark, hcount⟩ h⟩
  obtain ⟨bad, mk, hbad, hcode, hrec⟩ := recordOf_step (bs := bs) hk.1 (by omega)
  have hnot : ¬(kind = 7 ∧ count ≠ 0) := fun h => hmark h.1
  by_cases hb : bad = true
  · rw [hb, formed.eq_def, if_pos rfl] at hrec
    simp only [faults, hrec, Except.error.injEq, reduceCtorEq, false_iff, true_iff]
    exact ⟨hout, hbad.1 hb, hnot, fun h => h.2.2.1 (hbad.1 hb), fun _ h => absurd (hbad.1 hb) h⟩
  have hgood : ¬FieldsBad bs := fun h => hb (hbad.2 h)
  rw [formed.eq_def, if_neg hb] at hrec
  cases hc : condsOf bs with
  | none =>
    rw [hc] at hrec
    simp only [faults, hrec, Except.error.injEq, reduceCtorEq, false_iff, true_iff]
    exact ⟨hout, hgood, hnot, ⟨hk.1, by omega, hgood, hconds.1 hc⟩, fun _ _ _ h => absurd ⟨hmark, hconds.1 hc⟩ h⟩
  | some conds =>
    rw [hc] at hrec
    have hnone : ¬badCondition := by rw [← hconds, hc]; simp
    simp only [faults, hrec, reduceCtorEq, false_iff]
    exact ⟨hout, hgood, hnot, fun h => hnone h.2.2.2, fun _ _ _ _ => ⟨_, rfl, hcode conds⟩⟩

/-! ### The request (R8, R10, R11) -/

theorem firstProtected_none {s : State} {n start : Nat}
    (h : ∀ i c, start ≤ i → i < start + n → protects s c i = false) : firstProtected s n start = none := by
  induction n generalizing start with
  | zero => rfl
  | succ n ih =>
    have hfind : (allCh.find? fun c => protects s c start) = none :=
      List.find?_eq_none.2 fun c _ => by simp [h start c le_rfl (by omega)]
    rw [firstProtected, hfind]
    exact ih fun i c h1 h2 => h i c (by omega) (by omega)

theorem firstProtected_some {s : State} {n start i : Nat} {c : Ch} (h1 : start ≤ i) (h2 : i < start + n)
    (hc : protects s c i = true) (hi : ∀ j d, start ≤ j → j < i → protects s d j = false)
    (hd : ∀ d, d < c → protects s d i = false) : firstProtected s n start = some (i, c) := by
  induction n generalizing start with
  | zero => omega
  | succ n ih =>
    rw [firstProtected]
    by_cases heq : start = i
    · subst heq
      have hfind : (allCh.find? fun c => protects s c start) = some c := by
        rw [allCh_eq_finRange, List.find?_eq_some_iff_getElem]
        refine ⟨hc, c, by simp, by simp, fun j hj => ?_⟩
        simp [hd ⟨j, by omega⟩ hj]
      rw [hfind]
    · have hfind : (allCh.find? fun c => protects s c start) = none :=
        List.find?_eq_none.2 fun d _ => by simp [hi start d le_rfl (by omega)]
      rw [hfind]
      exact ih (by omega) (by omega) fun j d hj => hi j d (by omega)

theorem firstProtected_ne_none {s : State} {n start i : Nat} {c : Ch} (h1 : start ≤ i) (h2 : i < start + n)
    (hc : protects s c i = true) : firstProtected s n start ≠ none := by
  induction n generalizing start with
  | zero => omega
  | succ n ih =>
    rw [firstProtected]
    split
    · simp
    · rename_i hnone
      have hne : start ≠ i := by
        rintro rfl
        simpa [hc] using List.find?_eq_none.1 hnone c (mem_allCh c)
      exact ih (by omega) (by omega)

theorem recordsOf_error {raw : List (List Byte)} {k start : Nat} {bs : List Byte} {reason : Reason}
    (hk : raw[k]? = some bs) (hbad : recordOf bs = .error reason)
    (hfirst : ∀ j < k, ∀ b, raw[j]? = some b → ∃ x, recordOf b = .ok x) :
    recordsOf start raw = .error (reason, start + k) := by
  induction raw generalizing k start with
  | nil => simp at hk
  | cons b rest ih =>
    cases k with
    | zero =>
      simp only [List.getElem?_cons_zero, Option.some.injEq] at hk
      subst hk
      rw [recordsOf, hbad]
      rfl
    | succ k =>
      obtain ⟨x, hx⟩ := hfirst 0 (by omega) b rfl
      rw [recordsOf, hx, ih (k := k) hk fun j hj b hb => hfirst (j + 1) (by omega) b hb, Nat.add_assoc, Nat.add_comm 1 k]

theorem recordsOf_ok {raw : List (List Byte)} {records : List StepRecord} (start : Nat)
    (h : List.Forall₂ (fun b x => recordOf b = .ok x) raw records) : recordsOf start raw = .ok records := by
  induction h generalizing start with
  | nil => rfl
  | cons hb _ ih => rw [recordsOf, hb, ih]

theorem recordPieces_eq {bs : List Byte} {n : Nat} (h : bs.length = 2 + 64 * n) :
    recordPieces bs = (List.range n).map fun k => (bs.drop (2 + 64 * k)).take 64 := by
  rw [recordPieces, h, show (2 + 64 * n - 2) / 64 = n by omega, pieces_eq]
  simp only [List.drop_drop]

theorem writeSteps_answers (r : Request) (s : State) (n : Nat) (hfree : LinkFree s) (hc : r.channel = 0xFF)
    (hwf : poolWf s.pool = true) (h1 : 1 ≤ n) (h15 : n ≤ 15) (hlen : r.body.length = 2 + 64 * n) :
    let start := field r.body 0 2
    let answers := fun body => exec (.writeSteps r) s = .next (replied s (replyTo .writeSteps r body))
    (1024 < start + n → answers (.refused ⟨.invalid, some .poolRange, start, 0, 0⟩)) ∧
    (∀ (i : Nat) (c : Ch), start + n ≤ 1024 → start ≤ i → i < start + n → protects s c i = true →
      (∀ j d, start ≤ j → j < i → protects s d j = false) → (∀ d, d < c → protects s d i = false) →
      answers (.refused ⟨.protectedState, none, i, c.val, 0⟩)) ∧
    (start + n ≤ 1024 → (∀ i c, start ≤ i → i < start + n → protects s c i = false) →
      (∀ (k : Nat) (reason : Reason), k < n → recordOf ((r.body.drop (2 + 64 * k)).take 64) = .error reason →
        (∀ j < k, ∃ x, recordOf ((r.body.drop (2 + 64 * j)).take 64) = .ok x) →
        answers (.refused ⟨.invalid, some reason, start + k, 0, 0⟩)) ∧
      (∀ records : List StepRecord, records.length = n →
        (∀ k x, records[k]? = some x → recordOf ((r.body.drop (2 + 64 * k)).take 64) = .ok x) →
        ∃ pool, exec (.writeSteps r) s =
            .next (replied { s with pool := pool } (replyTo .writeSteps r (.ok (.stepsWritten start n)))) ∧
          ∀ i, poolRead pool i =
            if start ≤ i ∧ i < start + n then records[i - start]? else poolRead s.pool i)) := by
  intro start answers
  have hb : r.body.length ≤ 1024 := by omega
  have hok : ReqKind.writeSteps.lengthOk r.body.length = true := by
    rw [hlen]
    interval_cases n <;> rfl
  have htake : takeKind .writeSteps r s = _ := takeWriteSteps.eq_def r s
  have hpieces := recordPieces_eq hlen
  have hcount : (recordPieces r.body).length = n := by simp [hpieces]
  have hpiece : ∀ k < n, (recordPieces r.body)[k]? = some ((r.body.drop (2 + 64 * k)).take 64) := by
    intro k hk
    simp [hpieces, hk]
  rw [takePart_ok hok hc] at htake
  dsimp only at htake
  rw [hcount] at htake
  refine ⟨fun hrange => ?_, fun i c hrange hi1 hi2 hprot hj hd => ?_, fun hrange hfree' => ⟨fun k reason hk hbad hfirst => ?_,
    fun records hrecords hgood => ?_⟩⟩
  · exact next_congr (arrive_same hfree hb (htake.trans (if_pos hrange)))
  · rw [if_neg (by show ¬1024 < start + n; omega), firstProtected_some hi1 hi2 hprot hj hd] at htake
    exact next_congr (arrive_same hfree hb htake)
  · rw [if_neg (by show ¬1024 < start + n; omega), firstProtected_none hfree',
      recordsOf_error (hpiece k hk) hbad fun j hj b hjb => ?_] at htake
    · exact next_congr (arrive_same hfree hb htake)
    · rw [hpiece j (by omega)] at hjb
      exact Option.some.inj hjb ▸ hfirst j hj
  · have hall : List.Forall₂ (fun b x => recordOf b = .ok x) (recordPieces r.body) records := by
      rw [List.forall₂_iff_get]
      refine ⟨by rw [hcount, hrecords], fun k hk1 hk2 => ?_⟩
      have hpk := hpiece k (by omega)
      rw [List.getElem?_eq_getElem hk1, Option.some.injEq] at hpk
      simp only [List.get_eq_getElem, hpk]
      exact hgood k _ (List.getElem?_eq_getElem hk2)
    rw [if_neg (by show ¬1024 < start + n; omega), firstProtected_none hfree', recordsOf_ok _ hall] at htake
    refine ⟨poolWriteAll s.pool start records, next_congr (arrive_to hfree hb (htake.trans ?_) (fun _ => rfl)
      (fun _ => rfl) rfl), fun i => ?_⟩
    · rw [← hrecords]
    · rw [poolRead_writeAll _ _ _ _ (by omega) hwf, hrecords]

/-! ### The law of protection (R10) -/

/-- WRITE_STEPS does not reach a protected record. -/
theorem takeWriteSteps_protected {r : Request} {s : State} {c : Ch} {k : Nat} (hwf : poolWf s.pool = true)
    (hk : protects s c k = true) : poolRead (takeKind .writeSteps r s).1.pool k = poolRead s.pool k := by
  have htake : takeKind .writeSteps r s = _ := takeWriteSteps.eq_def r s
  rw [htake]
  refine takePart_ind (P := fun t => poolRead t.pool k = poolRead s.pool k) _ _ _ _ rfl ?_
  dsimp only
  split
  · rfl
  rename_i hrange
  split
  · rfl
  rename_i hnone
  split
  · rfl
  rename_i records hrecords
  have hlen := recordsOf_length _ _ _ hrecords
  show poolRead (poolWriteAll s.pool _ records) k = _
  rw [poolRead_writeAll _ _ _ _ (by omega) hwf, if_neg]
  rintro ⟨h1, h2⟩
  exact firstProtected_ne_none h1 (by omega) hk hnone

theorem takeClearLifetime_pool (r : Request) (s : State) : (takeKind .clearLifetime r s).1.pool = s.pool := by
  rw [takeKind]
  refine takeCh_ind (P := fun t => t.pool = s.pool) _ _ _ _ rfl fun c => ?_
  repeat' split
  all_goals rfl

theorem finish_pool (before s : State) : (finish before s).pool = s.pool := (finish_evolves before (Evolves.refl s)).pool

theorem protected_stands {i : Instr} {s t : State} {c : Ch} {k : Nat} (hwf : poolWf s.pool = true)
    (h : exec i s = .next t) (hk : protects s c k = true) :
    poolRead t.pool k = poolRead s.pool k ∨ t.part = .starting ∨ t.part = .off := by
  cases happens_of_exec h with
  | event f hf hp => exact .inl (by rw [finish_pool, (eventAct_evolves hf s).pool])
  | request g kind l reply hp hkind hg =>
    refine .inl ?_
    rw [finish_pool]
    show poolRead (takeKind kind (Frame.request g) { s with link := l }).1.pool k = _
    by_cases hw : kind = .writeSteps
    · subst hw
      exact takeWriteSteps_protected (s := { s with link := l }) (c := c) hwf hk
    by_cases hclear : kind = .clearLifetime
    · subst hclear
      rw [takeClearLifetime_pool]
    · rw [(takeKind_evolves kind (Frame.request g) { s with link := l } hclear hw).pool]
  | startUp u cause => exact .inr (.inl rfl)
  | startUpEnd hp => exact .inl (by rw [pump_pool, (endStartUp_evolves s).pool])
  | off => exact .inr (.inr rfl)
  | _ => exact .inl rfl

/-- Settles O12. -/
theorem writeSteps : Obligations.WriteSteps := by
  unfold Obligations.WriteSteps
  refine ⟨⟨record_form, writeSteps_answers⟩, fun i s t c w k hwf h huse h1 h2 => protected_stands (c := c) hwf h ?_⟩
  have hcovers : w.covers k = true := by simp [Window.covers, h1, h2]
  rcases huse with ⟨hstate, hw⟩ | ⟨hswap, hw⟩
  · simp [protects, (engaged_iff _).2 hstate, hw, coversIndex, hcovers]
  · simp [protects, Option.isSome_iff_ne_none.2 hswap, hw, coversIndex, hcovers]

end Sys2Proof.Machine
end

section
/-! PROOF. What the acts of the channel unit and the arbiter leave of the fault records: no kind latches or clears, no channel
enters or leaves FAULTED or FOLLOWER. -/
namespace Sys2Proof.Machine
open Sys2Proof.Safety

/-! ### The relation -/

/-- A channel's fault record stands, and it has neither entered nor left FAULTED or FOLLOWER. -/
structure FaultSame (a b : Channel) : Prop where
  latched  : b.latched = a.latched
  first    : b.firstFault = a.firstFault
  faulted  : b.state = .faulted ↔ a.state = .faulted
  follower : b.state = .follower ↔ a.state = .follower

theorem FaultSame.refl (a : Channel) : FaultSame a a := ⟨rfl, rfl, Iff.rfl, Iff.rfl⟩

theorem FaultSame.trans {a b c : Channel} (h : FaultSame a b) (k : FaultSame b c) : FaultSame a c :=
  ⟨k.latched.trans h.latched, k.first.trans h.first, k.faulted.trans h.faulted, k.follower.trans h.follower⟩

/-- A channel that is neither FAULTED nor FOLLOWER. -/
def Unfaulted (ch : Channel) : Prop := ch.state ≠ .faulted ∧ ch.state ≠ .follower

theorem FaultSame.unfaulted {a b : Channel} (h : FaultSame a b) (ha : Unfaulted a) : Unfaulted b :=
  ⟨fun e => ha.1 (h.faulted.1 e), fun e => ha.2 (h.follower.1 e)⟩

theorem FaultSame.enter {a b : Channel} (ha : Unfaulted a) (hb : Unfaulted b) (hl : b.latched = a.latched)
    (hf : b.firstFault = a.firstFault) : FaultSame a b :=
  ⟨hl, hf, iff_of_false hb.1 ha.1, iff_of_false hb.2 ha.2⟩

theorem FaultSame.of_run {a b : Channel} (h : RunKeeps a b) : FaultSame a b := by
  have hstill : a.state.holdable = false → b.state = a.state := h.still
  have hback : b.state.holdable = false → b.state = a.state := fun e => hstill (h.holdable.symm.trans e)
  refine ⟨h.latched, h.firstFault, ⟨fun e => ?_, fun e => ?_⟩, fun e => ?_, fun e => ?_⟩
  · rw [← hback (by rw [e]; rfl), e]
  · rw [hstill (by rw [e]; rfl), e]
  · rw [← hback (by rw [e]; rfl), e]
  · rw [hstill (by rw [e]; rfl), e]

/-- No fault record changes, and neither the hall stop line nor the part state does. -/
structure FaultsKept (s t : State) : Prop where
  chans    : ∀ c, FaultSame (s.ch c) (t.ch c)
  hallStop : t.prot.hallStop = s.prot.hallStop
  part     : t.part = s.part

theorem FaultsKept.refl (s : State) : FaultsKept s s := ⟨fun _ => FaultSame.refl _, rfl, rfl⟩

theorem FaultsKept.trans {s t u : State} (h : FaultsKept s t) (k : FaultsKept t u) : FaultsKept s u :=
  ⟨fun c => (h.chans c).trans (k.chans c), k.hallStop.trans h.hallStop, k.part.trans h.part⟩

theorem FaultsKept.of_chans {s t : State} (h : t.chans = s.chans) (hs : t.prot.hallStop = s.prot.hallStop)
    (hp : t.part = s.part) : FaultsKept s t :=
  ⟨fun c => by rw [State.ch, State.ch, h]; exact FaultSame.refl _, hs, hp⟩

theorem FaultsKept.of_runs {s t : State} (h : Runs s t) : FaultsKept s t :=
  ⟨fun c => .of_run (h.chans c), by rw [h.keeps.prot], h.keeps.part⟩

theorem FaultsKept.modCh (s : State) (c : Ch) (f : Channel → Channel) (h : FaultSame (s.ch c) (f (s.ch c))) :
    FaultsKept s (s.modCh c f) := by
  refine ⟨fun d => ?_, rfl, rfl⟩
  rw [State.ch_modCh]
  split
  · rename_i e; subst e; exact h
  · exact FaultSame.refl _

/-- A channel changes outside its fault record and its state. -/
theorem FaultsKept.modCh_same (s : State) (c : Ch) (f : Channel → Channel) (hl : (f (s.ch c)).latched = (s.ch c).latched)
    (hf : (f (s.ch c)).firstFault = (s.ch c).firstFault) (hs : (f (s.ch c)).state = (s.ch c).state) :
    FaultsKept s (s.modCh c f) := .modCh s c f ⟨hl, hf, by rw [hs], by rw [hs]⟩

/-- A channel that is neither FAULTED nor FOLLOWER enters another such state. -/
theorem FaultsKept.enter {s : State} {c : Ch} (hc : Unfaulted (s.ch c)) (f : Channel → Channel)
    (hs : (f (s.ch c)).state ≠ .faulted ∧ (f (s.ch c)).state ≠ .follower)
    (hl : (f (s.ch c)).latched = (s.ch c).latched) (hf : (f (s.ch c)).firstFault = (s.ch c).firstFault) :
    FaultsKept s (s.modCh c f) := .modCh s c f (.enter hc hs hl hf)

theorem FaultsKept.modPort (s : State) (c : Ch) (f : Port → Port) : FaultsKept s (s.modPort c f) :=
  .modCh_same s c _ rfl rfl rfl

theorem FaultsKept.modArb (s : State) (f : Arbiter → Arbiter) : FaultsKept s (s.modArb f) := .of_chans rfl rfl rfl

theorem FaultsKept.modHall (s : State) (f : Hall → Hall) : FaultsKept s (s.modHall f) := .of_chans rfl rfl rfl

theorem FaultsKept.ite {s t u : State} (p : Prop) [Decidable p] (ht : FaultsKept s t) (hu : FaultsKept s u) :
    FaultsKept s (if p then t else u) := iteInduction (motive := FaultsKept s) (fun _ => ht) fun _ => hu

theorem FaultsKept.unfaulted {s t : State} (h : FaultsKept s t) {c : Ch} (hc : Unfaulted (s.ch c)) :
    Unfaulted (t.ch c) := (h.chans c).unfaulted hc

/-! ### The arbiter's lists and the reports -/

theorem settle_faultsKept (s : State) : FaultsKept s (settle s) := .of_runs (settle_runs s)

theorem issue_faultsKept (s : State) (c : Ch) : FaultsKept s (issue s c) := .of_runs (issue_runs s c)

theorem modGrant_faultsKept (s : State) (c : Ch) (f : Grant → Grant) : FaultsKept s (modGrant s c f) :=
  .of_runs (modGrant_runs s c f)

theorem lodge_faultsKept (s : State) (c : Ch) (dir : Direction) (claim : Nat) : FaultsKept s (lodge s c dir claim) :=
  .of_runs (lodge_runs s c dir claim)

theorem reportCh_faultsKept (s : State) (c : Ch) (body : ReportBody) : FaultsKept s (reportCh s c body) :=
  .of_runs (reportCh_runs s c body)

theorem releaseGrant_faultsKept (s : State) (c : Ch) : FaultsKept s (releaseGrant s c) := .of_runs (releaseGrant_runs s c)

theorem withdrawWaiting_faultsKept (s : State) (c : Ch) : FaultsKept s (withdrawWaiting s c) :=
  .of_runs (withdrawWaiting_runs s c)

theorem withdrawEntries_faultsKept (s : State) (c : Ch) : FaultsKept s (withdrawEntries s c) :=
  (withdrawWaiting_faultsKept s c).trans (.ite _ (.modArb _ _) (.refl _))

theorem idleGrant_faultsKept (s : State) (c : Ch) : FaultsKept s (idleGrant s c) := .of_runs (idleGrant_runs s c)

theorem settleAtGap_faultsKept (s : State) (c : Ch) (r : StepRecord) : FaultsKept s (settleAtGap s c r) :=
  .of_runs (settleAtGap_runs s c r)

theorem settleOffer_faultsKept (s : State) (c : Ch) (r : StepRecord) (toHeld : Bool) :
    FaultsKept s (settleOffer s c r toHeld) := by
  unfold settleOffer
  cases grantOf s c with
  | none => exact .refl s
  | some g =>
    dsimp only
    have hdue := FaultsKept.modArb s fun a => { a with evalDue := true }
    exact .ite _
      ((hdue.trans (modGrant_faultsKept _ c _)).trans (.ite _ (idleGrant_faultsKept _ c) (modGrant_faultsKept _ c _)))
      (.ite _ (hdue.trans (idleGrant_faultsKept _ c)) (hdue.trans (releaseGrant_faultsKept _ c)))

theorem settlingTest_faultsKept (s : State) : FaultsKept s (settlingTest s) := by
  unfold settlingTest
  exact .ite _ (.of_chans rfl rfl rfl) (.refl s)

/-! ### The channel unit -/

theorem finishStop_faultsKept {s : State} {c : Ch} (hc : Unfaulted (s.ch c)) : FaultsKept s (finishStop s c) := by
  refine .enter hc _ ?_ rfl rfl
  show (s.ch c).stopDest.state ≠ _ ∧ (s.ch c).stopDest.state ≠ _
  cases (s.ch c).stopDest <;> exact ⟨by simp [StopDest.state], by simp [StopDest.state]⟩

theorem enterStopping_faultsKept {s : State} {c : Ch} (hc : Unfaulted (s.ch c)) (dest : StopDest) (absentCounts : Bool) :
    FaultsKept s (enterStopping s c dest absentCounts) := by
  have h0 : FaultsKept s (issue (s.modCh c fun ch => { ch with state := .stopping, stopDest := dest }) c) :=
    (FaultsKept.enter hc _ ⟨by simp, by simp⟩ rfl rfl).trans (issue_faultsKept _ c)
  exact .ite _ (h0.trans (finishStop_faultsKept (h0.unfaulted hc))) h0

theorem portSettled_faultsKept (s : State) (c : Ch) : FaultsKept s (portSettled s c) := by
  unfold portSettled
  dsimp only
  split
  · rename_i h
    exact (finishStop_faultsKept ⟨by simp [h.1], by simp [h.1]⟩).trans (settlingTest_faultsKept _)
  · exact settlingTest_faultsKept s

theorem prepareStep_faultsKept (s : State) (c : Ch) (k : Nat) (toHeld : Bool) : FaultsKept s (prepareStep s c k toHeld) := by
  unfold prepareStep
  have h0 : FaultsKept s (s.modCh c fun ch =>
      { ch with stepIndex := k, stepTime := 0, qStep := 0, eStep := 0, vPeak := 0, confirms := [0, 0, 0, 0],
                clamped := false }) := .modCh_same s c _ rfl rfl rfl
  dsimp only
  split
  · exact h0
  · exact (h0.trans (.modCh_same _ c _ rfl rfl rfl)).trans (settleOffer_faultsKept _ _ _ _)

section
variable {s : State} {c : Ch} (hc : Unfaulted (s.ch c))
include hc

theorem enterStarting_faultsKept (r : StepRecord) : FaultsKept s (enterStarting s c r) := by
  unfold enterStarting
  exact (FaultsKept.enter hc _ ⟨by simp, by simp⟩ rfl rfl).trans ((modGrant_faultsKept _ c _).trans (issue_faultsKept _ c))

theorem enterDeferred_faultsKept : FaultsKept s (enterDeferred s c) :=
  (FaultsKept.enter hc _ ⟨by simp, by simp⟩ rfl rfl).trans (issue_faultsKept _ c)

theorem enterRest_faultsKept : FaultsKept s (enterRest s c) :=
  (FaultsKept.enter hc _ ⟨by simp, by simp⟩ rfl rfl).trans ((issue_faultsKept _ c).trans (idleGrant_faultsKept _ c))

theorem gapExpires_faultsKept : FaultsKept s (gapExpires s c) := by
  unfold gapExpires
  have hrelease := releaseGrant_faultsKept s c
  split
  · exact hrelease.trans (enterDeferred_faultsKept (hrelease.unfaulted hc))
  · refine .ite _ (enterStarting_faultsKept hc _) ?_
    split
    · have hexchange : FaultsKept s (exchangeGrant s c ‹StepRecord›) := hrelease.trans (lodge_faultsKept _ _ _ _)
      exact hexchange.trans (enterDeferred_faultsKept (hexchange.unfaulted hc))
    · exact enterDeferred_faultsKept hc

theorem enterGap_faultsKept (r : StepRecord) (gap : Nat) : FaultsKept s (enterGap s c r gap) := by
  unfold enterGap
  have h1 : FaultsKept s (issue (settleAtGap (s.modCh c fun ch => { ch with state := .gap, gapTimer := some gap }) c r) c) :=
    (FaultsKept.enter hc _ ⟨by simp, by simp⟩ rfl rfl).trans ((settleAtGap_faultsKept _ c r).trans (issue_faultsKept _ c))
  exact .ite _ (h1.trans (gapExpires_faultsKept (h1.unfaulted hc))) h1

theorem beginStep_faultsKept : FaultsKept s (beginStep s c) := by
  unfold beginStep
  split
  · exact .refl s
  · exact .ite _ (enterRest_faultsKept hc) (enterGap_faultsKept hc _ _)

theorem beginResumed_faultsKept : FaultsKept s (beginResumed s c) := by
  unfold beginResumed
  split
  · exact .refl s
  · exact .ite _ (enterRest_faultsKept hc) (enterGap_faultsKept hc _ _)

theorem takeUp_faultsKept (k : Nat) : FaultsKept s (takeUp s c k) :=
  (prepareStep_faultsKept s c k false).trans (beginStep_faultsKept ((prepareStep_faultsKept s c k false).unfaulted hc))

theorem leaveHeld_faultsKept : FaultsKept s (leaveHeld s c) := by
  unfold leaveHeld
  have hclear : FaultsKept s (s.modCh c fun ch => { ch with heldBefore := false }) := .modCh_same s c _ rfl rfl rfl
  split
  · exact hclear.trans (beginStep_faultsKept (hclear.unfaulted hc))
  · split
    · exact .refl s
    · refine .ite _ (enterRest_faultsKept hc) (.ite _ (enterStarting_faultsKept hc _) ?_)
      have hrelease := releaseGrant_faultsKept s c
      have hdefer := hrelease.trans (enterDeferred_faultsKept (hrelease.unfaulted hc))
      exact .ite _ hdefer (hdefer.trans (lodge_faultsKept _ _ _ _))

end

theorem addCause_faultsKept (s : State) (c : Ch) (cause : HoldCause) : FaultsKept s (addCause s c cause) := by
  have key : Unfaulted (s.ch c) → FaultsKept s
      (let s := s.modCh c Channel.stopTimers
       let s := grantNotLive (withdrawWaiting s c) c
       let s := s.modCh c fun ch => { ch with holds := ch.holds.add cause, state := .held }
       let s := issue s c
       if (s.ch c).holds.keepsIdle then idleGrant s c else s) := by
    intro hc
    have h0 : FaultsKept s (grantNotLive (withdrawWaiting (s.modCh c Channel.stopTimers) c) c) :=
      (FaultsKept.modCh_same s c Channel.stopTimers rfl rfl rfl).trans
        ((withdrawWaiting_faultsKept _ c).trans (modGrant_faultsKept _ c _))
    have h2 := (h0.trans (.enter (h0.unfaulted hc) (fun ch => { ch with holds := ch.holds.add cause, state := .held })
      ⟨by simp, by simp⟩ rfl rfl)).trans (issue_faultsKept _ c)
    exact .ite _ (h2.trans (idleGrant_faultsKept _ c)) h2
  have hstate : ∀ {x : ChState}, (s.ch c).state = x → x ≠ .faulted → x ≠ .follower → Unfaulted (s.ch c) :=
    fun e h1 h2 => ⟨e ▸ h1, e ▸ h2⟩
  unfold addCause
  split
  · rename_i h; exact key (hstate h (by decide) (by decide))
  · rename_i h; exact key (hstate h (by decide) (by decide))
  · rename_i h; exact key (hstate h (by decide) (by decide))
  · rename_i h; exact key (hstate h (by decide) (by decide))
  · have h1 : FaultsKept s (s.modCh c fun ch => { ch with holds := ch.holds.add cause }) := .modCh_same s c _ rfl rfl rfl
    exact .ite _ (h1.trans (idleGrant_faultsKept _ c)) h1
  · exact .refl s

theorem removeCauses_faultsKept (s : State) (c : Ch) (f : HoldCauses → HoldCauses) : FaultsKept s (removeCauses s c f) := by
  unfold removeCauses
  have h0 : FaultsKept s (s.modCh c fun ch => { ch with holds := f ch.holds }) := .modCh_same s c _ rfl rfl rfl
  dsimp only
  split
  · rename_i h
    exact h0.trans (leaveHeld_faultsKept ⟨by rw [h.1]; decide, by rw [h.1]; decide⟩)
  · exact h0

theorem holdChannel_faultsKept (s : State) (c : Ch) (cause : HoldCause) : FaultsKept s (holdChannel s c cause) :=
  (addCause_faultsKept s c cause).trans (settle_faultsKept _)

theorem unholdChannel_faultsKept (s : State) (c : Ch) (f : HoldCauses → HoldCauses) :
    FaultsKept s (unholdChannel s c f) := (removeCauses_faultsKept s c f).trans (settle_faultsKept _)

/-! ### The end of a step -/

theorem closeCycle_faultsKept (s : State) (c : Ch) (j : Nat) : FaultsKept s (closeCycle s c j) := by
  unfold closeCycle
  refine (reportCh_faultsKept s c _).trans (.modCh_same _ c _ ?_ ?_ ?_) <;> dsimp only <;> split <;> rfl

theorem walkFrom_faultsKept (fuel : Nat) (s : State) (c : Ch) (j : Nat) : FaultsKept s (walkFrom fuel s c j).1 := by
  induction fuel generalizing s j with
  | zero => exact .refl s
  | succ n ih =>
    unfold walkFrom
    split
    · exact .refl s
    · split
      · exact .refl s
      · split
        · dsimp only
          have h0 : ∀ b : Bool, FaultsKept s (if b then closeCycle s c j else s) := fun b =>
            .ite _ (closeCycle_faultsKept s c j) (.refl s)
          split
          · exact (h0 _).trans (ih _ _)
          · exact ((h0 _).trans (.modCh_same _ c _ rfl rfl rfl)).trans (ih _ _)
        · exact .refl s

section
variable {s : State} {c : Ch} (hc : Unfaulted (s.ch c))
include hc

theorem landOn_faultsKept (k : Nat) (hold : Bool) : FaultsKept s (landOn s c k hold) := by
  unfold landOn
  have h0 := prepareStep_faultsKept s c k hold
  exact .ite _ ((h0.trans (.modCh_same _ c _ rfl rfl rfl)).trans (addCause_faultsKept _ _ _))
    (h0.trans (beginStep_faultsKept (h0.unfaulted hc)))

theorem completeSchedule_faultsKept (reason : ScheduleEnd) : FaultsKept s (completeSchedule s c reason) := by
  have h0 : ∀ body, FaultsKept s
      ((withdrawEntries (releaseGrant (reportCh s c body) c) c).modCh c Channel.stopTimers) := fun body =>
    ((reportCh_faultsKept s c body).trans
      ((releaseGrant_faultsKept _ c).trans (withdrawEntries_faultsKept _ c))).trans (.modCh_same _ c _ rfl rfl rfl)
  exact (h0 _).trans (enterStopping_faultsKept ((h0 _).unfaulted hc) _ _)

theorem scheduleEnd_faultsKept (reason : ScheduleEnd) (hold : Bool) : FaultsKept s (scheduleEnd s c reason hold) := by
  have h0 : ∀ body, FaultsKept s (walkFrom 1024 ((reportCh s c body).modCh c Channel.carryOutSwap) c 0).1 := fun body =>
    ((reportCh_faultsKept s c body).trans (.modCh_same _ c _ rfl rfl rfl)).trans
      (walkFrom_faultsKept 1024 _ c 0)
  unfold scheduleEnd
  dsimp only
  split
  · split
    · exact (h0 _).trans (landOn_faultsKept ((h0 _).unfaulted hc) _ _)
    · exact (h0 _).trans (completeSchedule_faultsKept ((h0 _).unfaulted hc) _)
  · exact completeSchedule_faultsKept hc reason

theorem endStep_faultsKept (r : StepRecord) (reason : EndReason) (action : Action) :
    FaultsKept s (endStep s c r reason action) := by
  have h0 : ∀ body, FaultsKept s ((reportCh (grantNotLive s c) c body).modCh c Channel.stopTimers) := fun body =>
    ((modGrant_faultsKept s c _).trans (reportCh_faultsKept _ c body)).trans (.modCh_same _ c _ rfl rfl rfl)
  unfold endStep
  dsimp only
  refine FaultsKept.trans ?_ (settle_faultsKept _)
  split
  · exact (h0 _).trans (scheduleEnd_faultsKept ((h0 _).unfaulted hc) _ _)
  · have h1 := fun body j => (h0 body).trans (walkFrom_faultsKept 1024 _ c j)
    split
    · exact (h1 _ _).trans (landOn_faultsKept ((h1 _ _).unfaulted hc) _ _)
    · exact (h1 _ _).trans (scheduleEnd_faultsKept ((h1 _ _).unfaulted hc) _ _)

theorem startBegin_faultsKept : FaultsKept s (startBegin s c) := by
  have h0 : FaultsKept s (s.modCh c Channel.beginRun) := .modCh_same s c _ rfl rfl rfl
  exact (h0.trans (takeUp_faultsKept (h0.unfaulted hc) 0)).trans (settle_faultsKept _)

theorem startResume_faultsKept (p : ResumePoint) : FaultsKept s (startResume s c p) := by
  have h0 : FaultsKept s (s.modCh c fun ch => ch.restore p) := .modCh_same s c _ rfl rfl rfl
  unfold startResume
  dsimp only
  split
  · have h1 := h0.trans (FaultsKept.ite (‹StepRecord›.kind = .profile)
      (.modCh_same _ c (fun ch => setUpPlayback ch ‹StepRecord›) rfl rfl rfl) (.refl _))
    exact (h1.trans (beginResumed_faultsKept (h1.unfaulted hc))).trans (settle_faultsKept _)
  · exact (h0.trans (beginResumed_faultsKept (h0.unfaulted hc))).trans (settle_faultsKept _)

theorem stopChannel_faultsKept : FaultsKept s (stopChannel s c) := by
  have h0 : FaultsKept s ((withdrawEntries (releaseGrant s c) c).modCh c fun ch =>
      { ch.stopTimers with holds := HoldCauses.empty, heldBefore := false }) :=
    ((releaseGrant_faultsKept s c).trans (withdrawEntries_faultsKept _ c)).trans (.modCh_same _ c _ rfl rfl rfl)
  exact (h0.trans (enterStopping_faultsKept (h0.unfaulted hc) _ _)).trans (settle_faultsKept _)

end

/-! ### Hall control -/

theorem pauseAll_faultsKept (l : List Ch) (s : State) : FaultsKept s (pauseAll s l) := by
  induction l generalizing s with
  | nil => exact .refl s
  | cons c l ih => exact (addCause_faultsKept s c .pause).trans (ih _)

theorem unpauseAll_faultsKept (l : List Ch) (s : State) : FaultsKept s (unpauseAll s l) := by
  induction l generalizing s with
  | nil => exact .refl s
  | cons c l ih => exact (removeCauses_faultsKept s c _).trans (ih _)

theorem appendAll_faultsKept (l : List PauseEntry) (s : State) : FaultsKept s (appendAll s l) := by
  induction l generalizing s with
  | nil => exact .refl s
  | cons e l ih => exact (FaultsKept.modArb s _).trans (ih _)

theorem pauseHall_faultsKept (s : State) : FaultsKept s (pauseHall s) := by
  have hpause : ∀ t : State, t.chans = s.chans → t.prot.hallStop = s.prot.hallStop → t.part = s.part → FaultsKept s (settlingTest (settle (pauseAll t allCh))) :=
    fun t ht hs hp => ((FaultsKept.of_chans ht hs hp).trans ((pauseAll_faultsKept allCh t).trans (settle_faultsKept _))).trans
      (settlingTest_faultsKept _)
  exact hpause _ rfl rfl rfl

theorem wakeHall_faultsKept (s : State) (cause : HallCause) : FaultsKept s (wakeHall s cause) := by
  have hunpause := ((FaultsKept.modHall s fun h => { h with state := .active, wakeTimer := none, pauseOrder := [] }).trans
    (appendAll_faultsKept (stillNeeded s s.hall.pauseOrder) _)).trans (unpauseAll_faultsKept allCh _)
  exact hunpause.trans ((FaultsKept.of_runs (settleEvaluating_runs _)).trans (.of_chans rfl rfl rfl))

theorem followCover_faultsKept (before : Ch → Bool) (l : List Ch) (s : State) :
    FaultsKept s (followCover before s l) := by
  induction l generalizing s with
  | nil => exact .refl s
  | cons c l ih =>
    refine FaultsKept.trans ?_ (ih _)
    exact .ite _ (holdChannel_faultsKept s c .chamber) (.ite _ (unholdChannel_faultsKept s c _) (.refl s))

theorem coverStarted_faultsKept (s : State) (c : Ch) : FaultsKept s (coverStarted s c) := by
  unfold coverStarted
  exact .ite _ (holdChannel_faultsKept s c .chamber) (.refl s)

theorem openPeriod_faultsKept (s : State) (c : Ch) (n : Nat) : FaultsKept s (openPeriod s c n) :=
  .modCh_same s c _ rfl rfl rfl

theorem bringForwardAll_faultsKept (before after : State) (l : List Ch) :
    FaultsKept after (bringForwardAll before after l) := by
  have h := bringForwardAll_period before after l
  refine ⟨fun c => ?_, by rw [h.prot], h.part⟩
  rw [h.chans c]
  exact ⟨rfl, rfl, Iff.rfl, Iff.rfl⟩

theorem pump_faultsKept (s : State) : FaultsKept s (pump s) := by
  rw [pump_eq]; exact .of_chans rfl rfl rfl

theorem finish_faultsKept (before s : State) : FaultsKept s (finish before s) := by
  unfold finish
  exact FaultsKept.trans (.ite _ (bringForwardAll_faultsKept before s allCh) (.refl s)) (pump_faultsKept _)

end Sys2Proof.Machine
end

section
/-! PROOF. Fault offers (R131, R138, R140, R142): the parts of the fault records hang together through every act that
latches kinds and clears none. -/
namespace Sys2Proof.Machine
open Sys2Proof.Safety

theorem grantLive_faultsKept (s : State) (c : Ch) : FaultsKept s (grantLive s c) :=
  (modGrant_faultsKept s c _).trans (.modArb _ _)

/-! ### What hangs together -/

/-- A channel's own fault record hangs together. -/
structure FaultOwn (ch : Channel) : Prop where
  faulted : ch.state ≠ .follower → (ch.state = .faulted ↔ ch.latched ≠ 0)
  first   : ch.latched ≠ 0 → ∃ f, ch.firstFault = some f ∧ hasKind ch.latched f.kind = true
  noFirst : ch.latched = 0 → ch.firstFault = none

/-- A follower's fault record and its leader's hang together (R131, R132). -/
structure PairFaulted (leader follower : Channel) : Prop where
  clear : leader.state ≠ .faulted → follower.latched = 0
  told  : dropKind follower.latched .pairPartner ≠ 0 → hasKind leader.latched .pairPartner = true

/-- The fault records hang together, whatever the hall stop line and the part state. -/
structure FaultCore (s : State) : Prop where
  own  : ∀ c, FaultOwn (s.ch c)
  odd  : ∀ c, (s.ch c).state = .follower → c.val % 2 = 1
  pair : ∀ c, (s.ch c).state = .follower → PairFaulted (s.ch (partner c)) (s.ch c)

theorem faultCore_of_sound {s : State} (h : FaultsSound s) : FaultCore s :=
  ⟨fun c => ⟨h.faulted c, h.first c, h.noFirst c⟩, fun c hc => (h.follower c hc).1,
    fun c hc => ⟨(h.follower c hc).2.1, (h.follower c hc).2.2⟩⟩

/-- What an act that clears no kind does to the fault records: they go on hanging together, and no kind leaves a set. -/
structure FaultsHold (s t : State) : Prop where
  core     : FaultCore s → FaultCore t
  grows    : ∀ c k, hasKind (s.ch c).latched k = true → hasKind (t.ch c).latched k = true
  hallStop : t.prot.hallStop = s.prot.hallStop
  part     : t.part = s.part

theorem FaultsHold.refl (s : State) : FaultsHold s s := ⟨id, fun _ _ => id, rfl, rfl⟩

theorem FaultsHold.trans {s t u : State} (h : FaultsHold s t) (k : FaultsHold t u) : FaultsHold s u :=
  ⟨fun x => k.core (h.core x), fun c j x => k.grows c j (h.grows c j x), k.hallStop.trans h.hallStop,
    k.part.trans h.part⟩

theorem FaultOwn.of_same {a b : Channel} (h : FaultSame a b) (ha : FaultOwn a) : FaultOwn b where
  faulted hb := by rw [h.faulted, h.latched]; exact ha.faulted fun e => hb (h.follower.2 e)
  first := by rw [h.latched, h.first]; exact ha.first
  noFirst := by rw [h.latched, h.first]; exact ha.noFirst

theorem PairFaulted.of_same {a b x y : Channel} (h : FaultSame a x) (k : FaultSame b y) (hp : PairFaulted a b) :
    PairFaulted x y :=
  ⟨fun e => by rw [k.latched]; exact hp.clear fun e' => e (h.faulted.2 e'),
    by rw [k.latched, h.latched]; exact hp.told⟩

theorem FaultCore.of_kept {s t : State} (h : FaultsKept s t) (hs : FaultCore s) : FaultCore t :=
  ⟨fun c => (hs.own c).of_same (h.chans c), fun c hc => hs.odd c ((h.chans c).follower.1 hc),
    fun c hc => (hs.pair c ((h.chans c).follower.1 hc)).of_same (h.chans _) (h.chans c)⟩

theorem FaultsKept.holds {s t : State} (h : FaultsKept s t) : FaultsHold s t :=
  ⟨.of_kept h, fun c k e => by rw [(h.chans c).latched]; exact e, h.hallStop, h.part⟩

theorem FaultsHold.ite {s t u : State} (p : Prop) [Decidable p] (ht : FaultsHold s t) (hu : FaultsHold s u) :
    FaultsHold s (if p then t else u) := iteInduction (motive := FaultsHold s) (fun _ => ht) fun _ => hu

theorem FaultsHold.same (s : State) (c : Ch) (f : Channel → Channel) (hl : (f (s.ch c)).latched = (s.ch c).latched)
    (hf : (f (s.ch c)).firstFault = (s.ch c).firstFault) (hs : (f (s.ch c)).state = (s.ch c).state) :
    FaultsHold s (s.modCh c f) := (FaultsKept.modCh_same s c f hl hf hs).holds

/-! ### A kind offered to one channel -/

/-- A kind latches newly in a channel (R138): the set, the first-fault record, and FAULTED outside FOLLOWER. -/
structure Latched (k : FaultKind) (a b : Channel) : Prop where
  latched  : b.latched = addKind a.latched k
  first    : ∃ f, f.kind = k ∧ b.firstFault = if a.latched = 0 then some f else a.firstFault
  follower : b.state = .follower ↔ a.state = .follower
  faulted  : a.state ≠ .follower → b.state = .faulted

theorem Latched.then_same {k : FaultKind} {a b c : Channel} (h : Latched k a b) (hs : FaultSame b c) : Latched k a c :=
  ⟨hs.latched.trans h.latched, by rw [hs.first]; exact h.first, hs.follower.trans h.follower,
    fun e => hs.faulted.2 (h.faulted e)⟩

theorem faultChannel_faulted (s : State) (c : Ch) :
    (((faultChannel s c).ch c).state = .faulted ∧ ((faultChannel s c).ch c).latched = (s.ch c).latched ∧
      ((faultChannel s c).ch c).firstFault = (s.ch c).firstFault) ∧
      ∀ d, d ≠ c → FaultSame (s.ch d) ((faultChannel s c).ch d) := by
  have hresume : FaultsKept s (s.modCh c fun ch => if ch.state.engaged then { ch with resume := resumePointOf ch } else ch) :=
    .modCh_same s c _ (by split <;> rfl) (by split <;> rfl) (by split <;> rfl)
  have h0 := hresume.trans ((modGrant_faultsKept _ c fun g => { g with live := false }).trans
    ((releaseGrant_faultsKept _ c).trans (withdrawEntries_faultsKept _ c)))
  have hfault : ∀ t : State, FaultsKept s t → ∀ u, u = issue (t.modCh c fun ch =>
      { ch.stopTimers with swapPending := none, holds := HoldCauses.empty, heldBefore := false, state := .faulted }) c →
      ((u.ch c).state = .faulted ∧ (u.ch c).latched = (s.ch c).latched ∧ (u.ch c).firstFault = (s.ch c).firstFault) ∧
      ∀ d, d ≠ c → FaultSame (s.ch d) (u.ch d) := by
    rintro t ht u rfl
    have hi := issue_faultsKept (t.modCh c fun ch =>
      { ch.stopTimers with swapPending := none, holds := HoldCauses.empty, heldBefore := false, state := .faulted }) c
    refine ⟨⟨(hi.chans c).faulted.2 (by rw [State.ch_modCh_self]), ?_, ?_⟩, fun d hd => ?_⟩
    · rw [(hi.chans c).latched, State.ch_modCh_self]; exact (ht.chans c).latched
    · rw [(hi.chans c).first, State.ch_modCh_self]; exact (ht.chans c).first
    · have hid := hi.chans d
      rw [State.ch_modCh_ne _ hd] at hid
      exact (ht.chans d).trans hid
  exact hfault _ h0 _ rfl

theorem respond_faulted (s : State) (c : Ch) :
    (((respond s c).ch c).latched = (s.ch c).latched ∧ ((respond s c).ch c).firstFault = (s.ch c).firstFault ∧
      (((respond s c).ch c).state = .follower ↔ (s.ch c).state = .follower) ∧
      ((s.ch c).state ≠ .follower → ((respond s c).ch c).state = .faulted)) ∧
      ∀ d, d ≠ c → FaultSame (s.ch d) ((respond s c).ch d) := by
  unfold respond
  split
  · rename_i h
    exact ⟨⟨rfl, rfl, Iff.rfl, fun _ => h⟩, fun d _ => FaultSame.refl _⟩
  · rename_i h
    have hp := FaultsKept.modPort s c fun p => p.handNew offDemand
    exact ⟨⟨(hp.chans c).latched, (hp.chans c).first, (hp.chans c).follower, fun e => absurd h e⟩, fun d _ => hp.chans d⟩
  · rename_i h
    obtain ⟨⟨hs, hl, hf⟩, ho⟩ := faultChannel_faulted s c
    exact ⟨⟨hl, hf, iff_of_false (by rw [hs]; decide) h, fun _ => hs⟩, ho⟩

theorem latchKind_latched (s : State) (c : Ch) (k : FaultKind) (value : Int) :
    Latched k (s.ch c) ((latchKind s c k value).ch c) ∧ ∀ d, d ≠ c → FaultSame (s.ch d) ((latchKind s c k value).ch d) := by
  have hlatch : ∀ (first : FirstFault) (t : State), first.kind = k →
      FaultsKept (respond (s.modCh c fun ch =>
        { ch with latched := addKind ch.latched k, firstFault := if ch.latched = 0 then some first else ch.firstFault }) c) t →
      Latched k (s.ch c) (t.ch c) ∧ ∀ d, d ≠ c → FaultSame (s.ch d) (t.ch d) := by
    intro first t hk ht
    obtain ⟨⟨hl, hf, hfollower, hfaulted⟩, hother⟩ := respond_faulted (s.modCh c fun ch =>
      { ch with latched := addKind ch.latched k, firstFault := if ch.latched = 0 then some first else ch.firstFault }) c
    rw [State.ch_modCh_self] at hl hf hfollower hfaulted
    refine ⟨Latched.then_same ⟨hl, ⟨first, hk, hf⟩, hfollower, hfaulted⟩ (ht.chans c), fun d hd => ?_⟩
    have hd' := hother d hd
    rw [State.ch_modCh_ne _ hd] at hd'
    exact hd'.trans (ht.chans d)
  unfold latchKind
  refine iteInduction (motive := fun t : State => Latched k (s.ch c) (t.ch c) ∧ ∀ d, d ≠ c → FaultSame (s.ch d) (t.ch d))
    (fun _ => hlatch ⟨k, _, _, value, _⟩ _ rfl ((reportCh_faultsKept _ c _).trans (settlingTest_faultsKept _)))
    fun _ => hlatch ⟨k, _, _, value, _⟩ _ rfl (reportCh_faultsKept _ c _)

/-- An offer to one channel latches the kind newly, or leaves every fault record. -/
theorem offerOne_cases (s : State) (c : Ch) (k : FaultKind) (value : Int) :
    latchesNewly s c k = false ∧ FaultsKept s (offerOne s c k value) ∨
      latchesNewly s c k = true ∧ Latched k (s.ch c) ((offerOne s c k value).ch c) ∧
        ∀ d, d ≠ c → FaultSame (s.ch d) ((offerOne s c k value).ch d) := by
  unfold offerOne
  split
  · rename_i hw
    refine .inl ⟨by simp [latchesNewly, hw], ?_⟩
    unfold warnKind
    refine .ite _ (.refl s) ((FaultsKept.modCh_same s c _ ?_ ?_ ?_).trans (reportCh_faultsKept _ c _)) <;> cases k <;> rfl
  · rename_i hw
    split
    · rename_i hk
      exact .inl ⟨by simp [latchesNewly, hk], .refl s⟩
    · rename_i hk
      exact .inr ⟨by simp [latchesNewly, hw, hk], latchKind_latched s c k value⟩

/-- After an offer of a kind that is not warned of, the kind is latched. -/
theorem offerOne_hasKind {s : State} {c : Ch} {k : FaultKind} (value : Int) (hw : warns (s.ch c).settings k = false) :
    hasKind ((offerOne s c k value).ch c).latched k = true := by
  rcases offerOne_cases s c k value with ⟨hn, hkept⟩ | ⟨-, hl, -⟩
  · rw [(hkept.chans c).latched]
    simpa [latchesNewly, hw] using hn
  · rw [hl.latched]; simp

theorem offerOne_others (s : State) (c : Ch) (k : FaultKind) (value : Int) {d : Ch} (hd : d ≠ c) :
    FaultSame (s.ch d) ((offerOne s c k value).ch d) := by
  rcases offerOne_cases s c k value with ⟨-, hkept⟩ | ⟨-, -, ho⟩
  · exact hkept.chans d
  · exact ho d hd

theorem offerOne_follower (s : State) (c d : Ch) (k : FaultKind) (value : Int) :
    ((offerOne s c k value).ch d).state = .follower ↔ (s.ch d).state = .follower :=
  ((offerOne_keeps s c k value).chans d).follower

theorem offerOne_grows (s : State) (c : Ch) (k : FaultKind) (value : Int) (d : Ch) (j : FaultKind)
    (hj : hasKind (s.ch d).latched j = true) : hasKind ((offerOne s c k value).ch d).latched j = true := by
  rcases offerOne_cases s c k value with ⟨-, hkept⟩ | ⟨-, hl, ho⟩
  · rw [(hkept.chans d).latched]; exact hj
  · by_cases hd : d = c
    · subst hd; rw [hl.latched]; simp [hj]
    · rw [(ho d hd).latched]; exact hj

theorem FaultOwn.latch {k : FaultKind} {a b : Channel} (h : Latched k a b) (ha : FaultOwn a) : FaultOwn b where
  faulted hb := iff_of_true (h.faulted fun e => hb (h.follower.2 e)) (by rw [h.latched]; exact addKind_ne_zero _ _)
  first _ := by
    obtain ⟨f, hk, hf⟩ := h.first
    rw [hf, h.latched]
    by_cases hz : a.latched = 0
    · exact ⟨f, if_pos hz, by simp [hk]⟩
    · obtain ⟨f', hf', hk'⟩ := ha.first hz
      exact ⟨f', by rw [if_neg hz, hf'], by simp [hk']⟩
  noFirst hz := absurd (h.latched.symm.trans hz) (addKind_ne_zero _ _)

theorem offerOne_own {s : State} (c : Ch) (k : FaultKind) (value : Int) (h : ∀ d, FaultOwn (s.ch d)) (d : Ch) :
    FaultOwn ((offerOne s c k value).ch d) := by
  rcases offerOne_cases s c k value with ⟨-, hkept⟩ | ⟨-, hl, ho⟩
  · exact (h d).of_same (hkept.chans d)
  · by_cases hd : d = c
    · subst hd; exact (h d).latch hl
    · exact (h d).of_same (ho d hd)

/-! ### A kind offered to a channel and passed on (R131) -/

theorem partner_partner (c : Ch) : partner (partner c) = c := by revert c; decide

theorem partner_parity (c : Ch) : (partner c).val % 2 = 1 ↔ c.val % 2 = 0 := by revert c; decide

theorem isLeader_iff (s : State) (c : Ch) : isLeader s c = true ↔ c.val % 2 = 0 ∧ (s.ch (partner c)).state = .follower := by
  simp [isLeader, evenCh, isFollower]

theorem paired_iff (s : State) (c : Ch) :
    paired s c = true ↔ (c.val % 2 = 0 ∧ (s.ch (partner c)).state = .follower) ∨ (s.ch c).state = .follower := by
  simp [paired, isLeader_iff, isFollower]

theorem hasKind_faulted {ch : Channel} (h : FaultOwn ch) (hf : ch.state ≠ .follower) {k : FaultKind}
    (hk : hasKind ch.latched k = true) : ch.state = .faulted := (h.faulted hf).2 (kinds_ne_zero_iff.2 ⟨k, hk⟩)

/-- The offer of a kind before the arbiter handles what was released. -/
def offerPair (s : State) (c : Ch) (k : FaultKind) (value : Int) : State :=
  if latchesNewly s c k ∧ k ≠ .pairPartner ∧ paired s c then
    offerOne (offerOne s c k value) (partner c) .pairPartner k.code
  else offerOne s c k value

theorem offer_eq (s : State) (c : Ch) (k : FaultKind) (value : Int) : offer s c k value = settle (offerPair s c k value) := rfl

theorem offerPair_grows (s : State) (c : Ch) (k : FaultKind) (value : Int) (d : Ch) (j : FaultKind)
    (hj : hasKind (s.ch d).latched j = true) : hasKind ((offerPair s c k value).ch d).latched j = true :=
  iteInduction (motive := fun t : State => hasKind (t.ch d).latched j = true)
    (fun _ => offerOne_grows _ _ _ _ d j (offerOne_grows s c k value d j hj)) fun _ => offerOne_grows s c k value d j hj

theorem offerPair_follower (s : State) (c d : Ch) (k : FaultKind) (value : Int) :
    ((offerPair s c k value).ch d).state = .follower ↔ (s.ch d).state = .follower :=
  iteInduction (motive := fun t : State => (t.ch d).state = .follower ↔ (s.ch d).state = .follower)
    (fun _ => (offerOne_follower _ _ d _ _).trans (offerOne_follower s c d k value)) fun _ => offerOne_follower s c d k value

theorem dropKind_addKind_self (x : BitVec 16) (k : FaultKind) : dropKind (addKind x k) k = dropKind x k :=
  kinds_ext fun j => by by_cases h : j = k <;> simp [h]

/-- After an offer to a member of a pair, the pair's records hang together. -/
theorem offerPair_pair {s : State} {c : Ch} {k : FaultKind} (value : Int) (hk : k ≠ .pairPartner) (h : FaultCore s)
    {f : Ch} (hf : (s.ch f).state = .follower) :
    PairFaulted ((offerPair s c k value).ch (partner f)) ((offerPair s c k value).ch f) := by
  have hpair := h.pair f hf
  have hodd := h.odd f hf
  have hlead : (s.ch (partner f)).state ≠ .follower := fun e => by
    have h1 := h.odd _ e
    rw [partner_parity] at h1
    omega
  have hne : partner f ≠ f := partner_ne f
  unfold offerPair
  rcases offerOne_cases s c k value with ⟨hn, hkept⟩ | ⟨hn, hl, ho⟩
  · rw [if_neg (by simp [hn])]
    exact hpair.of_same (hkept.chans _) (hkept.chans _)
  by_cases hcf : c = f
  · -- The follower latches: its leader is offered PAIR_PARTNER.
    subst hcf
    rw [if_pos ⟨hn, hk, (paired_iff s c).2 (.inr hf)⟩]
    have hhas : hasKind ((offerOne (offerOne s c k value) (partner c) .pairPartner k.code).ch (partner c)).latched
        .pairPartner = true := offerOne_hasKind _ rfl
    have hown := offerOne_own (partner c) .pairPartner k.code (offerOne_own c k value h.own) (partner c)
    refine ⟨fun e => absurd (hasKind_faulted hown ?_ hhas) e, fun _ => hhas⟩
    rw [Ne, offerOne_follower, offerOne_follower]
    exact hlead
  by_cases hcl : c = partner f
  · -- The leader latches: its follower is offered PAIR_PARTNER.
    subst hcl
    have hpaired : paired s (partner f) = true :=
      (paired_iff s _).2 (.inl ⟨by
        have := partner_parity (partner f)
        rw [partner_partner] at this
        exact this.1 hodd, by rw [partner_partner]; exact hf⟩)
    rw [if_pos ⟨hn, hk, hpaired⟩, partner_partner]
    have hfaulted : ((offerOne s (partner f) k value).ch (partner f)).state = .faulted := hl.faulted hlead
    have hother := offerOne_others (offerOne s (partner f) k value) f .pairPartner k.code hne
    refine ⟨fun e => absurd (hother.faulted.2 hfaulted) e, fun htold => ?_⟩
    rw [hother.latched, hl.latched]
    have hfollower := ho f (Ne.symm hne)
    have hdrop : dropKind (s.ch f).latched .pairPartner ≠ 0 := by
      rcases offerOne_cases (offerOne s (partner f) k value) f .pairPartner k.code with ⟨-, hkept⟩ | ⟨-, hl', -⟩
      · rwa [(hkept.chans f).latched, hfollower.latched] at htold
      · rwa [hl'.latched, dropKind_addKind_self, hfollower.latched] at htold
    simp [hpair.told hdrop]
  · -- Neither member is the channel offered the kind, nor its partner.
    have hpc : partner c ≠ f := fun e => hcl (by rw [← e, partner_partner])
    have hpp : partner c ≠ partner f := fun e => hcf (by rw [← partner_partner c, e, partner_partner])
    have hfirst := hpair.of_same (ho (partner f) (Ne.symm hcl)) (ho f (Ne.symm hcf))
    split
    · exact hfirst.of_same (offerOne_others _ _ _ _ (Ne.symm hpp)) (offerOne_others _ _ _ _ (Ne.symm hpc))
    · exact hfirst

theorem offerPair_core {s : State} {c : Ch} {k : FaultKind} (value : Int) (hk : k ≠ .pairPartner) (h : FaultCore s) :
    FaultCore (offerPair s c k value) where
  own d := iteInduction (motive := fun t : State => FaultOwn (t.ch d))
    (fun _ => offerOne_own _ _ _ (offerOne_own c k value h.own) d) fun _ => offerOne_own c k value h.own d
  odd d hd := h.odd d ((offerPair_follower s c d k value).1 hd)
  pair d hd := offerPair_pair value hk h ((offerPair_follower s c d k value).1 hd)

theorem offer_faults (s : State) (c : Ch) {k : FaultKind} (value : Int) (hk : k ≠ .pairPartner) :
    FaultsHold s (offer s c k value) := by
  have hkeeps := offer_keeps s c k value
  refine ⟨fun h => ?_, fun d j hj => ?_, by rw [hkeeps.prot], hkeeps.part⟩ <;> rw [offer_eq]
  · exact .of_kept (settle_faultsKept _) (offerPair_core value hk h)
  · rw [((settle_faultsKept _).chans d).latched]
    exact offerPair_grows s c k value d j hj

theorem offer_hasKind {s : State} {c : Ch} {k : FaultKind} (value : Int) (hw : warns (s.ch c).settings k = false) :
    hasKind ((offer s c k value).ch c).latched k = true := by
  rw [offer_eq, ((settle_faultsKept _).chans c).latched]
  exact iteInduction (motive := fun t : State => hasKind (t.ch c).latched k = true)
    (fun _ => offerOne_grows _ _ _ _ c k (offerOne_hasKind value hw)) fun _ => offerOne_hasKind value hw

theorem offerUnsafe_faults (s : State) (c : Ch) (tag : BitVec 4) : FaultsHold s (offerUnsafe s c tag) :=
  (FaultsHold.same s c _ rfl rfl rfl).trans (offer_faults _ c _ (by decide))

/-! ### The acts that offer kinds -/

theorem setWarned_faults (s : State) (c : Ch) (k : FaultKind) (w : Bool) :
    FaultsHold s (s.modCh c fun ch => setWarned ch k w) := by
  refine .same s c _ ?_ ?_ ?_ <;> cases k <;> rfl

theorem limitCheck_faults (s : State) (c : Ch) (v : Nat) (i t : Int) {k : FaultKind} (value : Int) (hk : k ≠ .pairPartner) :
    FaultsHold s (limitCheck s c v i t k value) := by
  unfold limitCheck
  exact .ite _ (offer_faults s c value hk) (setWarned_faults s c k false)

theorem voltageChecks_faults (s : State) (c : Ch) (v : Nat) (i t : Int) : FaultsHold s (voltageChecks s c v i t) :=
  (limitCheck_faults s c v i t _ (by decide)).trans (limitCheck_faults _ c v i t _ (by decide))

theorem temperatureChecks_faults (s : State) (c : Ch) (v : Nat) (i t : Int) : FaultsHold s (temperatureChecks s c v i t) :=
  (limitCheck_faults s c v i t _ (by decide)).trans (limitCheck_faults _ c v i t _ (by decide))

theorem readingChecks_faults (s : State) (c : Ch) (rd : Reading) : FaultsHold s (readingChecks s c rd) := by
  unfold readingChecks
  have hlimit : ∀ t, FaultsHold t (limitCheck t c rd.v rd.i rd.t .limitI rd.i) := fun t =>
    limitCheck_faults t c rd.v rd.i rd.t rd.i (by decide)
  exact .ite _ (hlimit s) (((voltageChecks_faults s c _ _ _).trans (hlimit _)).trans (temperatureChecks_faults _ c _ _ _))

theorem stageFlags_faults (s : State) (c : Ch) (rd : Reading) : FaultsHold s (stageFlags s c rd) := by
  have hflags := FaultsHold.ite (s := s) ((rd.fault || rd.interlock) = true)
    (offer_faults s c ((if rd.fault then 1 else 0) + (if rd.interlock then 2 else 0)) (k := .stageReported) (by decide))
    (.refl s)
  unfold stageFlags
  dsimp only
  refine (hflags.trans ?_).trans (.same _ c _ rfl rfl rfl)
  exact .ite _ (reportCh_faultsKept _ c _).holds (.refl _)

theorem completePack_faults (s : State) (c : Ch) (takenL takenF : Bool) : FaultsHold s (completePack s c takenL takenF) := by
  unfold completePack
  dsimp only
  have hpack : ∀ p, FaultsHold s (s.modCh c fun ch => { ch with pack := p }) := fun p => .same s c _ rfl rfl rfl
  have hchecks := fun p => (hpack p).trans (FaultsHold.ite ((takenL || takenF) = true)
    ((voltageChecks_faults (s.modCh c fun ch => { ch with pack := p }) c p.v p.i p.t).trans
      (temperatureChecks_faults _ c p.v p.i p.t)) (.refl _))
  refine .ite _ (.ite _ ((hchecks _).trans (offer_faults _ c _ (by decide)))
    ((hchecks _).trans (setWarned_faults _ c _ _))) (hchecks _)

theorem makePresent_faultsKept (s : State) (c : Ch) : FaultsKept s (makePresent s c) := by
  unfold makePresent
  have hport := FaultsKept.modPort s c Port.becomePresent
  exact .ite _ (.refl s) (.ite _ (hport.trans (portSettled_faultsKept _ c)) hport)

theorem takeReading_faults (s : State) (c : Ch) (raw : RawReading) : FaultsHold s (takeReading s c raw) := by
  have hkeep : ∀ rd : Reading, FaultsHold s (makePresent (stageFlags (readingChecks (s.modCh c fun ch =>
      { ch with last := rd, held := false, missed := 0, taken := true,
                unsafeFlag := if rd.reg = .off then false else ch.unsafeFlag }) c rd) c rd) c) := fun rd =>
    ((FaultsHold.same s c _ rfl rfl rfl).trans ((readingChecks_faults _ c rd).trans (stageFlags_faults _ c rd))).trans
      (makePresent_faultsKept _ c).holds
  unfold takeReading
  exact .ite _ (((hkeep _).trans (.same _ _ _ rfl rfl rfl)).trans (completePack_faults _ _ _ _)) (hkeep _)

theorem readingArrives_faults (s : State) (c : Ch) (after : Bool) (raw : RawReading) :
    FaultsHold s (readingArrives s c after raw) := by
  unfold readingArrives
  exact .ite _ ((FaultsKept.modPort s c _).holds.trans (takeReading_faults _ c raw)) (FaultsKept.modPort s c _).holds

theorem missPeriod_faults (s : State) (c : Ch) : FaultsHold s (missPeriod s c) := by
  unfold missPeriod
  dsimp only
  have hmiss : ∀ n : Channel → Nat, FaultsHold s (s.modCh c fun ch => { ch with held := true, missed := n ch }) := fun n =>
    .same s c _ rfl rfl rfl
  exact .ite _ ((hmiss _).trans (offer_faults _ c _ (by decide))) (hmiss _)

theorem stageSettle_faults (s : State) (c : Ch) (taken partnerTaken packDone : Bool) :
    FaultsHold s (stageSettle s c taken partnerTaken packDone) := by
  unfold stageSettle
  have h0 := FaultsHold.ite (taken = true) (FaultsHold.refl s) (missPeriod_faults s c)
  have h1 := h0.trans (FaultsHold.ite (partnerTaken = true) (FaultsHold.refl _) (missPeriod_faults _ (partner c)))
  exact .ite _ (.ite _ h1 (h1.trans (completePack_faults _ c _ _))) h0

theorem goIntoUnderrun_faults (s : State) (c : Ch) : FaultsHold s (goIntoUnderrun s c) := by
  unfold goIntoUnderrun
  exact .ite _ ((FaultsHold.same s c _ rfl rfl rfl).trans (offer_faults _ c _ (by decide))) (.same s c _ rfl rfl rfl)

theorem restartUnderrun_faults (s : State) (c : Ch) : FaultsHold s (restartUnderrun s c) := by
  unfold restartUnderrun
  split
  · exact .ite _ (goIntoUnderrun_faults s c) (.refl s)
  · exact .refl s

/-- The playing of a point changes only the profile queue and the playback record. -/
theorem advancePoint_eq (ch : Channel) (counted : Bool) :
    ∃ q p, (advancePoint ch counted).1 = { ch with queue := q, play := p } := by
  unfold advancePoint
  dsimp only
  repeat' split
  all_goals exact ⟨_, _, rfl⟩

theorem advancePlayback_faults (s : State) (c : Ch) (counted : Bool) : FaultsHold s (advancePlayback s c counted) := by
  obtain ⟨q, p, hpoint⟩ := advancePoint_eq (s.ch c) counted
  have hlow : ∀ t, FaultsHold t (lowWaterTest t c) := fun t => by
    unfold lowWaterTest
    exact .ite _ ((FaultsHold.same t c _ rfl rfl rfl).trans (reportCh_faultsKept _ c _).holds) (.refl t)
  have h0 : FaultsHold s (s.modCh c fun _ => (advancePoint (s.ch c) counted).1) := by
    rw [hpoint]; exact .same s c _ rfl rfl rfl
  have h1 := h0.trans (FaultsHold.ite ((advancePoint (s.ch c) counted).2 = true) (hlow _) (.refl _))
  exact .ite _ (h1.trans (goIntoUnderrun_faults _ c)) h1

/-! ### The period event -/

theorem isRunning_unfaulted {s : State} {c : Ch} (h : isRunning s c = true) : Unfaulted (s.ch c) := by
  have hr : (s.ch c).state = .running := by simpa [isRunning] using h
  exact ⟨by rw [hr]; decide, by rw [hr]; decide⟩

theorem stageTime_faultsKept (s : State) (c : Ch) (n : Nat) : FaultsKept s (stageTime s c n) := by
  unfold stageTime
  exact .ite _ (.modCh_same s c _ rfl rfl rfl) (.refl s)

theorem integratePeriod_faultsKept (s : State) (c : Ch) (n : Nat) : FaultsKept s (integratePeriod s c n) := by
  unfold integratePeriod
  refine .ite _ (.modCh_same s c _ ?_ ?_ ?_) (.refl s) <;> unfold Channel.integrate <;> dsimp only <;>
    repeat' first | rfl | split

theorem stagePeak_faultsKept (s : State) (c : Ch) (taken : Bool) : FaultsKept s (stagePeak s c taken) := by
  unfold stagePeak
  exact .ite _ (.modCh_same s c _ rfl rfl rfl) (.refl s)

theorem stageStart_faults (s : State) (c : Ch) (taken : Bool) : FaultsHold s (stageStart s c taken) := by
  unfold stageStart
  split
  · rename_i h
    have hc : Unfaulted (s.ch c) := ⟨by rw [h.1]; decide, by rw [h.1]; decide⟩
    have hrun : FaultsKept s (s.modCh c fun ch => { ch with state := .running, startTimer := none }) :=
      .enter hc _ ⟨by simp, by simp⟩ rfl rfl
    exact (hrun.trans ((grantLive_faultsKept _ c).trans (settle_faultsKept _))).holds.trans
      (restartUnderrun_faults _ c)
  · exact .refl s

theorem stagePlay_faults (s : State) (c : Ch) (counted : Bool) : FaultsHold s (stagePlay s c counted) := by
  unfold stagePlay
  split
  · exact .ite _ (advancePlayback_faults s c counted) (.refl s)
  · exact .refl s

theorem stageTests_faultsKept (s : State) (c : Ch) (taken : Bool) : FaultsKept s (stageTests s c taken) := by
  unfold stageTests
  split
  · rename_i h
    have hc := isRunning_unfaulted h
    unfold endTests
    split
    · exact .refl s
    · rename_i r _
      dsimp only
      have h0 : ∀ x, FaultsKept s (s.modCh c fun ch => { ch with confirms := x }) := fun x => .modCh_same s c _ rfl rfl rfl
      split
      · exact (h0 _).trans (endStep_faultsKept ((h0 _).unfaulted hc) r _ _)
      · exact .ite _ ((h0 _).trans (endStep_faultsKept ((h0 _).unfaulted hc) r _ _)) (h0 _)
  · exact .refl s

theorem stageRefresh_faultsKept (s : State) (c : Ch) : FaultsKept s (stageRefresh s c) := by
  unfold stageRefresh
  exact .ite _ (issue_faultsKept s c) (.refl s)

theorem stagesLater_faults (s : State) (c : Ch) (taken counted : Bool) : FaultsHold s (stagesLater s c taken counted) := by
  unfold stagesLater
  exact .ite _ (.refl s) ((((stagePeak_faultsKept s c taken).holds.trans (stageStart_faults _ c taken)).trans
    (stagePlay_faults _ c counted)).trans
      ((stageTests_faultsKept _ c taken).trans (stageRefresh_faultsKept _ c)).holds)

theorem restartPeriod_faultsKept (s : State) (c : Ch) : FaultsKept s (restartPeriod s c) := by
  have hfold : ∀ (l : List Ch) (t : State), FaultsKept s t →
      FaultsKept s (l.foldl (fun t d => t.modCh d fun ch => { ch with periodLength := periodInForce s c }) t) := by
    intro l
    induction l with
    | nil => exact fun t h => h
    | cons d l ih => exact fun t h => ih _ (h.trans (.modCh_same t d _ rfl rfl rfl))
  exact hfold _ _ (.refl s)

theorem periodEventOf_faults (s : State) (c : Ch) : FaultsHold s (periodEventOf s c) := by
  have hopen : ∀ n, FaultsKept s (if isLeader s c then openPeriod (openPeriod s c n) (partner c) n else openPeriod s c n) :=
    fun n => .ite _ ((openPeriod_faultsKept s c n).trans (openPeriod_faultsKept _ _ n)) (openPeriod_faultsKept s c n)
  unfold periodEventOf
  dsimp only
  have hsettle := (hopen (periodInForce s c)).holds.trans (stageSettle_faults _ c (s.ch c).taken (s.ch (partner c)).taken
    (s.ch c).packDone)
  refine FaultsHold.trans (FaultsHold.trans (FaultsHold.trans (hsettle.trans (FaultsKept.holds ?_))
    (integratePeriod_faultsKept _ c _).holds) (stagesLater_faults _ c _ _)) (restartPeriod_faultsKept _ c).holds
  exact .ite _ (.refl _) (stageTime_faultsKept _ c _)

theorem periodExpires_faults (s : State) (c : Ch) : FaultsHold s (periodExpires s c) := by
  unfold periodExpires
  exact .ite _ (.refl s) (periodEventOf_faults s c)

end Sys2Proof.Machine
end

section
/-! PROOF. O56: every step keeps the fault records together (R42, R43, R131, R132, R138, R142, R152, R153). -/
namespace Sys2Proof.Machine
open Sys2Proof.Safety

/-! ### The hall stop line (R152) -/

theorem offerHallStop_own (l : List Ch) {s : State} (h : ∀ d, FaultOwn (s.ch d)) (d : Ch) :
    FaultOwn ((offerHallStop s l).1.ch d) := by
  induction l generalizing s with
  | nil => exact h d
  | cons c l ih => exact ih (offerOne_own c _ _ h)

theorem offerHallStop_grows (l : List Ch) (s : State) (d : Ch) (k : FaultKind) (hk : hasKind (s.ch d).latched k = true) :
    hasKind ((offerHallStop s l).1.ch d).latched k = true := by
  induction l generalizing s with
  | nil => exact hk
  | cons c l ih => exact ih _ (offerOne_grows s c _ _ d k hk)

theorem offerHallStop_hasKind {l : List Ch} {c : Ch} (hc : c ∈ l) (s : State) :
    hasKind ((offerHallStop s l).1.ch c).latched .hallStop = true := by
  induction l generalizing s with
  | nil => cases hc
  | cons d l ih =>
    rcases List.mem_cons.1 hc with rfl | hc
    · exact offerHallStop_grows l _ c _ (offerOne_hasKind 0 rfl)
    · exact ih hc _

/-- HALL_STOP latches newly in a channel, or the channel held it before. -/
theorem offerHallStop_newly {l : List Ch} {c : Ch} (hc : c ∈ l) (s : State) :
    c ∈ (offerHallStop s l).2 ∨ hasKind (s.ch c).latched .hallStop = true := by
  induction l generalizing s with
  | nil => cases hc
  | cons d l ih =>
    have hlist : (offerHallStop s (d :: l)).2 = if latchesNewly s d .hallStop then
        d :: (offerHallStop (offerOne s d .hallStop 0) l).2 else (offerHallStop (offerOne s d .hallStop 0) l).2 := rfl
    by_cases hcd : c = d
    · subst hcd
      by_cases hn : latchesNewly s c .hallStop = true
      · rw [hlist, if_pos hn]; exact .inl List.mem_cons_self
      · exact .inr (by simpa [latchesNewly, warns] using hn)
    · rcases ih ((List.mem_cons.1 hc).resolve_left hcd) (offerOne s d .hallStop 0) with h | h
      · left; rw [hlist]; split
        · exact List.mem_cons_of_mem _ h
        · exact h
      · rw [(offerOne_others s d .hallStop 0 hcd).latched] at h
        exact .inr h

theorem passHallStop_own (newly l : List Ch) {s : State} (h : ∀ d, FaultOwn (s.ch d)) (d : Ch) :
    FaultOwn ((passHallStop newly s l).ch d) := by
  induction l generalizing s with
  | nil => exact h d
  | cons c l ih =>
    refine ih fun e => ?_
    split
    · exact offerOne_own _ _ _ h e
    · exact h e

theorem passHallStop_grows (newly l : List Ch) (s : State) (d : Ch) (k : FaultKind)
    (hk : hasKind (s.ch d).latched k = true) : hasKind ((passHallStop newly s l).ch d).latched k = true := by
  induction l generalizing s with
  | nil => exact hk
  | cons c l ih =>
    refine ih _ ?_
    split
    · exact offerOne_grows _ _ _ _ d k hk
    · exact hk

/-- The leader of a follower in which HALL_STOP latched newly is passed PAIR_PARTNER. -/
theorem passHallStop_hasKind {newly l : List Ch} {f : Ch} (hf : f ∈ l) (hn : f ∈ newly) {s : State}
    (hfollower : (s.ch f).state = .follower) :
    hasKind ((passHallStop newly s l).ch (partner f)).latched .pairPartner = true := by
  induction l generalizing s with
  | nil => cases hf
  | cons c l ih =>
    rcases List.mem_cons.1 hf with rfl | hf
    · refine passHallStop_grows newly l _ _ _ ?_
      rw [if_pos]
      · exact offerOne_hasKind _ rfl
      · simp [hn, paired, isFollower, hfollower]
    · refine ih hf ?_
      split
      · rw [offerOne_follower]; exact hfollower
      · exact hfollower

/-- The hall stop line's assertion leaves HALL_STOP in every channel, and the fault records together. -/
theorem hallStopActs_faults {s : State} (h : FaultCore s) :
    FaultCore (hallStopActs s) ∧ ∀ c, hasKind ((hallStopActs s).ch c).latched .hallStop = true := by
  have hreport : FaultsKept s (reportPart (emptyCollections s) (.hallStopAlarm true)) := .of_chans rfl rfl rfl
  have hacts : ∀ u, FaultsKept s u →
      let t := settle (passHallStop (offerHallStop u allCh).2 (offerHallStop u allCh).1 allCh)
      FaultCore t ∧ ∀ c, hasKind (t.ch c).latched .hallStop = true := by
    intro u hu t
    have hcore := FaultCore.of_kept hu h
    have hsettle := settle_faultsKept (passHallStop (offerHallStop u allCh).2 (offerHallStop u allCh).1 allCh)
    have hall : ∀ c, hasKind (t.ch c).latched .hallStop = true := fun c => by
      rw [(hsettle.chans c).latched]
      exact passHallStop_grows _ _ _ c _ (offerHallStop_hasKind (mem_allCh c) u)
    have hfollower : ∀ c, (t.ch c).state = .follower ↔ (u.ch c).state = .follower := fun c =>
      (hsettle.chans c).follower.trans
        ((((passHallStop_keeps _ allCh _).chans c).follower).trans ((offerHallStop_keeps allCh u).chans c).follower)
    have hown : ∀ c, FaultOwn (t.ch c) := fun c =>
      (passHallStop_own _ _ (offerHallStop_own allCh hcore.own) c).of_same (hsettle.chans c)
    refine ⟨⟨hown, fun c hc => hcore.odd c ((hfollower c).1 hc), fun c hc => ?_⟩, hall⟩
    have hfc := (hfollower c).1 hc
    have hlead : (t.ch (partner c)).state ≠ .follower := fun e => by
      have h1 := hcore.odd _ ((hfollower _).1 e)
      have h2 := hcore.odd _ hfc
      rw [partner_parity] at h1
      omega
    refine ⟨fun e => absurd (hasKind_faulted (hown _) hlead (hall _)) e, fun _ => ?_⟩
    rw [(hsettle.chans _).latched]
    rcases offerHallStop_newly (mem_allCh c) u with hn | hheld
    · exact passHallStop_hasKind (mem_allCh c) hn (((offerHallStop_keeps allCh u).chans c).follower.2 hfc)
    · refine passHallStop_grows _ _ _ _ _ (offerHallStop_grows _ _ _ _ ((hcore.pair c hfc).told ?_))
      exact (dropKind_ne_zero_iff _ _).2 ⟨.hallStop, by decide, hheld⟩
  exact hacts _ hreport

/-! ### The chamber alarm lines, the curtailment line and the timers -/

theorem offerAlarm_faults (line : LineNo) (p : Ch → Bool) (l : List Ch) (s : State) :
    FaultsHold s (offerAlarm line p s l) := by
  induction l generalizing s with
  | nil => exact .refl s
  | cons c l ih => exact FaultsHold.trans (.ite _ (offer_faults s c _ (by decide)) (.refl s)) (ih _)

theorem modLine_faultsKept (s : State) (l : LineNo) (f : AlarmLine → AlarmLine) : FaultsKept s (s.modLine l f) :=
  .of_chans rfl rfl rfl

theorem alarmRawChange_faults (s : State) (line : LineNo) (level : Bool) :
    FaultsHold s (alarmRawChange s line level) := by
  unfold alarmRawChange
  have h0 : FaultsHold s (s.modLine line fun l => l.setRaw level) := (modLine_faultsKept s line _).holds
  exact .ite _ (.refl s) (.ite _ (h0.trans (offerAlarm_faults line _ allCh _)) h0)

theorem reportPart_faultsKept (s : State) (body : ReportBody) : FaultsKept s (reportPart s body) := .of_chans rfl rfl rfl

theorem alarmDebounceExpires_faultsKept (s : State) (line : LineNo) : FaultsKept s (alarmDebounceExpires s line) := by
  unfold alarmDebounceExpires
  exact .ite _ (.refl s) (((modLine_faultsKept s line _).trans (reportPart_faultsKept _ _)).trans
    (followCover_faultsKept _ allCh _))

theorem curtailChanges_faultsKept (s : State) : FaultsKept s (curtailChanges s) := by
  unfold curtailChanges
  dsimp only
  have h0 : FaultsKept s (s.modHall fun h => { h with curtFiltered := s.hall.curtRaw, curtTimer := none }) := .modHall s _
  have h1 := fun body => h0.trans (reportPart_faultsKept _ body)
  have h2 := fun body => (h1 body).trans (FaultsKept.ite (cEffOf s < cEffOf (s.modHall fun h =>
      { h with curtFiltered := s.hall.curtRaw, curtTimer := none })) (.of_runs (settleEvaluating_runs _))
    (.ite (cEffOf (s.modHall fun h => { h with curtFiltered := s.hall.curtRaw, curtTimer := none }) < cEffOf s)
      (settle_faultsKept _) (.refl _)))
  exact .ite _ ((h2 _).trans (wakeHall_faultsKept _ _)) (h2 _)

theorem curtailFollows_faultsKept (s : State) : FaultsKept s (curtailFollows s) := by
  unfold curtailFollows
  exact .ite _ (.modHall s _) (.ite _ (curtailChanges_faultsKept s) (.modHall s _))

theorem wakeTimerExpires_faultsKept (s : State) : FaultsKept s (wakeTimerExpires s) := by
  unfold wakeTimerExpires
  have h0 : FaultsKept s (s.modHall fun h => { h with wakeTimer := none }) := .modHall s _
  exact .ite _ (.refl s) (.ite _ (h0.trans (wakeHall_faultsKept _ _)) h0)

theorem confirmArrives_faultsKept (s : State) (c : Ch) (tag : Byte) : FaultsKept s (confirmArrives s c tag) := by
  unfold confirmArrives
  split
  · exact .modPort s c _
  · have h0 := FaultsKept.modPort s c fun p => p.retire ‹Tagged›
    exact .ite _ (.ite _ (h0.trans (portSettled_faultsKept _ c)) h0) (.modPort s c _)

theorem confirmationExpires_faults (s : State) (c : Ch) : FaultsHold s (confirmationExpires s c) := by
  unfold confirmationExpires
  split
  · rename_i t _ _
    have h0 := (FaultsKept.modPort s c fun p => { p with confTimer := none }).holds.trans
      (offer_faults _ c (k := .stageNoAck) t.tag.toNat (by decide))
    exact (h0.trans (.ite _ (offerUnsafe_faults _ c t.tag) (.refl _))).trans (FaultsKept.modPort _ c _).holds
  · exact .refl s

theorem gapTimerExpires_faultsKept (s : State) (c : Ch) : FaultsKept s (gapTimerExpires s c) := by
  unfold gapTimerExpires
  split
  · rename_i h
    have hgap := gapExpires_faultsKept (s := s) (c := c) ⟨by rw [h.1]; decide, by rw [h.1]; decide⟩
    exact .ite _ (hgap.trans (settle_faultsKept _)) hgap
  · exact .refl s

theorem startTimerExpires_faults (s : State) (c : Ch) : FaultsHold s (startTimerExpires s c) := by
  unfold startTimerExpires
  exact .ite _ ((FaultsHold.same s c _ rfl rfl rfl).trans (offer_faults _ c _ (by decide))) (.refl s)

theorem grantHoldExpires_faultsKept (s : State) (c : Ch) : FaultsKept s (grantHoldExpires s c) := by
  unfold grantHoldExpires
  split
  · exact .refl s
  · exact .ite _ ((releaseGrant_faultsKept s c).trans (settle_faultsKept _)) (.refl s)

theorem waitTimerExpires_faults (s : State) (c : Ch) : FaultsHold s (waitTimerExpires s c) := by
  unfold waitTimerExpires
  split
  · split
    · exact (FaultsKept.modArb s _).holds
    · exact offer_faults s c _ (by decide)
  · exact .refl s

theorem underrunExpires_faults (s : State) (c : Ch) : FaultsHold s (underrunExpires s c) := by
  unfold underrunExpires
  exact .ite _ ((FaultsHold.same s c _ rfl rfl rfl).trans (offer_faults _ c _ (by decide))) (.refl s)

/-- Every event that acts only in READY, the hall stop line's apart, keeps the fault records together. -/
theorem eventAct_faults {i : Instr} {f : State → State} (hf : eventAct i = some f) (ha : i ≠ .hallStopAssert)
    (hd : i ≠ .hallStopDeassert) (s : State) : FaultsHold s (f s) := by
  cases i with
  | lineBreakEnd c => cases hf; exact .ite _ (FaultsKept.modPort s c _).holds (.refl s)
  | stageFrameWhollySent c => cases hf; exact .same s c _ rfl rfl rfl
  | confirm c tag => cases hf; exact (confirmArrives_faultsKept s c tag).holds
  | reading c after raw => cases hf; exact readingArrives_faults s c after raw
  | stageBadFrame c _ => cases hf; exact (FaultsKept.modPort s c _).holds
  | stageByteGapTimeout c => cases hf; exact (FaultsKept.modPort s c _).holds
  | confirmationTimerExpiry c => cases hf; exact confirmationExpires_faults s c
  | periodEvent c => cases hf; exact periodExpires_faults s c
  | gapTimerExpiry c => cases hf; exact (gapTimerExpires_faultsKept s c).holds
  | startTimerExpiry c => cases hf; exact startTimerExpires_faults s c
  | grantHoldExpiry c => cases hf; exact (grantHoldExpires_faultsKept s c).holds
  | waitTimerExpiry c => cases hf; exact waitTimerExpires_faults s c
  | underrunTimerExpiry c => cases hf; exact underrunExpires_faults s c
  | hallStopAssert => exact absurd rfl ha
  | hallStopDeassert => exact absurd rfl hd
  | chamberAlarmLineChange line level => cases hf; exact alarmRawChange_faults s line level
  | alarmDebounceExpiry line => cases hf; exact (alarmDebounceExpires_faultsKept s line).holds
  | curtailmentLineChange level =>
    cases hf
    exact (FaultsKept.ite _ (.refl s) ((FaultsKept.modHall s _).trans (curtailFollows_faultsKept _))).holds
  | curtailDebounceExpiry => cases hf; exact (FaultsKept.ite _ (.refl s) (curtailChanges_faultsKept s)).holds
  | wakeTimerExpiry => cases hf; exact (wakeTimerExpires_faultsKept s).holds
  | _ => cases hf

/-! ### The requests -/

/-- What the taking of a request does to the fault records. -/
structure FaultsServe (s t : State) : Prop where
  core     : FaultCore s → FaultCore t
  stop     : FaultCore s → s.prot.hallStop = true → (∀ c, hasKind (s.ch c).latched .hallStop = true) →
               ∀ c, hasKind (t.ch c).latched .hallStop = true

theorem FaultsHold.serve {s t : State} (h : FaultsHold s t) : FaultsServe s t :=
  ⟨h.core, fun _ _ x c => h.grows c _ (x c)⟩

theorem FaultsKept.serve {s t : State} (h : FaultsKept s t) : FaultsServe s t := h.holds.serve

theorem FaultsServe.refl (s : State) : FaultsServe s s := (FaultsKept.refl s).serve

theorem takePart_serve {k : ReqKind} {r : Request} {s : State} {f : State → State × ReplyBody}
    (h : FaultsServe s (f s).1) : FaultsServe s (takePart k r s f).1 :=
  takePart_ind (P := FaultsServe s) k r s f (.refl s) h

theorem takeCh_serve {k : ReqKind} {r : Request} {s : State} {f : Ch → State → State × ReplyBody}
    (h : ∀ c, FaultsServe s (f c s).1) : FaultsServe s (takeCh k r s f).1 :=
  takeCh_ind (P := FaultsServe s) k r s f (.refl s) h

/-- Checks 2 to 7 of R23 passed. -/
theorem startRefusal_none {s : State} {c : Ch} {form : Nat} (h : startRefusal s c form = none) :
    (s.ch c).state ≠ .follower ∧ s.prot.hallStop = false ∧ s.hall.state = .active ∧ (form = 1 ∨ form = 2) ∧
      ((s.ch c).state = .idle ∨ form = 1 ∧ (s.ch c).state = .complete) ∧
      ∀ d ∈ portsOf s c, (s.port d).presence ≠ .absent := by
  unfold startRefusal at h
  split at h
  · cases h
  rename_i hf
  split at h
  · cases h
  rename_i hstop
  split at h
  · cases h
  rename_i hhall
  split at h
  · cases h
  rename_i hform
  split at h
  · cases h
  rename_i hstate
  split at h
  · cases h
  rename_i hport
  refine ⟨by simpa [isFollower] using hf, by simpa using hstop, not_not.1 hhall, by tauto, by tauto, fun d hd e => hport ?_⟩
  exact List.any_eq_true.2 ⟨d, hd, by simpa using e⟩

theorem takeStart_serve (r : Request) (s : State) : FaultsServe s (takeStart r s).1 := by
  refine takeCh_serve fun c => ?_
  dsimp only
  split
  · exact .refl s
  rename_i hcheck
  split
  · exact .refl s
  split
  · exact .refl s
  obtain ⟨hfollower, -, -, -, hstate, -⟩ := startRefusal_none hcheck
  have hc : Unfaulted (s.ch c) := ⟨by rcases hstate with h | ⟨-, h⟩ <;> rw [h] <;> decide, hfollower⟩
  dsimp only
  split
  · exact ((startResume_faultsKept hc _).trans (coverStarted_faultsKept _ c)).serve
  · exact ((startBegin_faultsKept hc).trans (coverStarted_faultsKept _ c)).serve

theorem takeStop_serve (r : Request) (s : State) : FaultsServe s (takeStop r s).1 := by
  refine takeCh_serve fun c => ?_
  split
  · exact .refl s
  · exact .refl s
  · exact .refl s
  · exact .refl s
  · exact .refl s
  · rename_i hfollower _ _ hfaulted _
    exact (stopChannel_faultsKept ⟨hfaulted, hfollower⟩).serve

theorem setSettings_faultsKept (s : State) (c : Ch) (x : ChanSettings) : FaultsKept s (setSettings s c x) := by
  rw [setSettings_eq]
  exact (FaultsKept.modCh_same s c _ rfl rfl rfl).trans (.modArb _ _)

theorem dropPartner_latched (ch : Channel) : (dropPartner ch).latched = dropKind ch.latched .pairPartner := rfl

theorem dropKind_zero (k : FaultKind) : dropKind (0 : BitVec 16) k = 0 := by cases k <;> decide

theorem dropPartner_own {ch : Channel} (hs : ch.state = .follower) (hdrop : dropKind ch.latched .pairPartner = 0) :
    FaultOwn (dropPartner ch) where
  faulted hf := absurd hs hf
  first hl := absurd hdrop hl
  noFirst _ := if_pos hdrop

/-- CLEAR_FAULTS leaves a channel's own record together: the first-fault kind goes last (R142). -/
theorem clearKinds_own {s : State} {c : Ch} (named : BitVec 16) (h : FaultOwn (s.ch c)) :
    FaultOwn ((clearKinds s c (clearedKinds s c named)).ch c) := by
  rw [clearKinds_ch]
  refine ⟨fun hf => ?_, fun hl => ?_, fun hl => if_pos hl⟩
  · by_cases hz : (s.ch c).latched &&& ~~~(clearedKinds s c named) = 0
    · by_cases hfault : (s.ch c).state = .faulted
      · simp [hz, hfault]
      · simp [hz, hfault]
    · have hlatched : (s.ch c).latched ≠ 0 := fun e => hz (by rw [e]; simp)
      rw [if_neg fun e => hz e.1] at hf ⊢
      exact iff_of_true ((h.faulted hf).2 hlatched) hz
  · have hlatched : (s.ch c).latched ≠ 0 := fun e => hl (by rw [e]; simp)
    obtain ⟨f, hfirst, hkind⟩ := h.first hlatched
    refine ⟨f, by rw [if_neg hl]; exact hfirst, ?_⟩
    have hkept : hasKind (clearedKinds s c named) f.kind = false := by
      by_contra hcleared
      exact hl (clearedKinds_all hfirst (by simpa using hcleared))
    simp [hkind, hkept]

theorem heldByCause_partner {s : State} {c : Ch} (hlead : isLeader s c = true)
    (hdrop : dropKind (s.ch (partner c)).latched .pairPartner ≠ 0) : heldByCause s c .pairPartner = true := by
  simp only [heldByCause, hlead, Bool.true_and, decide_eq_true_eq]
  exact hdrop

theorem clearFaults_serve (s : State) (c : Ch) (named : BitVec 16) :
    FaultsServe s (clearKinds s c (clearedKinds s c named)) := by
  have hheld : ∀ k, heldByCause s c k = true → hasKind (clearedKinds s c named) k = false := fun k hk => by
    by_contra h
    obtain ⟨⟨-, -, hfree⟩, -⟩ := (hasKind_clearedKinds s c named k).1 (by simpa using h)
    rw [hk] at hfree; cases hfree
  -- An emptied leader leaves its follower empty too: PAIR_PARTNER is held while the follower holds another kind.
  have hemptied : FaultCore s → (s.ch c).latched &&& ~~~(clearedKinds s c named) = 0 → isLeader s c = true →
      dropKind (s.ch (partner c)).latched .pairPartner = 0 := fun h hz hlead => by
    by_contra hdrop
    have hp := (h.pair (partner c) ((isLeader_iff s c).1 hlead).2).told hdrop
    rw [partner_partner] at hp
    have hfalse := kinds_eq_zero_iff.1 hz .pairPartner
    simp [hp, hheld .pairPartner (heldByCause_partner hlead hdrop)] at hfalse
  have hstate : ∀ d, ((clearKinds s c (clearedKinds s c named)).ch d).state = .follower ↔ (s.ch d).state = .follower := by
    intro d
    by_cases hd : d = c
    · subst hd
      rw [clearKinds_ch]
      dsimp only
      split
      · rename_i e; simp [e.2]
      · exact Iff.rfl
    · rw [clearKinds_other _ _ _ _ hd]
      split <;> exact Iff.rfl
  have hown : FaultCore s → ∀ d, FaultOwn ((clearKinds s c (clearedKinds s c named)).ch d) := fun h d => by
    by_cases hd : d = c
    · subst hd; exact clearKinds_own named (h.own d)
    · rw [clearKinds_other _ _ _ _ hd]
      split
      · rename_i e
        obtain ⟨rfl, -, hz, hlead⟩ := e
        exact dropPartner_own ((isLeader_iff s c).1 hlead).2 (hemptied h hz hlead)
      · exact h.own d
  refine ⟨fun h => ⟨hown h, fun d hd => h.odd d ((hstate d).1 hd), fun f hf => ?_⟩, fun h hstop hall d => ?_⟩
  · have hff := (hstate f).1 hf
    have hp := h.pair f hff
    by_cases hcf : f = c
    · subst hcf
      rw [clearKinds_ch, clearKinds_other _ _ _ _ (partner_ne f), if_neg (by
        rintro ⟨-, hfault, -⟩; rw [hff] at hfault; cases hfault)]
      refine ⟨fun e => by rw [hp.clear e]; simp, fun hdrop => hp.told ?_⟩
      obtain ⟨j, hj, hjk⟩ := (dropKind_ne_zero_iff _ _).1 hdrop
      exact (dropKind_ne_zero_iff _ _).2 ⟨j, hj, by simp at hjk; exact hjk.1⟩
    · by_cases hpc : partner f = c
      · subst hpc
        have hodd := h.odd f hff
        have hlead : isLeader s (partner f) = true := (isLeader_iff s _).2 ⟨by
          have := partner_parity (partner f)
          rw [partner_partner] at this
          exact this.1 hodd, by rw [partner_partner]; exact hff⟩
        have hfch := clearKinds_other s (partner f) f (clearedKinds s (partner f) named) hcf
        rw [partner_partner] at hfch
        have hem := fun hz => hemptied h hz hlead
        rw [partner_partner] at hem
        by_cases hz : (s.ch (partner f)).latched &&& ~~~(clearedKinds s (partner f) named) = 0
        · by_cases hfault : (s.ch (partner f)).state = .faulted
          · rw [if_pos ⟨rfl, hfault, hz, hlead⟩] at hfch
            rw [hfch]
            refine ⟨fun _ => hem hz, fun e => absurd ?_ e⟩
            rw [dropPartner_latched, hem hz, dropKind_zero]
          · rw [if_neg fun e => hfault e.2.1] at hfch
            rw [hfch]
            exact ⟨fun _ => hp.clear hfault, fun e => absurd (hem hz) e⟩
        · rw [if_neg fun e => hz e.2.2.1] at hfch
          rw [hfch, clearKinds_ch]
          refine ⟨fun e => hp.clear fun e' => e ?_, fun hdrop => ?_⟩
          · exact (if_neg fun x => hz x.1).trans e'
          · have hcause := hheld .pairPartner (heldByCause_partner hlead (by rw [partner_partner]; exact hdrop))
            simp [hp.told hdrop, hcause]
      · rw [clearKinds_other _ _ _ _ hcf, clearKinds_other _ _ _ _ hpc, if_neg, if_neg]
        · exact hp
        · rintro ⟨e, -⟩; exact hpc (by rw [e, partner_partner])
        · rintro ⟨e, -⟩; exact hcf (by rw [← partner_partner f, e, partner_partner])
  · by_cases hd : d = c
    · subst hd
      rw [clearKinds_ch]
      simp [hall d, hheld .hallStop (by simp [heldByCause, hstop])]
    · rw [clearKinds_other _ _ _ _ hd]
      split
      · simp [dropPartner_latched, hall d]
      · exact hall d

/-! ### Pairs (R123, R124) -/

theorem FaultOwn.of_idle {ch : Channel} (h : FaultOwn ch) (hs : ch.state = .idle) : ch.latched = 0 := by
  by_contra hl
  have := (h.faulted (by rw [hs]; decide)).2 hl
  rw [hs] at this; cases this

theorem FaultOwn.of_empty {ch : Channel} (hl : ch.latched = 0) (hf : ch.firstFault = none) (hs : ch.state ≠ .faulted) :
    FaultOwn ch := ⟨fun _ => iff_of_false hs (not_not.2 hl), fun h => absurd hl h, fun _ => hf⟩

theorem evenMember_even (c : Ch) : (evenMember c).val % 2 = 0 := by revert c; decide

theorem formPair_serve {s : State} {l : Ch} (heven : l.val % 2 = 0) (hl : (s.ch l).state = .idle)
    (hf : (s.ch (partner l)).state = .idle) : FaultsServe s (formPair s l) := by
  have hlead : (formPair s l).ch l = { s.ch l with resume := none, packDone := false } := by
    unfold formPair
    rw [State.ch_modCh_ne _ (Ne.symm (partner_ne l)), State.ch_modCh_self]
  have hfollow : (formPair s l).ch (partner l) = { s.ch (partner l) with resume := none, state := .follower } := by
    unfold formPair
    rw [State.ch_modCh_self, State.ch_modCh_ne _ (partner_ne l)]
  have hother : ∀ d, d ≠ l → d ≠ partner l → (formPair s l).ch d = s.ch d := fun d h1 h2 => by
    unfold formPair
    rw [State.ch_modCh_ne _ h2, State.ch_modCh_ne _ h1]
  have hlatched : ∀ d, ((formPair s l).ch d).latched = (s.ch d).latched := fun d => by
    by_cases h1 : d = l
    · subst h1; rw [hlead]
    by_cases h2 : d = partner l
    · subst h2; rw [hfollow]
    rw [hother d h1 h2]
  refine ⟨fun h => ⟨fun d => ?_, fun d hd => ?_, fun d hd => ?_⟩, fun _ _ hall d => by rw [hlatched]; exact hall d⟩
  · by_cases h1 : d = l
    · subst h1; rw [hlead]; exact FaultOwn.of_same (a := s.ch d) ⟨rfl, rfl, Iff.rfl, Iff.rfl⟩ (h.own d)
    by_cases h2 : d = partner l
    · subst h2
      rw [hfollow]
      have hz := (h.own (partner l)).of_idle hf
      exact .of_empty hz ((h.own _).noFirst hz) (by simp)
    rw [hother d h1 h2]; exact h.own d
  · by_cases h1 : d = l
    · subst h1; rw [hlead] at hd; rw [hl] at hd; cases hd
    by_cases h2 : d = partner l
    · subst h2; exact (partner_parity l).2 heven
    rw [hother d h1 h2] at hd; exact h.odd d hd
  · by_cases h1 : d = l
    · subst h1; rw [hlead] at hd; rw [hl] at hd; cases hd
    by_cases h2 : d = partner l
    · subst h2
      have hz := (h.own (partner l)).of_idle hf
      refine ⟨fun _ => by rw [hlatched]; exact hz, fun e => absurd ?_ e⟩
      rw [hlatched, hz, dropKind_zero]
    rw [hother d h1 h2] at hd ⊢
    rw [hother _ (fun e => h2 (by rw [← e, partner_partner])) fun e => h1 (by rw [← partner_partner d, e, partner_partner])]
    exact h.pair d hd

theorem partPair_serve {s : State} {l : Ch} (hlead : isLeader s l = true) (hl : (s.ch l).state = .idle) :
    FaultsServe s (partPair s l) := by
  obtain ⟨-, hfollower⟩ := (isLeader_iff s l).1 hlead
  have hch : ∀ d, d ≠ partner l → FaultSame (s.ch d) ((partPair s l).ch d) := fun d h2 => by
    unfold partPair openPeriod
    rw [State.ch_modCh_ne _ h2, State.ch_modCh_ne _ h2]
    exact (FaultsKept.modCh_same s l _ rfl rfl rfl).chans d
  have hparted : ((partPair s l).ch (partner l)).latched = (s.ch (partner l)).latched ∧
      ((partPair s l).ch (partner l)).firstFault = (s.ch (partner l)).firstFault ∧
      ((partPair s l).ch (partner l)).state = .idle := by
    unfold partPair openPeriod
    rw [State.ch_modCh_self, State.ch_modCh_self, State.ch_modCh_ne _ (partner_ne l)]
    exact ⟨rfl, rfl, rfl⟩
  obtain ⟨hlatched, hfirst, hstate⟩ := hparted
  refine ⟨fun h => ⟨fun d => ?_, fun d hd => ?_, fun d hd => ?_⟩, fun _ _ hall d => ?_⟩
  · by_cases h2 : d = partner l
    · subst h2
      have hz : (s.ch (partner l)).latched = 0 := (h.pair _ hfollower).clear (by rw [partner_partner, hl]; decide)
      exact .of_empty (hlatched.trans hz) (hfirst.trans ((h.own _).noFirst hz)) (by rw [hstate]; decide)
    · exact (h.own d).of_same (hch d h2)
  · by_cases h2 : d = partner l
    · subst h2; rw [hstate] at hd; cases hd
    · exact h.odd d ((hch d h2).follower.1 hd)
  · by_cases h2 : d = partner l
    · subst h2; rw [hstate] at hd; cases hd
    · have hd' := (hch d h2).follower.1 hd
      by_cases h3 : partner d = partner l
      · have : d = l := by rw [← partner_partner d, h3, partner_partner]
        subst this
        rw [hl] at hd'; cases hd'
      · exact (h.pair d hd').of_same (hch _ h3) (hch d h2)
  · by_cases h2 : d = partner l
    · subst h2; rw [hlatched]; exact hall _
    · rw [(hch d h2).latched]; exact hall d

end Sys2Proof.Machine
end

section
/-! PROOF. O56, continued: RESET_CHANNEL (R44, R132), the requests together, the end of start-up, and every step. -/
namespace Sys2Proof.Machine
open Sys2Proof.Safety

/-! ### RESET_CHANNEL (R44, R132) -/

/-- What entering STOPPING does once the channel's state is STOPPING. -/
theorem enterStopping_from (s : State) (c : Ch) (dest : StopDest) (absentCounts : Bool) :
    FaultsKept (s.modCh c fun ch => { ch with state := .stopping, stopDest := dest }) (enterStopping s c dest absentCounts) := by
  have hc : Unfaulted ((s.modCh c fun ch => { ch with state := .stopping, stopDest := dest }).ch c) := by
    rw [State.ch_modCh_self]; exact ⟨by simp, by simp⟩
  have h0 := issue_faultsKept (s.modCh c fun ch => { ch with state := .stopping, stopDest := dest }) c
  exact .ite _ (h0.trans (finishStop_faultsKept (h0.unfaulted hc))) h0

theorem reoffer_faults (s : State) (c : Ch) : FaultsHold s (reoffer s c) := by
  have hfree : ∀ n, FaultsKept s { s with freeCount := n } := fun n => .of_chans rfl rfl rfl
  unfold reoffer
  dsimp only
  have h0 : FaultsHold s (if (s.ch c).unsafeFlag = true then
      offerUnsafe { s with freeCount := s.freeCount + 1 } c (reofferTag s c) else s) :=
    .ite _ ((hfree _).holds.trans (offerUnsafe_faults _ c _)) (.refl s)
  split
  · have h1 := h0.trans (offer_faults _ c (k := .chamberAlarm) (‹LineNo›.val : Int) (by decide))
    exact .ite _ (h1.trans (offer_faults _ c _ (by decide))) h1
  · exact .ite _ (h0.trans (offer_faults _ c _ (by decide))) h0

theorem reoffer_hallStop {s : State} {c : Ch} (hs : s.prot.hallStop = true) :
    hasKind ((reoffer s c).ch c).latched .hallStop = true := by
  have hlast : ∀ t : State, t.prot.hallStop = true →
      hasKind ((if t.prot.hallStop then offer t c .hallStop 0 else t).ch c).latched .hallStop = true := fun t ht => by
    rw [if_pos ht]; exact offer_hasKind 0 rfl
  unfold reoffer
  refine hlast _ ?_
  have hunsafe : (if (s.ch c).unsafeFlag = true then
      offerUnsafe { s with freeCount := s.freeCount + 1 } c (reofferTag s c) else s).prot.hallStop = true := by
    split
    · rw [(offerUnsafe_faults _ c _).hallStop]; exact hs
    · exact hs
  split
  · exact (offer_faults _ c _ (by decide)).hallStop.trans hunsafe
  · exact hunsafe

theorem reofferAll_faults (l : List Ch) (s : State) : FaultsHold s (l.foldl reoffer s) := by
  induction l generalizing s with
  | nil => exact .refl s
  | cons c l ih => exact (reoffer_faults s c).trans (ih _)

theorem reofferAll_hallStop {l : List Ch} {s : State} (hs : s.prot.hallStop = true) {c : Ch} (hc : c ∈ l) :
    hasKind ((l.foldl reoffer s).ch c).latched .hallStop = true := by
  induction l generalizing s with
  | nil => cases hc
  | cons d l ih =>
    rcases List.mem_cons.1 hc with rfl | hc
    · exact (reofferAll_faults l _).grows _ _ (reoffer_hallStop hs)
    · exact ih ((reoffer_faults s d).hallStop.trans hs) hc

/-- The channels a reset clears: the channel and, where it leads a pair, its follower. -/
theorem mem_portsOf (s : State) (c d : Ch) : d ∈ portsOf s c ↔ d = c ∨ isLeader s c = true ∧ d = partner c := by
  unfold portsOf
  split <;> simp_all

/-- A channel whose latched set and first-fault record a reset has cleared. -/
structure Emptied (a b : Channel) : Prop where
  latched  : b.latched = 0
  first    : b.firstFault = none
  unfaulted : a.state ≠ .follower → Unfaulted b
  follower : a.state = .follower → b.state = .follower

theorem Emptied.then_same {a b c : Channel} (h : Emptied a b) (hs : FaultSame b c) : Emptied a c :=
  ⟨hs.latched.trans h.latched, hs.first.trans h.first, fun e => hs.unfaulted (h.unfaulted e),
    fun e => hs.follower.2 (h.follower e)⟩

theorem Emptied.own {a b : Channel} (h : Emptied a b) : FaultOwn b := by
  refine ⟨fun hf => ?_, fun hl => absurd h.latched hl, fun _ => h.first⟩
  by_cases ha : a.state = .follower
  · exact absurd (h.follower ha) hf
  · exact iff_of_false (h.unfaulted ha).1 (not_not.2 h.latched)

/-- Emptying a channel out of FOLLOWER with its follower keeps the fault records together. -/
theorem FaultCore.emptied {s t : State} {c : Ch} (h : FaultCore s)
    (hin : ∀ d ∈ portsOf s c, Emptied (s.ch d) (t.ch d)) (hout : ∀ d, d ∉ portsOf s c → FaultSame (s.ch d) (t.ch d)) :
    FaultCore t := by
  have hfollower : ∀ d, (t.ch d).state = .follower → (s.ch d).state = .follower := fun d hd => by
    by_cases hm : d ∈ portsOf s c
    · by_contra he
      exact ((hin d hm).unfaulted he).2 hd
    · exact (hout d hm).follower.1 hd
  refine ⟨fun d => ?_, fun d hd => h.odd d (hfollower d hd), fun d hd => ?_⟩
  · by_cases hm : d ∈ portsOf s c
    · exact (hin d hm).own
    · exact (h.own d).of_same (hout d hm)
  · have hd' := hfollower d hd
    by_cases hm : d ∈ portsOf s c
    · have hz := (hin d hm).latched
      exact ⟨fun _ => hz, fun e => absurd (by rw [hz, dropKind_zero]) e⟩
    · have hp : partner d ∉ portsOf s c := by
        rw [mem_portsOf] at hm ⊢
        rintro (e | ⟨hlead, e⟩)
        · refine hm (.inr ⟨(isLeader_iff s c).2 ⟨?_, by rw [← e, partner_partner]; exact hd'⟩, by rw [← e, partner_partner]⟩)
          have := partner_parity (partner d)
          rw [partner_partner] at this
          rw [← e]; exact this.1 (h.odd d hd')
        · exact hm (.inl (by rw [← partner_partner d, e, partner_partner]))
      exact (h.pair d hd').of_same (hout _ hp) (hout d hm)

theorem resetChannel_eq (s : State) (c : Ch) :
    ∃ t, FaultsKept s t ∧ t.chans = s.chans ∧ resetChannel s c = (portsOf s c).foldl reoffer (settle (enterStopping
      ((if isLeader t c then t.modCh (partner c) Channel.clearFollower else t).modCh c Channel.clearRun) c .idle true)) := by
  have hchans : (withdrawEntries (releaseGrant s c) c).chans = s.chans := by
    unfold withdrawEntries withdrawWaiting releaseGrant
    dsimp only
    repeat' split
    all_goals rfl
  exact ⟨withdrawEntries (releaseGrant s c) c,
    (releaseGrant_faultsKept s c).trans (withdrawEntries_faultsKept _ c), hchans, rfl⟩

/-- What a reset has done to the fault records before it offers kinds again. -/
theorem resetChannel_emptied {s : State} {c : Ch} (hc : (s.ch c).state ≠ .follower) :
    ∃ t, resetChannel s c = (portsOf s c).foldl reoffer t ∧ t.prot.hallStop = s.prot.hallStop ∧ t.part = s.part ∧
      (∀ d ∈ portsOf s c, Emptied (s.ch d) (t.ch d)) ∧ ∀ d, d ∉ portsOf s c → FaultSame (s.ch d) (t.ch d) := by
  obtain ⟨u, hu, hchans, heq⟩ := resetChannel_eq s c
  have hch : ∀ d, u.ch d = s.ch d := fun d => by rw [State.ch, State.ch, hchans]
  have hlead : isLeader u c = isLeader s c := by simp [isLeader, isFollower, hch]
  have hcleared : ∀ v : State, v = (if isLeader u c then u.modCh (partner c) Channel.clearFollower else u) →
      (∀ d, v.ch d = if d = partner c ∧ isLeader s c = true then (s.ch d).clearFollower else s.ch d) ∧
        v.prot = u.prot ∧ v.part = u.part := by
    rintro v rfl
    rw [hlead]
    split
    · rename_i h
      refine ⟨fun d => ?_, rfl, rfl⟩
      rw [State.ch_modCh, hch, hch]
      by_cases hd : d = partner c
      · subst hd; simp [h]
      · simp [hd]
    · rename_i h
      exact ⟨fun d => by rw [hch]; simp [h], rfl, rfl⟩
  obtain ⟨hv, hprot, hpart⟩ := hcleared _ rfl
  generalize (if isLeader u c then u.modCh (partner c) Channel.clearFollower else u) = v at heq hv hprot hpart
  have hkept := (enterStopping_from (v.modCh c Channel.clearRun) c .idle true).trans (settle_faultsKept _)
  refine ⟨_, heq, ?_, ?_, fun d hd => ?_, fun d hd => ?_⟩
  · rw [hkept.hallStop, ← hu.hallStop, ← hprot]; rfl
  · rw [hkept.part, ← hu.part, ← hpart]; rfl
  · refine Emptied.then_same ?_ (hkept.chans d)
    by_cases hdc : d = c
    · subst hdc
      rw [State.ch_modCh_self, State.ch_modCh_self]
      exact ⟨rfl, rfl, fun _ => ⟨by simp, by simp⟩, fun e => absurd e hc⟩
    · have hpartner := ((mem_portsOf s c d).1 hd).resolve_left hdc
      rw [State.ch_modCh_ne _ hdc, State.ch_modCh_ne _ hdc, hv, if_pos ⟨hpartner.2, hpartner.1⟩]
      have hfollower : (s.ch d).state = .follower := by rw [hpartner.2]; exact ((isLeader_iff s c).1 hpartner.1).2
      exact ⟨rfl, rfl, fun e => absurd hfollower e, fun _ => hfollower⟩
  · have hd' := hkept.chans d
    have hdc : d ≠ c := fun e => hd ((mem_portsOf s c d).2 (.inl e))
    rw [State.ch_modCh_ne _ hdc, State.ch_modCh_ne _ hdc, hv, if_neg fun e => hd ((mem_portsOf s c d).2 (.inr ⟨e.2, e.1⟩))] at hd'
    exact hd'

theorem resetChannel_serve {s : State} {c : Ch} (hc : FaultCore s → (s.ch c).state ≠ .follower) :
    FaultsServe s (resetChannel s c) := by
  refine ⟨fun h => ?_, fun h hstop hall d => ?_⟩ <;>
    obtain ⟨t, heq, hs, -, hin, hout⟩ := resetChannel_emptied (hc h) <;> rw [heq]
  · exact (reofferAll_faults _ t).core (h.emptied hin hout)
  · by_cases hd : d ∈ portsOf s c
    · exact reofferAll_hallStop (hs.trans hstop) hd
    · exact (reofferAll_faults _ t).grows _ _ (by rw [(hout d hd).latched]; exact hall d)

/-- The channel a reset is addressed to, a follower's leader in its place, is no follower. -/
theorem FaultCore.leaderOf_ne {s : State} (h : FaultCore s) (c : Ch) : (s.ch (leaderOf s c)).state ≠ .follower := by
  by_cases hc : (s.ch c).state = .follower
  · rw [leaderOf_follower hc]
    intro e
    have h1 := h.odd _ e
    have h2 := h.odd _ hc
    rw [partner_parity] at h1
    omega
  · rw [leaderOf_self hc]; exact hc

/-! ### The taking of a request -/

theorem takeSetAlarmRoute_faults (r : Request) (s : State) : FaultsHold s (takeSetAlarmRoute r s).1 := by
  refine takePart_ind (P := FaultsHold s) _ _ _ _ (.refl s) ?_
  dsimp only
  split
  · split
    · exact .refl s
    · rename_i line _ route _
      dsimp only
      have h0 : ∀ x, FaultsHold s (s.modLine ⟨field r.body 0 1, line⟩ fun l => { l with settings := x }) := fun x =>
        (modLine_faultsKept s _ _).holds
      have h1 : ∀ (t : State) (p : Prop) [Decidable p] (b : Ch → Bool), FaultsHold s t →
          FaultsHold s (if p then followCover b t allCh else t) := fun t p _ b ht =>
        .ite p (ht.trans (followCover_faultsKept b allCh t).holds) ht
      have h2 : ∀ (t : State) (p : Prop) [Decidable p] (l : LineNo) (b : Ch → Bool), FaultsHold s t →
          FaultsHold s (if p then offerAlarm l b t allCh else t) := fun t p _ l b ht =>
        .ite p (ht.trans (offerAlarm_faults l b allCh t)) ht
      exact h2 _ _ _ _ (h1 _ _ _ (h0 _))
  · exact .refl s

/-- What the taking of a request of any kind does to the fault records. -/
theorem takeKind_serve (k : ReqKind) (r : Request) (s : State) : FaultsServe s (takeKind k r s).1 := by
  have hstill : ∀ t : State, t.chans = s.chans → t.prot.hallStop = s.prot.hallStop → t.part = s.part → FaultsServe s t :=
    fun t h hs hp => (FaultsKept.of_chans h hs hp).serve
  have hsame : ∀ (c : Ch) (f : Channel → Channel), (∀ ch, (f ch).latched = ch.latched ∧ (f ch).firstFault = ch.firstFault ∧
      (f ch).state = ch.state) → FaultsServe s (s.modCh c f) := fun c f h =>
    (FaultsKept.modCh_same s c f (h _).1 (h _).2.1 (h _).2.2).serve
  cases k <;> unfold takeKind <;> dsimp only
  case identify => exact takePart_serve (.refl s)
  case getStatus =>
    refine takePart_serve ?_
    dsimp only
    split
    · exact hstill _ rfl rfl rfl
    · exact .refl s
  case getBudget => exact takePart_serve (.refl s)
  case setBudget =>
    exact takePart_serve ((FaultsKept.modArb s _).trans (.of_runs (settleEvaluating_runs _))).serve
  case setAlarmRoute => exact (takeSetAlarmRoute_faults r s).serve
  case pauseHall =>
    refine takePart_serve ?_
    dsimp only
    split
    · exact (pauseHall_faultsKept s).serve
    · exact .refl s
  case resumeHall =>
    refine takePart_serve ?_
    dsimp only
    split
    · exact .refl s
    · exact (wakeHall_faultsKept s _).serve
  case setWake => exact takePart_serve (hstill _ rfl rfl rfl)
  case holdReports => exact takePart_serve (hstill _ rfl rfl rfl)
  case saveSettings =>
    refine takePart_serve ?_
    dsimp only
    repeat' split
    · exact .refl s
    · exact .refl s
    all_goals exact hstill _ rfl rfl rfl
  case resetPart => exact takePart_serve (hstill _ rfl rfl rfl)
  case writeSteps =>
    refine takePart_serve ?_
    dsimp only
    repeat' split
    · exact .refl s
    · exact .refl s
    · exact .refl s
    · exact hstill _ rfl rfl rfl
  case readSteps =>
    refine takePart_serve ?_
    dsimp only
    split <;> exact .refl s
  case setWindow =>
    refine takeCh_serve fun c => ?_
    dsimp only
    repeat' split
    all_goals first | exact .refl s | (dsimp only; exact hsame c _ fun _ => ⟨rfl, rfl, rfl⟩)
  case getChannel =>
    refine takeCh_serve fun c => ?_
    split <;> exact .refl s
  case setChannel =>
    refine takeCh_serve fun c => ?_
    dsimp only
    repeat' split
    · exact .refl s
    · exact .refl s
    · exact .refl s
    · exact (setSettings_faultsKept s c _).serve
  case setCalibration =>
    refine takeCh_serve fun c => ?_
    dsimp only
    exact hsame c _ fun _ => ⟨rfl, rfl, rfl⟩
  case start => exact takeStart_serve r s
  case stop => exact takeStop_serve r s
  case hold =>
    refine takeCh_serve fun c => ?_
    split
    · exact .refl s
    · exact (FaultsKept.ite _ (.refl s) (holdChannel_faultsKept s c .host)).serve
  case release =>
    refine takeCh_serve fun c => ?_
    split
    · exact .refl s
    · exact (unholdChannel_faultsKept s c _).serve
  case swap =>
    refine takeCh_serve fun c => ?_
    dsimp only
    repeat' split
    all_goals first | exact .refl s | (dsimp only; exact hsame c _ fun _ => ⟨rfl, rfl, rfl⟩)
  case cancelSwap =>
    refine takeCh_serve fun c => ?_
    split
    · exact .refl s
    · dsimp only
      exact hsame c _ fun _ => ⟨rfl, rfl, rfl⟩
  case profileAppend =>
    have happend : ∀ (c : Ch) points, FaultsServe s (s.modCh c fun ch => ch.append points) := fun c points =>
      hsame c _ fun ch => by unfold Channel.append; split <;> exact ⟨rfl, rfl, rfl⟩
    refine takeCh_serve fun c => ?_
    dsimp only
    repeat' split
    · exact .refl s
    · exact .refl s
    · exact .refl s
    · exact happend c _
    · exact happend c _
  case profileFlush =>
    refine takeCh_serve fun c => ?_
    dsimp only
    repeat' split
    · exact .refl s
    · exact .refl s
    · dsimp only
      exact hsame c _ fun _ => ⟨rfl, rfl, rfl⟩
  case clearFaults => exact takeCh_serve fun c => clearFaults_serve s c _
  case readAccounts => exact takeCh_serve fun c => .refl s
  case clearLifetime =>
    refine takeCh_serve fun c => ?_
    repeat' split
    · exact .refl s
    · exact .refl s
    · dsimp only
      exact hsame c _ fun _ => ⟨rfl, rfl, rfl⟩
  case setPair =>
    refine takeCh_serve fun c => ?_
    dsimp only
    split
    · exact .refl s
    · split
      · exact .refl s
      · rename_i h
        rw [not_or, not_not, not_not] at h
        exact formPair_serve (evenMember_even c) h.1 h.2
  case unpair =>
    refine takeCh_serve fun c => ?_
    dsimp only
    split
    · exact .refl s
    · rename_i hlead
      split
      · exact .refl s
      · rename_i h
        exact partPair_serve (by simpa using hlead) (not_not.1 h)
  case resetChannel => exact takeCh_serve fun c => resetChannel_serve fun h => h.leaderOf_ne c
  case resetStageLine =>
    refine takeCh_serve fun c => ?_
    dsimp only
    split
    · exact .refl s
    · exact ((FaultsKept.modCh_same s c _ rfl rfl rfl).trans (settlingTest_faultsKept _)).serve

/-! ### The end of start-up (R195) -/

theorem beforeWatch_core {s : State} (h : FaultCore s) (hidle : ∀ c, (s.ch c).state = .idle) :
    FaultCore (beforeWatch s) ∧ ∀ c, ((beforeWatch s).ch c).latched = 0 := by
  have hlatched : ∀ c, ((beforeWatch s).ch c).latched = 0 := fun c =>
    (beforeWatch_leaves Channel.latched s c (fun _ => rfl) (fun _ _ => rfl)).trans ((h.own c).of_idle (hidle c))
  have hfirst : ∀ c, ((beforeWatch s).ch c).firstFault = none := fun c =>
    (beforeWatch_leaves Channel.firstFault s c (fun _ => rfl) (fun _ _ => rfl)).trans
      ((h.own c).noFirst ((h.own c).of_idle (hidle c)))
  have hstate := beforeWatch_state s
  refine ⟨⟨fun c => .of_empty (hlatched c) (hfirst c) ?_, fun c hc => ?_, fun c _ =>
    ⟨fun _ => hlatched c, fun e => absurd (by rw [hlatched, dropKind_zero]) e⟩⟩, hlatched⟩
  · rw [hstate, hidle]; split <;> decide
  · rw [hstate, hidle] at hc
    split at hc
    · rename_i hp
      obtain ⟨p, rfl, -⟩ := hp
      revert p; decide
    · cases hc

theorem watchLine_faults (s : State) (line : LineNo) : FaultsHold s (watchLine s line) := by
  unfold watchLine
  exact .ite _ ((modLine_faultsKept s line _).holds.trans (alarmRawChange_faults _ line true)) (.refl s)

/-- The watching of the hall lines keeps the fault records together, and an asserted hall stop line leaves HALL_STOP in every
channel. -/
theorem watchLines_faults {s : State} (h : FaultCore s) :
    FaultCore (watchLines s) ∧ (watchLines s).prot.hallStop = s.prot.hallStop ∧
      (s.prot.hallStop = true → ∀ c, hasKind ((watchLines s).ch c).latched .hallStop = true) := by
  have hlines : ∀ (l : List LineNo) (u : State), FaultsHold u (l.foldl watchLine u) := by
    intro l
    induction l with
    | nil => exact fun u => .refl u
    | cons line l ih => exact fun u => (watchLine_faults u line).trans (ih _)
  have hrest : ∀ u : State, FaultsHold u (curtailFollows (allLines.foldl watchLine u)) := fun u =>
    (hlines allLines u).trans (curtailFollows_faultsKept _).holds
  unfold watchLines
  dsimp only
  by_cases hs : s.prot.hallStop = true
  · rw [if_pos hs]
    obtain ⟨hcore, hall⟩ := hallStopActs_faults h
    exact ⟨(hrest _).core hcore, by rw [(hrest _).hallStop, (hallStopActs_keeps s).prot],
      fun _ c => (hrest _).grows c _ (hall c)⟩
  · rw [if_neg hs]
    exact ⟨(hrest s).core h, (hrest s).hallStop, fun e => absurd e hs⟩

theorem faultsSound_of_core {s : State} (h : FaultCore s)
    (hs : s.part = .ready → s.prot.hallStop = true → ∀ c, hasKind (s.ch c).latched .hallStop = true)
    (hp : s.part ≠ .starting) : FaultsSound s :=
  ⟨fun c => (h.own c).faulted, fun c => (h.own c).first, fun c => (h.own c).noFirst,
    fun c hc => ⟨h.odd c hc, (h.pair c hc).clear, (h.pair c hc).told⟩, hs, fun e => absurd e hp⟩

theorem endStartUp_faults {s : State} (h : FaultsSound s) (hp : s.part = .starting) : FaultsSound (endStartUp s) := by
  obtain ⟨hcore, -⟩ := beforeWatch_core (faultCore_of_sound h) (h.starting hp)
  obtain ⟨hwatched, hstop, hall⟩ := watchLines_faults hcore
  have hreport : ∀ u : State, FaultsKept u (reportStarted u) := fun u => by
    unfold reportStarted
    split
    · exact (reportPart_faultsKept u _).trans (reportPart_faultsKept _ _)
    · exact reportPart_faultsKept u _
  have hkept := hreport (watchLines (beforeWatch s))
  have hend := FaultCore.of_kept hkept hwatched
  have hsame : ∀ u : State, FaultCore u → (u.prot.hallStop = true → ∀ c, hasKind (u.ch c).latched .hallStop = true) →
      FaultsSound { u with part := .ready } := fun u hu hs =>
    faultsSound_of_core ⟨hu.own, hu.odd, hu.pair⟩ (fun _ => hs) nofun
  have hsound := hsame _ hend fun hs c => by
    rw [(hkept.chans c).latched]
    exact hall (by rw [← hstop, ← hkept.hallStop]; exact hs) c
  exact endStartUp_eq s ▸ hsound

/-! ### Every step -/

/-- Faults stay sound through an act that keeps channels, hall stop line and part state. -/
theorem faultsSound_of_kept {s t : State} (h : FaultsSound s) (hk : FaultsKept s t)
    (hstate : s.part = .starting → ∀ c, (t.ch c).state = (s.ch c).state) : FaultsSound t := by
  have hcore := FaultCore.of_kept hk (faultCore_of_sound h)
  refine ⟨fun c => (hcore.own c).faulted, fun c => (hcore.own c).first, fun c => (hcore.own c).noFirst,
    fun c hc => ⟨hcore.odd c hc, (hcore.pair c hc).clear, (hcore.pair c hc).told⟩, fun hp hs c => ?_, fun hp c => ?_⟩
  · rw [(hk.chans c).latched]
    exact h.hallStop (hk.part ▸ hp) (hk.hallStop ▸ hs) c
  · have hp' : s.part = .starting := hk.part ▸ hp
    rw [hstate hp' c]
    exact h.starting hp' c

theorem exec_faultsSound {i : Instr} {s t : State} (h : FaultsSound s) (hi : exec i s = .next t) : FaultsSound t := by
  cases happens_of_exec hi with
  | link l => exact faultsSound_of_kept h (.of_chans rfl rfl rfl) fun _ _ => rfl
  | event f hf hp =>
    have hfin := finish_faultsKept s (f s)
    by_cases ha : i = .hallStopAssert
    · subst ha
      cases hf
      unfold hallStopAsserts at hfin ⊢
      split at hfin
      · rename_i hs
        rw [if_pos hs]
        exact faultsSound_of_kept h hfin fun e => by rw [hp] at e; cases e
      · rename_i hs
        rw [if_neg hs]
        obtain ⟨hcore, hall⟩ := hallStopActs_faults (s := s.modProt fun p => { p with hallStop := true }) ⟨(faultCore_of_sound h).own, (faultCore_of_sound h).odd, (faultCore_of_sound h).pair⟩
        refine faultsSound_of_core (.of_kept hfin hcore) (fun _ _ c => by rw [(hfin.chans c).latched]; exact hall c) ?_
        rw [hfin.part, (hallStopActs_keeps _).part]
        show s.part ≠ .starting
        rw [hp]; decide
    by_cases hd : i = .hallStopDeassert
    · subst hd
      cases hf
      unfold hallStopDeasserts at hfin ⊢
      split at hfin
      · rename_i hs
        rw [if_pos hs]
        refine faultsSound_of_core (.of_kept hfin ⟨(faultCore_of_sound h).own, (faultCore_of_sound h).odd, (faultCore_of_sound h).pair⟩) (fun _ e => ?_) ?_
        · rw [hfin.hallStop] at e; cases e
        · rw [hfin.part]
          show s.part ≠ .starting
          rw [hp]; decide
      · rename_i hs
        rw [if_neg hs]
        exact faultsSound_of_kept h hfin fun e => by rw [hp] at e; cases e
    have hhold := (eventAct_faults hf ha hd s).trans hfin.holds
    exact faultsSound_of_core (hhold.core (faultCore_of_sound h)) (fun _ e c => hhold.grows c _ (h.hallStop hp (hhold.hallStop ▸ e) c))
      (by rw [hhold.part, hp]; decide)
  | request g k l reply hp hk hg =>
    have hserve := takeKind_serve k (Frame.request g) { s with link := l }
    have hstays := takeKind_stays k (Frame.request g) { s with link := l }
    have hfin := finish_faultsKept s ((takeKind k (Frame.request g) { s with link := l }).1.modLink fun m =>
      { m with reply := some reply })
    have hlink : FaultCore { s with link := l } := ⟨(faultCore_of_sound h).own, (faultCore_of_sound h).odd, (faultCore_of_sound h).pair⟩
    have hcore := hserve.core hlink
    refine faultsSound_of_core (.of_kept hfin ⟨hcore.own, hcore.odd, hcore.pair⟩) (fun hp' hs c => ?_) ?_
    · rw [hfin.part] at hp'
      rw [hfin.hallStop] at hs
      rw [(hfin.chans c).latched]
      have hp'' : s.part = .ready := hstays.part.symm.trans hp'
      have hs' : s.prot.hallStop = true := hstays.hallStop.symm.trans hs
      exact hserve.stop hlink hs' (h.hallStop hp'' hs') c
    · rw [hfin.part]
      show (takeKind k (Frame.request g) { s with link := l }).1.part ≠ .starting
      rw [hstays.part]
      exact hp
  | hallStopLevel hp x => exact ⟨h.faulted, h.first, h.noFirst, h.follower, fun e => absurd e hp, h.starting⟩
  | alarmLevel hp line x => exact faultsSound_of_kept h (.of_chans rfl rfl rfl) fun _ _ => rfl
  | curtailLevel hp x => exact faultsSound_of_kept h (.of_chans rfl rfl rfl) fun _ _ => rfl
  | saved image l => exact faultsSound_of_kept h (.of_chans rfl rfl rfl) fun _ _ => rfl
  | startUp u cause => exact powerOn_faultsSound _ _ _ _ _ _ _ _ _ _ (by decide)
  | startUpEnd hp =>
    refine faultsSound_of_kept (endStartUp_faults h hp) (pump_faultsKept _) fun _ c => ?_
    rw [pump_ch]
  | halt l => exact ⟨h.faulted, h.first, h.noFirst, h.follower, nofun, nofun⟩
  | off => exact powerOn_faultsSound _ _ _ _ _ _ _ _ _ _ (by decide)

theorem tick_faultsKept (s : State) : FaultsKept s (tick s) := by
  unfold tick
  refine .ite _ ⟨fun c => ?_, rfl, rfl⟩ (.refl s)
  have hch : ({ s with
      link := { s.link with holdTimer := runDown s.link.holdTimer }
      chans := s.chans.map Channel.tick
      arb := s.arb.tick
      prot := { s.prot with lines := s.prot.lines.map AlarmLine.tick }
      hall := s.hall.tick } : State).ch c = (s.ch c).tick := by simp [State.ch]
  rw [hch]
  exact ⟨rfl, rfl, Iff.rfl, Iff.rfl⟩

/-- Settles O56. -/
theorem faultsStaySound : Obligations.FaultsStaySound := by
  unfold Obligations.FaultsStaySound
  intro s t hs h
  refine step_keeps (P := FaultsSound) hs
    (fun _ b => ⟨b.faulted, b.first, b.noFirst, b.follower, b.hallStop, b.starting⟩)
    (fun i u v hu he => exec_faultsSound hu he) (fun b => faultsSound_of_kept b (tick_faultsKept s) fun hp c => ?_) h
  rw [tick, if_neg (by rw [hp]; decide)]

end Sys2Proof.Machine
end

section
/-! PROOF. The budget arbiter's own arithmetic: figures and sums (R84, R85), the removals of a shedding (R101), and the grants of
an evaluation (R90, R93, R96). -/
namespace Sys2Proof.Machine
open Sys2Proof.Safety

/-! ### Figures and sums (R84, R85) -/

theorem ceilDiv_bounds (n : Nat) {d : Nat} (h : 0 < d) : n ≤ d * ceilDiv n d ∧ d * ceilDiv n d < n + d := by
  unfold ceilDiv
  have hdiv := Nat.div_add_mod (n + (d - 1)) d
  have hmod := Nat.mod_lt (n + (d - 1)) h
  omega

theorem figures_bounds (eta amount : Nat) (h : 0 < eta) :
    amount * 1000 ≤ eta * lcOf eta amount ∧ eta * lcOf eta amount < amount * 1000 + eta ∧
      1000 * ldOf eta amount ≤ amount * eta ∧ amount * eta < 1000 * ldOf eta amount + 1000 := by
  obtain ⟨hlow, hhigh⟩ := ceilDiv_bounds (amount * 1000) h
  unfold lcOf ldOf
  refine ⟨hlow, hhigh, ?_⟩
  omega

theorem sum_map_ite (l : List Grant) (p : Grant → Bool) (q : Grant → Prop) [DecidablePred q] (hpq : ∀ g, p g = true ↔ q g)
    (f : Grant → Nat) : (l.map fun g => if q g then f g else 0).sum = ((l.filter p).map f).sum := by
  induction l with
  | nil => rfl
  | cons g l ih =>
    rw [List.map_cons, List.sum_cons, ih, List.filter_cons]
    by_cases h : q g
    · rw [if_pos h, if_pos ((hpq g).2 h), List.map_cons, List.sum_cons]
    · rw [if_neg h, if_neg fun e => h ((hpq g).1 e), Nat.zero_add]

theorem sumsOf_totals (b : BudgetSettings) (gs : List Grant) :
    let total := fun (p : Grant → Bool) (figure : Nat → Nat → Nat) =>
      ((gs.filter p).map fun g => figure b.eta g.amount).sum
    (sumsOf b.eta gs).chgAll = total (fun g => g.dir = .charge ∨ g.dir = .both) lcOf ∧
    (sumsOf b.eta gs).chgLive = total (fun g => g.dir = .charge ∧ g.live = true) lcOf ∧
    (sumsOf b.eta gs).disAll = total (fun g => g.dir = .discharge ∨ g.dir = .both) ldOf ∧
    (sumsOf b.eta gs).disLive = total (fun g => g.dir = .discharge ∧ g.live = true) ldOf := by
  refine ⟨?_, ?_, ?_, ?_⟩ <;> refine sum_map_ite gs _ _ (fun g => ?_) _
  · cases g.dir <;> decide
  · simp [and_comm]
  · cases g.dir <;> decide
  · simp [and_comm]

theorem intakeOk_iff (b : BudgetSettings) (cEff : Nat) (gs : List Grant) :
    intakeOk b cEff gs = true ↔ (sumsOf b.eta gs).chgAll ≤ cEff + (sumsOf b.eta gs).disLive * b.u / 1000 := by
  rw [intakeOk, decide_eq_true_iff, intakeSide]
  generalize (sumsOf b.eta gs).disLive * b.u / 1000 = credit
  omega

theorem returnOk_iff (b : BudgetSettings) (gs : List Grant) :
    returnOk b gs = true ↔ (sumsOf b.eta gs).disAll ≤ b.cRet + (sumsOf b.eta gs).chgLive * b.u / 1000 := by
  rw [returnOk, decide_eq_true_iff, returnSide]
  generalize (sumsOf b.eta gs).chgLive * b.u / 1000 = credit
  omega

theorem withinCeilings_iff (b : BudgetSettings) (cEff : Nat) (gs : List Grant) :
    withinCeilings b cEff gs = true ↔ intakeOk b cEff gs = true ∧ returnOk b gs = true := by
  simp [withinCeilings]

theorem withinCeilings_nil (b : BudgetSettings) (cEff : Nat) : withinCeilings b cEff [] = true := by
  rw [withinCeilings_iff, intakeOk_iff, returnOk_iff]
  simp [sumsOf]

theorem sumsOf_append (eta : Nat) (gs hs : List Grant) :
    (sumsOf eta (gs ++ hs)).chgAll = (sumsOf eta gs).chgAll + (sumsOf eta hs).chgAll ∧
    (sumsOf eta (gs ++ hs)).chgLive = (sumsOf eta gs).chgLive + (sumsOf eta hs).chgLive ∧
    (sumsOf eta (gs ++ hs)).disAll = (sumsOf eta gs).disAll + (sumsOf eta hs).disAll ∧
    (sumsOf eta (gs ++ hs)).disLive = (sumsOf eta gs).disLive + (sumsOf eta hs).disLive := by
  simp [sumsOf]

/-! ### The removals of a shedding (R101) -/

/-- The grants a test's direction counts: those shedding may remove for it. -/
def countsFor : BudgetTest → Grant → Bool
  | .intake => fun g => g.dir.onCharge
  | .return => fun g => g.dir.onDischarge

theorem countsFor_iff (x : BudgetTest) (g : Grant) :
    countsFor x g = true ↔ g.dir = .both ∨ g.dir = (if x = .intake then .charge else .discharge) := by
  cases x <;> cases h : g.dir <;> simp [countsFor, h, Direction.onCharge, Direction.onDischarge]

theorem removeNewest_some {p : Grant → Bool} {gs : List Grant} {g : Grant} {rest : List Grant}
    (h : removeNewest p gs = some (g, rest)) :
    ∃ older newer, gs = older ++ g :: newer ∧ rest = older ++ newer ∧ p g = true ∧ ∀ x ∈ newer, p x = false := by
  have hnone : ∀ l : List Grant, removeNewest p l = none → ∀ x ∈ l, p x = false := by
    intro l
    induction l with
    | nil => exact fun _ _ h => absurd h List.not_mem_nil
    | cons a l ih =>
      intro hl
      simp only [removeNewest] at hl
      split at hl
      · cases hl
      · rename_i hr
        split at hl
        · cases hl
        · rename_i ha
          exact fun x hx => (List.mem_cons.1 hx).elim (fun e => e ▸ by simpa using ha) (ih hr x)
  induction gs generalizing g rest with
  | nil => cases h
  | cons a gs ih =>
    simp only [removeNewest] at h
    split at h
    · rename_i hr
      cases h
      obtain ⟨older, newer, rfl, rfl, hg, hn⟩ := ih hr
      exact ⟨a :: older, newer, rfl, rfl, hg, hn⟩
    · rename_i hr
      split at h
      · rename_i ha
        cases h
        exact ⟨[], gs, rfl, rfl, ha, hnone gs hr⟩
      · cases h

theorem removeNewest_none {p : Grant → Bool} {gs : List Grant} (h : removeNewest p gs = none) : ∀ x ∈ gs, p x = false := by
  induction gs with
  | nil => exact fun _ h => absurd h List.not_mem_nil
  | cons a gs ih =>
    simp only [removeNewest] at h
    split at h
    · cases h
    · rename_i hr
      split at h
      · cases h
      · rename_i ha
        exact fun x hx => (List.mem_cons.1 hx).elim (fun e => e ▸ by simpa using ha) (ih hr x)

/-- The test after a list of removals: that of the last one, or the one before them. -/
def testAfter (last : Option BudgetTest) (l : List (Grant × BudgetTest)) : Option BudgetTest :=
  (l.getLast?.map Prod.snd).or last

@[simp] theorem testAfter_nil (last : Option BudgetTest) : testAfter last [] = last := rfl

@[simp] theorem testAfter_cons (last : Option BudgetTest) (x : Grant × BudgetTest) (l : List (Grant × BudgetTest)) :
    testAfter last (x :: l) = testAfter (some x.2) l := by
  cases l with
  | nil => rfl
  | cons y l => simp [testAfter, List.getLast?_cons]

@[simp] theorem testAfter_append (last : Option BudgetTest) (l m : List (Grant × BudgetTest)) :
    testAfter last (l ++ m) = testAfter (testAfter last l) m := by
  induction l generalizing last with
  | nil => rfl
  | cons x l ih => simp [ih]

/-- When a removal is made for a test: for the intake test while it fails, once the return test holds where removals for it
came before; for the return test while it fails, once the intake test holds or removals for the return test have begun. -/
def RemovesFor (b : BudgetSettings) (cEff : Nat) (last : Option BudgetTest) (gs : List Grant) : BudgetTest → Prop
  | .intake => intakeOk b cEff gs = false ∧ (last = some .return → returnOk b gs = true)
  | .return => returnOk b gs = false ∧ (intakeOk b cEff gs = true ∨ last = some .return)

/-- The removals of a shedding in order (R101): each takes the newest grant its test's direction counts. -/
inductive Removals (b : BudgetSettings) (cEff : Nat) :
    Option BudgetTest → List Grant → List (Grant × BudgetTest) → List Grant → Prop
  | done (last : Option BudgetTest) (gs : List Grant) : Removals b cEff last gs [] gs
  | take {last : Option BudgetTest} {older newer out : List Grant} {g : Grant} {x : BudgetTest}
      {rest : List (Grant × BudgetTest)} (why : RemovesFor b cEff last (older ++ g :: newer) x) (counted : countsFor x g = true)
      (newest : ∀ y ∈ newer, countsFor x y = false) (later : Removals b cEff (some x) (older ++ newer) rest out) :
      Removals b cEff last (older ++ g :: newer) ((g, x) :: rest) out

theorem Removals.append {b : BudgetSettings} {cEff : Nat} {last : Option BudgetTest} {gs mid out : List Grant}
    {l m : List (Grant × BudgetTest)} (h : Removals b cEff last gs l mid) (k : Removals b cEff (testAfter last l) mid m out) :
    Removals b cEff last gs (l ++ m) out := by
  induction h with
  | done => exact k
  | take why counted newest _ ih => exact .take why counted newest (ih (by simpa using k))

theorem Removals.length {b : BudgetSettings} {cEff : Nat} {last : Option BudgetTest} {gs out : List Grant}
    {l : List (Grant × BudgetTest)} (h : Removals b cEff last gs l out) : out.length + l.length = gs.length := by
  induction h with
  | done => rfl
  | take _ _ _ _ ih =>
    rw [List.length_append] at ih
    rw [List.length_append, List.length_cons, List.length_cons]
    omega

theorem Removals.sublist {b : BudgetSettings} {cEff : Nat} {last : Option BudgetTest} {gs out : List Grant}
    {l : List (Grant × BudgetTest)} (h : Removals b cEff last gs l out) : out.Sublist gs := by
  induction h with
  | done => exact List.Sublist.refl _
  | take _ _ _ _ ih => exact ih.trans (List.Sublist.append_left (List.sublist_cons_self _ _) _)

theorem Removals.mem {b : BudgetSettings} {cEff : Nat} {last : Option BudgetTest} {gs out : List Grant}
    {l : List (Grant × BudgetTest)} (h : Removals b cEff last gs l out) :
    ∀ x ∈ l, x.1 ∈ gs ∧ countsFor x.2 x.1 = true := by
  induction h with
  | done => exact fun _ h => absurd h List.not_mem_nil
  | take _ counted _ _ ih =>
    intro x hx
    rcases List.mem_cons.1 hx with rfl | hx
    · exact ⟨by simp, counted⟩
    · obtain ⟨hm, hc⟩ := ih x hx
      exact ⟨by simp only [List.mem_append, List.mem_cons] at hm ⊢; tauto, hc⟩

theorem intakeOk_of_none {b : BudgetSettings} {cEff : Nat} {gs : List Grant} (h : ∀ g ∈ gs, countsFor .intake g = false) :
    intakeOk b cEff gs = true := by
  rw [intakeOk_iff]
  have : (sumsOf b.eta gs).chgAll = 0 := by
    simp only [sumsOf, List.sum_eq_zero_iff, List.mem_map]
    rintro _ ⟨g, hg, rfl⟩
    rw [if_neg (by simpa [countsFor] using h g hg)]
  omega

theorem returnOk_of_none {b : BudgetSettings} {gs : List Grant} (h : ∀ g ∈ gs, countsFor .return g = false) :
    returnOk b gs = true := by
  rw [returnOk_iff]
  have : (sumsOf b.eta gs).disAll = 0 := by
    simp only [sumsOf, List.sum_eq_zero_iff, List.mem_map]
    rintro _ ⟨g, hg, rfl⟩
    rw [if_neg (by simpa [countsFor] using h g hg)]
  omega

theorem shedIntake_removals {b : BudgetSettings} {cEff : Nat} (fuel : Nat) {last : Option BudgetTest} {gs : List Grant}
    (hfuel : gs.length ≤ fuel) (hlast : last = some .return → returnOk b gs = true) :
    Removals b cEff last gs (shedIntake b cEff fuel gs).2 (shedIntake b cEff fuel gs).1 ∧
      intakeOk b cEff (shedIntake b cEff fuel gs).1 = true ∧
      ((shedIntake b cEff fuel gs).2 = [] → intakeOk b cEff gs = true) := by
  induction fuel generalizing gs last with
  | zero =>
    obtain rfl := List.length_eq_zero_iff.1 (Nat.le_zero.1 hfuel)
    have h := intakeOk_of_none (b := b) (cEff := cEff) (gs := []) (by simp)
    exact ⟨.done _ _, h, fun _ => h⟩
  | succ n ih =>
    unfold shedIntake
    by_cases h : intakeOk b cEff gs = true
    · rw [if_pos h]
      exact ⟨.done _ _, h, fun _ => h⟩
    · rw [if_neg h]
      split
      · rename_i hr
        exact absurd (intakeOk_of_none (removeNewest_none hr)) h
      · rename_i g rest hr
        obtain ⟨older, newer, rfl, rfl, hg, hn⟩ := removeNewest_some hr
        obtain ⟨htrace, hok, -⟩ := ih (gs := older ++ newer) (last := some .intake)
          (by simp only [List.length_append, List.length_cons] at hfuel ⊢; omega) (by simp)
        exact ⟨.take ⟨by simpa using h, hlast⟩ hg hn htrace, hok, fun e => by cases e⟩

theorem shedReturn_removals {b : BudgetSettings} {cEff : Nat} (fuel : Nat) {last : Option BudgetTest} {gs : List Grant}
    (hfuel : gs.length ≤ fuel) (hlast : intakeOk b cEff gs = true ∨ last = some .return) :
    Removals b cEff last gs (shedReturn b fuel gs).2 (shedReturn b fuel gs).1 ∧
      returnOk b (shedReturn b fuel gs).1 = true ∧
      ((shedReturn b fuel gs).2 = [] → (shedReturn b fuel gs).1 = gs) := by
  induction fuel generalizing gs last with
  | zero =>
    obtain rfl := List.length_eq_zero_iff.1 (Nat.le_zero.1 hfuel)
    exact ⟨.done _ _, returnOk_of_none (gs := []) (by simp), fun _ => rfl⟩
  | succ n ih =>
    unfold shedReturn
    by_cases h : returnOk b gs = true
    · rw [if_pos h]
      exact ⟨.done _ _, h, fun _ => rfl⟩
    · rw [if_neg h]
      split
      · rename_i hr
        exact absurd (returnOk_of_none (removeNewest_none hr)) h
      · rename_i g rest hr
        obtain ⟨older, newer, rfl, rfl, hg, hn⟩ := removeNewest_some hr
        obtain ⟨htrace, hok, -⟩ := ih (gs := older ++ newer) (last := some .return)
          (by simp only [List.length_append, List.length_cons] at hfuel ⊢; omega) (.inr rfl)
        exact ⟨.take ⟨by simpa using h, hlast⟩ hg hn htrace, hok, fun e => by cases e⟩

/-- A shedding with fuel beyond the list's length removes grants in the order of R101 and ends with both tests holding. -/
theorem shedLoop_removals {b : BudgetSettings} {cEff : Nat} (fuel : Nat) {last : Option BudgetTest} {gs : List Grant}
    (hfuel : gs.length < fuel) (hlast : last = some .return → returnOk b gs = true) :
    Removals b cEff last gs (shedLoop b cEff fuel gs).2 (shedLoop b cEff fuel gs).1 ∧
      withinCeilings b cEff (shedLoop b cEff fuel gs).1 = true := by
  induction fuel generalizing gs last with
  | zero => exact absurd hfuel (Nat.not_lt_zero _)
  | succ n ih =>
    unfold shedLoop
    by_cases h : withinCeilings b cEff gs = true
    · rw [if_pos h]
      exact ⟨.done _ _, h⟩
    · rw [if_neg h]
      dsimp only
      obtain ⟨hone, hintake, hnone⟩ := shedIntake_removals (cEff := cEff) gs.length (Nat.le_refl _) hlast
      generalize shedIntake b cEff gs.length gs = one at hone hintake hnone ⊢
      obtain ⟨htwo, hreturn, hsame⟩ := shedReturn_removals (cEff := cEff) (last := testAfter last one.2) one.1.length
        (Nat.le_refl _) (.inl hintake)
      generalize shedReturn b one.1.length one.1 = two at htwo hreturn hsame ⊢
      have hremoved : one.2.length + two.2.length ≠ 0 := by
        intro e
        have h1 : one.2 = [] := List.length_eq_zero_iff.1 (by omega)
        have h2 : two.2 = [] := List.length_eq_zero_iff.1 (by omega)
        have hgs : one.1 = gs := hone.sublist.eq_of_length (by have := hone.length; omega)
        have htwo' := hsame h2
        exact h ((withinCeilings_iff b cEff gs).2 ⟨hnone h1, by rw [← hgs, ← htwo']; exact hreturn⟩)
      have hlen1 := hone.length
      have hlen2 := htwo.length
      obtain ⟨hrest, hwithin⟩ := ih (gs := two.1) (last := testAfter (testAfter last one.2) two.2) (by omega) fun _ => hreturn
      exact ⟨(hone.append htwo).append (by rw [testAfter_append]; exact hrest), hwithin⟩

/-- The grants of a list whose channels none of a list of removals names. -/
def leftAfter (gs : List Grant) (l : List (Grant × BudgetTest)) : List Grant :=
  gs.filter fun g => g.ch ∉ l.map fun x => x.1.ch

theorem leftAfter_cons {older newer : List Grant} {g : Grant} (x : BudgetTest) (l : List (Grant × BudgetTest))
    (hnd : ((older ++ g :: newer).map Grant.ch).Nodup) :
    leftAfter (older ++ g :: newer) ((g, x) :: l) = leftAfter (older ++ newer) l := by
  have hne : ∀ y ∈ older ++ newer, y.ch ≠ g.ch := by
    intro y hy e
    have hperm : ((older ++ g :: newer).map Grant.ch).Perm (g.ch :: (older ++ newer).map Grant.ch) :=
      (List.perm_middle (a := g) (l₁ := older) (l₂ := newer)).map Grant.ch
    have := (hperm.nodup_iff.1 hnd)
    rw [List.nodup_cons] at this
    exact this.1 (e ▸ List.mem_map_of_mem hy)
  unfold leftAfter
  rw [List.filter_append, List.filter_append, List.filter_cons, if_neg (by simp)]
  congr 1 <;> refine List.filter_congr fun y hy => ?_
  · simp [hne y (by simp [hy])]
  · simp [hne y (by simp [hy])]

theorem leftAfter_nil (gs : List Grant) : leftAfter gs [] = gs := by simp [leftAfter]

/-- The grants that are left before each removal, where a channel holds one grant at most. -/
theorem Removals.stages {b : BudgetSettings} {cEff : Nat} {last : Option BudgetTest} {gs out : List Grant}
    {l : List (Grant × BudgetTest)} (h : Removals b cEff last gs l out) (hnd : (gs.map Grant.ch).Nodup) :
    out = leftAfter gs l ∧ ∀ before x after, l = before ++ x :: after →
      RemovesFor b cEff (testAfter last before) (leftAfter gs before) x.2 ∧
      ∃ older newer, leftAfter gs before = older ++ x.1 :: newer ∧ countsFor x.2 x.1 = true ∧
        ∀ g ∈ newer, countsFor x.2 g = false := by
  induction h with
  | done last gs =>
    exact ⟨(leftAfter_nil gs).symm, fun before x after e => by simp at e⟩
  | @take last older newer out g x rest why counted newest _ ih =>
    have hsub : (older ++ newer).Sublist (older ++ g :: newer) :=
      List.Sublist.append_left (List.sublist_cons_self _ _) _
    obtain ⟨hout, hstages⟩ := ih (hnd.sublist (hsub.map _))
    refine ⟨by rw [hout, leftAfter_cons x rest hnd], fun before y after e => ?_⟩
    cases before with
    | nil =>
      obtain ⟨rfl, rfl⟩ := List.cons.inj e
      rw [leftAfter_nil]
      exact ⟨why, older, newer, rfl, counted, newest⟩
    | cons z before =>
      obtain ⟨rfl, e'⟩ := List.cons.inj e
      rw [leftAfter_cons x before hnd, testAfter_cons]
      exact hstages before y after e'

/-! ### The grants of an evaluation (R90, R93, R96) -/

/-- The grants a list of channels' waiting entries ask for, in the order of the list. -/
def asked (waiting : List Entry) (cs : List Ch) : List Grant :=
  (cs.map fun d => (waiting.filter fun e => e.ch = d).map Entry.grant).flatten

theorem asked_append (waiting : List Entry) (cs ds : List Ch) :
    asked waiting (cs ++ ds) = asked waiting cs ++ asked waiting ds := by
  simp [asked]

theorem filter_ch_eq {waiting : List Entry} (hnd : (waiting.map Entry.ch).Nodup) {e : Entry} (he : e ∈ waiting) :
    (waiting.filter fun x => x.ch = e.ch) = [e] := by
  induction waiting with
  | nil => cases he
  | cons x l ih =>
    rw [List.map_cons, List.nodup_cons] at hnd
    rcases List.mem_cons.1 he with rfl | he
    · rw [List.filter_cons, if_pos (by simp), List.filter_eq_nil_iff.2]
      intro y hy e'
      exact hnd.1 (by simpa using ⟨y, hy, by simpa using e'⟩)
    · rw [List.filter_cons, if_neg, ih hnd.2 he]
      intro e'
      exact hnd.1 (by simp only [decide_eq_true_eq] at e'; rw [e']; exact List.mem_map_of_mem he)

theorem find_ch_eq {waiting : List Entry} (hnd : (waiting.map Entry.ch).Nodup) {e : Entry} (he : e ∈ waiting) :
    waiting.find? (fun x => x.ch = e.ch) = some e := by
  rw [← List.head?_filter, filter_ch_eq hnd he, List.head?_cons]

/-- What the walk of the waiting set carries once it has granted the entries of a list of channels. -/
def walkState (gs : List Grant) (waiting : List Entry) (ring : List (Option Ch)) (lows : List Ch) (p : Nat × Option Ch)
    (granted : List Ch) : Walk :=
  let q := granted.foldl (fun q c => movePointers ring lows c q.1 q.2) p
  ⟨gs ++ asked waiting granted, waiting.filter (fun e => e.ch ∉ granted), q.1, q.2, granted⟩

theorem walkState_grant {gs : List Grant} {waiting : List Entry} {ring : List (Option Ch)} {lows : List Ch}
    {p : Nat × Option Ch} {granted : List Ch} (hnd : (waiting.map Entry.ch).Nodup) {e : Entry} (he : e ∈ waiting) :
    let w := walkState gs waiting ring lows p granted
    let q := movePointers ring lows e.ch w.hp w.lp
    ({ grants := w.grants ++ [e.grant], waiting := withoutCh w.waiting e.ch, hp := q.1, lp := q.2,
       granted := w.granted ++ [e.ch] } : Walk) = walkState gs waiting ring lows p (granted ++ [e.ch]) := by
  have hasked : asked waiting [e.ch] = [e.grant] := by simp [asked, filter_ch_eq hnd he]
  simp only [walkState, List.foldl_append, List.foldl_cons, List.foldl_nil, asked_append, hasked, withoutCh,
    List.append_assoc, List.filter_filter, Walk.mk.injEq, true_and, and_true]
  refine List.filter_congr fun x _ => ?_
  by_cases h : x.ch = e.ch <;> simp [h]

/-- A walk over channels `cs`, those of `granted` granted before it, grants exactly the entries that fit with the grants made
before them, no STARVED entry before them having been passed over, and ends as `w` (R90, R93, R96). -/
def WalkGrants (b : BudgetSettings) (cEff : Nat) (ring : List (Option Ch)) (lows : List Ch) (gs : List Grant)
    (waiting : List Entry) (p : Nat × Option Ch) (granted cs : List Ch) (w : Walk) : Prop :=
  ∃ more, w = walkState gs waiting ring lows p (granted ++ more) ∧ more.Sublist cs ∧ (∀ c ∈ more, ∃ e ∈ waiting, e.ch = c) ∧
    ∀ a c rest e, cs = a ++ c :: rest → e ∈ waiting → e.ch = c →
      (c ∈ more ↔ withinCeilings b cEff (gs ++ asked waiting (granted ++ a.filter fun d => d ∈ more) ++ [e.grant]) = true ∧
        ∀ x ∈ waiting, x.ch ∈ a → x.mark = .starved → x.ch ∈ more)

section
variable {b : BudgetSettings} {cEff : Nat} {ring : List (Option Ch)} {lows : List Ch} {gs : List Grant} {waiting : List Entry}
  {p : Nat × Option Ch} {granted cs : List Ch} {w : Walk}

/-- A channel the walk passes over, its entry not STARVED. -/
theorem WalkGrants.pass {c : Ch} (hc : c ∉ cs) (h : WalkGrants b cEff ring lows gs waiting p granted cs w)
    (hfail : ∀ e ∈ waiting, e.ch = c → withinCeilings b cEff (gs ++ asked waiting granted ++ [e.grant]) = false ∧
      e.mark ≠ .starved) :
    WalkGrants b cEff ring lows gs waiting p granted (c :: cs) w := by
  obtain ⟨more, hmore, hsub, hof, hiff⟩ := h
  have hcm : c ∉ more := fun h => hc (hsub.subset h)
  refine ⟨more, hmore, hsub.cons c, hof, fun a d rest e hsplit he hed => ?_⟩
  cases a with
  | nil =>
    obtain ⟨rfl, rfl⟩ := List.cons.inj hsplit
    refine iff_of_false hcm fun h => ?_
    rw [List.filter_nil, List.append_nil, (hfail e he hed).1] at h
    exact Bool.false_ne_true h.1
  | cons a0 a =>
    obtain ⟨rfl, hrest⟩ := List.cons.inj hsplit
    rw [hiff a d rest e hrest he hed, List.filter_cons, if_neg (by simpa using hcm)]
    refine and_congr_right fun _ => ⟨fun h x hx hxa hm => ?_, fun h x hx hxa hm => h x hx (List.mem_cons_of_mem _ hxa) hm⟩
    rcases List.mem_cons.1 hxa with hxc | hxa
    · exact absurd hm (hfail x hx hxc).2
    · exact h x hx hxa hm

/-- A channel whose entry is granted. -/
theorem WalkGrants.grant {e : Entry} (hnd : (waiting.map Entry.ch).Nodup) (he : e ∈ waiting) (hc : e.ch ∉ cs)
    (hfit : withinCeilings b cEff (gs ++ asked waiting granted ++ [e.grant]) = true)
    (h : WalkGrants b cEff ring lows gs waiting p (granted ++ [e.ch]) cs w) :
    WalkGrants b cEff ring lows gs waiting p granted (e.ch :: cs) w := by
  obtain ⟨more, hmore, hsub, hof, hiff⟩ := h
  refine ⟨e.ch :: more, by rw [hmore]; simp, hsub.cons_cons _, ?_, fun a d rest x hsplit hx hxd => ?_⟩
  · intro d hd
    rcases List.mem_cons.1 hd with rfl | hd
    · exact ⟨e, he, rfl⟩
    · exact hof d hd
  · cases a with
    | nil =>
      obtain ⟨rfl, rfl⟩ := List.cons.inj hsplit
      refine iff_of_true List.mem_cons_self ⟨?_, fun _ _ h => absurd h List.not_mem_nil⟩
      have hxe : x = e := Option.some.inj ((hxd ▸ find_ch_eq hnd hx).symm.trans (find_ch_eq hnd he))
      rw [hxe, List.filter_nil, List.append_nil]
      exact hfit
    | cons a0 a =>
      obtain ⟨rfl, hrest⟩ := List.cons.inj hsplit
      have hde : d ≠ e.ch := fun h => hc (by rw [hrest, ← h]; simp)
      have hfilter : ((e.ch :: a).filter fun d => d ∈ e.ch :: more) = e.ch :: a.filter fun d => d ∈ more := by
        rw [List.filter_cons, if_pos (by simp)]
        congr 1
        refine List.filter_congr fun y hy => ?_
        have : y ≠ e.ch := fun h => hc (by rw [hrest, ← h]; simp [hy])
        simp [this]
      rw [hfilter, List.mem_cons, or_iff_right hde, List.append_cons granted, hiff a d rest x hrest hx hxd]
      refine and_congr_right fun _ => ⟨fun h y hy hya hm => ?_, fun h y hy hya hm => ?_⟩
      · rcases List.mem_cons.1 hya with hye | hya
        · exact hye ▸ List.mem_cons_self
        · exact List.mem_cons_of_mem _ (h y hy hya hm)
      · refine (List.mem_cons.1 (h y hy (List.mem_cons_of_mem _ hya) hm)).resolve_left fun hye => hc ?_
        rw [hrest, ← hye]; simp [hya]

/-- A STARVED entry that does not fit ends the walk (R96). -/
theorem WalkGrants.ended {e : Entry} (hnd : (waiting.map Entry.ch).Nodup) (he : e ∈ waiting) (hm : e.mark = .starved)
    (hfail : withinCeilings b cEff (gs ++ asked waiting granted ++ [e.grant]) = false) :
    WalkGrants b cEff ring lows gs waiting p granted (e.ch :: cs) (walkState gs waiting ring lows p granted) := by
  refine ⟨[], by simp, List.nil_sublist _, by simp, fun a d rest x hsplit hx hxd => ?_⟩
  refine iff_of_false List.not_mem_nil fun h => ?_
  cases a with
  | nil =>
    obtain ⟨rfl, rfl⟩ := List.cons.inj hsplit
    have hxe : x = e := Option.some.inj ((hxd ▸ find_ch_eq hnd hx).symm.trans (find_ch_eq hnd he))
    rw [hxe, List.filter_nil, List.append_nil, hfail] at h
    exact Bool.false_ne_true h.1
  | cons a0 a =>
    obtain ⟨rfl, -⟩ := List.cons.inj hsplit
    exact List.not_mem_nil (h.2 e he List.mem_cons_self hm)

theorem walkWaiting_grants (hnd : (waiting.map Entry.ch).Nodup) (hcs : cs.Nodup) (hdisj : ∀ c ∈ cs, c ∉ granted) :
    WalkGrants b cEff ring lows gs waiting p granted cs
      (walkWaiting b cEff ring lows cs (walkState gs waiting ring lows p granted)) := by
  induction cs generalizing granted with
  | nil => exact ⟨[], by simp [walkWaiting], List.Sublist.refl _, by simp, fun a c rest e h => by simp at h⟩
  | cons c cs ih =>
    rw [List.nodup_cons] at hcs
    have hc : c ∉ granted := hdisj c List.mem_cons_self
    have hrest : ∀ d ∈ cs, d ∉ granted := fun d hd => hdisj d (List.mem_cons_of_mem _ hd)
    have hfind : (walkState gs waiting ring lows p granted).waiting.find? (fun e => e.ch = c) =
        waiting.find? fun e => e.ch = c := by
      show (waiting.filter _).find? _ = _
      rw [List.find?_filter]
      refine List.find?_congr fun x _ => ?_
      by_cases h : x.ch = c <;> simp [h, hc]
    unfold walkWaiting
    rw [hfind]
    cases hf : waiting.find? (fun e => e.ch = c) with
    | none =>
      exact (ih hcs.2 hrest).pass hcs.1 fun e he hec => absurd hec (by simpa using List.find?_eq_none.1 hf e he)
    | some e =>
      have he : e ∈ waiting := List.mem_of_find?_eq_some hf
      obtain rfl : e.ch = c := by simpa using List.find?_some hf
      have hunique : ∀ x ∈ waiting, x.ch = e.ch → x = e := fun x hx hxc =>
        Option.some.inj ((hxc ▸ find_ch_eq hnd hx).symm.trans hf)
      dsimp only
      by_cases hfit : withinCeilings b cEff ((walkState gs waiting ring lows p granted).grants ++ [e.grant]) = true
      · rw [if_pos hfit]
        refine WalkGrants.grant hnd he hcs.1 hfit ?_
        have hstate := walkState_grant (gs := gs) (ring := ring) (lows := lows) (p := p) (granted := granted) hnd he
        dsimp only at hstate
        rw [hstate]
        refine ih hcs.2 fun d hd h => ?_
        rcases List.mem_append.1 h with h | h
        · exact hrest d hd h
        · rw [List.mem_singleton.1 h] at hd; exact hcs.1 hd
      · rw [if_neg hfit]
        have hfail : withinCeilings b cEff (gs ++ asked waiting granted ++ [e.grant]) = false := Bool.eq_false_iff.2 hfit
        by_cases hm : e.mark = .starved
        · rw [if_pos hm]
          exact WalkGrants.ended hnd he hm hfail
        · rw [if_neg hm]
          exact (ih hcs.2 hrest).pass hcs.1 fun x hx hxc => by rw [hunique x hx hxc]; exact ⟨hfail, hm⟩

end

end Sys2Proof.Machine
end

section
/-! PROOF. What an act on one channel leaves of the others in the budget arbiter (R88), and what it makes of the channel's own
grant and entries. -/
namespace Sys2Proof.Machine
open Sys2Proof.Safety

/-! ### A channel's own places in the collections -/

/-- A channel's grants, its waiting entries and its resume entries. -/
def grantsOf (s : State) (c : Ch) : List Grant := s.arb.grants.filter fun g => g.ch = c
def waitsOf (s : State) (c : Ch) : List Entry := s.arb.waiting.filter fun e => e.ch = c
def resumesOf (s : State) (c : Ch) : List Entry := s.arb.resume.filter fun e => e.ch = c

theorem grantOf_eq_head (s : State) (c : Ch) : grantOf s c = (grantsOf s c).head? := (List.head?_filter ..).symm

theorem grantOf_isNone (s : State) (c : Ch) : grantOf s c = none ↔ grantsOf s c = [] := by
  rw [grantOf_eq_head, List.head?_eq_none_iff]

theorem grantOf_mem {s : State} {c : Ch} {g : Grant} (h : grantOf s c = some g) : g ∈ grantsOf s c := by
  rw [grantOf_eq_head] at h
  exact List.mem_of_head? h

theorem hasWaiting_iff (s : State) (c : Ch) : hasWaiting s c = true ↔ waitsOf s c ≠ [] := by
  simp [hasWaiting, waitsOf, List.filter_eq_nil_iff]

theorem hasResume_iff (s : State) (c : Ch) : hasResume s c = true ↔ resumesOf s c ≠ [] := by
  simp [hasResume, resumesOf, List.filter_eq_nil_iff]

theorem mem_grantsOf {s : State} {c : Ch} {g : Grant} : g ∈ grantsOf s c ↔ g ∈ s.arb.grants ∧ g.ch = c := by simp [grantsOf]
theorem mem_waitsOf {s : State} {c : Ch} {e : Entry} : e ∈ waitsOf s c ↔ e ∈ s.arb.waiting ∧ e.ch = c := by simp [waitsOf]
theorem mem_resumesOf {s : State} {c : Ch} {e : Entry} : e ∈ resumesOf s c ↔ e ∈ s.arb.resume ∧ e.ch = c := by simp [resumesOf]

/-- How often a channel appears in the collections. -/
def places (s : State) (c : Ch) : Nat := (grantsOf s c).length + (waitsOf s c).length + (resumesOf s c).length

theorem count_listed (s : State) (c : Ch) : (listed s).count c = places s c := by
  have hgrants : (s.arb.grants.map Grant.ch).count c = (grantsOf s c).length := by
    rw [List.count, List.countP_map, List.countP_eq_length_filter, grantsOf]
    exact congrArg List.length (List.filter_congr fun g _ => beq_eq_decide ..)
  have hentries : ∀ es : List Entry, (es.map Entry.ch).count c = (es.filter fun e => e.ch = c).length := fun es => by
    rw [List.count, List.countP_map, List.countP_eq_length_filter]
    exact congrArg List.length (List.filter_congr fun g _ => beq_eq_decide ..)
  rw [listed, List.count_append, List.count_append, hgrants, hentries, hentries]
  rfl

theorem listed_nodup_iff (s : State) : (listed s).Nodup ↔ ∀ c, places s c ≤ 1 := by
  rw [List.nodup_iff_count_le_one]
  exact forall_congr' fun c => by rw [count_listed]

theorem mem_listed_iff (s : State) (c : Ch) : c ∈ listed s ↔ 0 < places s c := by
  rw [← count_listed, List.count_pos_iff]

theorem listed_nil_iff (s : State) : listed s = [] ↔ ∀ c, places s c = 0 := by
  rw [List.eq_nil_iff_forall_not_mem]
  exact forall_congr' fun c => by rw [mem_listed_iff]; omega

/-! ### What an act on one channel leaves -/

/-- An act on channel `c` leaves the hall, the budget settings, the other channels' grants and entries, and the other channels
but for the port of the follower it leads. -/
structure ActsOn (c : Ch) (s t : State) : Prop where
  hall    : t.hall = s.hall
  budget  : t.arb.budget = s.arb.budget
  grants  : t.arb.grants.filter (fun g => g.ch ≠ c) = s.arb.grants.filter fun g => g.ch ≠ c
  waiting : withoutCh t.arb.waiting c = withoutCh s.arb.waiting c
  resume  : withoutCh t.arb.resume c = withoutCh s.arb.resume c
  chans   : ∀ d, d ≠ c → Leaves d s t
  others  : ∀ d, d ≠ c → ¬(isLeader s c = true ∧ d = partner c) → t.ch d = s.ch d

theorem ActsOn.refl (c : Ch) (s : State) : ActsOn c s s := ⟨rfl, rfl, rfl, rfl, rfl, fun d _ => Leaves.refl d s, fun _ _ _ => rfl⟩

theorem Leaves.isLeader {c : Ch} {s t : State} (h : Leaves (partner c) s t) : isLeader t c = isLeader s c := by
  unfold Machine.isLeader isFollower
  rw [OnlyPort.state h]

theorem ActsOn.trans {c : Ch} {s t u : State} (h : ActsOn c s t) (k : ActsOn c t u) : ActsOn c s u :=
  ⟨k.hall.trans h.hall, k.budget.trans h.budget, k.grants.trans h.grants, k.waiting.trans h.waiting,
    k.resume.trans h.resume, fun d hd => (h.chans d hd).trans (k.chans d hd), fun d hd hn =>
      (k.others d hd (by rw [(h.chans _ (partner_ne c)).isLeader]; exact hn)).trans (h.others d hd hn)⟩

theorem ActsOn.ite {c : Ch} {s t u : State} (p : Prop) [Decidable p] (h : ActsOn c s t) (k : ActsOn c s u) :
    ActsOn c s (if p then t else u) := iteInduction (motive := ActsOn c s) (fun _ => h) fun _ => k

theorem ActsOn.modCh (c : Ch) (s : State) (f : Channel → Channel) : ActsOn c s (s.modCh c f) :=
  ⟨rfl, rfl, rfl, rfl, rfl, fun _ hd => Leaves.modCh hd s f, fun _ hd _ => State.ch_modCh_ne s hd f⟩

theorem ActsOn.modLink (c : Ch) (s : State) (f : Link → Link) : ActsOn c s (s.modLink f) :=
  ⟨rfl, rfl, rfl, rfl, rfl, fun e _ => Leaves.modLink e s f, fun _ _ _ => rfl⟩

theorem ActsOn.evalDue (c : Ch) (s : State) (x : Bool) : ActsOn c s (s.modArb fun a => { a with evalDue := x }) :=
  ⟨rfl, rfl, rfl, rfl, rfl, fun e _ => Leaves.modArb e s _, fun _ _ _ => rfl⟩

section
variable {c d : Ch} {s t : State}

theorem ActsOn.grantsOf_other (h : ActsOn c s t) (hd : d ≠ c) : grantsOf t d = grantsOf s d := by
  have key : ∀ u : State, grantsOf u d = (u.arb.grants.filter fun g => g.ch ≠ c).filter fun g => g.ch = d := fun u => by
    rw [List.filter_filter]
    refine List.filter_congr fun g _ => ?_
    by_cases e : g.ch = d <;> simp [e, hd]
  rw [key t, key s, h.grants]

theorem ActsOn.waitsOf_other (h : ActsOn c s t) (hd : d ≠ c) : waitsOf t d = waitsOf s d := by
  have key : ∀ u : State, waitsOf u d = (withoutCh u.arb.waiting c).filter fun e => e.ch = d := fun u => by
    rw [withoutCh, List.filter_filter]
    refine List.filter_congr fun g _ => ?_
    by_cases e : g.ch = d <;> simp [e, hd]
  rw [key t, key s, h.waiting]

theorem ActsOn.resumesOf_other (h : ActsOn c s t) (hd : d ≠ c) : resumesOf t d = resumesOf s d := by
  have key : ∀ u : State, resumesOf u d = (withoutCh u.arb.resume c).filter fun e => e.ch = d := fun u => by
    rw [withoutCh, List.filter_filter]
    refine List.filter_congr fun g _ => ?_
    by_cases e : g.ch = d <;> simp [e, hd]
  rw [key t, key s, h.resume]

theorem ActsOn.places_other (h : ActsOn c s t) (hd : d ≠ c) : places t d = places s d := by
  rw [places, h.grantsOf_other hd, h.waitsOf_other hd, h.resumesOf_other hd, ← places]

theorem ActsOn.state_other (h : ActsOn c s t) (hd : d ≠ c) : (t.ch d).state = (s.ch d).state := OnlyPort.state (h.chans d hd)

end

/-! ### The arbiter's lists -/

section
variable (s : State) (c : Ch)

theorem issue_arb : (issue s c).arb = s.arb := by
  unfold issue
  dsimp only
  split <;> split <;> rfl

theorem issue_hall : (issue s c).hall = s.hall := (issue_runs s c).hall

theorem issue_link : (issue s c).link = s.link := by
  unfold issue
  dsimp only
  split <;> split <;> rfl

theorem issue_acts : ActsOn c s (issue s c) := by
  refine ⟨issue_hall s c, ?_, ?_, ?_, ?_, fun d hd => issue_leaves hd s, fun d hd hn => ?_⟩
  · rw [issue_arb]
  · rw [issue_arb]
  · rw [issue_arb]
  · rw [issue_arb]
  · cases hl : isLeader s c with
    | false => rw [issue_single hl, State.ch_modCh_ne _ hd]
    | true => rw [issue_leader hl, State.ch_modPort, if_neg fun e => hn ⟨hl, e⟩, State.ch_modCh_ne _ hd]

theorem modGrant_acts (f : Grant → Grant) (hf : ∀ g, (f g).ch = g.ch) : ActsOn c s (modGrant s c f) := by
  refine ⟨rfl, rfl, ?_, rfl, rfl, fun e _ => Leaves.modArb e s _, fun _ _ _ => rfl⟩
  show (s.arb.grants.map _).filter _ = _
  rw [List.filter_map, List.filter_congr (q := fun g => g.ch ≠ c), List.map_congr_left (g := id), List.map_id]
  · intro g hg
    rw [if_neg (by simpa using (List.mem_filter.1 hg).2)]
    rfl
  · intro g _
    by_cases e : g.ch = c <;> simp [e, hf]

theorem releaseGrant_acts : ActsOn c s (releaseGrant s c) := by
  unfold releaseGrant
  refine .ite _ ⟨rfl, rfl, ?_, rfl, rfl, fun e _ => Leaves.modArb e s _, fun _ _ _ => rfl⟩ (.refl c s)
  show (s.arb.grants.filter _).filter _ = _
  rw [List.filter_filter]
  exact List.filter_congr fun g _ => Bool.and_self _

theorem withoutCh_withoutCh (es : List Entry) : withoutCh (withoutCh es c) c = withoutCh es c := by
  rw [withoutCh, withoutCh, List.filter_filter]
  exact List.filter_congr fun g _ => Bool.and_self _

theorem withdrawWaiting_acts : ActsOn c s (withdrawWaiting s c) := by
  unfold withdrawWaiting
  exact .ite _ ⟨rfl, rfl, rfl, withoutCh_withoutCh c _, rfl, fun e _ => Leaves.modArb e s _, fun _ _ _ => rfl⟩ (.refl c s)

theorem withdrawEntries_acts : ActsOn c s (withdrawEntries s c) := by
  unfold withdrawEntries
  have h := withdrawWaiting_acts s c
  exact .ite _ (h.trans ⟨rfl, rfl, rfl, rfl, withoutCh_withoutCh c _, fun e _ => Leaves.modArb e _ _, fun _ _ _ => rfl⟩) h

theorem lodge_acts (dir : Direction) (claim : Nat) : ActsOn c s (lodge s c dir claim) := by
  refine ⟨rfl, rfl, rfl, ?_, rfl, fun e _ => Leaves.modArb e s _, fun _ _ _ => rfl⟩
  show (s.arb.waiting ++ _).filter _ = _
  rw [List.filter_append, List.filter_cons, if_neg (by simp), List.filter_nil, List.append_nil]
  rfl

theorem appendResume_acts (dir : Direction) (claim : Nat) : ActsOn c s (appendResume s c dir claim) := by
  refine ⟨rfl, rfl, rfl, rfl, ?_, fun e _ => Leaves.modArb e s _, fun _ _ _ => rfl⟩
  show (s.arb.resume ++ _).filter _ = _
  rw [List.filter_append, List.filter_cons, if_neg (by simp), List.filter_nil, List.append_nil]
  rfl

theorem idleGrant_acts : ActsOn c s (idleGrant s c) := by
  unfold idleGrant
  split
  · exact .refl c s
  · exact .ite _ (.refl c s) (.ite _ (releaseGrant_acts s c) (modGrant_acts s c _ fun _ => rfl))

theorem unidleGrant_acts : ActsOn c s (unidleGrant s c) := modGrant_acts s c _ fun _ => rfl

theorem grantNotLive_acts : ActsOn c s (grantNotLive s c) := modGrant_acts s c _ fun _ => rfl

theorem exchangeGrant_acts (r : StepRecord) : ActsOn c s (exchangeGrant s c r) :=
  (releaseGrant_acts s c).trans (lodge_acts _ c _ _)

theorem settleAtGap_acts (r : StepRecord) : ActsOn c s (settleAtGap s c r) := by
  unfold settleAtGap
  have h : ActsOn c s (if holdsCover s c r then unidleGrant s c else releaseGrant s c) :=
    .ite _ (unidleGrant_acts s c) (releaseGrant_acts s c)
  exact .ite _ h (h.trans (lodge_acts _ c _ _))

theorem settleOffer_acts (r : StepRecord) (toHeld : Bool) : ActsOn c s (settleOffer s c r toHeld) := by
  unfold settleOffer
  split
  · exact .refl c s
  · have h0 := ActsOn.evalDue c s true
    refine .ite _ ?_ (.ite _ (h0.trans (idleGrant_acts _ c)) (h0.trans (releaseGrant_acts _ c)))
    have h1 := h0.trans (modGrant_acts _ c (fun g => { g with amount := claimOf s c r }) fun _ => rfl)
    exact .ite _ (h1.trans (idleGrant_acts _ c)) (h1.trans (unidleGrant_acts _ c))

/-! ### The channel unit -/

theorem enterStarting_acts (r : StepRecord) : ActsOn c s (enterStarting s c r) :=
  ((ActsOn.modCh c s _).trans (unidleGrant_acts _ c)).trans (issue_acts _ c)

theorem enterDeferred_acts : ActsOn c s (enterDeferred s c) := (ActsOn.modCh c s _).trans (issue_acts _ c)

theorem enterRest_acts : ActsOn c s (enterRest s c) :=
  ((ActsOn.modCh c s _).trans (issue_acts _ c)).trans (idleGrant_acts _ c)

theorem gapExpires_acts : ActsOn c s (gapExpires s c) := by
  unfold gapExpires
  split
  · exact (releaseGrant_acts s c).trans (enterDeferred_acts _ c)
  · refine .ite _ (enterStarting_acts s c _) ?_
    split
    · exact (exchangeGrant_acts s c _).trans (enterDeferred_acts _ c)
    · exact enterDeferred_acts s c

theorem enterGap_acts (r : StepRecord) (gap : Nat) : ActsOn c s (enterGap s c r gap) := by
  unfold enterGap
  have h := ((ActsOn.modCh c s fun ch => { ch with state := .gap, gapTimer := some gap }).trans
    (settleAtGap_acts _ c r)).trans (issue_acts _ c)
  exact .ite _ (h.trans (gapExpires_acts _ c)) h

theorem beginStep_acts : ActsOn c s (beginStep s c) := by
  unfold beginStep
  split
  · exact .refl c s
  · exact .ite _ (enterRest_acts s c) (enterGap_acts s c _ _)

theorem beginResumed_acts : ActsOn c s (beginResumed s c) := by
  unfold beginResumed
  split
  · exact .refl c s
  · exact .ite _ (enterRest_acts s c) (enterGap_acts s c _ _)

theorem prepareStep_acts (k : Nat) (toHeld : Bool) : ActsOn c s (prepareStep s c k toHeld) := by
  unfold prepareStep
  dsimp only
  split
  · exact ActsOn.modCh c s _
  · exact ((ActsOn.modCh c s _).trans (ActsOn.modCh c _ _)).trans (settleOffer_acts _ c _ _)

theorem leaveHeld_acts : ActsOn c s (leaveHeld s c) := by
  unfold leaveHeld
  refine .ite _ ((ActsOn.modCh c s _).trans (beginStep_acts _ c)) ?_
  split
  · exact .refl c s
  · refine .ite _ (enterRest_acts s c) (.ite _ (enterStarting_acts s c _) ?_)
    have h := (releaseGrant_acts s c).trans (enterDeferred_acts _ c)
    exact .ite _ h (h.trans (lodge_acts _ c _ _))

theorem addCause_acts (cause : HoldCause) : ActsOn c s (addCause s c cause) := by
  have h0 := ((ActsOn.modCh c s Channel.stopTimers).trans (withdrawWaiting_acts _ c)).trans (grantNotLive_acts _ c)
  have h1 := (h0.trans (ActsOn.modCh c _ fun ch => { ch with holds := ch.holds.add cause, state := .held })).trans
    (issue_acts _ c)
  have h2 := ActsOn.modCh c s fun ch => { ch with holds := ch.holds.add cause }
  unfold addCause
  split
  · exact .ite _ (h1.trans (idleGrant_acts _ c)) h1
  · exact .ite _ (h1.trans (idleGrant_acts _ c)) h1
  · exact .ite _ (h1.trans (idleGrant_acts _ c)) h1
  · exact .ite _ (h1.trans (idleGrant_acts _ c)) h1
  · exact .ite _ (h2.trans (idleGrant_acts _ c)) h2
  · exact .refl c s

theorem removeCauses_acts (f : HoldCauses → HoldCauses) : ActsOn c s (removeCauses s c f) := by
  unfold removeCauses
  have h := ActsOn.modCh c s fun ch => { ch with holds := f ch.holds }
  exact .ite _ (h.trans (leaveHeld_acts _ c)) h

theorem handOver_acts : ActsOn c s (handOver s c) := by
  unfold handOver
  split
  · exact .refl c s
  · split
    · exact .ite _ (.refl c s) (exchangeGrant_acts s c _)
    · exact .ite _ (enterStarting_acts s c _) (exchangeGrant_acts s c _)
    · have h := ActsOn.modCh c s fun ch => { ch with holds := ch.holds.drop .curtailed }
      exact .ite _ (h.trans (leaveHeld_acts _ c)) (.ite _ (h.trans (idleGrant_acts _ c)) h)
    · exact .ite _ (idleGrant_acts s c) (.refl c s)
    · exact .refl c s

end

/-! ### No report -/

theorem link_ite {s t u : State} (p : Prop) [Decidable p] (h : t.link = s.link) (k : u.link = s.link) :
    (if p then t else u).link = s.link := iteInduction (motive := fun t : State => t.link = s.link) (fun _ => h) fun _ => k

section
variable (s : State) (c : Ch)

theorem releaseGrant_link : (releaseGrant s c).link = s.link := by unfold releaseGrant; split <;> rfl

theorem withdrawWaiting_link : (withdrawWaiting s c).link = s.link := by unfold withdrawWaiting; split <;> rfl

theorem idleGrant_link : (idleGrant s c).link = s.link := by
  unfold idleGrant
  split
  · rfl
  · exact link_ite _ rfl (link_ite _ (releaseGrant_link s c) rfl)

theorem exchangeGrant_link (r : StepRecord) : (exchangeGrant s c r).link = s.link := releaseGrant_link s c

theorem settleAtGap_link (r : StepRecord) : (settleAtGap s c r).link = s.link := by
  unfold settleAtGap
  have h : (if holdsCover s c r then unidleGrant s c else releaseGrant s c).link = s.link := by
    split
    · rfl
    · exact releaseGrant_link s c
  exact link_ite _ h h

theorem enterStarting_link (r : StepRecord) : (enterStarting s c r).link = s.link := issue_link _ c

theorem enterDeferred_link : (enterDeferred s c).link = s.link := issue_link _ c

theorem enterRest_link : (enterRest s c).link = s.link := (idleGrant_link _ c).trans (issue_link _ c)

theorem gapExpires_link : (gapExpires s c).link = s.link := by
  unfold gapExpires
  split
  · exact (enterDeferred_link _ c).trans (releaseGrant_link s c)
  · refine link_ite _ (enterStarting_link s c _) ?_
    split
    · exact (enterDeferred_link _ c).trans (exchangeGrant_link s c _)
    · exact enterDeferred_link s c

theorem enterGap_link (r : StepRecord) (gap : Nat) : (enterGap s c r gap).link = s.link := by
  unfold enterGap
  have h : (issue (settleAtGap (s.modCh c fun ch => { ch with state := .gap, gapTimer := some gap }) c r) c).link = s.link :=
    (issue_link _ c).trans (settleAtGap_link _ c r)
  exact link_ite _ ((gapExpires_link _ c).trans h) h

theorem beginStep_link : (beginStep s c).link = s.link := by
  unfold beginStep
  split
  · rfl
  · exact link_ite _ (enterRest_link s c) (enterGap_link s c _ _)

theorem leaveHeld_link : (leaveHeld s c).link = s.link := by
  unfold leaveHeld
  refine link_ite _ (beginStep_link _ c) ?_
  split
  · rfl
  · refine link_ite _ (enterRest_link s c) (link_ite _ (enterStarting_link s c _) ?_)
    have h := (enterDeferred_link (releaseGrant s c) c).trans (releaseGrant_link s c)
    exact link_ite _ h h

theorem addCause_link (cause : HoldCause) : (addCause s c cause).link = s.link := by
  have h1 : (issue ((grantNotLive (withdrawWaiting (s.modCh c Channel.stopTimers) c) c).modCh c fun ch =>
      { ch with holds := ch.holds.add cause, state := .held }) c).link = s.link :=
    (issue_link _ c).trans (withdrawWaiting_link (s.modCh c Channel.stopTimers) c)
  unfold addCause
  split
  · exact link_ite _ ((idleGrant_link _ c).trans h1) h1
  · exact link_ite _ ((idleGrant_link _ c).trans h1) h1
  · exact link_ite _ ((idleGrant_link _ c).trans h1) h1
  · exact link_ite _ ((idleGrant_link _ c).trans h1) h1
  · exact link_ite _ (idleGrant_link _ c) rfl
  · rfl

theorem removeCauses_link (f : HoldCauses → HoldCauses) : (removeCauses s c f).link = s.link :=
  link_ite _ (leaveHeld_link _ c) rfl

theorem handOver_link : (handOver s c).link = s.link := by
  unfold handOver
  split
  · rfl
  · split
    · exact link_ite _ rfl (exchangeGrant_link s c _)
    · exact link_ite _ (enterStarting_link s c _) (exchangeGrant_link s c _)
    · exact link_ite _ (leaveHeld_link _ c) (link_ite _ (idleGrant_link _ c) rfl)
    · exact link_ite _ (idleGrant_link s c) rfl
    · rfl

theorem evaluate_link : (evaluate s).1.link = s.link := by
  unfold evaluate
  dsimp only
  split <;> rfl

theorem handOverAll_link (l : List Ch) : (handOverAll s l).link = s.link := by
  induction l generalizing s with
  | nil => rfl
  | cons c l ih => exact (ih _).trans (handOver_link s c)

/-- The evaluations of an event make no report. -/
theorem evaluateDue_link (fuel : Nat) : (evaluateDue fuel s).link = s.link := by
  induction fuel generalizing s with
  | zero => rfl
  | succ n ih =>
    unfold evaluateDue
    split
    · exact (ih _).trans ((handOverAll_link _ _).trans (evaluate_link _))
    · rfl

end

/-! ### The channel's own grant and entries -/

section
variable (s : State) (c : Ch)

theorem grantsOf_congr {s t : State} (h : t.arb = s.arb) : grantsOf t c = grantsOf s c := by rw [grantsOf, grantsOf, h]
theorem waitsOf_congr {s t : State} (h : t.arb = s.arb) : waitsOf t c = waitsOf s c := by rw [waitsOf, waitsOf, h]
theorem resumesOf_congr {s t : State} (h : t.arb = s.arb) : resumesOf t c = resumesOf s c := by rw [resumesOf, resumesOf, h]

theorem filter_without (es : List Entry) : (withoutCh es c).filter (fun e => e.ch = c) = [] := by
  rw [withoutCh, List.filter_filter, List.filter_eq_nil_iff]
  simp

theorem releaseGrant_waiting : (releaseGrant s c).arb.waiting = s.arb.waiting := by unfold releaseGrant; split <;> rfl
theorem releaseGrant_resume : (releaseGrant s c).arb.resume = s.arb.resume := by unfold releaseGrant; split <;> rfl
theorem releaseGrant_ch (d : Ch) : (releaseGrant s c).ch d = s.ch d := by unfold releaseGrant; split <;> rfl

theorem releaseGrant_grants : (releaseGrant s c).arb.grants = s.arb.grants.filter fun g => g.ch ≠ c := by
  unfold releaseGrant
  split
  · rfl
  · rename_i h
    have := grantOf_none (Option.not_isSome_iff_eq_none.1 h)
    exact (List.filter_eq_self.2 fun g hg => by simpa using this g hg).symm

theorem releaseGrant_grantsOf : grantsOf (releaseGrant s c) c = [] := by
  rw [grantsOf, releaseGrant_grants, List.filter_filter, List.filter_eq_nil_iff]
  simp

theorem modGrant_grantsOf (f : Grant → Grant) (hf : ∀ g, (f g).ch = g.ch) :
    grantsOf (modGrant s c f) c = (grantsOf s c).map f := by
  show (s.arb.grants.map _).filter _ = _
  rw [List.filter_map, List.filter_congr (q := fun g => g.ch = c), grantsOf]
  · exact List.map_congr_left fun g hg => if_pos (by simpa using (List.mem_filter.1 hg).2)
  · intro g _
    by_cases e : g.ch = c <;> simp [e, hf]

theorem withdrawWaiting_waitsOf : waitsOf (withdrawWaiting s c) c = [] := by
  unfold withdrawWaiting
  split
  · exact filter_without c _
  · rename_i h
    rw [hasWaiting_iff, not_not] at h
    exact h

theorem withdrawWaiting_grants : (withdrawWaiting s c).arb.grants = s.arb.grants := by unfold withdrawWaiting; split <;> rfl
theorem withdrawWaiting_resume : (withdrawWaiting s c).arb.resume = s.arb.resume := by unfold withdrawWaiting; split <;> rfl
theorem withdrawWaiting_ch (d : Ch) : (withdrawWaiting s c).ch d = s.ch d := by unfold withdrawWaiting; split <;> rfl

theorem withdrawEntries_grants : (withdrawEntries s c).arb.grants = s.arb.grants := by
  unfold withdrawEntries
  dsimp only
  split <;> exact withdrawWaiting_grants s c

theorem withdrawEntries_waitsOf : waitsOf (withdrawEntries s c) c = [] := by
  unfold withdrawEntries
  dsimp only
  split <;> exact withdrawWaiting_waitsOf s c

theorem withdrawEntries_ch (d : Ch) : (withdrawEntries s c).ch d = s.ch d := by
  unfold withdrawEntries
  dsimp only
  split <;> exact withdrawWaiting_ch s c d

theorem withdrawEntries_resumesOf : resumesOf (withdrawEntries s c) c = [] := by
  unfold withdrawEntries
  dsimp only
  split
  · exact filter_without c _
  · rename_i h
    rw [hasResume_iff, not_not] at h
    exact h

theorem lodge_waitsOf (dir : Direction) (claim : Nat) : waitsOf (lodge s c dir claim) c =
    waitsOf s c ++ [⟨c, dir, claim, .new, some (s.ch c).settings.deferralLimit, s.hall.partTime⟩] := by
  show (s.arb.waiting ++ _).filter _ = _
  rw [List.filter_append, List.filter_cons, if_pos (by simp), List.filter_nil]
  rfl

theorem appendResume_resumesOf (dir : Direction) (claim : Nat) : resumesOf (appendResume s c dir claim) c =
    resumesOf s c ++ [⟨c, dir, claim, .new, some (s.ch c).settings.deferralLimit, s.hall.partTime⟩] := by
  show (s.arb.resume ++ _).filter _ = _
  rw [List.filter_append, List.filter_cons, if_pos (by simp), List.filter_nil]
  rfl

theorem idleGrant_waiting : (idleGrant s c).arb.waiting = s.arb.waiting := by
  unfold idleGrant
  split
  · rfl
  · exact iteInduction (motive := fun t : State => t.arb.waiting = s.arb.waiting) (fun _ => rfl) fun _ =>
      iteInduction (motive := fun t : State => t.arb.waiting = s.arb.waiting) (fun _ => releaseGrant_waiting s c) fun _ => rfl

theorem idleGrant_resume : (idleGrant s c).arb.resume = s.arb.resume := by
  unfold idleGrant
  split
  · rfl
  · exact iteInduction (motive := fun t : State => t.arb.resume = s.arb.resume) (fun _ => rfl) fun _ =>
      iteInduction (motive := fun t : State => t.arb.resume = s.arb.resume) (fun _ => releaseGrant_resume s c) fun _ => rfl

theorem idleGrant_ch (d : Ch) : (idleGrant s c).ch d = s.ch d := by
  unfold idleGrant
  split
  · rfl
  · exact iteInduction (motive := fun t : State => t.ch d = s.ch d) (fun _ => rfl) fun _ =>
      iteInduction (motive := fun t : State => t.ch d = s.ch d) (fun _ => releaseGrant_ch s c d) fun _ => rfl

/-- A grant that becomes idle stands, with its timer, unless the grant hold is 0 (R98). -/
theorem idleGrant_grantsOf : (grantsOf (idleGrant s c) c).length = (grantsOf s c).length ∨
    (s.ch c).settings.grantHold = 0 ∧ grantsOf (idleGrant s c) c = [] := by
  unfold idleGrant
  split
  · exact .inl rfl
  · split
    · exact .inl rfl
    · split
      · rename_i h
        exact .inr ⟨h, releaseGrant_grantsOf s c⟩
      · exact .inl (by rw [modGrant_grantsOf s c (fun g => { g with hold := some (s.ch c).settings.grantHold }) fun _ => rfl, List.length_map])

end

end Sys2Proof.Machine
end

section
/-! PROOF. O51: the figures and tests of the budget, shedding and evaluation (R84, R85, R90, R92, R93, R96, R100 to R102). -/
namespace Sys2Proof.Machine
open Sys2Proof.Safety

theorem holdable_iff (x : ChState) : x.holdable = true ↔ x ∈ [.gap, .deferred, .starting, .running, .held] := by
  cases x <;> decide

/-! ### Adding a cause (R33) -/

/-- A channel in GAP, DEFERRED, STARTING or RUNNING that takes a cause, before its grant may become idle (R33). -/
def holdOf (s : State) (c : Ch) (cause : HoldCause) : State :=
  issue ((grantNotLive (withdrawWaiting (s.modCh c Channel.stopTimers) c) c).modCh c fun ch =>
    { ch with holds := ch.holds.add cause, state := .held }) c

section
variable {s : State} {c : Ch} {cause : HoldCause}

theorem addCause_free (h : (s.ch c).state.holdable = true) (hh : (s.ch c).state ≠ .held) : addCause s c cause =
    if ((holdOf s c cause).ch c).holds.keepsIdle then idleGrant (holdOf s c cause) c else holdOf s c cause := by
  unfold addCause
  cases hs : (s.ch c).state <;> simp only [hs, ChState.holdable] at h hh ⊢ <;> first | rfl | contradiction

theorem addCause_held (h : (s.ch c).state = .held) : addCause s c cause =
    if ((s.modCh c fun ch => { ch with holds := ch.holds.add cause }).ch c).holds.keepsIdle then
      idleGrant (s.modCh c fun ch => { ch with holds := ch.holds.add cause }) c
    else s.modCh c fun ch => { ch with holds := ch.holds.add cause } := by
  unfold addCause
  rw [h]

theorem addCause_other (h : (s.ch c).state.holdable = false) : addCause s c cause = s := by
  unfold addCause
  cases hs : (s.ch c).state <;> simp only [hs, ChState.holdable] at h ⊢ <;> contradiction

theorem holdOf_ch : ∃ x p, (holdOf s c cause).ch c =
    { (s.ch c).stopTimers with holds := (s.ch c).holds.add cause, state := .held, clamped := x, port := p } := by
  obtain ⟨x, p, h⟩ := issue_ch ((grantNotLive (withdrawWaiting (s.modCh c Channel.stopTimers) c) c).modCh c fun ch =>
    { ch with holds := ch.holds.add cause, state := .held }) c c
  refine ⟨x, p, h.trans ?_⟩
  rw [State.ch_modCh_self, grantNotLive, modGrant, State.ch_modArb, withdrawWaiting_ch, State.ch_modCh_self]
  rfl

/-- A channel in a state in which a cause is recorded is HELD with it (R33). -/
theorem addCause_ch (h : (s.ch c).state.holdable = true) :
    ((addCause s c cause).ch c).state = .held ∧ ((addCause s c cause).ch c).holds = (s.ch c).holds.add cause := by
  have key : ∀ t u : State, (u.ch c).state = .held → (u.ch c).holds = (s.ch c).holds.add cause →
      t = (if (u.ch c).holds.keepsIdle then idleGrant u c else u) →
      (t.ch c).state = .held ∧ (t.ch c).holds = (s.ch c).holds.add cause := by
    rintro t u hstate hholds rfl
    split
    · rw [idleGrant_ch]; exact ⟨hstate, hholds⟩
    · exact ⟨hstate, hholds⟩
  by_cases hh : (s.ch c).state = .held
  · refine key _ _ ?_ ?_ (addCause_held hh) <;> rw [State.ch_modCh_self]
    exact hh
  · obtain ⟨x, p, hch⟩ := holdOf_ch (s := s) (c := c) (cause := cause)
    exact key _ _ (by rw [hch]) (by rw [hch]) (addCause_free h hh)

theorem holdOf_resume : (holdOf s c cause).arb.resume = s.arb.resume := by
  unfold holdOf
  rw [issue_arb]
  exact withdrawWaiting_resume _ c

theorem addCause_resume : (addCause s c cause).arb.resume = s.arb.resume := by
  by_cases h : (s.ch c).state.holdable = true
  · by_cases hh : (s.ch c).state = .held
    · rw [addCause_held hh]
      split
      · exact idleGrant_resume _ c
      · rfl
    · rw [addCause_free h hh]
      split
      · exact (idleGrant_resume _ c).trans holdOf_resume
      · exact holdOf_resume
  · rw [addCause_other (by simpa using h)]

end

/-! ### Shedding (R100 to R102) -/

/-- The resume entry of a shed grant (R102). -/
def shedEntry (s : State) (g : Grant) : Entry :=
  ⟨g.ch, g.dir, g.amount, .new, some (s.ch g.ch).settings.deferralLimit, s.hall.partTime⟩

theorem shedOne_resume (s : State) (g : Grant) (x : BudgetTest) :
    (shedOne s g x).arb.resume = s.arb.resume ++ [shedEntry s g] := by
  unfold shedOne
  exact addCause_resume (s := appendResume s g.ch g.dir g.amount)

theorem shedAll_resume (s : State) (l : List (Grant × BudgetTest)) :
    (shedAll s l).arb.resume = s.arb.resume ++ l.map fun x => shedEntry s x.1 := by
  induction l generalizing s with
  | nil => simp [shedAll]
  | cons x l ih =>
    obtain ⟨g, test⟩ := x
    have hruns := shedOne_runs s g test
    have hentry : ∀ h : Grant, shedEntry (shedOne s g test) h = shedEntry s h := fun h => by
      rw [shedEntry, shedEntry, (hruns.keeps.chans h.ch).settings, hruns.hall]
    show (shedAll (shedOne s g test) l).arb.resume = _
    rw [ih, shedOne_resume]
    simp [hentry]

/-- A channel that is HELD with CURTAILED. -/
def HeldCurtailed (ch : Channel) : Prop := ch.state = .held ∧ ch.holds.curtailed = true

theorem addCurtailed_curtailed {s : State} {c : Ch} (d : Ch) (h : HeldCurtailed (s.ch c)) :
    HeldCurtailed ((addCause s d .curtailed).ch c) := by
  by_cases e : c = d
  · subst e
    obtain ⟨hstate, hholds⟩ := addCause_ch (cause := .curtailed) (show (s.ch c).state.holdable = true by rw [h.1]; rfl)
    exact ⟨hstate, by rw [hholds]; rfl⟩
  · have hleaves := addCause_leaves e s .curtailed
    unfold HeldCurtailed
    rw [hleaves]
    exact h

theorem shedOne_curtailed {s : State} {c : Ch} (g : Grant) (x : BudgetTest) (h : HeldCurtailed (s.ch c)) :
    HeldCurtailed ((shedOne s g x).ch c) := addCurtailed_curtailed g.ch (s := appendResume s g.ch g.dir g.amount) h

theorem shedAll_curtailed {s : State} {l : List (Grant × BudgetTest)} {c : Ch}
    (h : HeldCurtailed (s.ch c) ∨ (s.ch c).state.holdable = true ∧ ∃ x ∈ l, x.1.ch = c) :
    HeldCurtailed ((shedAll s l).ch c) := by
  induction l generalizing s with
  | nil => exact h.resolve_right fun h => by simp at h
  | cons x l ih =>
    refine ih ?_
    rcases h with h | ⟨hstate, y, hy, rfl⟩
    · exact .inl (shedOne_curtailed _ _ h)
    · by_cases e : x.1.ch = y.1.ch
      · refine .inl ?_
        rw [← e]
        obtain ⟨hheld, hholds⟩ := addCause_ch (s := appendResume s x.1.ch x.1.dir x.1.amount) (c := x.1.ch)
          (cause := .curtailed) (e ▸ hstate)
        exact ⟨hheld, (congrArg HoldCauses.curtailed hholds).trans rfl⟩
      · exact .inr ⟨(shedOne_runs s x.1 x.2).still_holdable hstate,
          y, (List.mem_cons.1 hy).resolve_left fun h => e (h ▸ rfl), rfl⟩

theorem shedOne_link (s : State) (g : Grant) (x : BudgetTest) :
    (shedOne s g x).link = s.link.make s.hall.partTime (chByte g.ch) (.curtailed g.dir g.amount x) := by
  have hlink := addCause_link (appendResume s g.ch g.dir g.amount) g.ch .curtailed
  have hhall := (addCause_acts (appendResume s g.ch g.dir g.amount) g.ch .curtailed).hall
  show (State.link (addCause _ _ _)).make _ _ _ = _
  rw [hlink, hhall]
  rfl

theorem shedAll_reports (s : State) (l : List (Grant × BudgetTest)) (h : s.link.reports.length + l.length ≤ 64) :
    (shedAll s l).link.reports = s.link.reports ++ l.zipIdx.map fun x =>
      (⟨s.link.nextSeq + x.2, s.hall.partTime, chByte x.1.1.ch, .curtailed x.1.1.dir x.1.1.amount x.1.2⟩ : Report) := by
  induction l generalizing s with
  | nil => simp [shedAll]
  | cons x l ih =>
    obtain ⟨g, test⟩ := x
    rw [List.length_cons] at h
    have hlink := (shedOne_link s g test).trans (make_room _ _ _ (by omega))
    show (shedAll (shedOne s g test) l).link.reports = _
    rw [ih _ (by rw [hlink]; simp only [List.length_append, List.length_singleton]; omega), hlink, (shedOne_runs s g test).hall]
    rw [List.zipIdx_cons, List.map_cons, List.append_assoc]
    congr 1
    rw [List.singleton_append]
    refine congrArg₂ List.cons (by simp) ?_
    rw [Nat.zero_add, List.zipIdx_eq_map_add (l := l) (i := 1), List.map_map]
    refine List.map_congr_left fun y _ => ?_
    simp only [Function.comp, Report.mk.injEq, and_true]
    push_cast
    exact add_assoc _ _ _

theorem shed_eq (s : State) :
    let r := shedLoop s.arb.budget (cEffOf s) (s.arb.grants.length + 1) s.arb.grants
    shed s = s ∧ r.2 = [] ∨ shed s = shedAll (s.modArb fun a => { a with grants := r.1, evalDue := true }) r.2 := by
  intro r
  unfold shed
  dsimp only
  split
  · rename_i h
    exact .inl ⟨rfl, List.isEmpty_iff.1 h⟩
  · exact .inr rfl

/-! ### Evaluation (R90, R93, R96) -/

theorem grantResume_spec (b : BudgetSettings) (cEff : Nat) (gs : List Grant) (es : List Entry) :
    ∃ taken, es = taken ++ (grantResume b cEff gs es).2.1 ∧ (grantResume b cEff gs es).1 = gs ++ taken.map Entry.grant ∧
      (grantResume b cEff gs es).2.2 = taken.map Entry.ch ∧
      (withinCeilings b cEff gs = true → withinCeilings b cEff (grantResume b cEff gs es).1 = true) := by
  induction es generalizing gs with
  | nil => exact ⟨[], rfl, by simp [grantResume], rfl, id⟩
  | cons e es ih =>
    unfold grantResume
    by_cases h : withinCeilings b cEff (gs ++ [e.grant]) = true
    · rw [if_pos h]
      obtain ⟨taken, hes, hgs, hcs, hw⟩ := ih (gs ++ [e.grant])
      exact ⟨e :: taken, by rw [List.cons_append, ← hes], by rw [hgs]; simp,
        congrArg (e.ch :: ·) hcs, fun _ => hw h⟩
    · rw [if_neg h]
      exact ⟨[], rfl, by simp, rfl, id⟩

/-- What the walk adds, whatever the order and the waiting set (R90). -/
theorem walkWaiting_adds (b : BudgetSettings) (cEff : Nat) (ring : List (Option Ch)) (lows cs : List Ch) (w : Walk) :
    ∃ taken : List Entry, (walkWaiting b cEff ring lows cs w).grants = w.grants ++ taken.map Entry.grant ∧
      (walkWaiting b cEff ring lows cs w).granted = w.granted ++ taken.map Entry.ch ∧ (∀ e ∈ taken, e ∈ w.waiting) ∧
      (taken.map Entry.ch).Nodup ∧
      (walkWaiting b cEff ring lows cs w).waiting = w.waiting.filter (fun e => e.ch ∉ taken.map Entry.ch) ∧
      (withinCeilings b cEff w.grants = true → withinCeilings b cEff (walkWaiting b cEff ring lows cs w).grants = true) := by
  have hnone : ∀ w : Walk, ∃ taken : List Entry, w.grants = w.grants ++ taken.map Entry.grant ∧
      w.granted = w.granted ++ taken.map Entry.ch ∧ (∀ e ∈ taken, e ∈ w.waiting) ∧ (taken.map Entry.ch).Nodup ∧
      w.waiting = w.waiting.filter (fun e => e.ch ∉ taken.map Entry.ch) ∧
      (withinCeilings b cEff w.grants = true → withinCeilings b cEff w.grants = true) :=
    fun w => ⟨[], by simp, by simp, by simp, by simp, by simp, id⟩
  induction cs generalizing w with
  | nil => exact hnone w
  | cons c cs ih =>
    unfold walkWaiting
    split
    · exact ih w
    · rename_i e hf
      have he : e ∈ w.waiting := List.mem_of_find?_eq_some hf
      obtain rfl : e.ch = c := by simpa using List.find?_some hf
      by_cases hfit : withinCeilings b cEff (w.grants ++ [e.grant]) = true
      · rw [if_pos hfit]
        obtain ⟨taken, hgs, hcs, hof, hnd, hwait, hw⟩ := ih
          { grants := w.grants ++ [e.grant], waiting := withoutCh w.waiting e.ch,
            hp := (movePointers ring lows e.ch w.hp w.lp).1, lp := (movePointers ring lows e.ch w.hp w.lp).2,
            granted := w.granted ++ [e.ch] }
        refine ⟨e :: taken, by rw [hgs]; simp, by rw [hcs]; simp, fun x hx => ?_, ?_, ?_, fun _ => hw hfit⟩
        · rcases List.mem_cons.1 hx with rfl | hx
          · exact he
          · exact (List.mem_filter.1 (hof x hx)).1
        · rw [List.map_cons, List.nodup_cons]
          refine ⟨fun h => ?_, hnd⟩
          obtain ⟨x, hx, hxe⟩ := List.mem_map.1 h
          simpa [hxe] using (List.mem_filter.1 (hof x hx)).2
        · rw [hwait, withoutCh, List.filter_filter]
          refine List.filter_congr fun x _ => ?_
          by_cases hx : x.ch = e.ch <;> simp [hx]
      · rw [if_neg hfit]
        split
        · exact hnone w
        · exact ih w

/-- What an evaluation does (R90): entries from the head of the resume queue and, once that is empty, entries of the waiting
set leave their places, and each has a reserved grant at the end of the list. -/
theorem evaluate_spec (s : State) : ∃ fromResume fromWaiting : List Entry,
    (evaluate s).1.arb.grants = s.arb.grants ++ (fromResume ++ fromWaiting).map Entry.grant ∧
    (evaluate s).2 = (fromResume ++ fromWaiting).map Entry.ch ∧
    s.arb.resume = fromResume ++ (evaluate s).1.arb.resume ∧
    (∀ e ∈ fromWaiting, e ∈ s.arb.waiting) ∧ (fromWaiting.map Entry.ch).Nodup ∧
    (evaluate s).1.arb.waiting = s.arb.waiting.filter (fun e => e.ch ∉ fromWaiting.map Entry.ch) ∧
    ((evaluate s).1.arb.resume ≠ [] → fromWaiting = []) ∧
    (testsHold s = true → testsHold (evaluate s).1 = true) ∧
    (evaluate s).1 = { s with arb := (evaluate s).1.arb } ∧ (evaluate s).1.arb.budget = s.arb.budget ∧
    (evaluate s).1.arb.evalDue = s.arb.evalDue := by
  obtain ⟨taken, hes, hgs, hcs, hw⟩ := grantResume_spec s.arb.budget (cEffOf s) s.arb.grants s.arb.resume
  unfold evaluate
  dsimp only
  generalize grantResume s.arb.budget (cEffOf s) s.arb.grants s.arb.resume = one at hes hgs hcs hw ⊢
  obtain ⟨gs, rest, chs⟩ := one
  obtain rfl : gs = s.arb.grants ++ taken.map Entry.grant := hgs
  obtain rfl : chs = taken.map Entry.ch := hcs
  split
  · rename_i h
    obtain rfl : rest = [] := List.isEmpty_iff.1 h
    obtain ⟨more, hgs', hcs', hof, hnd, hwait, hw'⟩ := walkWaiting_adds s.arb.budget (cEffOf s) (ringOf s) (lowList s) (walkOrder s)
      ⟨s.arb.grants ++ taken.map Entry.grant, s.arb.waiting, s.arb.hp, s.arb.lp, []⟩
    refine ⟨taken, more, ?_, ?_, hes, hof, hnd, hwait, fun h => absurd rfl h, fun ht => hw' (hw ht), rfl, rfl, rfl⟩
    · exact hgs'.trans (by rw [List.map_append, List.append_assoc])
    · rw [hcs', List.nil_append, List.map_append]
  · refine ⟨taken, [], ?_, ?_, hes, by simp, by simp, ?_, fun _ => rfl, fun ht => hw ht, rfl, rfl, rfl⟩
    · rw [List.append_nil]; rfl
    · rw [List.append_nil]
    · simp

/-- The head of the resume queue is granted while it fits; one that does not fit ends the evaluation (R90). -/
theorem evaluate_head (s : State) (e : Entry) (es : List Entry) (h : s.arb.resume = e :: es) :
    evaluate s =
      if withinCeilings s.arb.budget (cEffOf s) (s.arb.grants ++ [e.grant]) = true then
        ((evaluate (s.modArb fun a => { a with grants := s.arb.grants ++ [e.grant], resume := es })).1,
          e.ch :: (evaluate (s.modArb fun a => { a with grants := s.arb.grants ++ [e.grant], resume := es })).2)
      else (s, []) := by
  have hone : grantResume s.arb.budget (cEffOf s) s.arb.grants (e :: es) =
      if withinCeilings s.arb.budget (cEffOf s) (s.arb.grants ++ [e.grant]) then
        ((grantResume s.arb.budget (cEffOf s) (s.arb.grants ++ [e.grant]) es).1,
          (grantResume s.arb.budget (cEffOf s) (s.arb.grants ++ [e.grant]) es).2.1,
          e.ch :: (grantResume s.arb.budget (cEffOf s) (s.arb.grants ++ [e.grant]) es).2.2)
      else (s.arb.grants, e :: es, []) := rfl
  by_cases hfit : withinCeilings s.arb.budget (cEffOf s) (s.arb.grants ++ [e.grant]) = true
  · rw [if_pos hfit] at hone ⊢
    have hsame : grantResume (s.modArb fun a => { a with grants := s.arb.grants ++ [e.grant], resume := es }).arb.budget
        (cEffOf (s.modArb fun a => { a with grants := s.arb.grants ++ [e.grant], resume := es }))
        (s.modArb fun a => { a with grants := s.arb.grants ++ [e.grant], resume := es }).arb.grants
        (s.modArb fun a => { a with grants := s.arb.grants ++ [e.grant], resume := es }).arb.resume =
        grantResume s.arb.budget (cEffOf s) (s.arb.grants ++ [e.grant]) es := rfl
    unfold evaluate
    dsimp only
    rw [hsame, h, hone]
    dsimp only
    split <;> rfl
  · rw [if_neg hfit] at hone ⊢
    unfold evaluate
    dsimp only
    rw [h, hone]
    rw [if_neg (by simp)]
    refine congrArg (·, []) ?_
    have : (fun a : Arbiter => { a with grants := s.arb.grants, resume := e :: es }) s.arb = s.arb := by rw [← h]
    exact congrArg (fun a => { s with arb := a }) this

/-! ### The walk's order and pointers (R92, R93) -/

/-- The channels of a group, in ascending number. -/
def groupList (s : State) (g : Group) : List Ch := ([0, 1, 2, 3, 4, 5, 6, 7] : List Ch).filter fun c => (s.ch c).settings.group = g

theorem lowList_eq (s : State) : lowList s = groupList s .low := rfl

theorem ringOf_eq (s : State) :
    ringOf s = (groupList s .high).map some ++ (if groupList s .low = [] then [] else [none]) := by
  unfold ringOf
  rw [lowList_eq]
  congr 1
  exact if_congr List.isEmpty_iff rfl rfl

theorem mem_groupList (s : State) (g : Group) (c : Ch) : c ∈ groupList s g ↔ (s.ch c).settings.group = g := by
  have hall : c ∈ ([0, 1, 2, 3, 4, 5, 6, 7] : List Ch) := mem_allCh c
  simp [groupList, List.mem_filter, hall]

theorem groupList_nodup (s : State) (g : Group) : (groupList s g).Nodup := List.Nodup.filter _ (by decide)

/-- The LOW channels in the order in which the LOW slot stands for them. -/
theorem lowFrom_perm (s : State) : (lowFrom s).Perm (groupList s .low) := by
  unfold lowFrom
  split
  · exact List.Perm.refl _
  · rename_i lp _
    refine (List.Perm.append_left _ ?_).trans (List.filter_append_perm (fun c => decide (lp ≤ c)) _)
    rw [lowList_eq, List.filter_congr (q := fun c => !decide (lp ≤ c))]
    intro c _
    exact decide_eq_decide.2 not_le.symm |>.trans (decide_not (p := lp ≤ c))

theorem walkOrder_nodup (s : State) : (walkOrder s).Nodup := by
  have hring : (ringOf s).Nodup := by
    rw [ringOf_eq]
    refine List.Nodup.append ((groupList_nodup s .high).map (Option.some_injective _)) (by split <;> simp) ?_
    intro x hx hy
    split at hy
    · cases hy
    · rw [List.mem_singleton.1 hy] at hx
      simp at hx
  have hrotated : ((ringOf s).drop s.arb.hp ++ (ringOf s).take s.arb.hp).Nodup := by
    refine List.nodup_append_comm.1 ?_
    rw [List.take_append_drop]
    exact hring
  have hmem : ∀ p ∈ (ringOf s).drop s.arb.hp ++ (ringOf s).take s.arb.hp, p ∈ ringOf s := fun p hp =>
    (List.mem_append.1 hp).elim List.mem_of_mem_drop List.mem_of_mem_take
  unfold walkOrder
  rw [List.nodup_flatten]
  constructor
  · intro l hl
    obtain ⟨p, -, rfl⟩ := List.mem_map.1 hl
    cases p with
    | some c => simp
    | none => exact (lowFrom_perm s).nodup_iff.2 (groupList_nodup s .low)
  · rw [List.pairwise_map]
    refine List.Pairwise.imp_of_mem ?_ hrotated
    intro p q hp hq hpq
    have hhigh : ∀ c, some c ∈ ringOf s → (s.ch c).settings.group = .high := fun c hc => by
      rw [ringOf_eq] at hc
      refine (mem_groupList s .high c).1 ?_
      rcases List.mem_append.1 hc with h | h
      · simpa using h
      · split at h <;> simp at h
    have hlow : ∀ c ∈ lowFrom s, (s.ch c).settings.group = .low := fun c hc =>
      (mem_groupList s .low c).1 ((lowFrom_perm s).mem_iff.1 hc)
    cases p with
    | some c =>
      cases q with
      | some d =>
        rw [List.singleton_disjoint]
        exact fun e => hpq (by rw [List.mem_singleton.1 e])
      | none =>
        rw [List.singleton_disjoint]
        intro e
        have h1 := hhigh c (hmem _ hp)
        rw [hlow c e] at h1
        cases h1
    | none =>
      cases q with
      | some d =>
        rw [List.disjoint_singleton]
        intro e
        have h1 := hhigh d (hmem _ hq)
        rw [hlow d e] at h1
        cases h1
      | none => exact absurd rfl hpq

/-- The pointers after a grant, by the group of its channel (R93). -/
theorem movePointers_eq (s : State) (c : Ch) (p : Nat × Option Ch) :
    movePointers (ringOf s) (lowList s) c p.1 p.2 =
      if (s.ch c).settings.group = .high then
        (if (ringOf s).idxOf (some c) + 1 < (ringOf s).length then (ringOf s).idxOf (some c) + 1 else 0, p.2)
      else
        (if (ringOf s).length = 1 then p.1
          else if (ringOf s).idxOf none + 1 < (ringOf s).length then (ringOf s).idxOf none + 1 else 0,
          ((lowList s).filter (fun d => c < d) ++ lowList s).head?) := by
  have hidx : ∀ q : Option Ch, (ringOf s).findIdx? (fun p => p = q) =
      if q ∈ ringOf s then some ((ringOf s).idxOf q) else none := fun q => by
    rw [List.findIdx?_eq_guard_findIdx_lt]
    have : (ringOf s).findIdx (fun p => decide (p = q)) = (ringOf s).idxOf q := by
      rw [List.idxOf]; congr 1; funext p; exact (beq_eq_decide ..).symm
    rw [this, Option.guard]
    simp only [decide_eq_true_eq, List.idxOf_lt_length_iff]
  have hsome : some c ∈ ringOf s ↔ (s.ch c).settings.group = .high := by
    rw [ringOf_eq, List.mem_append, ← mem_groupList s .high c]
    split <;> simp
  unfold movePointers
  rw [hidx, hidx]
  by_cases hg : (s.ch c).settings.group = .high
  · rw [if_pos (hsome.2 hg), if_pos hg]
    rfl
  · have hlow : (s.ch c).settings.group = .low := by cases h : (s.ch c).settings.group <;> simp_all
    have hmem := (mem_groupList s .low c).2 hlow
    have hnone : none ∈ ringOf s := by
      rw [ringOf_eq, if_neg (List.ne_nil_of_mem hmem)]
      simp
    rw [if_neg (fun h => hg (hsome.1 h)), if_neg hg, if_pos hnone]
    have hnext : nextLow (lowList s) c = ((lowList s).filter (fun d => c < d) ++ lowList s).head? := by
      rw [nextLow, List.head?_append, List.head?_filter]
      cases (lowList s).find? fun d => decide (c < d) <;> rfl
    rw [hnext]
    rfl

/-- With an empty resume queue the waiting set is walked once in the rotation order (R90, R93, R96). -/
theorem evaluate_walk {s : State} (hr : s.arb.resume = []) (hnd : (s.arb.waiting.map Entry.ch).Nodup) :
    (evaluate s).2.Sublist (walkOrder s) ∧
      (evaluate s).1.arb.grants = s.arb.grants ++ asked s.arb.waiting (evaluate s).2 ∧ (evaluate s).1.arb.resume = [] ∧
      (evaluate s).1.arb.waiting = s.arb.waiting.filter (fun e => e.ch ∉ (evaluate s).2) ∧
      (∀ a c b e, walkOrder s = a ++ c :: b → e ∈ s.arb.waiting → e.ch = c →
        (c ∈ (evaluate s).2 ↔
          withinCeilings s.arb.budget (cEffOf s)
            (s.arb.grants ++ asked s.arb.waiting (a.filter fun d => d ∈ (evaluate s).2) ++ [e.grant]) = true ∧
          ∀ x ∈ s.arb.waiting, x.ch ∈ a → x.mark = .starved → x.ch ∈ (evaluate s).2)) ∧
      ((evaluate s).1.arb.hp, (evaluate s).1.arb.lp) =
        (evaluate s).2.foldl (fun p c => movePointers (ringOf s) (lowList s) c p.1 p.2) (s.arb.hp, s.arb.lp) := by
  obtain ⟨more, hw, hsub, -, hiff⟩ := walkWaiting_grants (b := s.arb.budget) (cEff := cEffOf s) (ring := ringOf s)
    (lows := lowList s) (gs := s.arb.grants) (waiting := s.arb.waiting) (p := (s.arb.hp, s.arb.lp)) (granted := []) hnd
    (walkOrder_nodup s) fun _ _ => List.not_mem_nil
  have hstart : walkState s.arb.grants s.arb.waiting (ringOf s) (lowList s) (s.arb.hp, s.arb.lp) [] =
      ⟨s.arb.grants, s.arb.waiting, s.arb.hp, s.arb.lp, []⟩ := by simp [walkState, asked]
  rw [hstart, List.nil_append] at hw
  have heval : evaluate s = (s.modArb fun a =>
      { a with
        grants := (walkState s.arb.grants s.arb.waiting (ringOf s) (lowList s) (s.arb.hp, s.arb.lp) more).grants
        resume := []
        waiting := (walkState s.arb.grants s.arb.waiting (ringOf s) (lowList s) (s.arb.hp, s.arb.lp) more).waiting
        hp := (walkState s.arb.grants s.arb.waiting (ringOf s) (lowList s) (s.arb.hp, s.arb.lp) more).hp
        lp := (walkState s.arb.grants s.arb.waiting (ringOf s) (lowList s) (s.arb.hp, s.arb.lp) more).lp }, more) := by
    unfold evaluate
    dsimp only
    rw [hr]
    have hone : grantResume s.arb.budget (cEffOf s) s.arb.grants [] = (s.arb.grants, [], []) := rfl
    rw [hone]
    dsimp only
    rw [if_pos (by rfl), hw]
    rfl
  rw [heval]
  refine ⟨hsub, rfl, rfl, rfl, fun a c b e hsplit he hec => ?_, rfl⟩
  have h := hiff a c b e hsplit he hec
  rw [List.nil_append] at h
  exact h

/-- Settles O51, from the figures' own bounds, the removals of a shedding in order, and the walk of an evaluation. -/
theorem budgetTests : Obligations.BudgetTests := by
  unfold Obligations.BudgetTests
  refine ⟨figures_bounds, fun b cEff gs => ?_, fun b cEff gs => ?_, fun s => ?_, fun s ht => ?_, evaluate_head,
    fun s hr hnd => ?_, fun b cEff gs hnd => ?_⟩
  · intro x total
    obtain ⟨h1, h2, h3, h4⟩ := sumsOf_totals b gs
    exact ⟨h1, h2, h3, h4, by rw [withinCeilings_iff, intakeOk_iff, returnOk_iff]⟩
  · intro r
    obtain ⟨htrace, hwithin⟩ := shedLoop_removals (cEff := cEff) (b := b) (last := none) (gs.length + 1) (Nat.lt_succ_self _)
      (by simp)
    refine ⟨hwithin, htrace.sublist, htrace.length, fun h => if_pos h, fun x hx => ?_⟩
    obtain ⟨hm, hc⟩ := htrace.mem x hx
    rw [countsFor_iff] at hc
    exact ⟨hm, fun e => by rw [e] at hc; exact hc.symm, fun e => by rw [e] at hc; exact hc.symm⟩
  · intro r t
    rcases shed_eq s with ⟨hs, hr⟩ | hs
    · refine ⟨?_, fun x hx => ?_, fun _ => ?_⟩
      · show (shed s).arb.resume = _ ++ List.map _ (Prod.snd _)
        rw [hs, hr]; simp
      · exact absurd (hr ▸ hx : x ∈ []) List.not_mem_nil
      · show (shed s).link.reports = _ ++ List.map _ (List.zipIdx (Prod.snd _))
        rw [hs, hr]; simp
    · refine ⟨?_, fun x hx hstate => ?_, fun hroom => ?_⟩
      · show (shed s).arb.resume = _
        rw [hs, shedAll_resume]
        rfl
      · show ((shed s).ch x.1.ch).state = _ ∧ ((shed s).ch x.1.ch).holds.curtailed = true
        rw [hs]
        exact shedAll_curtailed (.inr ⟨(holdable_iff _).2 hstate, x, hx, rfl⟩)
      · show (shed s).link.reports = _
        rw [hs, shedAll_reports _ _ (by exact hroom)]
        rfl
  · intro t
    obtain ⟨fromResume, fromWaiting, hgs, hcs, hres, -, -, hwait, hnone, htest, hrest, hb, -⟩ := evaluate_spec s
    refine ⟨htest ht, ⟨_, hgs, ?_, fun g hg => ?_⟩, ⟨fromResume, hres⟩, fun h => ?_, hrest, hb⟩
    · rw [hcs, List.map_map]; rfl
    · obtain ⟨e, -, rfl⟩ := List.mem_map.1 hg
      exact ⟨rfl, rfl⟩
    · show (evaluate s).1.arb.waiting = _
      rw [hwait, hnone h]
      simp
  · intro all inGroup lows ring lowTurn walk after t granted new
    obtain ⟨hsub, hgs, hres, hwait, hiff, hptr⟩ := evaluate_walk hr hnd
    have hring : ringOf s = ring := ringOf_eq s
    have hwalk : walkOrder s = walk := by
      unfold walkOrder
      simp only [hring]
      rfl
    refine ⟨hwalk ▸ hsub, hgs, hres, hwait, fun a c b e hsplit => hiff a c b e (hwalk.trans hsplit), hptr.trans ?_⟩
    congr 1
    funext p c
    rw [movePointers_eq]
    simp only [hring]
    rfl
  · intro r left intake return'
    obtain ⟨htrace, -⟩ := shedLoop_removals (cEff := cEff) (b := b) (last := none) (gs.length + 1) (Nat.lt_succ_self _)
      (by simp)
    obtain ⟨hout, hstages⟩ := htrace.stages hnd
    refine ⟨hout, fun before x after hsplit => ?_⟩
    intro l counts
    obtain ⟨hwhy, older, newer, hl, hx, hnewer⟩ := hstages before x after hsplit
    refine ⟨⟨older, newer, hl, (countsFor_iff _ _).1 hx, fun g hg h => ?_⟩, fun hx => ?_, fun hx => ?_⟩
    · exact Bool.eq_false_iff.1 (hnewer g hg) ((countsFor_iff _ _).2 h)
    · rw [hx] at hwhy
      obtain ⟨hfails, hlast⟩ := hwhy
      refine ⟨fun h => Bool.eq_false_iff.1 hfails ((intakeOk_iff b cEff l).2 h), fun y hy hr => ?_⟩
      exact (returnOk_iff b l).1 (hlast (by simp [testAfter, hy, hr]))
    · rw [hx] at hwhy
      obtain ⟨hfails, hlast⟩ := hwhy
      refine ⟨fun h => Bool.eq_false_iff.1 hfails ((returnOk_iff b l).2 h), hlast.imp (intakeOk_iff b cEff l).1 fun h => ?_⟩
      cases hb : before.getLast? with
      | none => simp [testAfter, hb] at h
      | some y => exact ⟨y, rfl, by simpa [testAfter, hb] using h⟩

end Sys2Proof.Machine
end

section
/-! PROOF. O57: a channel's place in the arbiter's collections through the acts of the channel unit (R88, R89). -/
namespace Sys2Proof.Machine
open Sys2Proof.Safety

/-! ### A channel's place -/

/-- A channel appears at most once in the arbiter's collections, only in GAP, DEFERRED, STARTING, RUNNING or HELD, and in the
waiting set only in GAP or DEFERRED (R88, R89). -/
structure AtPlace (s : State) (c : Ch) : Prop where
  once   : places s c ≤ 1
  states : places s c ≠ 0 → (s.ch c).state.holdable = true
  waits  : waitsOf s c ≠ [] → (s.ch c).state = .gap ∨ (s.ch c).state = .deferred

section
variable {s t : State} {c : Ch}

/-- A place that only gets smaller stands, the channel's state standing. -/
theorem AtPlace.mono (h : AtPlace s c) (hg : (grantsOf t c).length ≤ (grantsOf s c).length)
    (hw : (waitsOf t c).length ≤ (waitsOf s c).length) (hr : (resumesOf t c).length ≤ (resumesOf s c).length)
    (hs : (t.ch c).state = (s.ch c).state) : AtPlace t c := by
  refine ⟨?_, fun hp => hs ▸ h.states ?_, fun hne => hs ▸ h.waits ?_⟩
  · have := h.once
    unfold places at *
    omega
  · unfold places at *
    omega
  · rw [ne_eq, ← List.length_eq_zero_iff] at *
    omega

theorem AtPlace.of_arb (h : AtPlace s c) (ha : t.arb = s.arb) (hs : (t.ch c).state = (s.ch c).state) : AtPlace t c :=
  h.mono (by rw [grantsOf_congr c ha]) (by rw [waitsOf_congr c ha]) (by rw [resumesOf_congr c ha]) hs

theorem AtPlace.of_none (h : places s c = 0) : AtPlace s c :=
  ⟨by omega, fun e => absurd h e, fun e => by
    unfold places at h
    exact absurd (List.length_eq_zero_iff.1 (by omega)) e⟩

/-- GAP and DEFERRED admit every place. -/
theorem AtPlace.of_once (h : places s c ≤ 1) (hs : (s.ch c).state = .gap ∨ (s.ch c).state = .deferred) : AtPlace s c :=
  ⟨h, fun _ => by rcases hs with hs | hs <;> rw [hs] <;> rfl, fun _ => hs⟩

theorem AtPlace.of_unwaiting (h : places s c ≤ 1) (hw : waitsOf s c = []) (hs : (s.ch c).state.holdable = true) : AtPlace s c :=
  ⟨h, fun _ => hs, fun e => absurd hw e⟩

theorem places_congr (ha : t.arb = s.arb) : places t c = places s c := by
  rw [places, grantsOf_congr c ha, waitsOf_congr c ha, resumesOf_congr c ha, ← places]

/-- A channel that holds a grant has no entry. -/
theorem AtPlace.granted (h : places s c ≤ 1) (hg : grantsOf s c ≠ []) :
    (grantsOf s c).length = 1 ∧ waitsOf s c = [] ∧ resumesOf s c = [] := by
  rw [ne_eq, ← List.length_eq_zero_iff] at hg
  unfold places at h
  exact ⟨by omega, List.length_eq_zero_iff.1 (by omega), List.length_eq_zero_iff.1 (by omega)⟩

theorem AtPlace.unwaiting (h : AtPlace s c) (h1 : (s.ch c).state ≠ .gap) (h2 : (s.ch c).state ≠ .deferred) :
    waitsOf s c = [] := by
  by_contra e
  exact (h.waits e).elim h1 h2

theorem releaseGrant_mono : (grantsOf (releaseGrant s c) c).length ≤ (grantsOf s c).length ∧
    waitsOf (releaseGrant s c) c = waitsOf s c ∧ resumesOf (releaseGrant s c) c = resumesOf s c := by
  rw [releaseGrant_grantsOf, waitsOf, waitsOf, resumesOf, resumesOf, releaseGrant_waiting, releaseGrant_resume]
  exact ⟨Nat.zero_le _, rfl, rfl⟩

theorem idleGrant_mono : (grantsOf (idleGrant s c) c).length ≤ (grantsOf s c).length ∧
    waitsOf (idleGrant s c) c = waitsOf s c ∧ resumesOf (idleGrant s c) c = resumesOf s c := by
  rw [waitsOf, waitsOf, resumesOf, resumesOf, idleGrant_waiting, idleGrant_resume]
  refine ⟨?_, rfl, rfl⟩
  rcases idleGrant_grantsOf s c with h | ⟨-, h⟩
  · rw [h]
  · rw [h]; exact Nat.zero_le _

theorem AtPlace.releaseGrant (h : AtPlace s c) : AtPlace (releaseGrant s c) c := by
  obtain ⟨hg, hw, hr⟩ := releaseGrant_mono (s := s) (c := c)
  exact h.mono hg (by rw [hw]) (by rw [hr]) (by rw [releaseGrant_ch])

theorem AtPlace.idleGrant (h : AtPlace s c) : AtPlace (idleGrant s c) c := by
  obtain ⟨hg, hw, hr⟩ := idleGrant_mono (s := s) (c := c)
  exact h.mono hg (by rw [hw]) (by rw [hr]) (by rw [idleGrant_ch])

theorem AtPlace.modGrant (h : AtPlace s c) (f : Grant → Grant) (hf : ∀ g, (f g).ch = g.ch) : AtPlace (modGrant s c f) c :=
  h.mono (by rw [modGrant_grantsOf s c f hf, List.length_map]) (Nat.le_refl _) (Nat.le_refl _) rfl

theorem AtPlace.unidleGrant (h : AtPlace s c) : AtPlace (unidleGrant s c) c := h.modGrant _ fun _ => rfl

theorem AtPlace.withdrawWaiting (h : AtPlace s c) : AtPlace (withdrawWaiting s c) c := by
  refine h.mono ?_ ?_ ?_ (by rw [withdrawWaiting_ch])
  · rw [grantsOf, withdrawWaiting_grants, ← grantsOf]
  · rw [withdrawWaiting_waitsOf]; exact Nat.zero_le _
  · rw [resumesOf, withdrawWaiting_resume, ← resumesOf]

theorem AtPlace.lodge (dir : Direction) (claim : Nat) (h : places s c = 0)
    (hs : (s.ch c).state = .gap ∨ (s.ch c).state = .deferred) : AtPlace (lodge s c dir claim) c := by
  refine .of_once ?_ hs
  have hw := congrArg List.length (lodge_waitsOf s c dir claim)
  rw [List.length_append, List.length_singleton] at hw
  have hg : grantsOf (Machine.lodge s c dir claim) c = grantsOf s c := rfl
  have hr : resumesOf (Machine.lodge s c dir claim) c = resumesOf s c := rfl
  unfold places at *
  rw [hg, hr, hw]
  omega

theorem AtPlace.issue (h : AtPlace s c) (d : Ch) : AtPlace (issue s d) c := by
  obtain ⟨x, p, hch⟩ := issue_ch s d c
  exact h.of_arb (issue_arb s d) (by rw [hch])

/-- A channel that releases its grant, and had one or no place at all, has no place. -/
theorem places_releaseGrant (h : places s c ≤ 1) (hg : grantsOf s c ≠ [] ∨ places s c = 0) : places (releaseGrant s c) c = 0 := by
  obtain ⟨-, hw, hr⟩ := releaseGrant_mono (s := s) (c := c)
  have hgone := releaseGrant_grantsOf s c
  rw [places, hgone, hw, hr]
  rcases hg with hg | hg
  · obtain ⟨-, hw', hr'⟩ := AtPlace.granted h hg
    rw [hw', hr']; rfl
  · unfold places at hg
    simp only [List.length_nil]
    omega

theorem places_withdraw : places (withdrawEntries (releaseGrant s c) c) c = 0 := by
  have hg : grantsOf (withdrawEntries (releaseGrant s c) c) c = [] := by
    rw [grantsOf, withdrawEntries_grants, ← grantsOf, releaseGrant_grantsOf]
  rw [places, hg, withdrawEntries_waitsOf, withdrawEntries_resumesOf]
  rfl

/-! ### The acts of the channel unit -/

theorem holdsCover_granted {r : StepRecord} (h : holdsCover s c r = true) : grantsOf s c ≠ [] := by
  unfold holdsCover at h
  intro e
  rw [(grantOf_isNone s c).2 e] at h
  exact Bool.false_ne_true h

theorem granted_of_isSome (h : (grantOf s c).isSome = true) : grantsOf s c ≠ [] := by
  intro e
  rw [(grantOf_isNone s c).2 e] at h
  exact Bool.false_ne_true h

theorem AtPlace.exchangeGrant (h : AtPlace s c) (r : StepRecord) (hg : grantsOf s c ≠ [])
    (hs : (s.ch c).state = .gap ∨ (s.ch c).state = .deferred) : AtPlace (exchangeGrant s c r) c :=
  .lodge _ _ (places_releaseGrant h.once (.inl hg)) (by rw [releaseGrant_ch]; exact hs)

theorem AtPlace.settleAtGap (h : AtPlace s c) (r : StepRecord) (hs : (s.ch c).state = .gap) : AtPlace (settleAtGap s c r) c := by
  unfold Machine.settleAtGap
  have h0 : AtPlace (if holdsCover s c r then Machine.unidleGrant s c else Machine.releaseGrant s c) c ∧
      ((if holdsCover s c r then Machine.unidleGrant s c else Machine.releaseGrant s c).ch c).state = .gap := by
    split
    · exact ⟨h.modGrant _ fun _ => rfl, hs⟩
    · exact ⟨h.releaseGrant, by rw [releaseGrant_ch]; exact hs⟩
  dsimp only
  generalize (if holdsCover s c r then Machine.unidleGrant s c else Machine.releaseGrant s c) = u at h0 ⊢
  split
  · exact h0.1
  · rename_i hnone
    simp only [Bool.or_eq_true, not_or, hasResume_iff, hasWaiting_iff, not_not] at hnone
    obtain ⟨⟨hgrant, hres⟩, hwait⟩ := hnone
    refine .lodge _ _ ?_ (.inl h0.2)
    rw [places, (grantOf_isNone u c).1 (by simpa using hgrant), hres, hwait]
    rfl

theorem AtPlace.enterStarting (h : places s c ≤ 1) (hw : waitsOf s c = []) (r : StepRecord) : AtPlace (enterStarting s c r) c := by
  unfold Machine.enterStarting
  refine AtPlace.issue (AtPlace.unidleGrant ?_) c
  exact .of_unwaiting h hw (by rw [State.ch_modCh_self]; rfl)

theorem AtPlace.enterDeferred (h : places s c ≤ 1) : AtPlace (enterDeferred s c) c := by
  unfold Machine.enterDeferred
  refine AtPlace.issue ?_ c
  exact .of_once h (.inr (by rw [State.ch_modCh_self]))

theorem AtPlace.enterRest (h : places s c ≤ 1) (hw : waitsOf s c = []) : AtPlace (enterRest s c) c := by
  unfold Machine.enterRest
  refine AtPlace.idleGrant (AtPlace.issue ?_ c)
  exact .of_unwaiting h hw (by rw [State.ch_modCh_self]; rfl)

theorem AtPlace.gapExpires (h : AtPlace s c) (hs : (s.ch c).state = .gap) : AtPlace (gapExpires s c) c := by
  unfold Machine.gapExpires
  split
  · exact .enterDeferred h.releaseGrant.once
  · split
    · rename_i hcover
      exact .enterStarting h.once (AtPlace.granted h.once (holdsCover_granted hcover)).2.1 _
    · split
      · rename_i hgrant
        exact .enterDeferred (h.exchangeGrant _ (granted_of_isSome hgrant) (.inl hs)).once
      · exact .enterDeferred h.once

theorem AtPlace.enterGap (h : places s c ≤ 1) (r : StepRecord) (gap : Nat) : AtPlace (enterGap s c r gap) c := by
  unfold Machine.enterGap
  have hgap : ((s.modCh c fun ch => { ch with state := .gap, gapTimer := some gap }).ch c).state = .gap := by
    rw [State.ch_modCh_self]
  have h0 : AtPlace (s.modCh c fun ch => { ch with state := .gap, gapTimer := some gap }) c := .of_once h (.inl hgap)
  have h1 := (h0.settleAtGap r hgap).issue c
  have hgap1 : ((Machine.issue (Machine.settleAtGap (s.modCh c fun ch => { ch with state := .gap, gapTimer := some gap }) c r)
      c).ch c).state = .gap := by
    obtain ⟨x, p, hch⟩ := issue_ch (Machine.settleAtGap (s.modCh c fun ch => { ch with state := .gap, gapTimer := some gap })
      c r) c c
    rw [hch]
    show (State.ch _ c).state = _
    rw [OnlyPort.state (settleAtGap_leaves c c _ r)]
    exact hgap
  dsimp only
  split
  · exact h1.gapExpires hgap1
  · exact h1

theorem AtPlace.beginStep (h : AtPlace s c) (hw : waitsOf s c = []) : AtPlace (beginStep s c) c := by
  unfold Machine.beginStep
  split
  · exact h
  · split
    · exact .enterRest h.once hw
    · exact .enterGap h.once _ _

theorem AtPlace.beginResumed (h : AtPlace s c) (hw : waitsOf s c = []) : AtPlace (beginResumed s c) c := by
  unfold Machine.beginResumed
  split
  · exact h
  · split
    · exact .enterRest h.once hw
    · exact .enterGap h.once _ _

theorem AtPlace.leaveHeld (h : AtPlace s c) (hs : (s.ch c).state = .held) : AtPlace (leaveHeld s c) c := by
  have hw := h.unwaiting (by rw [hs]; decide) (by rw [hs]; decide)
  unfold Machine.leaveHeld
  split
  · refine AtPlace.beginStep ?_ hw
    exact h.of_arb rfl (by rw [State.ch_modCh_self])
  · split
    · exact h
    · split
      · exact .enterRest h.once hw
      · split
        · exact .enterStarting h.once hw _
        · have h0 := AtPlace.enterDeferred h.releaseGrant.once
          dsimp only
          split
          · exact h0
          · rename_i hres
            rw [hasResume_iff, not_not] at hres
            have harb : (Machine.enterDeferred (Machine.releaseGrant s c) c).arb = (Machine.releaseGrant s c).arb := issue_arb _ c
            have hdeferred : ((Machine.enterDeferred (Machine.releaseGrant s c) c).ch c).state = .deferred := by
              obtain ⟨x, p, hch⟩ := issue_ch ((Machine.releaseGrant s c).modCh c fun ch =>
                { ch with state := .deferred, gapTimer := none }) c c
              refine (congrArg Channel.state hch).trans ?_
              rw [State.ch_modCh_self]
            refine .lodge _ _ ?_ (.inr hdeferred)
            rw [places, hres, waitsOf_congr c harb, (releaseGrant_mono (s := s) (c := c)).2.1, hw, grantsOf_congr c harb,
              releaseGrant_grantsOf]
            rfl

theorem AtPlace.addCause (h : AtPlace s c) (cause : HoldCause) : AtPlace (addCause s c cause) c := by
  have hidle : ∀ u : State, AtPlace u c → AtPlace (if (u.ch c).holds.keepsIdle then Machine.idleGrant u c else u) c := by
    intro u hu
    split
    · exact hu.idleGrant
    · exact hu
  by_cases hc : (s.ch c).state.holdable = true
  · by_cases hh : (s.ch c).state = .held
    · rw [addCause_held hh]
      exact hidle _ (h.of_arb rfl (by rw [State.ch_modCh_self]))
    · rw [addCause_free hc hh]
      refine hidle _ (AtPlace.issue (s := State.modCh _ c _) ?_ c)
      have h1 : AtPlace (grantNotLive (Machine.withdrawWaiting (s.modCh c Channel.stopTimers) c) c) c :=
        ((h.of_arb (t := s.modCh c Channel.stopTimers) rfl (by rw [State.ch_modCh_self]; rfl)).withdrawWaiting).modGrant _
          fun _ => rfl
      refine .of_unwaiting h1.once ?_ (by rw [State.ch_modCh_self]; rfl)
      exact withdrawWaiting_waitsOf (s.modCh c Channel.stopTimers) c
  · rw [addCause_other (by simpa using hc)]
    exact h

theorem AtPlace.removeCauses (h : AtPlace s c) (f : HoldCauses → HoldCauses) : AtPlace (removeCauses s c f) c := by
  unfold Machine.removeCauses
  have h0 : AtPlace (s.modCh c fun ch => { ch with holds := f ch.holds }) c := h.of_arb rfl (by rw [State.ch_modCh_self])
  dsimp only
  split
  · rename_i hs
    exact h0.leaveHeld hs.1
  · exact h0

/-- The handing over of a grant just made (R91). -/
theorem AtPlace.handOver (h : AtPlace s c) (hg : grantsOf s c ≠ []) : AtPlace (handOver s c) c := by
  unfold Machine.handOver
  split
  · exact h
  · split
    · rename_i hs
      split
      · exact h
      · exact h.exchangeGrant _ hg (.inl hs)
    · rename_i hs
      split
      · exact .enterStarting h.once (AtPlace.granted h.once hg).2.1 _
      · exact h.exchangeGrant _ hg (.inr hs)
    · rename_i hs
      have h0 : AtPlace (s.modCh c fun ch => { ch with holds := ch.holds.drop .curtailed }) c :=
        h.of_arb rfl (by rw [State.ch_modCh_self])
      dsimp only
      split
      · exact h0.leaveHeld (by rw [State.ch_modCh_self]; exact hs)
      · split
        · exact h0.idleGrant
        · exact h0
    · split
      · exact h.idleGrant
      · exact h
    · exact h

theorem AtPlace.settleOffer (h : AtPlace s c) (r : StepRecord) (toHeld : Bool) : AtPlace (settleOffer s c r toHeld) c := by
  unfold Machine.settleOffer
  split
  · exact h
  · have h0 : AtPlace (s.modArb fun a => { a with evalDue := true }) c :=
      h.mono (Nat.le_refl _) (Nat.le_refl _) (Nat.le_refl _) rfl
    have h1 : AtPlace (Machine.modGrant (s.modArb fun a => { a with evalDue := true }) c fun g =>
      { g with amount := claimOf s c r }) c := h0.modGrant _ fun _ => rfl
    dsimp only
    split
    · split
      · exact h1.idleGrant
      · exact h1.modGrant _ fun _ => rfl
    · split
      · exact h0.idleGrant
      · exact h0.releaseGrant

theorem settleOffer_state (r : StepRecord) (toHeld : Bool) : (settleOffer s c r toHeld).ch c = s.ch c := by
  unfold settleOffer
  split
  · rfl
  · dsimp only
    split
    · split
      · rw [idleGrant_ch]; rfl
      · rfl
    · split
      · rw [idleGrant_ch]; rfl
      · rw [releaseGrant_ch]; rfl

theorem settleOffer_waiting (r : StepRecord) (toHeld : Bool) : (settleOffer s c r toHeld).arb.waiting = s.arb.waiting := by
  unfold settleOffer
  split
  · rfl
  · dsimp only
    split
    · split
      · exact idleGrant_waiting _ c
      · rfl
    · split
      · exact idleGrant_waiting _ c
      · exact releaseGrant_waiting _ c

theorem prepareStep_state (k : Nat) (toHeld : Bool) : ((prepareStep s c k toHeld).ch c).state = (s.ch c).state := by
  unfold prepareStep
  dsimp only
  split
  · rw [State.ch_modCh_self]
  · rw [settleOffer_state, State.ch_modCh_self, State.ch_modCh_self]
    rfl

theorem prepareStep_waiting (k : Nat) (toHeld : Bool) : (prepareStep s c k toHeld).arb.waiting = s.arb.waiting := by
  unfold prepareStep
  dsimp only
  split
  · rfl
  · exact settleOffer_waiting ..

theorem AtPlace.prepareStep (h : AtPlace s c) (k : Nat) (toHeld : Bool) : AtPlace (prepareStep s c k toHeld) c := by
  unfold Machine.prepareStep
  dsimp only
  split
  · exact h.of_arb rfl (by rw [State.ch_modCh_self])
  · refine AtPlace.settleOffer ?_ _ _
    refine h.of_arb rfl ?_
    rw [State.ch_modCh_self, State.ch_modCh_self]
    rfl

end

/-! ### A grant that only changes its hold -/

/-- A channel's grants are released, or keep everything but the grant-hold timer. -/
def SoftGrants (gs hs : List Grant) : Prop := hs = [] ∨ ∃ f : Grant → Option Nat, hs = gs.map fun g => { g with hold := f g }

theorem SoftGrants.refl (gs : List Grant) : SoftGrants gs gs := .inr ⟨Grant.hold, (List.map_id' gs).symm⟩

theorem SoftGrants.of_eq {gs hs : List Grant} (h : hs = gs) : SoftGrants gs hs := h ▸ .refl gs

theorem SoftGrants.trans {gs hs ks : List Grant} (h : SoftGrants gs hs) (k : SoftGrants hs ks) : SoftGrants gs ks := by
  rcases k with rfl | ⟨f, rfl⟩
  · exact .inl rfl
  · rcases h with rfl | ⟨g, rfl⟩
    · exact .inl rfl
    · exact .inr ⟨fun x => f { x with hold := g x }, by rw [List.map_map]; rfl⟩

section
variable (s : State) (c : Ch)

theorem releaseGrant_soft : SoftGrants (grantsOf s c) (grantsOf (releaseGrant s c) c) := .inl (releaseGrant_grantsOf s c)

theorem unidleGrant_soft : SoftGrants (grantsOf s c) (grantsOf (unidleGrant s c) c) :=
  .inr ⟨fun _ => none, modGrant_grantsOf s c _ fun _ => rfl⟩

theorem idleGrant_soft : SoftGrants (grantsOf s c) (grantsOf (idleGrant s c) c) := by
  unfold idleGrant
  split
  · exact .refl _
  · split
    · exact .refl _
    · split
      · exact releaseGrant_soft s c
      · exact .inr ⟨fun _ => some (s.ch c).settings.grantHold, modGrant_grantsOf s c _ fun _ => rfl⟩

theorem issue_soft : SoftGrants (grantsOf s c) (grantsOf (issue s c) c) := .of_eq (grantsOf_congr c (issue_arb s c))

theorem exchangeGrant_soft (r : StepRecord) : SoftGrants (grantsOf s c) (grantsOf (exchangeGrant s c r) c) := releaseGrant_soft s c

theorem settleAtGap_soft (r : StepRecord) : SoftGrants (grantsOf s c) (grantsOf (settleAtGap s c r) c) := by
  unfold settleAtGap
  have h : SoftGrants (grantsOf s c) (grantsOf (if holdsCover s c r then unidleGrant s c else releaseGrant s c) c) := by
    split
    · exact unidleGrant_soft s c
    · exact releaseGrant_soft s c
  exact iteInduction (motive := fun t : State => SoftGrants (grantsOf s c) (grantsOf t c)) (fun _ => h) fun _ => h

theorem enterStarting_soft (r : StepRecord) : SoftGrants (grantsOf s c) (grantsOf (enterStarting s c r) c) :=
  (unidleGrant_soft (s.modCh c fun ch =>
    { ch with state := .starting, lastDir := r.dir, startTimer := some ch.settings.startTimeout, gapTimer := none }) c).trans
    (issue_soft _ c)

theorem enterDeferred_soft : SoftGrants (grantsOf s c) (grantsOf (enterDeferred s c) c) :=
  issue_soft (s.modCh c fun ch => { ch with state := .deferred, gapTimer := none }) c

theorem enterRest_soft : SoftGrants (grantsOf s c) (grantsOf (enterRest s c) c) :=
  (issue_soft (s.modCh c fun ch => { ch with state := .running, gapTimer := none }) c).trans (idleGrant_soft _ c)

theorem gapExpires_soft : SoftGrants (grantsOf s c) (grantsOf (gapExpires s c) c) := by
  unfold gapExpires
  split
  · exact (releaseGrant_soft s c).trans (enterDeferred_soft _ c)
  · split
    · exact enterStarting_soft s c _
    · split
      · exact (exchangeGrant_soft s c _).trans (enterDeferred_soft _ c)
      · exact enterDeferred_soft s c

theorem enterGap_soft (r : StepRecord) (gap : Nat) : SoftGrants (grantsOf s c) (grantsOf (enterGap s c r gap) c) := by
  unfold enterGap
  have h := (settleAtGap_soft (s.modCh c fun ch => { ch with state := .gap, gapTimer := some gap }) c r).trans (issue_soft _ c)
  exact iteInduction (motive := fun t : State => SoftGrants (grantsOf s c) (grantsOf t c))
    (fun _ => h.trans (gapExpires_soft _ c)) fun _ => h

theorem beginStep_soft : SoftGrants (grantsOf s c) (grantsOf (beginStep s c) c) := by
  unfold beginStep
  split
  · exact .refl _
  · split
    · exact enterRest_soft s c
    · exact enterGap_soft s c _ _

theorem leaveHeld_soft : SoftGrants (grantsOf s c) (grantsOf (leaveHeld s c) c) := by
  unfold leaveHeld
  split
  · exact beginStep_soft (s.modCh c fun ch => { ch with heldBefore := false }) c
  · split
    · exact .refl _
    · split
      · exact enterRest_soft s c
      · split
        · exact enterStarting_soft s c _
        · have h := (releaseGrant_soft s c).trans (enterDeferred_soft _ c)
          exact iteInduction (motive := fun t : State => SoftGrants (grantsOf s c) (grantsOf t c)) (fun _ => h) fun _ => h

theorem handOver_soft : SoftGrants (grantsOf s c) (grantsOf (handOver s c) c) := by
  unfold handOver
  split
  · exact .refl _
  · split
    · split
      · exact .refl _
      · exact exchangeGrant_soft s c _
    · split
      · exact enterStarting_soft s c _
      · exact exchangeGrant_soft s c _
    · dsimp only
      split
      · exact leaveHeld_soft (s.modCh c fun ch => { ch with holds := ch.holds.drop .curtailed }) c
      · split
        · exact idleGrant_soft (s.modCh c fun ch => { ch with holds := ch.holds.drop .curtailed }) c
        · exact .refl _
    · split
      · exact idleGrant_soft s c
      · exact .refl _
    · exact .refl _

end

end Sys2Proof.Machine
end

section
/-! PROOF. O57, continued: shedding and evaluation keep every channel's place and leave both tests holding (R85, R88, R100). -/
namespace Sys2Proof.Machine
open Sys2Proof.Safety

/-- Every channel is at its place in the arbiter's collections. -/
def Placed (s : State) : Prop := ∀ c, AtPlace s c

theorem Placed.acts {s t : State} {c : Ch} (h : Placed s) (ha : ActsOn c s t) (hc : AtPlace t c) : Placed t := fun d => by
  by_cases hd : d = c
  · exact hd ▸ hc
  · refine (h d).mono ?_ ?_ ?_ (ha.state_other hd)
    · rw [ha.grantsOf_other hd]
    · rw [ha.waitsOf_other hd]
    · rw [ha.resumesOf_other hd]

theorem Placed.of_arb {s t : State} (h : Placed s) (ha : t.arb = s.arb) (hs : ∀ c, (t.ch c).state = (s.ch c).state) :
    Placed t := fun c => (h c).of_arb ha (hs c)

/-- The evaluation that is due is no part of a channel's place. -/
theorem Placed.evalDue {s : State} (h : Placed s) (x : Bool) : Placed (s.modArb fun a => { a with evalDue := x }) := fun c =>
  (h c).mono (Nat.le_refl _) (Nat.le_refl _) (Nat.le_refl _) rfl

/-! ### The tests when a channel's reserved grant is taken back -/

theorem sumsOf_perm (eta : Nat) {gs hs : List Grant} (h : gs.Perm hs) : sumsOf eta gs = sumsOf eta hs := by
  unfold sumsOf
  rw [(h.map _).sum_eq, (h.map _).sum_eq, (h.map _).sum_eq, (h.map _).sum_eq]

theorem withinCeilings_perm {b : BudgetSettings} {cEff : Nat} {gs hs : List Grant} (h : gs.Perm hs) :
    withinCeilings b cEff gs = withinCeilings b cEff hs := by
  rw [Bool.eq_iff_iff, withinCeilings_iff, withinCeilings_iff, intakeOk_iff, intakeOk_iff, returnOk_iff, returnOk_iff,
    sumsOf_perm b.eta h]

theorem sumsOf_hold (eta : Nat) (l : List Grant) (f : Grant → Option Nat) :
    sumsOf eta (l.map fun g => { g with hold := f g }) = sumsOf eta l := by
  unfold sumsOf
  simp only [List.map_map]
  rfl

/-- Taking a reserved grant off the list, or changing its hold, cannot make a test fail. -/
theorem withinCeilings_soft {b : BudgetSettings} {cEff : Nat} {others gs hs : List Grant} (hsoft : SoftGrants gs hs)
    (hlive : ∀ g ∈ gs, g.live = false) (h : withinCeilings b cEff (others ++ gs) = true) :
    withinCeilings b cEff (others ++ hs) = true := by
  rw [withinCeilings_iff, intakeOk_iff, returnOk_iff] at h ⊢
  obtain ⟨h1, h2, h3, h4⟩ := sumsOf_append b.eta others gs
  obtain ⟨k1, k2, k3, k4⟩ := sumsOf_append b.eta others hs
  rw [h1, h2, h3, h4] at h
  rw [k1, k2, k3, k4]
  rcases hsoft with rfl | ⟨f, rfl⟩
  · have hnone : (sumsOf b.eta gs).disLive = 0 ∧ (sumsOf b.eta gs).chgLive = 0 := by
      simp only [sumsOf, List.sum_eq_zero_iff, List.mem_map]
      constructor <;> rintro _ ⟨g, hg, rfl⟩ <;> exact if_neg (by simp [hlive g hg])
    rw [hnone.1, hnone.2] at h
    simp only [sumsOf, List.map_nil, List.sum_nil] at h ⊢
    omega
  · rw [sumsOf_hold]
    exact h

theorem grants_perm (s : State) (c : Ch) :
    (s.arb.grants.filter (fun g => g.ch ≠ c) ++ grantsOf s c).Perm s.arb.grants := by
  have h := List.filter_append_perm (fun g : Grant => decide (g.ch ≠ c)) s.arb.grants
  rw [List.filter_congr (l := s.arb.grants) (p := fun g => !decide (g.ch ≠ c)) (q := fun g => decide (g.ch = c))
    (fun g _ => by simp)] at h
  exact h

/-- An act on a channel that takes back at most its reserved grant keeps both tests. -/
theorem ActsOn.testsHold {s t : State} {c : Ch} (ha : ActsOn c s t) (hsoft : SoftGrants (grantsOf s c) (grantsOf t c))
    (hlive : ∀ g ∈ grantsOf s c, g.live = false) (h : testsHold s = true) : testsHold t = true := by
  have hceff : cEffOf t = cEffOf s := by rw [cEffOf, cEffOf, ha.hall, ha.budget]
  unfold Machine.testsHold at h ⊢
  rw [← withinCeilings_perm (grants_perm s c)] at h
  rw [← withinCeilings_perm (grants_perm t c), hceff, ha.budget, ha.grants]
  exact withinCeilings_soft hsoft hlive h

/-- An act on a channel that changes the holds of its grants at most keeps both tests. -/
theorem ActsOn.testsHold_hold {s t : State} {c : Ch} (ha : ActsOn c s t) {f : Grant → Option Nat}
    (hf : grantsOf t c = (grantsOf s c).map fun g => { g with hold := f g }) (h : Machine.testsHold s = true) :
    Machine.testsHold t = true := by
  have hceff : cEffOf t = cEffOf s := by rw [cEffOf, cEffOf, ha.hall, ha.budget]
  unfold Machine.testsHold at h ⊢
  rw [← withinCeilings_perm (grants_perm s c), withinCeilings_iff, intakeOk_iff, returnOk_iff] at h
  rw [← withinCeilings_perm (grants_perm t c), hceff, ha.budget, ha.grants, hf, withinCeilings_iff, intakeOk_iff, returnOk_iff]
  obtain ⟨h1, h2, h3, h4⟩ := sumsOf_append s.arb.budget.eta (s.arb.grants.filter fun g => g.ch ≠ c) (grantsOf s c)
  obtain ⟨k1, k2, k3, k4⟩ := sumsOf_append s.arb.budget.eta (s.arb.grants.filter fun g => g.ch ≠ c)
    ((grantsOf s c).map fun g => { g with hold := f g })
  rw [h1, h2, h3, h4] at h
  rw [k1, k2, k3, k4, sumsOf_hold]
  exact h

/-- The tests depend on the grants, the budget settings and the effective ceiling alone. -/
theorem testsHold_congr {s t : State} (hg : t.arb.grants = s.arb.grants) (hb : t.arb.budget = s.arb.budget)
    (hc : cEffOf t = cEffOf s) : testsHold t = testsHold s := by rw [testsHold, testsHold, hg, hb, hc]

/-! ### Shedding (R100 to R102) -/

theorem addCause_grantsOf (s : State) (c : Ch) (cause : HoldCause) (h : grantsOf s c = []) :
    grantsOf (addCause s c cause) c = [] := by
  have hidle : ∀ u : State, grantsOf u c = [] → grantsOf (if (u.ch c).holds.keepsIdle then idleGrant u c else u) c = [] := by
    intro u hu
    split
    · have := (idleGrant_mono (s := u) (c := c)).1
      rw [hu] at this
      exact List.length_eq_zero_iff.1 (Nat.le_zero.1 this)
    · exact hu
  by_cases hc : (s.ch c).state.holdable = true
  · by_cases hh : (s.ch c).state = .held
    · rw [addCause_held hh]; exact hidle _ h
    · rw [addCause_free hc hh]
      refine hidle _ ?_
      unfold holdOf
      rw [grantsOf_congr c (issue_arb _ c)]
      have hw : grantsOf (withdrawWaiting (s.modCh c Channel.stopTimers) c) c = [] := by
        rw [grantsOf, withdrawWaiting_grants]; exact h
      exact (modGrant_grantsOf (withdrawWaiting (s.modCh c Channel.stopTimers) c) c (fun g => { g with live := false })
        fun _ => rfl).trans (by rw [hw]; rfl)
  · rw [addCause_other (by simpa using hc)]; exact h

theorem grants_of_acts {s t : State} {c : Ch} (ha : ActsOn c s t) (hs : grantsOf s c = []) (ht : grantsOf t c = []) :
    t.arb.grants = s.arb.grants := by
  have key : ∀ u : State, grantsOf u c = [] → u.arb.grants.filter (fun g => g.ch ≠ c) = u.arb.grants := fun u hu => by
    rw [List.filter_eq_self]
    intro g hg
    have := List.filter_eq_nil_iff.1 hu g hg
    simpa using this
  rw [← key s hs, ← key t ht, ha.grants]

theorem shedOne_acts (s : State) (g : Grant) (x : BudgetTest) : ActsOn g.ch s (shedOne s g x) := by
  unfold shedOne
  exact ((appendResume_acts s g.ch g.dir g.amount).trans (addCause_acts _ g.ch _)).trans (ActsOn.modLink _ _ _)

theorem shedOne_grants {s : State} {g : Grant} (x : BudgetTest) (h : grantsOf s g.ch = []) :
    (shedOne s g x).arb.grants = s.arb.grants :=
  grants_of_acts (shedOne_acts s g x) h
    (addCause_grantsOf (appendResume s g.ch g.dir g.amount) g.ch .curtailed h)

theorem shedOne_place {s : State} {g : Grant} (x : BudgetTest) (h : places s g.ch = 0)
    (hs : (s.ch g.ch).state.holdable = true) : AtPlace (shedOne s g x) g.ch := by
  have hw : waitsOf s g.ch = [] := by unfold places at h; exact List.length_eq_zero_iff.1 (by omega)
  have happend : AtPlace (appendResume s g.ch g.dir g.amount) g.ch := by
    refine .of_unwaiting ?_ hw hs
    have hr := congrArg List.length (appendResume_resumesOf s g.ch g.dir g.amount)
    rw [List.length_append, List.length_singleton] at hr
    have hg : grantsOf (appendResume s g.ch g.dir g.amount) g.ch = grantsOf s g.ch := rfl
    have hw' : waitsOf (appendResume s g.ch g.dir g.amount) g.ch = waitsOf s g.ch := rfl
    unfold places at *
    rw [hg, hw', hr]
    omega
  exact (happend.addCause .curtailed).of_arb rfl rfl

theorem shedAll_placed {s : State} {l : List (Grant × BudgetTest)} (h : Placed s) (hnd : (l.map fun x => x.1.ch).Nodup)
    (hl : ∀ x ∈ l, places s x.1.ch = 0 ∧ (s.ch x.1.ch).state.holdable = true) :
    Placed (shedAll s l) ∧ (shedAll s l).arb.grants = s.arb.grants := by
  induction l generalizing s with
  | nil => exact ⟨h, rfl⟩
  | cons x l ih =>
    rw [List.map_cons, List.nodup_cons] at hnd
    obtain ⟨hplace, hstate⟩ := hl x List.mem_cons_self
    have hacts := shedOne_acts s x.1 x.2
    have hgrants : grantsOf s x.1.ch = [] := by unfold places at hplace; exact List.length_eq_zero_iff.1 (by omega)
    obtain ⟨hp, hg⟩ := ih (h.acts hacts (shedOne_place x.2 hplace hstate)) hnd.2 fun y hy => by
      have hne : y.1.ch ≠ x.1.ch := fun e => hnd.1 (List.mem_map.2 ⟨y, hy, e⟩)
      rw [hacts.places_other hne, hacts.state_other hne]
      exact hl y (List.mem_cons_of_mem _ hy)
    exact ⟨hp, hg.trans (shedOne_grants x.2 hgrants)⟩

theorem shedAll_budget (l : List (Grant × BudgetTest)) (s : State) : (shedAll s l).arb.budget = s.arb.budget ∧
    cEffOf (shedAll s l) = cEffOf s := by
  have hruns := shedAll_runs l s
  exact ⟨hruns.keeps.budget, by rw [cEffOf, cEffOf, hruns.hall, hruns.keeps.budget]⟩

theorem Removals.nodup {b : BudgetSettings} {cEff : Nat} {last : Option BudgetTest} {gs out : List Grant}
    {l : List (Grant × BudgetTest)} (h : Removals b cEff last gs l out) :
    (out ++ l.map Prod.fst).Perm gs := by
  induction h with
  | done => simp
  | @take last older newer out g x rest why counted newest _ ih =>
    rw [List.map_cons]
    exact (List.perm_middle.trans (ih.cons g)).trans List.perm_middle.symm

/-- Shedding leaves every channel at its place, both tests holding (R85, R100). -/
theorem shed_placed {s : State} (h : Placed s) : Placed (shed s) ∧ testsHold (shed s) = true := by
  obtain ⟨htrace, hwithin⟩ := shedLoop_removals (b := s.arb.budget) (cEff := cEffOf s) (last := none)
    (s.arb.grants.length + 1) (Nat.lt_succ_self _) (by simp)
  rcases shed_eq s with ⟨hs, hr⟩ | hs
  · rw [hs]
    refine ⟨h, ?_⟩
    have hsame := htrace.sublist.eq_of_length (by have := htrace.length; rw [hr] at this; simpa using this)
    rw [hsame] at hwithin
    exact hwithin
  · rw [hs]
    generalize shedLoop s.arb.budget (cEffOf s) (s.arb.grants.length + 1) s.arb.grants = r at htrace hwithin ⊢
    have hperm := htrace.nodup
    have hcount : ∀ c, (r.1.filter fun g => g.ch = c).length + ((r.2.map fun x => x.1.ch).count c) = (grantsOf s c).length := by
      intro c
      have h1 := (hperm.filter fun g => g.ch = c).length_eq
      rw [List.filter_append, List.length_append] at h1
      have h2 : (r.2.map fun x => x.1.ch).count c = ((r.2.map Prod.fst).filter fun g => g.ch = c).length := by
        rw [List.count, List.countP_map, List.countP_eq_length_filter, List.filter_map, List.length_map]
        exact congrArg List.length (List.filter_congr fun g _ => beq_eq_decide ..)
      rw [h2]
      exact h1
    have hlength : ∀ c, (grantsOf (s.modArb fun a => { a with grants := r.1, evalDue := true }) c).length ≤
        (grantsOf s c).length := fun c => by
      show (r.1.filter fun g => g.ch = c).length ≤ _
      have := hcount c
      omega
    have hplaced : Placed (s.modArb fun a => { a with grants := r.1, evalDue := true }) := fun c =>
      (h c).mono (hlength c) (Nat.le_refl _) (Nat.le_refl _) rfl
    obtain ⟨hp, hg⟩ := shedAll_placed (l := r.2) hplaced (by
      rw [List.nodup_iff_count_le_one]
      intro c
      have h1 := hcount c
      have h2 := (h c).once
      unfold places at h2
      omega) fun x hx => by
        have hpos : 0 < (r.2.map fun y => y.1.ch).count x.1.ch := List.count_pos_iff.2 (List.mem_map.2 ⟨x, hx, rfl⟩)
        have h1 := hcount x.1.ch
        have h2 := (h x.1.ch).once
        refine ⟨?_, (h x.1.ch).states ?_⟩
        · show (r.1.filter fun g => g.ch = x.1.ch).length + (waitsOf s x.1.ch).length + (resumesOf s x.1.ch).length = 0
          unfold places at h2
          omega
        · unfold places
          omega
    refine ⟨hp, ?_⟩
    obtain ⟨hb, hc⟩ := shedAll_budget r.2 (s.modArb fun a => { a with grants := r.1, evalDue := true })
    rw [testsHold, hg, hb, hc]
    exact hwithin

/-! ### Evaluations (R90, R91) -/

/-- What an evaluation makes of one channel's grants and entries. -/
theorem evaluate_lists (s : State) (c : Ch) : ∃ taken : List Entry,
    (∀ e ∈ taken, e ∈ waitsOf s c ∨ e ∈ resumesOf s c) ∧ grantsOf (evaluate s).1 c = grantsOf s c ++ taken.map Entry.grant ∧
    (evaluate s).2.count c = taken.length ∧
    (waitsOf (evaluate s).1 c = [] ∨ waitsOf (evaluate s).1 c = waitsOf s c) ∧
    taken.length + (waitsOf (evaluate s).1 c).length + (resumesOf (evaluate s).1 c).length ≤
      (waitsOf s c).length + (resumesOf s c).length ∧
    (taken = [] → waitsOf (evaluate s).1 c = waitsOf s c ∧ resumesOf (evaluate s).1 c = resumesOf s c) := by
  obtain ⟨fromResume, fromWaiting, hgs, hcs, hres, hof, hnd, hwait, -, -, -, -, -⟩ := evaluate_spec s
  have hcount : ∀ es : List Entry, (es.map Entry.ch).count c = (es.filter fun e => e.ch = c).length := fun es => by
    rw [List.count, List.countP_map, List.countP_eq_length_filter]
    exact congrArg List.length (List.filter_congr fun g _ => beq_eq_decide ..)
  have hresumes : resumesOf s c = (fromResume.filter fun e => e.ch = c) ++ resumesOf (evaluate s).1 c := by
    rw [resumesOf, resumesOf, hres, List.filter_append]
  have hone := List.nodup_iff_count_le_one.1 hnd c
  rw [hcount] at hone
  have hwaits : waitsOf (evaluate s).1 c = if c ∈ fromWaiting.map Entry.ch then [] else waitsOf s c := by
    rw [waitsOf, hwait, List.filter_filter]
    split
    · rename_i hc
      rw [List.filter_eq_nil_iff]
      intro x _ hx
      rw [Bool.and_eq_true, decide_eq_true_eq, decide_eq_true_eq] at hx
      exact hx.2 (hx.1 ▸ hc)
    · rename_i hc
      refine List.filter_congr fun x _ => ?_
      by_cases hx : x.ch = c
      · simp only [hx, decide_true, Bool.true_and, decide_eq_true_eq]
        exact hc
      · simp [hx]
  have hmem : c ∈ fromWaiting.map Entry.ch ↔ (fromWaiting.filter fun e => e.ch = c) ≠ [] := by
    rw [← List.count_pos_iff, hcount, List.length_pos_iff]
  refine ⟨(fromResume ++ fromWaiting).filter fun e => e.ch = c, fun e he => ?_, ?_, ?_, ?_, ?_, fun hnone => ?_⟩
  · obtain ⟨hm, hec⟩ := List.mem_filter.1 he
    rw [decide_eq_true_eq] at hec
    rcases List.mem_append.1 hm with hm | hm
    · exact .inr (mem_resumesOf.2 ⟨by rw [hres]; exact List.mem_append_left _ hm, hec⟩)
    · exact .inl (mem_waitsOf.2 ⟨hof e hm, hec⟩)
  · rw [grantsOf, hgs, List.filter_append, List.filter_map]
    rfl
  · rw [hcs, hcount]
  · rw [hwaits]
    split
    · exact .inl rfl
    · exact .inr rfl
  · rw [hresumes, hwaits, List.filter_append, List.length_append, List.length_append]
    split
    · rename_i hc
      obtain ⟨e, he, hec⟩ := List.mem_map.1 hc
      have hpos : 0 < (waitsOf s c).length := List.length_pos_of_mem (mem_waitsOf.2 ⟨hof e he, hec⟩)
      simp only [List.length_nil]
      omega
    · rename_i hc
      have hnone : (fromWaiting.filter fun e => e.ch = c) = [] := not_not.1 (mt hmem.2 hc)
      rw [hnone, List.length_nil]
      omega
  · rw [List.filter_append, List.append_eq_nil_iff] at hnone
    rw [hresumes, hnone.1, List.nil_append, hwaits, if_neg (mt hmem.1 (not_not.2 hnone.2))]
    exact ⟨rfl, rfl⟩

/-- What an evaluation makes of a channel's place. -/
theorem evaluate_placed {s : State} (h : Placed s) : Placed (evaluate s).1 ∧ (evaluate s).2.Nodup ∧
    (∀ c ∈ (evaluate s).2, grantsOf (evaluate s).1 c ≠ [] ∧ ∀ g ∈ grantsOf (evaluate s).1 c, g.live = false) := by
  have hch : ∀ c, (evaluate s).1.ch c = s.ch c := fun c => by
    obtain ⟨-, -, -, -, -, -, -, -, -, -, hrest, -, -⟩ := evaluate_spec s
    rw [hrest]; rfl
  refine ⟨fun c => ?_, List.nodup_iff_count_le_one.2 fun c => ?_, fun c hc => ?_⟩ <;>
    obtain ⟨taken, -, hgrants, hcount, hwaits, hlen, -⟩ := evaluate_lists s c <;> have hone := (h c).once <;> unfold places at hone
  · have hlength := congrArg List.length hgrants
    rw [List.length_append, List.length_map] at hlength
    refine ⟨?_, fun hp => ?_, fun hw => ?_⟩
    · unfold places
      omega
    · rw [hch]
      refine (h c).states ?_
      unfold places at hp ⊢
      omega
    · rw [hch]
      refine (h c).waits ?_
      rcases hwaits with e | e
      · exact absurd e hw
      · exact e ▸ hw
  · omega
  · have hpos := List.count_pos_iff.2 hc
    have hnone : grantsOf s c = [] := List.length_eq_zero_iff.1 (by omega)
    rw [hgrants, hnone, List.nil_append]
    refine ⟨?_, fun g hg => ?_⟩
    · rw [ne_eq, List.map_eq_nil_iff]
      rintro rfl
      simp only [List.length_nil] at hcount
      omega
    · obtain ⟨e, -, rfl⟩ := List.mem_map.1 hg
      rfl

/-- The handing over of the grants of an evaluation keeps places and tests. -/
theorem handOverAll_placed {l : List Ch} {s : State} (h : Placed s) (ht : testsHold s = true) (hnd : l.Nodup)
    (hl : ∀ c ∈ l, grantsOf s c ≠ [] ∧ ∀ g ∈ grantsOf s c, g.live = false) :
    Placed (handOverAll s l) ∧ testsHold (handOverAll s l) = true := by
  induction l generalizing s with
  | nil => exact ⟨h, ht⟩
  | cons c l ih =>
    rw [List.nodup_cons] at hnd
    have hacts := handOver_acts s c
    obtain ⟨hg, hlive⟩ := hl c List.mem_cons_self
    refine ih (h.acts hacts ((h c).handOver hg)) (hacts.testsHold (handOver_soft s c) hlive ht) hnd.2 fun d hd => ?_
    rw [hacts.grantsOf_other fun e => hnd.1 (e ▸ hd)]
    exact hl d (List.mem_cons_of_mem _ hd)

theorem evaluateDue_placed (fuel : Nat) {s : State} (h : Placed s) (ht : testsHold s = true) :
    Placed (evaluateDue fuel s) ∧ testsHold (evaluateDue fuel s) = true ∧ (evaluateDue fuel s).arb.evalDue = false := by
  induction fuel generalizing s with
  | zero => exact ⟨h.evalDue false, ht, rfl⟩
  | succ n ih =>
    unfold evaluateDue
    split
    · obtain ⟨hp, hnd, hl⟩ := evaluate_placed (h.evalDue false)
      obtain ⟨-, -, -, -, -, -, -, -, -, htests, -, -, -⟩ := evaluate_spec (s.modArb fun a => { a with evalDue := false })
      obtain ⟨hp', ht'⟩ := handOverAll_placed hp (htests ht) hnd hl
      exact ih hp' ht'
    · rename_i he
      exact ⟨h, ht, by simpa using he⟩

/-- Both tests hold and no evaluation is due (R85, R100). -/
def Quiet (s : State) : Prop := testsHold s = true ∧ s.arb.evalDue = false

/-- The arbiter's handling of an event leaves every channel at its place, both tests holding and no evaluation due. -/
theorem settle_placed {s : State} (h : Placed s) : Placed (settle s) ∧ Quiet (settle s) := by
  obtain ⟨hp, ht⟩ := shed_placed h
  obtain ⟨hp', ht', he⟩ := evaluateDue_placed (settleFuel (shed s)) hp ht
  exact ⟨hp', ht', he⟩

/-! ### Nothing listed -/

theorem empty_of_places {s : State} (h : ∀ c, places s c = 0) : s.arb.grants = [] ∧ s.arb.waiting = [] ∧ s.arb.resume = [] := by
  have hlisted := (listed_nil_iff s).2 h
  unfold listed at hlisted
  rw [List.append_eq_nil_iff, List.append_eq_nil_iff, List.map_eq_nil_iff, List.map_eq_nil_iff, List.map_eq_nil_iff] at hlisted
  exact ⟨hlisted.1.1, hlisted.1.2, hlisted.2⟩

theorem walkWaiting_empty {b : BudgetSettings} {cEff : Nat} {ring : List (Option Ch)} {lows cs : List Ch} {w : Walk}
    (h : w.waiting = []) : walkWaiting b cEff ring lows cs w = w := by
  induction cs with
  | nil => rfl
  | cons c cs ih =>
    unfold walkWaiting
    rw [h]
    exact ih

theorem evaluate_empty {s : State} (h : ∀ c, places s c = 0) : evaluate s = (s, []) := by
  obtain ⟨hg, hw, hr⟩ := empty_of_places h
  have hone : grantResume s.arb.budget (cEffOf s) s.arb.grants s.arb.resume = ([], [], []) := by rw [hg, hr]; rfl
  unfold evaluate
  dsimp only
  rw [hone]
  dsimp only
  rw [if_pos (by rfl), walkWaiting_empty hw]
  refine congrArg (·, []) ?_
  have : (fun a : Arbiter =>
      { a with grants := [], resume := [], waiting := s.arb.waiting, hp := s.arb.hp, lp := s.arb.lp }) s.arb = s.arb := by
    show { s.arb with grants := [], resume := [] } = s.arb
    rw [← hg]
    conv => lhs; rw [← hr]
  exact congrArg (fun a => { s with arb := a }) this

/-- With nothing in the collections the arbiter has only its own mark to clear. -/
theorem settle_empty {s : State} (h : ∀ c, places s c = 0) : settle s = s.modArb fun a => { a with evalDue := false } := by
  have htests : testsHold s = true := by
    rw [testsHold, (empty_of_places h).1]; exact withinCeilings_nil _ _
  have hsame : ∀ u : State, u.arb.evalDue = false → u.modArb (fun a => { a with evalDue := false }) = u := fun u hu =>
    congrArg (fun a => { u with arb := a }) (show { u.arb with evalDue := false } = u.arb by rw [← hu])
  unfold settle
  rw [shed_calm htests]
  unfold settleFuel evaluateDue
  dsimp only
  split
  · rw [evaluate_empty (s := s.modArb fun a => { a with evalDue := false }) h]
    dsimp only
    unfold handOverAll evaluateDue
    rw [if_neg (by simp)]
  · rename_i he
    rw [hsame s (by simpa using he)]

end Sys2Proof.Machine
end

section
/-! PROOF. O57, continued: what every act of the board keeps of the arbiter (R85, R88, R100, R104, R106, R170, R171). -/
namespace Sys2Proof.Machine
open Sys2Proof.Safety

/-- Every channel is at its place, and outside an ACTIVE hall nothing is in the collections, the pause order names a channel
once, and every channel that could need a grant is HELD with PAUSE. -/
structure InPlace (s : State) : Prop where
  placed : Placed s
  paused : s.hall.state ≠ .active → (∀ c, places s c = 0) ∧ (s.hall.pauseOrder.map PauseEntry.ch).Nodup ∧
             ∀ c, (s.ch c).state.holdable = true → (s.ch c).state = .held ∧ (s.ch c).holds.pause = true

/-- The arbiter is in place, both tests hold and no evaluation is due. -/
def Steady (s : State) : Prop := InPlace s ∧ Quiet s

theorem arbiterSound_iff (s : State) : ArbiterSound s ↔ Steady s := by
  constructor
  · intro h
    refine ⟨⟨fun c => ⟨(listed_nodup_iff s).1 h.once c, fun hp => ?_, fun hw => ?_⟩, fun hs => ?_⟩, h.tests, h.quiet⟩
    · exact (holdable_iff _).2 (h.states c ((mem_listed_iff s c).2 (Nat.pos_of_ne_zero hp)))
    · obtain ⟨e, he⟩ := List.exists_mem_of_ne_nil _ hw
      obtain ⟨hm, rfl⟩ := mem_waitsOf.1 he
      simpa using h.waits e hm
    · obtain ⟨hl, hnd, hheld⟩ := h.paused hs
      exact ⟨(listed_nil_iff s).1 hl, hnd, fun c hc => hheld c ((holdable_iff _).1 hc)⟩
  · rintro ⟨⟨hplaced, hpaused⟩, ht, he⟩
    refine ⟨ht, he, (listed_nodup_iff s).2 fun c => (hplaced c).once, fun c hc => ?_, fun e hm => ?_, fun hs => ?_⟩
    · exact (holdable_iff _).1 ((hplaced c).states (Nat.pos_iff_ne_zero.1 ((mem_listed_iff s c).1 hc)))
    · have := (hplaced e.ch).waits (List.ne_nil_of_mem (mem_waitsOf.2 ⟨hm, rfl⟩))
      simpa using this
    · obtain ⟨hl, hnd, hheld⟩ := hpaused hs
      exact ⟨(listed_nil_iff s).2 hl, hnd, fun c hc => hheld c ((holdable_iff _).2 hc)⟩

/-! ### Acts that do not touch the collections -/

/-- The hall and the channels are for the arbiter what they were: ACTIVE or not, the pause order, and the states and PAUSE of
the channels in which a grant may be needed. -/
structure Alike (s t : State) : Prop where
  active : t.hall.state = .active ↔ s.hall.state = .active
  order  : t.hall.pauseOrder = s.hall.pauseOrder
  chans  : ∀ c, ((t.ch c).state.holdable = true → (s.ch c).state.holdable = true) ∧
             ((s.ch c).state.holdable = true → (t.ch c).state = (s.ch c).state ∧
               ((s.ch c).holds.pause = true → (t.ch c).holds.pause = true))

/-- Nothing the arbiter depends on has changed. -/
structure Neutral (s t : State) : Prop where
  arb   : t.arb = s.arb
  curt  : t.hall.curtFiltered = s.hall.curtFiltered
  alike : Alike s t

theorem Alike.refl (s : State) : Alike s s := ⟨Iff.rfl, rfl, fun _ => ⟨id, fun _ => ⟨rfl, id⟩⟩⟩

theorem Alike.trans {s t u : State} (h : Alike s t) (k : Alike t u) : Alike s u := by
  refine ⟨k.active.trans h.active, k.order.trans h.order, fun c => ⟨fun x => (h.chans c).1 ((k.chans c).1 x), fun x => ?_⟩⟩
  obtain ⟨hs, hp⟩ := (h.chans c).2 x
  obtain ⟨ks, kp⟩ := (k.chans c).2 (by rw [hs]; exact x)
  exact ⟨ks.trans hs, fun y => kp (hp y)⟩

theorem Neutral.refl (s : State) : Neutral s s := ⟨rfl, rfl, .refl s⟩

theorem Neutral.trans {s t u : State} (h : Neutral s t) (k : Neutral t u) : Neutral s u :=
  ⟨k.arb.trans h.arb, k.curt.trans h.curt, h.alike.trans k.alike⟩

theorem Neutral.ite {s t u : State} (p : Prop) [Decidable p] (h : Neutral s t) (k : Neutral s u) :
    Neutral s (if p then t else u) := iteInduction (motive := Neutral s) (fun _ => h) fun _ => k

theorem Neutral.of_chans {s t : State} (hc : t.chans = s.chans) (ha : t.arb = s.arb) (hh : t.hall = s.hall) : Neutral s t := by
  refine ⟨ha, by rw [hh], by rw [hh], by rw [hh], fun c => ?_⟩
  rw [State.ch, State.ch, hc]
  exact ⟨id, fun _ => ⟨rfl, id⟩⟩

theorem Neutral.of_ch {s t : State} (ha : t.arb = s.arb) (hh : t.hall = s.hall)
    (hc : ∀ c, (t.ch c).state = (s.ch c).state ∧ (t.ch c).holds = (s.ch c).holds) : Neutral s t := by
  refine ⟨ha, by rw [hh], by rw [hh], by rw [hh], fun c => ?_⟩
  rw [(hc c).1, (hc c).2]
  exact ⟨id, fun _ => ⟨rfl, id⟩⟩

theorem Neutral.modCh (s : State) (c : Ch) (f : Channel → Channel) (h1 : (f (s.ch c)).state = (s.ch c).state)
    (h2 : (f (s.ch c)).holds = (s.ch c).holds) : Neutral s (s.modCh c f) := by
  refine .of_ch rfl rfl fun d => ?_
  rw [State.ch_modCh]
  split
  · rename_i h; subst h; exact ⟨h1, h2⟩
  · exact ⟨rfl, rfl⟩

/-- A channel that moves between states in which no grant can be needed. -/
theorem Neutral.modCh_still (s : State) (c : Ch) (f : Channel → Channel) (h1 : (s.ch c).state.holdable = false)
    (h2 : (f (s.ch c)).state.holdable = false) : Neutral s (s.modCh c f) := by
  refine ⟨rfl, rfl, Iff.rfl, rfl, fun d => ?_⟩
  rw [State.ch_modCh]
  split
  · rename_i h; subst h
    rw [h1, h2]
    exact ⟨id, fun e => absurd e (by decide)⟩
  · exact ⟨id, fun _ => ⟨rfl, id⟩⟩

theorem Neutral.modPort (s : State) (c : Ch) (f : Port → Port) : Neutral s (s.modPort c f) := .modCh s c _ rfl rfl

theorem reportCh_neutral (s : State) (c : Ch) (body : ReportBody) : Neutral s (reportCh s c body) := .of_chans rfl rfl rfl
theorem reportPart_neutral (s : State) (body : ReportBody) : Neutral s (reportPart s body) := .of_chans rfl rfl rfl
theorem modLine_neutral (s : State) (l : LineNo) (f : AlarmLine → AlarmLine) : Neutral s (s.modLine l f) := .of_chans rfl rfl rfl

theorem issue_neutral (s : State) (c : Ch) : Neutral s (issue s c) := by
  refine .of_ch (issue_arb s c) (issue_hall s c) fun d => ?_
  obtain ⟨x, p, h⟩ := issue_ch s c d
  rw [h]
  exact ⟨rfl, rfl⟩

theorem settlingTest_neutral (s : State) : Neutral s (settlingTest s) := by
  unfold settlingTest
  split
  · rename_i h
    refine ⟨rfl, rfl, ?_, rfl, fun c => ⟨id, fun _ => ⟨rfl, id⟩⟩⟩
    show HallState.paused = .active ↔ _
    rw [h.1]
    decide
  · exact .refl s

theorem InPlace.alike {s t : State} (h : InPlace s) (hp : ∀ c, places t c = places s c) (hw : ∀ c, waitsOf t c ≠ [] → waitsOf s c ≠ [])
    (hk : Alike s t) : InPlace t := by
  constructor
  · intro c
    refine ⟨(hp c) ▸ (h.placed c).once, fun he => ?_, fun he => ?_⟩
    · have hs := (h.placed c).states (hp c ▸ he)
      rw [((hk.chans c).2 hs).1]
      exact hs
    · have hs := (h.placed c).waits (hw c he)
      rw [((hk.chans c).2 (by rcases hs with hs | hs <;> rw [hs] <;> rfl)).1]
      exact hs
  · intro hs
    obtain ⟨hl, hnd, hheld⟩ := h.paused fun e => hs (hk.active.2 e)
    refine ⟨fun c => (hp c).trans (hl c), hk.order ▸ hnd, fun c hc => ?_⟩
    have hc' := (hk.chans c).1 hc
    obtain ⟨h1, h2⟩ := hheld c hc'
    obtain ⟨k1, k2⟩ := (hk.chans c).2 hc'
    exact ⟨k1.trans h1, k2 h2⟩

theorem InPlace.neutral {s t : State} (h : InPlace s) (hk : Neutral s t) : InPlace t :=
  h.alike (fun _ => places_congr hk.arb) (fun c e => by rw [waitsOf_congr c hk.arb] at e; exact e) hk.alike

theorem Quiet.neutral {s t : State} (h : Quiet s) (hk : Neutral s t) : Quiet t := by
  refine ⟨?_, by rw [hk.arb]; exact h.2⟩
  rw [testsHold_congr (s := s) (by rw [hk.arb]) (by rw [hk.arb]) (by rw [cEffOf, cEffOf, hk.arb, hk.curt])]
  exact h.1

theorem Steady.neutral {s t : State} (h : Steady s) (hk : Neutral s t) : Steady t := ⟨h.1.neutral hk, h.2.neutral hk⟩

theorem Steady.ite {t u : State} (p : Prop) [Decidable p] (h : p → Steady t) (k : ¬p → Steady u) :
    Steady (if p then t else u) := by
  split
  · exact h ‹_›
  · exact k ‹_›

/-! ### Acts on one channel -/

/-- An act on one channel that leaves it at its place. -/
theorem InPlace.acts {s t : State} {c : Ch} (h : InPlace s) (ha : ActsOn c s t) (hc : AtPlace t c)
    (hp : s.hall.state ≠ .active → places t c = 0 ∧
      ((t.ch c).state.holdable = true → (t.ch c).state = .held ∧ (t.ch c).holds.pause = true)) : InPlace t := by
  refine ⟨h.placed.acts ha hc, fun hs => ?_⟩
  rw [ha.hall] at hs
  obtain ⟨hl, hnd, hheld⟩ := h.paused hs
  refine ⟨fun d => ?_, by rw [ha.hall]; exact hnd, fun d hd => ?_⟩
  · by_cases e : d = c
    · exact e ▸ (hp hs).1
    · rw [ha.places_other e]; exact hl d
  · by_cases e : d = c
    · subst e; exact (hp hs).2 hd
    · have hleaves : OnlyPort (s.ch d) (t.ch d) := ha.chans d e
      rw [hleaves] at hd ⊢
      exact hheld d hd

theorem InPlace.acts_active {s t : State} {c : Ch} (h : InPlace s) (ha : ActsOn c s t) (hc : AtPlace t c)
    (hs : s.hall.state = .active) : InPlace t := h.acts ha hc fun e => absurd hs e

/-- A channel in GAP, DEFERRED, STARTING or RUNNING means an ACTIVE hall (R170). -/
theorem InPlace.active {s : State} {c : Ch} (h : InPlace s) (hc : (s.ch c).state.holdable = true) (hh : (s.ch c).state ≠ .held) :
    s.hall.state = .active := by
  by_contra hs
  exact hh ((h.paused hs).2.2 c hc).1

/-- A channel outside GAP, DEFERRED, STARTING, RUNNING and HELD is in no collection. -/
theorem InPlace.unlisted {s : State} {c : Ch} (h : InPlace s) (hc : (s.ch c).state.holdable = false) : places s c = 0 := by
  by_contra e
  rw [(h.placed c).states e] at hc
  cases hc

/-- The arbiter's handling of an event. -/
theorem InPlace.settle {s : State} (h : InPlace s) : Steady (settle s) := by
  obtain ⟨hp, hq⟩ := settle_placed h.placed
  have hruns := settle_runs s
  refine ⟨⟨hp, fun hs => ?_⟩, hq⟩
  rw [hruns.hall] at hs
  obtain ⟨hl, hnd, hheld⟩ := h.paused hs
  rw [settle_empty hl]
  exact ⟨hl, hnd, hheld⟩

theorem InPlace.evalDue {s : State} (h : InPlace s) (x : Bool) : InPlace (s.modArb fun a => { a with evalDue := x }) :=
  h.alike (fun _ => rfl) (fun _ => id) ⟨Iff.rfl, rfl, fun _ => ⟨id, fun _ => ⟨rfl, id⟩⟩⟩

theorem InPlace.settleEvaluating {s : State} (h : InPlace s) : Steady (settleEvaluating s) := (h.evalDue true).settle

theorem InPlace.releaseGrant {s : State} (h : InPlace s) (c : Ch) : InPlace (releaseGrant s c) := by
  obtain ⟨hg, hw, hr⟩ := releaseGrant_mono (s := s) (c := c)
  refine h.acts (releaseGrant_acts s c) (h.placed c).releaseGrant fun hs => ?_
  obtain ⟨hl, -, hheld⟩ := h.paused hs
  rw [releaseGrant_ch]
  refine ⟨?_, hheld c⟩
  have := hl c
  unfold places at this ⊢
  rw [hw, hr]
  omega

/-- A channel that has left every collection for a state in which no grant can be needed. -/
theorem InPlace.leaves {s t : State} {c : Ch} (h : InPlace s) (ha : ActsOn c s t) (hp : places t c = 0)
    (hs : (t.ch c).state.holdable = false) : InPlace t :=
  h.acts ha (.of_none hp) fun _ => ⟨hp, fun e => by rw [hs] at e; cases e⟩

/-! ### Faults (R42, R138) -/

theorem faultChannel_acts (s : State) (c : Ch) : ActsOn c s (faultChannel s c) := by
  unfold faultChannel
  exact ((((ActsOn.modCh c s _).trans (grantNotLive_acts _ c)).trans (releaseGrant_acts _ c)).trans
    (withdrawEntries_acts _ c)).trans ((ActsOn.modCh c _ _).trans (issue_acts _ c))

theorem faultChannel_places (s : State) (c : Ch) :
    places (faultChannel s c) c = 0 ∧ ((faultChannel s c).ch c).state = .faulted := by
  unfold faultChannel
  dsimp only
  constructor
  · rw [places_congr (issue_arb _ c)]
    exact places_withdraw
  · obtain ⟨x, p, hch⟩ := issue_ch ((withdrawEntries (releaseGrant (grantNotLive (s.modCh c fun ch =>
      if ch.state.engaged then { ch with resume := some (resumePointOf ch) } else ch) c) c) c).modCh c fun ch =>
        { ch.stopTimers with swapPending := none, holds := HoldCauses.empty, heldBefore := false, state := .faulted }) c c
    rw [hch, State.ch_modCh_self]

theorem InPlace.faultChannel {s : State} (h : InPlace s) (c : Ch) : InPlace (faultChannel s c) := by
  obtain ⟨hp, hs⟩ := faultChannel_places s c
  exact h.leaves (faultChannel_acts s c) hp (by rw [hs]; rfl)

theorem InPlace.respond {s : State} (h : InPlace s) (c : Ch) : InPlace (respond s c) := by
  unfold Machine.respond
  split
  · exact h
  · exact h.neutral (.modPort s c _)
  · exact h.faultChannel c

theorem InPlace.offerOne {s : State} (h : InPlace s) (c : Ch) (k : FaultKind) (value : Int) : InPlace (offerOne s c k value) := by
  have hwarn : ∀ ch : Channel, (setWarned ch k true).state = ch.state ∧ (setWarned ch k true).holds = ch.holds := fun ch => by
    cases k <;> exact ⟨rfl, rfl⟩
  unfold Machine.offerOne
  split
  · unfold warnKind
    split
    · exact h
    · exact h.neutral ((Neutral.modCh s c _ (hwarn _).1 (hwarn _).2).trans (reportCh_neutral _ c _))
  · split
    · exact h
    · unfold latchKind
      dsimp only
      have hresponded := (h.neutral (Neutral.modCh s c (fun ch => { ch with
        latched := addKind ch.latched k
        firstFault := if ch.latched = 0 then some ⟨k, (s.ch c).stepIndex, (s.ch c).stepTime, value, s.hall.partTime⟩
          else ch.firstFault }) rfl rfl)).respond c
      split
      · exact (InPlace.neutral hresponded (reportCh_neutral _ c _)).neutral (settlingTest_neutral _)
      · exact InPlace.neutral hresponded (reportCh_neutral _ c _)

theorem InPlace.offer {s : State} (h : InPlace s) (c : Ch) (k : FaultKind) (value : Int) : Steady (offer s c k value) := by
  unfold Machine.offer
  refine InPlace.settle ?_
  have h1 := h.offerOne c k value
  split
  · exact h1.offerOne (partner c) .pairPartner k.code
  · exact h1

theorem InPlace.offerUnsafe {s : State} (h : InPlace s) (c : Ch) (tag : BitVec 4) : Steady (offerUnsafe s c tag) :=
  (h.neutral (Neutral.modCh s c _ rfl rfl)).offer c _ _

/-! ### Causes (R33, R34) -/

theorem InPlace.addCause {s : State} (h : InPlace s) (c : Ch) (cause : HoldCause) : InPlace (addCause s c cause) := by
  by_cases hc : (s.ch c).state.holdable = true
  · refine h.acts (addCause_acts s c cause) ((h.placed c).addCause cause) fun hs => ?_
    obtain ⟨hl, -, hheld⟩ := h.paused hs
    obtain ⟨hstate, hpause⟩ := hheld c hc
    obtain ⟨h1, h2⟩ := addCause_ch (cause := cause) hc
    refine ⟨?_, fun _ => ⟨h1, ?_⟩⟩
    · rw [addCause_held hstate]
      have hplaces : places (s.modCh c fun ch => { ch with holds := ch.holds.add cause }) c = 0 := hl c
      split
      · obtain ⟨hg, hw, hr⟩ := idleGrant_mono (s := s.modCh c fun ch => { ch with holds := ch.holds.add cause }) (c := c)
        unfold places at hplaces ⊢
        rw [hw, hr]
        omega
      · exact hplaces
    · rw [h2]
      cases cause <;> first | exact hpause | rfl
  · rw [addCause_other (by simpa using hc)]
    exact h

theorem InPlace.holdChannel {s : State} (h : InPlace s) (c : Ch) (cause : HoldCause) : Steady (holdChannel s c cause) :=
  (h.addCause c cause).settle

/-- The removal of causes other than PAUSE. -/
theorem InPlace.removeCauses {s : State} (h : InPlace s) (c : Ch) {f : HoldCauses → HoldCauses}
    (hf : ∀ x, x.pause = true → (f x).pause = true) : InPlace (removeCauses s c f) := by
  refine h.acts (removeCauses_acts s c f) ((h.placed c).removeCauses f) fun hs => ?_
  obtain ⟨hl, -, hheld⟩ := h.paused hs
  have hstay : Machine.removeCauses s c f = s.modCh c fun ch => { ch with holds := f ch.holds } := by
    unfold Machine.removeCauses
    refine if_neg ?_
    rintro ⟨hheldc, -, hempty⟩
    rw [State.ch_modCh_self] at hheldc hempty
    have hpause := hf _ (hheld c (by rw [show (s.ch c).state = .held from hheldc]; rfl)).2
    rw [show f (s.ch c).holds = _ from hempty] at hpause
    cases hpause
  rw [hstay, State.ch_modCh_self]
  exact ⟨hl c, fun hc => ⟨(hheld c hc).1, hf _ (hheld c hc).2⟩⟩

theorem InPlace.unholdChannel {s : State} (h : InPlace s) (c : Ch) {f : HoldCauses → HoldCauses}
    (hf : ∀ x, x.pause = true → (f x).pause = true) : Steady (unholdChannel s c f) := (h.removeCauses c hf).settle

theorem Steady.followCover (before : Ch → Bool) (l : List Ch) {s : State} (h : Steady s) : Steady (followCover before s l) := by
  induction l generalizing s with
  | nil => exact h
  | cons c l ih =>
    refine ih ?_
    split
    · exact h.1.holdChannel c .chamber
    · split
      · exact h.1.unholdChannel c fun x hx => hx
      · exact h

theorem Steady.offerAlarm (line : LineNo) (p : Ch → Bool) (l : List Ch) {s : State} (h : Steady s) :
    Steady (offerAlarm line p s l) := by
  induction l generalizing s with
  | nil => exact h
  | cons c l ih =>
    refine ih ?_
    split
    · exact h.1.offer c _ _
    · exact h

/-! ### The end of a run (R32, R37, R38) -/

theorem finishStop_neutral {s : State} {c : Ch} (hc : (s.ch c).state.holdable = false) : Neutral s (finishStop s c) :=
  .modCh_still s c _ hc (by cases (s.ch c).stopDest <;> rfl)

theorem portSettled_neutral (s : State) (c : Ch) : Neutral s (portSettled s c) := by
  unfold portSettled
  dsimp only
  refine Neutral.trans ?_ (settlingTest_neutral _)
  split
  · rename_i h
    exact finishStop_neutral (by rw [h.1]; rfl)
  · exact .refl s

theorem enterStopping_acts (s : State) (c : Ch) (dest : StopDest) (absentCounts : Bool) :
    ActsOn c s (enterStopping s c dest absentCounts) := by
  unfold enterStopping
  have h := (ActsOn.modCh c s fun ch => { ch with state := .stopping, stopDest := dest }).trans (issue_acts _ c)
  exact .ite _ (h.trans (ActsOn.modCh c _ _)) h

theorem enterStopping_state (s : State) (c : Ch) (dest : StopDest) (absentCounts : Bool) :
    ((enterStopping s c dest absentCounts).ch c).state.holdable = false := by
  unfold enterStopping
  dsimp only
  split
  · unfold finishStop
    rw [State.ch_modCh_self]
    cases (State.ch _ c).stopDest <;> rfl
  · obtain ⟨x, p, hch⟩ := issue_ch (s.modCh c fun ch => { ch with state := .stopping, stopDest := dest }) c c
    rw [hch, State.ch_modCh_self]
    rfl

theorem enterStopping_arb (s : State) (c : Ch) (dest : StopDest) (absentCounts : Bool) :
    (enterStopping s c dest absentCounts).arb = s.arb := by
  unfold enterStopping
  dsimp only
  split
  · exact issue_arb _ c
  · exact issue_arb _ c

theorem InPlace.stopChannel {s : State} (h : InPlace s) (c : Ch) : Steady (stopChannel s c) := by
  unfold Machine.stopChannel
  refine InPlace.settle (InPlace.leaves h ?_ ?_ (enterStopping_state _ c _ _))
  · exact ((releaseGrant_acts s c).trans (withdrawEntries_acts _ c)).trans
      ((ActsOn.modCh c _ _).trans (enterStopping_acts _ c _ _))
  · rw [places_congr (enterStopping_arb _ c _ _)]
    exact places_withdraw

theorem InPlace.completeSchedule {s : State} (h : InPlace s) (c : Ch) (reason : ScheduleEnd) :
    InPlace (completeSchedule s c reason) := by
  unfold Machine.completeSchedule
  refine InPlace.leaves h ?_ ?_ (enterStopping_state _ c _ _)
  · exact (((ActsOn.modLink c s _).trans (releaseGrant_acts _ c)).trans (withdrawEntries_acts _ c)).trans
      ((ActsOn.modCh c _ _).trans (enterStopping_acts _ c _ _))
  · rw [places_congr (enterStopping_arb _ c _ _)]
    exact places_withdraw

/-! ### The end of a step (R29 to R32) -/

/-- A channel RUNNING in an ACTIVE hall. -/
structure RunsOn (s : State) (c : Ch) : Prop where
  inPlace : InPlace s
  hall    : s.hall.state = .active
  running : (s.ch c).state = .running

theorem RunsOn.unwaiting {s : State} {c : Ch} (h : RunsOn s c) : waitsOf s c = [] :=
  (h.inPlace.placed c).unwaiting (by rw [h.running]; decide) (by rw [h.running]; decide)

theorem RunsOn.neutral {s t : State} {c : Ch} (h : RunsOn s c) (hk : Neutral s t) : RunsOn t c :=
  ⟨h.inPlace.neutral hk, hk.alike.active.2 h.hall,
    ((hk.alike.chans c).2 (by rw [h.running]; rfl)).1.trans h.running⟩

theorem carryOutSwap_same (ch : Channel) : ch.carryOutSwap.state = ch.state ∧ ch.carryOutSwap.holds = ch.holds := ⟨rfl, rfl⟩

theorem closeCycle_neutral (s : State) (c : Ch) (j : Nat) : Neutral s (closeCycle s c j) := by
  unfold closeCycle
  refine (reportCh_neutral s c _).trans (Neutral.modCh _ c _ ?_ ?_) <;> dsimp only <;> split <;> rfl

theorem walkFrom_neutral (fuel : Nat) (s : State) (c : Ch) (j : Nat) : Neutral s (walkFrom fuel s c j).1 := by
  induction fuel generalizing s j with
  | zero => exact .refl s
  | succ n ih =>
    unfold walkFrom
    split
    · exact .refl s
    · split
      · exact .refl s
      · split
        · have hclose : ∀ b : Bool, Neutral s (if b = true then closeCycle s c j else s) := fun b =>
            .ite _ (closeCycle_neutral s c j) (.refl s)
          dsimp only
          split
          · exact (hclose _).trans (ih _ _)
          · exact (hclose _).trans ((Neutral.modCh _ c _ rfl rfl).trans (ih _ _))
        · exact .refl s

theorem RunsOn.landOn {s : State} {c : Ch} (h : RunsOn s c) (k : Nat) (hold : Bool) : InPlace (landOn s c k hold) := by
  unfold Machine.landOn
  have hp := h.inPlace.placed c
  have hacts := prepareStep_acts s c k hold
  have hwaits : waitsOf (prepareStep s c k hold) c = [] := by
    rw [waitsOf, prepareStep_waiting, ← waitsOf, h.unwaiting]
  have hprepared : InPlace (prepareStep s c k hold) := h.inPlace.acts_active hacts (hp.prepareStep k hold) h.hall
  dsimp only
  split
  · exact (hprepared.neutral (Neutral.modCh _ c _ rfl rfl)).addCause c .endHold
  · exact hprepared.acts_active (beginStep_acts _ c) ((hprepared.placed c).beginStep hwaits)
      (by rw [hacts.hall]; exact h.hall)

theorem RunsOn.scheduleEnd {s : State} {c : Ch} (h : RunsOn s c) (reason : ScheduleEnd) (hold : Bool) :
    InPlace (scheduleEnd s c reason hold) := by
  unfold Machine.scheduleEnd
  dsimp only
  split
  · have hwalk := fun body => h.neutral ((reportCh_neutral s c body).trans
      ((Neutral.modCh _ c Channel.carryOutSwap (carryOutSwap_same _).1 (carryOutSwap_same _).2).trans (walkFrom_neutral 1024 _ c 0)))
    split
    · exact (hwalk _).landOn _ hold
    · exact (hwalk _).inPlace.completeSchedule c _
  · exact h.inPlace.completeSchedule c _

theorem RunsOn.endStep {s : State} {c : Ch} (h : RunsOn s c) (r : StepRecord) (reason : EndReason) (action : Action) :
    Steady (endStep s c r reason action) := by
  unfold Machine.endStep
  dsimp only
  refine InPlace.settle ?_
  have h0 : RunsOn (grantNotLive s c) c :=
    ⟨h.inPlace.acts_active (grantNotLive_acts s c) ((h.inPlace.placed c).modGrant _ fun _ => rfl) h.hall, h.hall, h.running⟩
  have h1 := fun body => h0.neutral ((reportCh_neutral _ c body).trans (Neutral.modCh _ c Channel.stopTimers rfl rfl))
  split
  · exact (h1 _).scheduleEnd _ _
  · rename_i j _
    have hwalk := fun body => (h1 body).neutral (walkFrom_neutral 1024 _ c j)
    split
    · exact (hwalk _).landOn _ _
    · exact (hwalk _).scheduleEnd _ _

/-! ### Playback and the period event (R54, R113 to R119) -/

theorem Steady.goIntoUnderrun {s : State} (h : Steady s) (c : Ch) : Steady (goIntoUnderrun s c) := by
  unfold Machine.goIntoUnderrun
  dsimp only
  split
  · exact (h.1.neutral (Neutral.modCh s c _ rfl rfl)).offer c _ _
  · exact h.neutral (Neutral.modCh s c _ rfl rfl)

theorem Steady.restartUnderrun {s : State} (h : Steady s) (c : Ch) : Steady (restartUnderrun s c) := by
  unfold Machine.restartUnderrun
  split
  · split
    · exact h.goIntoUnderrun c
    · exact h
  · exact h

theorem Steady.advancePlayback {s : State} (h : Steady s) (c : Ch) (counted : Bool) : Steady (advancePlayback s c counted) := by
  obtain ⟨p, q, hadvance⟩ := advancePoint_eq (s.ch c) counted
  have h0 : Neutral s (s.modCh c fun _ => (advancePoint (s.ch c) counted).1) :=
    .modCh s c _ (by rw [hadvance]) (by rw [hadvance])
  have hlow : ∀ u : State, Neutral u (lowWaterTest u c) := fun u => by
    unfold lowWaterTest
    dsimp only
    split
    · exact (Neutral.modCh u c _ rfl rfl).trans (reportCh_neutral _ c _)
    · exact .refl u
  have h1 : Steady (if (advancePoint (s.ch c) counted).2 = true then
      lowWaterTest (s.modCh c fun _ => (advancePoint (s.ch c) counted).1) c
      else s.modCh c fun _ => (advancePoint (s.ch c) counted).1) :=
    h.neutral (h0.trans (.ite _ (hlow _) (.refl _)))
  exact Steady.ite _ (fun _ => h1.goIntoUnderrun c) fun _ => h1

end Sys2Proof.Machine
end

section
/-! PROOF. O57, continued: the period event, the readings, the hall lines and the timers keep the arbiter sound. -/
namespace Sys2Proof.Machine
open Sys2Proof.Safety

/-! ### The period event (R54) -/

theorem openPeriod_neutral (s : State) (c : Ch) (n : Nat) : Neutral s (openPeriod s c n) := .modCh s c _ rfl rfl

theorem setWarned_same (ch : Channel) (k : FaultKind) (w : Bool) :
    (setWarned ch k w).state = ch.state ∧ (setWarned ch k w).holds = ch.holds := by cases k <;> exact ⟨rfl, rfl⟩

section
variable {s : State} (c : Ch)

theorem Steady.missPeriod (h : Steady s) : Steady (missPeriod s c) := by
  unfold Machine.missPeriod
  have h0 := fun n : Channel → Nat =>
    h.neutral (Neutral.modCh s c (fun ch => { ch with held := true, missed := n ch }) rfl rfl)
  exact Steady.ite _ (fun _ => (h0 _).1.offer c _ _) fun _ => h0 _

theorem Steady.limitCheck (h : Steady s) (v : Nat) (i t : Int) (k : FaultKind) (value : Int) :
    Steady (limitCheck s c v i t k value) := by
  unfold Machine.limitCheck
  exact Steady.ite _ (fun _ => h.1.offer c _ _) fun _ =>
    h.neutral (.modCh s c _ (setWarned_same _ k false).1 (setWarned_same _ k false).2)

theorem Steady.voltageChecks (h : Steady s) (v : Nat) (i t : Int) : Steady (voltageChecks s c v i t) :=
  (h.limitCheck c v i t .limitVHigh v).limitCheck c v i t .limitVLow v

theorem Steady.temperatureChecks (h : Steady s) (v : Nat) (i t : Int) : Steady (temperatureChecks s c v i t) :=
  (h.limitCheck c v i t .limitTHigh t).limitCheck c v i t .limitTLow t

theorem Steady.completePack (h : Steady s) (takenL takenF : Bool) : Steady (completePack s c takenL takenF) := by
  unfold Machine.completePack
  have h0 := fun p => h.neutral (Neutral.modCh s c (fun ch => { ch with pack := p }) rfl rfl)
  have h1 : ∀ (p : PackReading) (b : Prop) [Decidable b], Steady (if b then
      Machine.temperatureChecks (Machine.voltageChecks (s.modCh c fun ch => { ch with pack := p }) c p.v p.i p.t) c p.v p.i p.t
      else s.modCh c fun ch => { ch with pack := p }) := fun p b _ =>
    Steady.ite _ (fun _ => ((h0 p).voltageChecks c _ _ _).temperatureChecks c _ _ _) fun _ => h0 p
  refine Steady.ite _ (fun _ => ?_) fun _ => h1 _ _
  exact Steady.ite _ (fun _ => (h1 _ _).1.offer c _ _) fun _ =>
    (h1 _ _).neutral (.modCh _ c _ (setWarned_same _ _ _).1 (setWarned_same _ _ _).2)

theorem Steady.stageSettle (h : Steady s) (taken partnerTaken packDone : Bool) :
    Steady (stageSettle s c taken partnerTaken packDone) := by
  unfold Machine.stageSettle
  have h0 : Steady (if taken = true then s else Machine.missPeriod s c) := Steady.ite _ (fun _ => h) fun _ => h.missPeriod c
  refine Steady.ite _ (fun _ => ?_) fun _ => h0
  have h1 := Steady.ite (partnerTaken = true) (fun _ => h0) fun _ => h0.missPeriod (partner c)
  exact Steady.ite _ (fun _ => h1) fun _ => h1.completePack c taken partnerTaken

theorem stageTime_neutral (s : State) (n : Nat) : Neutral s (stageTime s c n) := .ite _ (.modCh s c _ rfl rfl) (.refl s)

theorem integrate_same (ch : Channel) (dq de : Int) :
    (ch.integrate dq de).state = ch.state ∧ (ch.integrate dq de).holds = ch.holds := by
  unfold Channel.integrate
  dsimp only
  constructor <;> repeat' first | rfl | split

theorem integratePeriod_neutral (s : State) (n : Nat) : Neutral s (integratePeriod s c n) := by
  unfold integratePeriod
  exact .ite _ (.modCh s c _ (integrate_same _ _ _).1 (integrate_same _ _ _).2) (.refl s)

theorem stagePeak_neutral (s : State) (taken : Bool) : Neutral s (stagePeak s c taken) := .ite _ (.modCh s c _ rfl rfl) (.refl s)

theorem Steady.stageStart (h : Steady s) (taken : Bool) : Steady (stageStart s c taken) := by
  unfold Machine.stageStart
  refine Steady.ite _ (fun hc => ?_) fun _ => h
  have hactive := h.1.active (c := c) (by rw [hc.1]; rfl) (by rw [hc.1]; decide)
  have hw := (h.1.placed c).unwaiting (by rw [hc.1]; decide) (by rw [hc.1]; decide)
  have hrun : InPlace (s.modCh c fun ch => { ch with state := .running, startTimer := none }) :=
    h.1.acts_active (ActsOn.modCh c s _) (.of_unwaiting (h.1.placed c).once hw (by rw [State.ch_modCh_self]; rfl)) hactive
  refine Steady.restartUnderrun (InPlace.settle (InPlace.evalDue ?_ true)) c
  exact hrun.acts_active (modGrant_acts _ c (fun g => { g with live := true }) fun _ => rfl)
    ((hrun.placed c).modGrant _ fun _ => rfl) hactive

theorem Steady.stagePlay (h : Steady s) (counted : Bool) : Steady (stagePlay s c counted) := by
  unfold Machine.stagePlay
  split
  · exact Steady.ite _ (fun _ => h.advancePlayback c counted) fun _ => h
  · exact h

theorem Steady.runsOn (h : Steady s) (hr : isRunning s c = true) : RunsOn s c := by
  have hs : (s.ch c).state = .running := by simpa [isRunning] using hr
  exact ⟨h.1, h.1.active (by rw [hs]; rfl) (by rw [hs]; decide), hs⟩

theorem Steady.stageTests (h : Steady s) (taken : Bool) : Steady (stageTests s c taken) := by
  unfold Machine.stageTests
  refine Steady.ite _ (fun hr => ?_) fun _ => h
  have hrun := h.runsOn c hr
  have h0 : ∀ x, Neutral s (s.modCh c fun ch => { ch with confirms := x }) := fun x => .modCh s c _ rfl rfl
  unfold endTests
  split
  · exact h
  · dsimp only
    split
    · exact (hrun.neutral (h0 _)).endStep _ _ _
    · exact Steady.ite _ (fun _ => (hrun.neutral (h0 _)).endStep _ _ _) fun _ => h.neutral (h0 _)

theorem Steady.stagesLater (h : Steady s) (taken counted : Bool) : Steady (stagesLater s c taken counted) := by
  unfold Machine.stagesLater
  refine Steady.ite _ (fun _ => h) fun _ => ?_
  have h1 := (((h.neutral (stagePeak_neutral c s taken)).stageStart c taken).stagePlay c counted).stageTests c taken
  unfold stageRefresh
  exact Steady.ite _ (fun _ => h1.neutral (issue_neutral _ c)) fun _ => h1

theorem restartPeriod_neutral (s : State) : Neutral s (restartPeriod s c) := by
  have hfold : ∀ (l : List Ch) (t : State), Neutral s t →
      Neutral s (l.foldl (fun t d => t.modCh d fun ch => { ch with periodLength := periodInForce s c }) t) := by
    intro l
    induction l with
    | nil => exact fun t h => h
    | cons d l ih => exact fun t h => ih _ (h.trans (.modCh t d _ rfl rfl))
  exact hfold _ _ (.refl s)

theorem Steady.periodEventOf (h : Steady s) : Steady (periodEventOf s c) := by
  have hopen : ∀ n, Neutral s (if isLeader s c then openPeriod (openPeriod s c n) (partner c) n else openPeriod s c n) :=
    fun n => .ite _ ((openPeriod_neutral s c n).trans (openPeriod_neutral _ _ n)) (openPeriod_neutral s c n)
  have hsettle := (h.neutral (hopen (periodInForce s c))).stageSettle c (s.ch c).taken (s.ch (partner c)).taken (s.ch c).packDone
  unfold Machine.periodEventOf
  dsimp only
  refine Steady.neutral (Steady.stagesLater c (Steady.neutral (Steady.ite _ (fun _ => hsettle) fun _ => ?_)
    (integratePeriod_neutral c _ _)) _ _) (restartPeriod_neutral c _)
  exact hsettle.neutral (stageTime_neutral c _ _)

/-! ### Readings and confirmations (R53, R160, R161) -/

theorem makePresent_neutral (s : State) : Neutral s (makePresent s c) := by
  unfold makePresent
  have h0 := Neutral.modPort s c Port.becomePresent
  exact .ite _ (.refl s) (.ite _ (h0.trans (portSettled_neutral _ c)) h0)

theorem Steady.stageFlags (h : Steady s) (rd : Reading) : Steady (stageFlags s c rd) := by
  unfold Machine.stageFlags
  have h1 : ∀ (b : Prop) [Decidable b] (v : Int), Steady (if b then offer s c .stageReported v else s) := fun b _ v =>
    Steady.ite b (fun _ => h.1.offer c _ _) fun _ => h
  have h2 : ∀ (t : State) (b : Prop) [Decidable b] (body : ReportBody), Steady t → Steady (if b then reportCh t c body else t) :=
    fun t b _ body ht => Steady.ite b (fun _ => ht.neutral (reportCh_neutral t c body)) fun _ => ht
  exact (h2 _ _ _ (h1 _ _)).neutral (.modCh _ c _ rfl rfl)

theorem Steady.takeReading (h : Steady s) (raw : RawReading) : Steady (takeReading s c raw) := by
  unfold Machine.takeReading
  dsimp only
  have h0 := h.neutral (Neutral.modCh s c (fun ch => { ch with
    last := takeRaw (s.ch c).cal raw s.hall.partTime, held := false, missed := 0, taken := true,
    unsafeFlag := if (takeRaw (s.ch c).cal raw s.hall.partTime).reg = .off then false else ch.unsafeFlag }) rfl rfl)
  generalize takeRaw (s.ch c).cal raw s.hall.partTime = rd at h0 ⊢
  have h1 : ∀ t : State, Steady t → Steady (readingChecks t c rd) := fun t ht => by
    unfold readingChecks
    exact Steady.ite _ (fun _ => ht.limitCheck c _ _ _ _ _) fun _ =>
      ((ht.voltageChecks c _ _ _).limitCheck c _ _ _ _ _).temperatureChecks c _ _ _
  have h2 := ((h1 _ h0).stageFlags c rd).neutral (makePresent_neutral c _)
  exact Steady.ite _ (fun _ => (h2.neutral (.modCh _ _ _ rfl rfl)).completePack _ _ _) fun _ => h2

theorem Steady.readingArrives (h : Steady s) (after : Bool) (raw : RawReading) : Steady (readingArrives s c after raw) := by
  unfold Machine.readingArrives
  exact Steady.ite _ (fun _ => (h.neutral (.modPort s c _)).takeReading c raw) fun _ => h.neutral (.modPort s c _)

theorem confirmArrives_neutral (s : State) (tag : Byte) : Neutral s (confirmArrives s c tag) := by
  unfold confirmArrives
  split
  · exact .modPort s c _
  · have h0 := Neutral.modPort s c fun p => p.retire ‹Tagged›
    exact .ite _ (.ite _ (h0.trans (portSettled_neutral _ c)) h0) (.modPort s c _)

theorem Steady.confirmationExpires (h : Steady s) : Steady (confirmationExpires s c) := by
  unfold Machine.confirmationExpires
  split
  · rename_i t _ _
    have h0 := (h.neutral (Neutral.modPort s c fun p => { p with confTimer := none })).1.offer c .stageNoAck t.tag.toNat
    exact (Steady.ite _ (fun _ => h0.1.offerUnsafe c t.tag) fun _ => h0).neutral (.modPort _ c _)
  · exact h

/-! ### The timers (R26, R27, R95, R98, R119) -/

theorem enterDeferred_arb (s : State) : (enterDeferred s c).arb = s.arb := issue_arb _ c

/-- Only a gap that expires with a grant given up makes an evaluation due (R26). -/
theorem gapExpires_due (s : State) : (gapExpires s c).arb.evalDue = s.arb.evalDue ∨
    (grantOf s c).isSome = true ∧ (grantOf (gapExpires s c) c).isNone = true := by
  have hlost : ∀ u : State, (grantOf s c).isSome = true ∧ grantsOf u c = [] ∨ u.arb.evalDue = s.arb.evalDue →
      (enterDeferred u c).arb.evalDue = s.arb.evalDue ∨
        (grantOf s c).isSome = true ∧ (grantOf (enterDeferred u c) c).isNone = true := fun u hu => by
    refine hu.symm.imp (fun hdue => by rw [enterDeferred_arb, hdue]) fun hu => ⟨hu.1, ?_⟩
    rw [Option.isNone_iff_eq_none, grantOf_isNone, grantsOf_congr c (enterDeferred_arb c u), hu.2]
  unfold gapExpires
  split
  · by_cases hs : (grantOf s c).isSome = true
    · exact hlost _ (.inl ⟨hs, releaseGrant_grantsOf s c⟩)
    · exact hlost _ (.inr (congrArg (fun t : State => t.arb.evalDue) (if_neg hs)))
  · split
    · refine .inl ?_
      show (issue (unidleGrant _ c) c).arb.evalDue = _
      rw [issue_arb]
      rfl
    · by_cases hs : (grantOf s c).isSome = true
      · rw [if_pos hs]
        exact hlost _ (.inl ⟨hs, releaseGrant_grantsOf s c⟩)
      · rw [if_neg hs]
        exact hlost _ (.inr rfl)

/-- A gap that expires without a grant given up leaves both tests holding. -/
theorem gapExpires_quiet (h : Quiet s) (hg : ¬((grantOf s c).isSome = true ∧ (grantOf (gapExpires s c) c).isNone = true)) :
    Quiet (gapExpires s c) := by
  have hacts := gapExpires_acts s c
  have hsoft : SoftGrants (grantsOf s c) (grantsOf (gapExpires s c) c) := gapExpires_soft s c
  -- No grant is given up, so a grant of the channel has changed its hold at most.
  have hheld : ∃ f : Grant → Option Nat, grantsOf (gapExpires s c) c = (grantsOf s c).map fun g => { g with hold := f g } := by
    rcases hsoft with hnone | h
    · refine ⟨Grant.hold, ?_⟩
      have hsome : grantsOf s c = [] := by
        by_contra hs
        refine hg ⟨?_, ?_⟩
        · rw [Option.isSome_iff_ne_none, ne_eq, grantOf_isNone]; exact hs
        · rw [Option.isNone_iff_eq_none, grantOf_isNone]; exact hnone
      rw [hnone, hsome]; rfl
    · exact h
  constructor
  · obtain ⟨f, hf⟩ := hheld
    exact hacts.testsHold_hold hf h.1
  · exact ((gapExpires_due c s).resolve_right fun hlost => hg hlost).trans h.2

theorem Steady.gapTimerExpires (h : Steady s) : Steady (gapTimerExpires s c) := by
  unfold Machine.gapTimerExpires
  refine Steady.ite _ (fun hc => ?_) fun _ => h
  have hactive := h.1.active (c := c) (by rw [hc.1]; rfl) (by rw [hc.1]; decide)
  have hgap : InPlace (gapExpires s c) := h.1.acts_active (gapExpires_acts s c) ((h.1.placed c).gapExpires hc.1) hactive
  exact Steady.ite _ (fun _ => hgap.settle) fun hg => ⟨hgap, gapExpires_quiet c h.2 hg⟩

theorem Steady.startTimerExpires (h : Steady s) : Steady (startTimerExpires s c) :=
  Steady.ite _ (fun _ => (h.1.neutral (Neutral.modCh s c _ rfl rfl)).offer c _ _) fun _ => h

theorem Steady.grantHoldExpires (h : Steady s) : Steady (grantHoldExpires s c) := by
  unfold Machine.grantHoldExpires
  split
  · exact h
  · exact Steady.ite _ (fun _ => (h.1.releaseGrant c).settle) fun _ => h

theorem starve_ch (e : Entry) : (e.starve c).ch = e.ch := by unfold Entry.starve; split <;> rfl

theorem filter_starve (es : List Entry) (d : Ch) :
    ((es.map (Entry.starve c)).filter fun e => e.ch = d) = (es.filter fun e => e.ch = d).map (Entry.starve c) := by
  rw [List.filter_map]
  exact congrArg _ (List.filter_congr fun e _ => by simp [starve_ch])

theorem Steady.waitTimerExpires (h : Steady s) : Steady (waitTimerExpires s c) := by
  unfold Machine.waitTimerExpires
  refine Steady.ite _ (fun _ => ?_) fun _ => h
  split
  · refine ⟨h.1.alike (fun d => ?_) (fun d => ?_) ⟨Iff.rfl, rfl, fun _ => ⟨id, fun _ => ⟨rfl, id⟩⟩⟩, h.2⟩
    · show (grantsOf s d).length + ((s.arb.waiting.map _).filter _).length + ((s.arb.resume.map _).filter _).length = _
      rw [filter_starve, filter_starve, List.length_map, List.length_map]
      rfl
    · show (s.arb.waiting.map _).filter _ ≠ [] → _
      rw [filter_starve, ne_eq, List.map_eq_nil_iff]
      exact id
  · exact h.1.offer c _ _

theorem Steady.underrunExpires (h : Steady s) : Steady (underrunExpires s c) :=
  Steady.ite _ (fun _ => (h.1.neutral (Neutral.modCh s c _ rfl rfl)).offer c _ _) fun _ => h

end

/-! ### The hall lines (R147 to R153, R176, R177) -/

section
variable {s : State}

theorem Steady.alarmRawChange (h : Steady s) (line : LineNo) (level : Bool) : Steady (alarmRawChange s line level) := by
  have h0 := h.neutral (modLine_neutral s line fun l => l.setRaw level)
  exact Steady.ite _ (fun _ => h) fun _ => Steady.ite _ (fun _ => h0.offerAlarm _ _ _) fun _ => h0

theorem Steady.alarmDebounceExpires (h : Steady s) (line : LineNo) : Steady (alarmDebounceExpires s line) :=
  Steady.ite _ (fun _ => h) fun _ =>
    (h.neutral ((modLine_neutral s line _).trans (reportPart_neutral _ _))).followCover _ _

theorem InPlace.emptyCollections (h : InPlace s) : InPlace (emptyCollections s) :=
  ⟨fun _ => .of_none rfl, fun hs => ⟨fun _ => rfl, (h.paused hs).2⟩⟩

theorem InPlace.offerHallStop (l : List Ch) (h : InPlace s) : InPlace (offerHallStop s l).1 := by
  induction l generalizing s with
  | nil => exact h
  | cons c l ih => exact ih (h.offerOne c _ _)

theorem InPlace.passHallStop (newly l : List Ch) (h : InPlace s) : InPlace (passHallStop newly s l) := by
  induction l generalizing s with
  | nil => exact h
  | cons c l ih =>
    refine ih ?_
    split
    · exact h.offerOne _ _ _
    · exact h

theorem InPlace.hallStopActs (h : InPlace s) : Steady (hallStopActs s) :=
  (((h.emptyCollections.neutral (reportPart_neutral _ _)).offerHallStop _).passHallStop _ _).settle

/-! ### Pausing the hall (R170) -/

theorem addCause_places {c : Ch} (cause : HoldCause) (h : places s c = 0) : places (addCause s c cause) c = 0 := by
  have hidle : ∀ u : State, places u c = 0 → places (if (u.ch c).holds.keepsIdle then idleGrant u c else u) c = 0 := by
    intro u hu
    split
    · obtain ⟨hg, hw, hr⟩ := idleGrant_mono (s := u) (c := c)
      unfold places at hu ⊢
      rw [hw, hr]
      omega
    · exact hu
  by_cases hc : (s.ch c).state.holdable = true
  · by_cases hh : (s.ch c).state = .held
    · rw [addCause_held hh]; exact hidle _ h
    · rw [addCause_free hc hh]
      refine hidle _ ?_
      unfold holdOf
      rw [places_congr (issue_arb _ c)]
      have hw : hasWaiting (s.modCh c Channel.stopTimers) c = false := by
        rw [Bool.eq_false_iff, ne_eq, hasWaiting_iff, not_not]
        have hlen : (waitsOf s c).length = 0 := by unfold places at h; omega
        exact List.length_eq_zero_iff.1 hlen
      have hsame : withdrawWaiting (s.modCh c Channel.stopTimers) c = s.modCh c Channel.stopTimers := if_neg (by simp [hw])
      have hgrants := modGrant_grantsOf (s.modCh c Channel.stopTimers) c (fun g => { g with live := false }) fun _ => rfl
      show (grantsOf (grantNotLive (withdrawWaiting (s.modCh c Channel.stopTimers) c) c) c).length + (waitsOf _ c).length +
        (resumesOf _ c).length = 0
      rw [hsame]
      have hlen := congrArg List.length hgrants
      rw [List.length_map] at hlen
      exact (congrArg (· + (waitsOf s c).length + (resumesOf s c).length) hlen).trans h
  · rw [addCause_other (by simpa using hc)]; exact h

/-- The pausing of each channel in turn, with nothing in the collections (R170 step 4). -/
theorem pauseAll_spec (l : List Ch) (h : ∀ c, places s c = 0) :
    (∀ c, places (pauseAll s l) c = 0) ∧ (pauseAll s l).hall = s.hall ∧
      ∀ c, ((s.ch c).state.holdable = false → (pauseAll s l).ch c = s.ch c ∨ OnlyPort (s.ch c) ((pauseAll s l).ch c)) ∧
        ((s.ch c).state.holdable = true → ((pauseAll s l).ch c).state.holdable = true) ∧
        (c ∈ l ∧ (s.ch c).state.holdable = true ∨ (s.ch c).state = .held ∧ (s.ch c).holds.pause = true →
          ((pauseAll s l).ch c).state = .held ∧ ((pauseAll s l).ch c).holds.pause = true) := by
  induction l generalizing s with
  | nil => exact ⟨h, rfl, fun c => ⟨fun _ => .inl rfl, id, fun hc => hc.resolve_left fun e => by cases e.1⟩⟩
  | cons d l ih =>
    have hacts := addCause_acts s d .pause
    obtain ⟨hplaces, hhall, hch⟩ := ih (s := addCause s d .pause) fun c => by
      by_cases e : c = d
      · subst e; exact addCause_places .pause (h c)
      · rw [hacts.places_other e]; exact h c
    have hcons : pauseAll s (d :: l) = pauseAll (addCause s d .pause) l := rfl
    rw [hcons]
    refine ⟨hplaces, hhall.trans hacts.hall, fun c => ?_⟩
    obtain ⟨h1, h2, h3⟩ := hch c
    by_cases e : c = d
    · subst e
      by_cases hc : (s.ch c).state.holdable = true
      · obtain ⟨hstate, hholds⟩ := addCause_ch (cause := .pause) hc
        have hpaused : ((addCause s c .pause).ch c).holds.pause = true := by rw [hholds]; rfl
        exact ⟨fun e => absurd (hc.symm.trans e) (by decide), fun _ => h2 (by rw [hstate]; rfl), fun _ => h3 (.inr ⟨hstate, hpaused⟩)⟩
      · have hsame : addCause s c .pause = s := addCause_other (by simpa using hc)
        rw [hsame] at h1 h2 h3 ⊢
        refine ⟨h1, h2, fun x => ?_⟩
        exact absurd (x.elim And.right fun y => by rw [y.1]; rfl) hc
    · have hleaves : OnlyPort (s.ch c) ((addCause s d .pause).ch c) := hacts.chans c e
      have hst := OnlyPort.state hleaves
      have hho : ((addCause s d .pause).ch c).holds = (s.ch c).holds := by rw [hleaves]
      rw [hst] at h1 h2 h3
      rw [hho] at h3
      refine ⟨fun x => .inr ?_, h2, fun x => h3 (x.imp_left fun y => ⟨(List.mem_cons.1 y.1).resolve_left e, y.2⟩)⟩
      rcases h1 x with h1 | h1
      · exact hleaves.trans (h1 ▸ OnlyPort.refl _)
      · exact hleaves.trans h1

theorem pauseOrder_nodup (h : Placed s) : ((pauseOrderOf s).map PauseEntry.ch).Nodup := by
  have hwaits : (((allCh.map fun c => (s.arb.waiting.filter fun e => e.ch = c).map fun e =>
      (⟨e.ch, .waiting, e.dir, e.claim⟩ : PauseEntry)).flatten).map PauseEntry.ch) = (allCh.map fun c =>
        (waitsOf s c).map Entry.ch).flatten := by
    rw [List.map_flatten, List.map_map]
    congr 1
    exact List.map_congr_left fun c _ => by simp only [Function.comp, List.map_map]; rfl
  have hof : ∀ c, ∀ d ∈ (waitsOf s c).map Entry.ch, d = c := fun c d hd => by
    obtain ⟨e, he, rfl⟩ := List.mem_map.1 hd
    exact (mem_waitsOf.1 he).2
  have hnd : ((allCh.map fun c => (waitsOf s c).map Entry.ch).flatten).Nodup := by
    rw [List.nodup_flatten]
    constructor
    · intro l hl
      obtain ⟨c, -, rfl⟩ := List.mem_map.1 hl
      have hlen : ((waitsOf s c).map Entry.ch).length ≤ 1 := by
        have := (h c).once
        unfold places at this
        rw [List.length_map]
        omega
      match hlist : (waitsOf s c).map Entry.ch, hlen with
      | [], _ => exact List.nodup_nil
      | [_], _ => exact List.nodup_singleton _
      | _ :: _ :: _, hlen => simp at hlen
    · rw [List.pairwise_map]
      refine List.Pairwise.imp (fun {a b} hab => ?_) (show allCh.Nodup by decide)
      exact fun d hd hd' => hab ((hof a d hd).symm.trans (hof b d hd'))
  rw [pauseOrderOf, List.map_append, List.map_append, hwaits, List.nodup_iff_count_le_one]
  intro c
  have hgrants : ((s.arb.grants.map fun g => (⟨g.ch, .grant, g.dir, g.amount⟩ : PauseEntry)).map PauseEntry.ch).count c =
      (grantsOf s c).length := by
    rw [List.map_map, List.count, List.countP_map, List.countP_eq_length_filter]
    exact congrArg List.length (List.filter_congr fun g _ => beq_eq_decide ..)
  have hresumes : ((s.arb.resume.map fun e => (⟨e.ch, .resume, e.dir, e.claim⟩ : PauseEntry)).map PauseEntry.ch).count c =
      (resumesOf s c).length := by
    rw [List.map_map, List.count, List.countP_map, List.countP_eq_length_filter]
    exact congrArg List.length (List.filter_congr fun g _ => beq_eq_decide ..)
  rw [List.count_append, List.count_append, hgrants, hresumes]
  have hone := List.nodup_iff_count_le_one.1 hnd c
  have hplace := (h c).once
  unfold places at hplace
  by_cases hmem : c ∈ (allCh.map fun c => (waitsOf s c).map Entry.ch).flatten
  · obtain ⟨l, hl, hc⟩ := List.mem_flatten.1 hmem
    obtain ⟨d, -, rfl⟩ := List.mem_map.1 hl
    obtain rfl := hof d c hc
    have hpos : 0 < (waitsOf s c).length := by
      rw [← List.length_map (f := Entry.ch)]
      exact List.length_pos_of_mem hc
    omega
  · rw [List.count_eq_zero_of_not_mem hmem]
    omega

theorem InPlace.pauseHall (h : InPlace s) : Steady (pauseHall s) := by
  unfold Machine.pauseHall
  refine (InPlace.settle (s := pauseAll _ allCh) ?_).neutral (settlingTest_neutral _)
  obtain ⟨hplaces, hhall, hch⟩ := pauseAll_spec (s := enterHall (Machine.emptyCollections (s.modHall fun x =>
    { x with pauseOrder := pauseOrderOf s })) .pausing .pauseHall (some (pauseOrderOf s)) none) allCh fun c => rfl
  refine ⟨fun c => .of_none (hplaces c), fun _ => ⟨hplaces, ?_, fun c hc => ?_⟩⟩
  · rw [hhall]
    exact pauseOrder_nodup h.placed
  · obtain ⟨h1, h2, h3⟩ := hch c
    by_cases hs : (s.ch c).state.holdable = true
    · exact h3 (.inl ⟨mem_allCh c, hs⟩)
    · have hs' : (s.ch c).state.holdable = false := by simpa using hs
      rcases h1 hs' with e | e
      · rw [e] at hc; exact absurd hc hs
      · rw [OnlyPort.state e] at hc; exact absurd hc hs

/-! ### Waking the hall (R173) -/

theorem appendResume_placed {c : Ch} (dir : Direction) (claim : Nat) (h : Placed s) (hp : places s c = 0)
    (hs : (s.ch c).state.holdable = true) : Placed (appendResume s c dir claim) := by
  refine h.acts (appendResume_acts s c dir claim) (.of_unwaiting ?_ ?_ hs)
  · have hr := congrArg List.length (appendResume_resumesOf s c dir claim)
    rw [List.length_append, List.length_singleton] at hr
    have hg : grantsOf (appendResume s c dir claim) c = grantsOf s c := rfl
    have hw : waitsOf (appendResume s c dir claim) c = waitsOf s c := rfl
    unfold places at *
    rw [hg, hw, hr]
    omega
  · show waitsOf s c = []
    unfold places at hp
    exact List.length_eq_zero_iff.1 (by omega)

theorem appendAll_placed {l : List PauseEntry} (h : Placed s) (hnd : (l.map PauseEntry.ch).Nodup)
    (hl : ∀ e ∈ l, places s e.ch = 0 ∧ (s.ch e.ch).state.holdable = true) :
    Placed (appendAll s l) ∧ (appendAll s l).hall = s.hall ∧ ∀ c, (appendAll s l).ch c = s.ch c := by
  induction l generalizing s with
  | nil => exact ⟨h, rfl, fun _ => rfl⟩
  | cons e l ih =>
    rw [List.map_cons, List.nodup_cons] at hnd
    obtain ⟨hp, hs⟩ := hl e List.mem_cons_self
    have hacts := appendResume_acts s e.ch e.dir e.amount
    exact ih (appendResume_placed e.dir e.amount h hp hs) hnd.2 fun x hx => by
      rw [hacts.places_other fun hxe => hnd.1 (List.mem_map.2 ⟨x, hx, hxe⟩)]
      exact hl x (List.mem_cons_of_mem _ hx)

theorem unpauseAll_placed (l : List Ch) (h : Placed s) : Placed (unpauseAll s l) ∧ (unpauseAll s l).hall = s.hall := by
  induction l generalizing s with
  | nil => exact ⟨h, rfl⟩
  | cons c l ih =>
    have hacts := removeCauses_acts s c fun x => x.drop .pause
    obtain ⟨hp, hh⟩ := ih (h.acts hacts ((h c).removeCauses _))
    exact ⟨hp, hh.trans hacts.hall⟩

theorem InPlace.wakeHall (h : InPlace s) (hs : s.hall.state ≠ .active) (cause : HallCause) : Steady (wakeHall s cause) := by
  obtain ⟨hplaces, hnd, -⟩ := h.paused hs
  unfold Machine.wakeHall
  refine (InPlace.settleEvaluating ?_).neutral (reportPart_neutral _ _)
  obtain ⟨hp, hh, hch⟩ := appendAll_placed (s := s.modHall fun x => { x with state := .active, wakeTimer := none, pauseOrder := [] })
    (l := stillNeeded s s.hall.pauseOrder) (fun c => .of_none (hplaces c))
    (hnd.sublist (List.filter_sublist.map _)) fun e he => ⟨hplaces e.ch, (List.mem_filter.1 he).2⟩
  obtain ⟨hp', hh'⟩ := unpauseAll_placed allCh hp
  exact ⟨hp', fun e => absurd (by rw [hh', hh]; rfl) e⟩

theorem Steady.wakeTimerExpires (h : Steady s) : Steady (wakeTimerExpires s) := by
  have h0 : Neutral s (s.modHall fun x => { x with wakeTimer := none }) :=
    ⟨rfl, rfl, Iff.rfl, rfl, fun _ => ⟨id, fun _ => ⟨rfl, id⟩⟩⟩
  exact Steady.ite _ (fun _ => h) fun _ =>
    Steady.ite _ (fun hs => (h.1.neutral h0).wakeHall hs.1 _) fun _ => h.neutral h0

theorem Steady.curtailChanges (h : Steady s) : Steady (curtailChanges s) := by
  have halike : ∀ body, InPlace (reportPart (s.modHall fun x => { x with curtFiltered := s.hall.curtRaw, curtTimer := none }) body) :=
    fun body => h.1.alike (fun _ => rfl) (fun _ => id) ⟨Iff.rfl, rfl, fun _ => ⟨id, fun _ => ⟨rfl, id⟩⟩⟩
  have hsettled : ∀ body, Steady (if cEffOf s < cEffOf (s.modHall fun x =>
        { x with curtFiltered := s.hall.curtRaw, curtTimer := none }) then
      Machine.settleEvaluating (reportPart (s.modHall fun x => { x with curtFiltered := s.hall.curtRaw, curtTimer := none }) body)
    else if cEffOf (s.modHall fun x => { x with curtFiltered := s.hall.curtRaw, curtTimer := none }) < cEffOf s then
      Machine.settle (reportPart (s.modHall fun x => { x with curtFiltered := s.hall.curtRaw, curtTimer := none }) body)
    else reportPart (s.modHall fun x => { x with curtFiltered := s.hall.curtRaw, curtTimer := none }) body) := fun body => by
    refine Steady.ite _ (fun _ => (halike body).settleEvaluating) fun h1 =>
      Steady.ite _ (fun _ => (halike body).settle) fun h2 => ⟨halike body, ?_, h.2.2⟩
    have heq : cEffOf (s.modHall fun x => { x with curtFiltered := s.hall.curtRaw, curtTimer := none }) = cEffOf s := by omega
    exact (testsHold_congr (s := s) (t := reportPart (s.modHall fun x =>
      { x with curtFiltered := s.hall.curtRaw, curtTimer := none }) body) rfl rfl heq).trans h.2.1
  exact Steady.ite _ (fun hw => (hsettled _).1.wakeHall hw.2.2 _) fun _ => hsettled _

theorem Steady.modHall {f : Hall → Hall} (h : Steady s) (h1 : (f s.hall).state = s.hall.state)
    (h2 : (f s.hall).pauseOrder = s.hall.pauseOrder) (h3 : (f s.hall).curtFiltered = s.hall.curtFiltered) :
    Steady (s.modHall f) :=
  h.neutral ⟨rfl, h3, by rw [show (s.modHall f).hall.state = s.hall.state from h1], h2, fun _ => ⟨id, fun _ => ⟨rfl, id⟩⟩⟩

theorem Steady.curtailFollows (h : Steady s) : Steady (curtailFollows s) :=
  Steady.ite _ (fun _ => h.modHall rfl rfl rfl) fun _ => Steady.ite _ (fun _ => h.curtailChanges) fun _ => h.modHall rfl rfl rfl

/-- Every event that acts only in READY keeps the arbiter in place, both tests holding and no evaluation due. -/
theorem eventAct_steady {i : Instr} {f : State → State} (hf : eventAct i = some f) (h : Steady s) : Steady (f s) := by
  cases i with
  | lineBreakEnd c => cases hf; exact Steady.ite _ (fun _ => h.neutral (.modPort s c _)) fun _ => h
  | stageFrameWhollySent c => cases hf; exact h.neutral (.modCh s c _ rfl rfl)
  | confirm c tag => cases hf; exact h.neutral (confirmArrives_neutral c s tag)
  | reading c after raw => cases hf; exact h.readingArrives c after raw
  | stageBadFrame c _ => cases hf; exact h.neutral (.modPort s c _)
  | stageByteGapTimeout c => cases hf; exact h.neutral (.modPort s c _)
  | confirmationTimerExpiry c => cases hf; exact h.confirmationExpires c
  | periodEvent c => cases hf; exact Steady.ite _ (fun _ => h) fun _ => h.periodEventOf c
  | gapTimerExpiry c => cases hf; exact h.gapTimerExpires c
  | startTimerExpiry c => cases hf; exact h.startTimerExpires c
  | grantHoldExpiry c => cases hf; exact h.grantHoldExpires c
  | waitTimerExpiry c => cases hf; exact h.waitTimerExpires c
  | underrunTimerExpiry c => cases hf; exact h.underrunExpires c
  | hallStopAssert =>
    cases hf
    exact Steady.ite _ (fun _ => h) fun _ =>
      (h.1.neutral (t := s.modProt fun p => { p with hallStop := true }) (.of_chans rfl rfl rfl)).hallStopActs
  | hallStopDeassert => cases hf; exact Steady.ite _ (fun _ => h.neutral (.of_chans rfl rfl rfl)) fun _ => h
  | chamberAlarmLineChange line level => cases hf; exact h.alarmRawChange line level
  | alarmDebounceExpiry line => cases hf; exact h.alarmDebounceExpires line
  | curtailmentLineChange level =>
    cases hf
    exact Steady.ite _ (fun _ => h) fun _ => (h.modHall rfl rfl rfl).curtailFollows
  | curtailDebounceExpiry => cases hf; exact Steady.ite _ (fun _ => h) fun _ => h.curtailChanges
  | wakeTimerExpiry => cases hf; exact h.wakeTimerExpires
  | _ => cases hf

end

end Sys2Proof.Machine
end

section
/-! PROOF. O57, concluded: the requests, the end of start-up, the passing of time, and every step. -/
namespace Sys2Proof.Machine
open Sys2Proof.Safety

section
variable {s : State}

/-! ### The requests -/

theorem setSettings_steady (h : Steady s) (c : Ch) (x : ChanSettings) : Steady (setSettings s c x) := by
  rw [setSettings_eq]
  have h0 := h.neutral (Neutral.modCh s c (fun ch => { ch with settings := x, play := takenPlay (s.ch c) x }) rfl rfl)
  exact ⟨h0.1.alike (fun _ => rfl) (fun _ => id) ⟨Iff.rfl, rfl, fun _ => ⟨id, fun _ => ⟨rfl, id⟩⟩⟩,
    (testsHold_congr rfl rfl rfl).trans h0.2.1, h0.2.2⟩

/-- A channel in IDLE or COMPLETE is in no collection. -/
theorem InPlace.free (h : InPlace s) {c : Ch} (hc : (s.ch c).state = .idle ∨ (s.ch c).state = .complete) :
    places s c = 0 := h.unlisted (by rcases hc with hc | hc <;> rw [hc] <;> rfl)

theorem waitsOf_free {c : Ch} (h : places s c = 0) : waitsOf s c = [] := by
  unfold places at h
  exact List.length_eq_zero_iff.1 (by omega)

theorem InPlace.startBegin (h : InPlace s) {c : Ch} (hs : s.hall.state = .active) (hc : places s c = 0) :
    Steady (startBegin s c) := by
  have hbegun : AtPlace (s.modCh c Channel.beginRun) c := .of_none hc
  have hwaits : waitsOf (prepareStep (s.modCh c Channel.beginRun) c 0 false) c = [] := by
    unfold waitsOf
    rw [prepareStep_waiting]
    exact waitsOf_free hc
  exact (h.acts_active (((ActsOn.modCh c s _).trans (prepareStep_acts _ c 0 false)).trans (beginStep_acts _ c))
    ((hbegun.prepareStep 0 false).beginStep hwaits) hs).settle

theorem InPlace.startResume (h : InPlace s) {c : Ch} (hs : s.hall.state = .active) (hc : places s c = 0) (p : ResumePoint) :
    Steady (startResume s c p) := by
  have hresumed : ∀ t : State, ActsOn c s t → places t c = 0 → Steady (Machine.settle (beginResumed t c)) := fun t ha hp =>
    (h.acts_active (ha.trans (beginResumed_acts t c)) (AtPlace.beginResumed (.of_none hp) (waitsOf_free hp)) hs).settle
  have h0 := ActsOn.modCh c s fun ch => ch.restore p
  unfold Machine.startResume
  dsimp only
  split
  · split
    · exact hresumed _ (h0.trans (ActsOn.modCh c _ _)) hc
    · exact hresumed _ h0 hc
  · exact hresumed _ h0 hc

theorem Steady.coverStarted (h : Steady s) (c : Ch) : Steady (coverStarted s c) :=
  Steady.ite _ (fun _ => h.1.holdChannel c .chamber) fun _ => h

theorem takeStart_steady (r : Request) (h : Steady s) : Steady (takeStart r s).1 := by
  refine takeCh_ind (P := Steady) _ _ _ _ h fun c => ?_
  dsimp only
  split
  · exact h
  · rename_i hr
    obtain ⟨-, -, hactive, -, hstate, -⟩ := startRefusal_none hr
    have hfree := h.1.free (hstate.imp_right And.right)
    split
    · exact h
    · split
      · exact h
      · split
        · exact (h.1.startResume hactive hfree _).coverStarted c
        · exact (h.1.startBegin hactive hfree).coverStarted c

theorem takeStop_steady (r : Request) (h : Steady s) : Steady (takeStop r s).1 := by
  refine takeCh_ind (P := Steady) _ _ _ _ h fun c => ?_
  dsimp only
  split
  · exact h
  · exact h
  · exact h
  · exact h
  · exact h
  · exact h.1.stopChannel c

theorem takeSetAlarmRoute_steady (r : Request) (h : Steady s) : Steady (takeSetAlarmRoute r s).1 := by
  refine takePart_ind (P := Steady) _ _ _ _ h ?_
  dsimp only
  split
  · split
    · exact h
    · rename_i line _ route _
      dsimp only
      have h0 : ∀ x, Steady (s.modLine ⟨field r.body 0 1, line⟩ fun l => { l with settings := x }) := fun x =>
        h.neutral (modLine_neutral s _ _)
      have h1 : ∀ (t : State) (p : Prop) [Decidable p] (b : Ch → Bool), Steady t →
          Steady (if p then followCover b t allCh else t) := fun t p _ b ht =>
        Steady.ite p (fun _ => ht.followCover b allCh) fun _ => ht
      have h2 : ∀ (t : State) (p : Prop) [Decidable p] (l : LineNo) (b : Ch → Bool), Steady t →
          Steady (if p then offerAlarm l b t allCh else t) := fun t p _ l b ht =>
        Steady.ite p (fun _ => ht.offerAlarm l b allCh) fun _ => ht
      exact h2 _ _ _ _ (h1 _ _ _ (h0 _))
  · exact h

theorem clearKinds_neutral (s : State) (c : Ch) (x : BitVec 16) : Neutral s (clearKinds s c x) := by
  have hrest := clearKinds_rest s c x
  refine ⟨by rw [hrest], by rw [hrest], by rw [hrest], by rw [hrest], fun d => ?_⟩
  by_cases hd : d = c
  · subst hd
    rw [clearKinds_ch]
    dsimp only
    split
    · rename_i hf
      rw [hf.2]
      exact ⟨nofun, nofun⟩
    · exact ⟨id, fun _ => ⟨rfl, id⟩⟩
  · rw [clearKinds_other s c d x hd]
    split <;> exact ⟨id, fun _ => ⟨rfl, id⟩⟩

theorem formPair_neutral {l : Ch} (hf : (s.ch (partner l)).state = .idle) : Neutral s (formPair s l) := by
  have h0 := Neutral.modCh s l (fun ch => { ch with resume := none, packDone := false }) rfl rfl
  refine h0.trans (.modCh_still _ (partner l) _ ?_ rfl)
  rw [State.ch_modCh_ne _ (partner_ne l), hf]
  rfl

theorem partPair_neutral {l : Ch} (hf : (s.ch (partner l)).state = .follower) : Neutral s (partPair s l) := by
  have h0 := Neutral.modCh s l (fun ch => { ch with resume := none }) rfl rfl
  refine (h0.trans (.modCh_still _ (partner l) (fun ch => { ch with state := .idle }) ?_ rfl)).trans (openPeriod_neutral _ _ _)
  rw [State.ch_modCh_ne _ (partner_ne l), hf]
  rfl

theorem reoffer_steady (h : Steady s) (c : Ch) : Steady (reoffer s c) := by
  have h0 : Steady (if (s.ch c).unsafeFlag then
      offerUnsafe { s with freeCount := s.freeCount + 1 } c (reofferTag s c) else s) :=
    Steady.ite _ (fun _ => (h.1.neutral (t := { s with freeCount := s.freeCount + 1 }) (.of_chans rfl rfl rfl)).offerUnsafe c _)
      fun _ => h
  unfold reoffer
  dsimp only
  split
  · have h1 := h0.1.offer c .chamberAlarm (‹LineNo›.val : Int)
    exact Steady.ite _ (fun _ => h1.1.offer c _ _) fun _ => h1
  · exact Steady.ite _ (fun _ => h0.1.offer c _ _) fun _ => h0

theorem reofferAll_steady (l : List Ch) {s : State} (h : Steady s) : Steady (l.foldl reoffer s) := by
  induction l generalizing s with
  | nil => exact h
  | cons c l ih => exact ih (reoffer_steady h c)

/-- A channel withdrawn from every collection. -/
theorem InPlace.withdraw (h : InPlace s) (c : Ch) : InPlace (withdrawEntries (Machine.releaseGrant s c) c) := by
  have hacts := (releaseGrant_acts s c).trans (withdrawEntries_acts _ c)
  refine h.acts hacts (.of_none places_withdraw) fun hs => ⟨places_withdraw, fun hc => ?_⟩
  have hchans : (withdrawEntries (Machine.releaseGrant s c) c).chans = s.chans := by
    unfold withdrawEntries withdrawWaiting Machine.releaseGrant
    dsimp only
    repeat' split
    all_goals rfl
  rw [State.ch, hchans] at hc ⊢
  exact (h.paused hs).2.2 c hc

theorem resetChannel_steady (h : Steady s) (c : Ch) : Steady (resetChannel s c) := by
  have h0 := h.1.withdraw c
  have hp : places (withdrawEntries (releaseGrant s c) c) c = 0 := places_withdraw
  unfold resetChannel
  dsimp only
  generalize withdrawEntries (releaseGrant s c) c = t at h0 hp
  have hstop : ∀ u : State, Neutral t u → Steady (settle (enterStopping (u.modCh c Channel.clearRun) c .idle true)) :=
    fun u hu => by
      refine InPlace.settle ((h0.neutral hu).leaves ((ActsOn.modCh c u _).trans (enterStopping_acts _ c _ _)) ?_
        (enterStopping_state _ c _ _))
      rw [places_congr (enterStopping_arb _ c _ _)]
      exact (places_congr hu.arb).trans hp
  refine reofferAll_steady _ (hstop _ ?_)
  exact .ite _ (.modCh t _ _ rfl rfl) (.refl t)

/-- The taking of a request of any kind keeps the arbiter in place, both tests holding and no evaluation due. -/
theorem takeKind_steady (k : ReqKind) (r : Request) (h : Steady s) : Steady (takeKind k r s).1 := by
  have hstill : ∀ t : State, t.chans = s.chans → t.arb = s.arb → t.hall = s.hall → Steady t :=
    fun t hc ha hh => h.neutral (.of_chans hc ha hh)
  have hsame : ∀ (c : Ch) (f : Channel → Channel), (∀ ch, (f ch).state = ch.state ∧ (f ch).holds = ch.holds) →
      Steady (s.modCh c f) := fun c f hf => h.neutral (.modCh s c f (hf _).1 (hf _).2)
  have hpart : ∀ (k : ReqKind) (f : State → State × ReplyBody), Steady (f s).1 → Steady (takePart k r s f).1 :=
    fun k f hf => takePart_ind (P := Steady) k r s f h hf
  have hch : ∀ (k : ReqKind) (f : Ch → State → State × ReplyBody), (∀ c, Steady (f c s).1) → Steady (takeCh k r s f).1 :=
    fun k f hf => takeCh_ind (P := Steady) k r s f h hf
  cases k <;> unfold takeKind <;> dsimp only
  case identify => exact hpart _ _ h
  case getStatus =>
    refine hpart _ _ ?_
    dsimp only
    split
    · exact hstill _ rfl rfl rfl
    · exact h
  case getBudget => exact hpart _ _ h
  case setBudget =>
    have halike : InPlace (s.modArb fun a => { a with budget := (budgetPatch r.body).apply a.budget }) :=
      h.1.alike (fun _ => rfl) (fun _ => id) ⟨Iff.rfl, rfl, fun _ => ⟨id, fun _ => ⟨rfl, id⟩⟩⟩
    exact hpart _ _ halike.settleEvaluating
  case setAlarmRoute => exact takeSetAlarmRoute_steady r h
  case pauseHall =>
    refine hpart _ _ ?_
    dsimp only
    split
    · exact h.1.pauseHall
    · exact h
  case resumeHall =>
    refine hpart _ _ ?_
    dsimp only
    split
    · exact h
    · exact h.1.wakeHall ‹_› .host
  case setWake =>
    refine hpart _ _ ?_
    dsimp only
    exact h.modHall rfl rfl rfl
  case holdReports => exact hpart _ _ (hstill _ rfl rfl rfl)
  case saveSettings =>
    refine hpart _ _ ?_
    dsimp only
    repeat' split
    · exact h
    · exact h
    all_goals exact hstill _ rfl rfl rfl
  case resetPart => exact hpart _ _ (hstill _ rfl rfl rfl)
  case writeSteps =>
    refine hpart _ _ ?_
    dsimp only
    repeat' split
    · exact h
    · exact h
    · exact h
    · exact hstill _ rfl rfl rfl
  case readSteps =>
    refine hpart _ _ ?_
    dsimp only
    split <;> exact h
  case setWindow =>
    refine hch _ _ fun c => ?_
    dsimp only
    repeat' split
    all_goals first | exact h | (dsimp only; exact hsame c _ fun _ => ⟨rfl, rfl⟩)
  case getChannel =>
    refine hch _ _ fun c => ?_
    split <;> exact h
  case setChannel =>
    refine hch _ _ fun c => ?_
    dsimp only
    repeat' split
    · exact h
    · exact h
    · exact h
    · exact setSettings_steady h c _
  case setCalibration =>
    refine hch _ _ fun c => ?_
    dsimp only
    exact hsame c _ fun _ => ⟨rfl, rfl⟩
  case start => exact takeStart_steady r h
  case stop => exact takeStop_steady r h
  case hold =>
    refine hch _ _ fun c => ?_
    split
    · exact h
    · exact Steady.ite _ (fun _ => h) fun _ => h.1.holdChannel c .host
  case release =>
    refine hch _ _ fun c => ?_
    split
    · exact h
    · exact h.1.unholdChannel c fun _ hx => hx
  case swap =>
    refine hch _ _ fun c => ?_
    dsimp only
    repeat' split
    all_goals first | exact h | (dsimp only; exact hsame c _ fun _ => ⟨rfl, rfl⟩)
  case cancelSwap =>
    refine hch _ _ fun c => ?_
    split
    · exact h
    · dsimp only
      exact hsame c _ fun _ => ⟨rfl, rfl⟩
  case profileAppend =>
    have happend : ∀ (c : Ch) points, Steady (s.modCh c fun ch => ch.append points) := fun c points =>
      hsame c _ fun ch => by unfold Channel.append; split <;> exact ⟨rfl, rfl⟩
    refine hch _ _ fun c => ?_
    dsimp only
    repeat' split
    · exact h
    · exact h
    · exact h
    · exact happend c _
    · exact happend c _
  case profileFlush =>
    refine hch _ _ fun c => ?_
    dsimp only
    repeat' split
    · exact h
    · exact h
    · dsimp only
      exact hsame c _ fun _ => ⟨rfl, rfl⟩
  case clearFaults => exact hch _ _ fun c => h.neutral (clearKinds_neutral s c _)
  case readAccounts => exact hch _ _ fun c => h
  case clearLifetime =>
    refine hch _ _ fun c => ?_
    repeat' split
    · exact h
    · exact h
    · dsimp only
      exact hsame c _ fun _ => ⟨rfl, rfl⟩
  case setPair =>
    refine hch _ _ fun c => ?_
    dsimp only
    split
    · exact h
    · split
      · exact h
      · rename_i hs
        rw [not_or, not_not, not_not] at hs
        exact h.neutral (formPair_neutral hs.2)
  case unpair =>
    refine hch _ _ fun c => ?_
    dsimp only
    split
    · exact h
    · rename_i hlead
      split
      · exact h
      · exact h.neutral (partPair_neutral ((isLeader_iff s _).1 (by simpa using hlead)).2)
  case resetChannel => exact hch _ _ fun c => resetChannel_steady h _
  case resetStageLine =>
    refine hch _ _ fun c => ?_
    dsimp only
    split
    · exact h
    · exact h.neutral ((Neutral.modCh s c _ rfl rfl).trans (settlingTest_neutral _))

/-! ### The end of start-up (R195) -/

theorem watchLines_steady (h : Steady s) : Steady (watchLines s) := by
  have hlines : ∀ (l : List LineNo) (u : State), Steady u → Steady (l.foldl watchLine u) := by
    intro l
    induction l with
    | nil => exact fun u hu => hu
    | cons line l ih =>
      exact fun u hu => ih _ (Steady.ite _ (fun _ => (hu.neutral (modLine_neutral u line _)).alarmRawChange line true) fun _ => hu)
  exact (hlines allLines _ (Steady.ite _ (fun _ => h.1.hallStopActs) fun _ => h)).curtailFollows

theorem endStartUp_steady (h : Steady s) (hidle : ∀ c, (s.ch c).state = .idle) : Steady (endStartUp s) := by
  have hneutral : Neutral s (beforeWatch s) := by
    have hrest := beforeWatch_rest s
    refine ⟨by rw [hrest], by rw [hrest], by rw [hrest], by rw [hrest], fun c => ?_⟩
    rw [beforeWatch_state, hidle]
    refine ⟨fun e => ?_, nofun⟩
    split at e <;> cases e
  have hreport : ∀ u : State, Neutral u (reportStarted u) := fun u => by
    unfold reportStarted
    split
    · exact (reportPart_neutral u _).trans (reportPart_neutral _ _)
    · exact reportPart_neutral u _
  have hready : ∀ u : State, Neutral u { u with part := .ready } := fun u => .of_chans rfl rfl rfl
  rw [endStartUp_eq]
  exact ((watchLines_steady (h.neutral hneutral)).neutral (hreport _)).neutral (hready _)

/-! ### Every step -/

theorem pump_neutral (s : State) : Neutral s (pump s) := by
  rw [pump_eq]
  exact .of_chans rfl rfl rfl

theorem finish_neutral (before s : State) : Neutral s (finish before s) := by
  obtain ⟨u, hu, heq⟩ := finish_link (s := before) (t := s)
  rw [heq]
  refine Neutral.trans (.of_ch hu.arb hu.hall fun c => ?_) (pump_neutral u)
  rw [hu.chans c]
  exact ⟨rfl, rfl⟩

theorem exec_steady {i : Instr} {t : State} (hf : FaultsSound s) (h : Steady s) (hi : exec i s = .next t) : Steady t := by
  have hon : ∀ part cause loaded speed image lines hallStop curtailment freeCount pending,
      Steady (State.powerOn part cause loaded speed image lines hallStop curtailment freeCount pending) :=
    fun _ _ _ _ _ _ _ _ _ _ => (arbiterSound_iff _).1 (powerOn_arbiterSound _ _ _ _ _ _ _ _ _ _)
  cases happens_of_exec hi with
  | link l => exact h.neutral (.of_chans rfl rfl rfl)
  | event f hf hp => exact (eventAct_steady hf h).neutral (finish_neutral s _)
  | request g k l reply hp hk hg =>
    have hlink : Steady { s with link := l } := h.neutral (.of_chans rfl rfl rfl)
    exact ((takeKind_steady k _ hlink).neutral (t := State.modLink _ _) (.of_chans rfl rfl rfl)).neutral (finish_neutral s _)
  | hallStopLevel hp x => exact h.neutral (.of_chans rfl rfl rfl)
  | alarmLevel hp line x => exact h.neutral (modLine_neutral s line _)
  | curtailLevel hp x => exact h.modHall rfl rfl rfl
  | saved image l => exact h.neutral (.of_chans rfl rfl rfl)
  | startUp u cause => exact hon _ _ _ _ _ _ _ _ _ _
  | startUpEnd hp => exact (endStartUp_steady h (hf.starting hp)).neutral (pump_neutral _)
  | halt l => exact h.neutral (.of_chans rfl rfl rfl)
  | off => exact hon _ _ _ _ _ _ _ _ _ _

theorem tick_ch (s : State) (c : Ch) : (tick s).ch c = if s.part = .ready then (s.ch c).tick else s.ch c := by
  unfold tick
  split
  · simp [State.ch]
  · rfl

theorem tick_steady (h : Steady s) : Steady (tick s) := by
  by_cases hp : s.part = .ready
  · have harb : (tick s).arb = s.arb.tick := by rw [tick, if_pos hp]
    have hhall : (tick s).hall = s.hall.tick := by rw [tick, if_pos hp]
    have hgrants : (tick s).arb.grants = s.arb.grants.map fun g => { g with hold := runDown g.hold } := by rw [harb]; rfl
    have hwaits : ∀ c, waitsOf (tick s) c = (waitsOf s c).map fun e => { e with timer := runDown e.timer } := fun c => by
      unfold waitsOf; rw [harb]; exact List.filter_map ..
    have hresumes : ∀ c, resumesOf (tick s) c = (resumesOf s c).map fun e => { e with timer := runDown e.timer } := fun c => by
      unfold resumesOf; rw [harb]; exact List.filter_map ..
    have hgrantsOf : ∀ c, grantsOf (tick s) c = (grantsOf s c).map fun g => { g with hold := runDown g.hold } := fun c => by
      unfold grantsOf; rw [harb]; exact List.filter_map ..
    refine ⟨h.1.alike (fun c => ?_) (fun c => ?_) ⟨by rw [hhall]; rfl, by rw [hhall]; rfl, fun c => ?_⟩, ?_, ?_⟩
    · unfold places
      rw [hwaits, hresumes, hgrantsOf, List.length_map, List.length_map, List.length_map]
    · rw [hwaits, ne_eq, List.map_eq_nil_iff]
      exact id
    · rw [tick_ch, if_pos hp]
      exact ⟨id, fun _ => ⟨rfl, id⟩⟩
    · have ht := h.2.1
      have hceff : cEffOf (tick s) = cEffOf s := by rw [cEffOf, cEffOf, harb, hhall]; rfl
      have hbudget : (tick s).arb.budget = s.arb.budget := by rw [harb]; rfl
      unfold testsHold at ht ⊢
      rw [withinCeilings_iff, intakeOk_iff, returnOk_iff] at ht ⊢
      rw [hgrants, hceff, hbudget, sumsOf_hold]
      exact ht
    · rw [harb]; exact h.2.2
  · have hsame : tick s = s := if_neg hp
    rw [hsame]
    exact h

/-- Where the hall stop line is asserted in READY the collections are empty: every channel is FAULTED or a follower (R106). -/
theorem listed_of_hallStop (hf : FaultsSound s) (h : Steady s) (hp : s.part = .ready) (hs : s.prot.hallStop = true) :
    listed s = [] := by
  refine (listed_nil_iff s).2 fun c => h.1.unlisted ?_
  by_cases hc : (s.ch c).state = .follower
  · rw [hc]; rfl
  · have hlatched : (s.ch c).latched ≠ 0 := fun e => by
      have := hf.hallStop hp hs c
      rw [e, hasKind_zero] at this
      cases this
    rw [(hf.faulted c hc).2 hlatched]
    rfl

end

/-- Settles O57. -/
theorem arbiterStaysSound : Obligations.ArbiterStaysSound := by
  unfold Obligations.ArbiterStaysSound
  intro s t hf ha h
  have hboth : FaultsSound t ∧ Steady t :=
    step_keeps (P := fun u => FaultsSound u ∧ Steady u) ⟨hf, (arbiterSound_iff s).1 ha⟩
      (fun _ b => ⟨⟨b.1.faulted, b.1.first, b.1.noFirst, b.1.follower, b.1.hallStop, b.1.starting⟩,
        b.2.neutral (.of_chans rfl rfl rfl)⟩)
      (fun i u v hu he => ⟨exec_faultsSound hu.1 he, exec_steady hu.1 hu.2 he⟩)
      (fun b => ⟨faultsSound_of_kept b.1 (tick_faultsKept s) fun hp c => by rw [tick, if_neg (by rw [hp]; decide)], tick_steady b.2⟩) h
  exact ⟨(arbiterSound_iff t).2 hboth.2, listed_of_hallStop hboth.1 hboth.2⟩

end Sys2Proof.Machine
end

section
/-! PROOF. The end of an event, and what the arbiter's handling of an event can do to one channel (R89 to R91, R100). -/
namespace Sys2Proof.Machine
open Sys2Proof.Safety

/-! ### The end of an event (R51, R183) -/

/-- What the end of an event leaves: everything but the lengths of open periods and what the transmitter sends. -/
structure Ends (s t : State) : Prop where
  rest : t = { s with chans := t.chans, link := t.link }
  chans : ∀ c, t.ch c = { s.ch c with periodLength := (t.ch c).periodLength }
  requests : t.link.requests = s.link.requests
  counters : t.link.linkErrCount = s.link.linkErrCount ∧ t.link.overrunCount = s.link.overrunCount
  holdTimer : t.link.holdTimer = s.link.holdTimer
  reports : s.link.sending ≠ none → t.link.reports = s.link.reports

section
variable {s t : State}

theorem Ends.part (h : Ends s t) : t.part = s.part := by rw [h.rest]
theorem Ends.image (h : Ends s t) : t.image = s.image := by rw [h.rest]
theorem Ends.saveInFlight (h : Ends s t) : t.saveInFlight = s.saveInFlight := by rw [h.rest]
theorem Ends.pool (h : Ends s t) : t.pool = s.pool := by rw [h.rest]
theorem Ends.arb (h : Ends s t) : t.arb = s.arb := by rw [h.rest]
theorem Ends.prot (h : Ends s t) : t.prot = s.prot := by rw [h.rest]
theorem Ends.hall (h : Ends s t) : t.hall = s.hall := by rw [h.rest]
theorem Ends.pending (h : Ends s t) : t.pending = s.pending := by rw [h.rest]
theorem Ends.line (h : Ends s t) (l : LineNo) : t.line l = s.line l := by rw [State.line, State.line, h.prot]

/-- A figure of a channel that its open period's length is no part of. -/
theorem Ends.get {α : Type} (h : Ends s t) (c : Ch) (g : Channel → α)
    (hg : ∀ ch n, g { ch with periodLength := n } = g ch := by intros; rfl) : g (t.ch c) = g (s.ch c) := by rw [h.chans c, hg]

theorem Ends.ch {c : Ch} {x : Channel} (h : Ends s t) (hx : s.ch c = x) : ∃ n, t.ch c = { x with periodLength := n } :=
  ⟨_, hx ▸ h.chans c⟩

theorem Ends.frame {r : State} (h : Ends s t) (hf : BoardFrame r s) : BoardFrame r t where
  part := h.part.trans hf.part
  image := h.image.trans hf.image
  saveInFlight := h.saveInFlight.trans hf.saveInFlight
  pool := h.pool.trans hf.pool
  budget := by rw [h.arb]; exact hf.budget
  prot := h.prot.trans hf.prot
  hall := by rw [h.hall]; exact hf.hall
  chans c := by
    have hc := hf.chans c
    rw [h.chans c]
    exact ⟨hc.settings, hc.cal, hc.life, hc.lifeSaturated, hc.queue, hc.last, hc.held, hc.missed, hc.taken, hc.pack,
      hc.elapsed, hc.presence, hc.lastConfirmed, hc.lineErr, hc.lineErrCount, hc.breaking⟩
  requests := h.requests.trans hf.requests
  counters := ⟨h.counters.1.trans hf.counters.1, h.counters.2.trans hf.counters.2⟩
  holdTimer := h.holdTimer.trans hf.holdTimer
  pending := h.pending.trans hf.pending

theorem Ends.run {a : Channel} {c : Ch} (h : Ends s t) (hf : RunFrame a (s.ch c)) : RunFrame a (t.ch c) := by
  rw [h.chans c]
  exact RunKeeps.trans hf (by constructor <;> first | rfl | exact fun _ => rfl)

theorem Ends.claimOf (h : Ends s t) (c : Ch) (x : StepRecord) : claimOf t c x = claimOf s c x := by
  have hlead : isLeader t c = isLeader s c := by unfold isLeader isFollower; rw [h.get _ Channel.state]
  unfold Machine.claimOf claimLimitOf
  rw [hlead, h.get c Channel.settings, h.get (partner c) Channel.settings]

theorem Ends.grantOf (h : Ends s t) (c : Ch) : grantOf t c = grantOf s c := by rw [Machine.grantOf, Machine.grantOf, h.arb]

theorem Ends.holdsCover (h : Ends s t) (c : Ch) (x : StepRecord) : holdsCover t c x = holdsCover s c x := by
  simp only [Machine.holdsCover, covers, h.grantOf, h.claimOf]

theorem Ends.unlisted (h : Ends s t) {c : Ch} (hc : Unlisted s c) : Unlisted t c := by
  unfold Unlisted
  rw [h.arb]
  exact hc

theorem pump_requests_counters (s : State) : (pump s).link.requests = s.link.requests ∧
    ((pump s).link.linkErrCount = s.link.linkErrCount ∧ (pump s).link.overrunCount = s.link.overrunCount) ∧
    (pump s).link.holdTimer = s.link.holdTimer := by
  have hrecover : ∀ (l : Link) (x : LinkFrame) (rest : List Report) (now : Nat),
      LinkKeeps { l with sending := some x, reports := rest } (({ l with sending := some x, reports := rest } : Link).recover now) :=
    fun _ _ _ now => Link.recover_keeps _ now
  unfold pump
  repeat' split
  · exact ⟨rfl, ⟨rfl, rfl⟩, rfl⟩
  · exact ⟨rfl, ⟨rfl, rfl⟩, rfl⟩
  · exact ⟨rfl, ⟨rfl, rfl⟩, rfl⟩
  · rename_i r rest _
    have h := hrecover s.link (.report r) rest s.hall.partTime
    exact ⟨h.requests, ⟨h.linkErrCount, h.overrunCount⟩, h.holdTimer⟩
  · exact ⟨rfl, ⟨rfl, rfl⟩, rfl⟩

theorem finish_ends (before s : State) : Ends s (finish before s) := by
  obtain ⟨u, hu, heq⟩ := finish_link (s := before) (t := s)
  rw [heq]
  obtain ⟨hreq, hcount, hhold⟩ := pump_requests_counters u
  rw [hu.link] at hreq hcount hhold
  refine ⟨?_, fun c => ?_, hreq, hcount, hhold, fun hs => ?_⟩
  · rw [pump_eq, hu.rest]
  · rw [pump_ch]; exact hu.chans c
  · obtain ⟨f, hf⟩ := Option.ne_none_iff_exists'.1 hs
    rw [pump_busy (f := f) (by rw [hu.link]; exact hf), hu.link]

/-- A command that acts only in READY. -/
theorem event_ends {f : State → State} (hp : s.part = .ready) : Ends (f s) (whenReady s f) := by
  rw [whenReady, if_pos hp]
  exact finish_ends s (f s)

theorem replied_ends (s : State) (x : Reply) : Ends s (replied s x) := by
  unfold replied State.modLink
  dsimp only
  split <;> exact ⟨rfl, fun _ => rfl, rfl, ⟨rfl, rfl⟩, rfl, fun _ => rfl⟩

theorem Ends.trans {u : State} (h : Ends s t) (k : Ends t u) (hs : t.link.sending = s.link.sending) : Ends s u :=
  ⟨by rw [k.rest, h.rest], fun c => by rw [k.chans c, h.chans c], k.requests.trans h.requests,
    ⟨k.counters.1.trans h.counters.1, k.counters.2.trans h.counters.2⟩, k.holdTimer.trans h.holdTimer,
    fun e => (k.reports (by rw [hs]; exact e)).trans (h.reports e)⟩

theorem PeriodKeeps.ends (h : PeriodKeeps s t) : Ends s t :=
  ⟨by rw [h.rest], h.chans, by rw [h.link], by rw [h.link]; exact ⟨rfl, rfl⟩, by rw [h.link], fun _ => by rw [h.link]⟩

/-- A request taken at a free link. -/
theorem request_ends {k : ReqKind} {r : Request} {u : State} {body : ReplyBody} (h : LinkFree s) (hb : r.body.length ≤ 1024)
    (htake : takeKind k r s = (u, body)) :
    Answered s (arrive (k.frame r) s) (replyTo k r body) ∧ Ends u (arrive (k.frame r) s) := by
  have hstays := takeKind_stays k r s
  rw [arrive_request k r h hb]
  rw [htake] at hstays ⊢
  have hperiod := bringForwardAll_period s u allCh
  exact ⟨replied_answered _ (by rw [hperiod.link]; exact hstays.link) h.reply,
    hperiod.ends.trans (replied_ends _ _) (by rw [hperiod.link])⟩

/-! ### What an act leaves of a channel it is not about -/

theorem OnlyPort.runFrame {a b : Channel} (h : OnlyPort a b) : RunFrame a b := by
  rw [h]
  constructor <;> first | rfl | exact fun _ => rfl

theorem ActsOn.run {c d : Ch} (h : ActsOn c s t) (hd : d ≠ c) : RunFrame (s.ch d) (t.ch d) :=
  OnlyPort.runFrame (h.chans d hd)

theorem unlisted_iff (s : State) (c : Ch) : Unlisted s c ↔ places s c = 0 := by
  unfold Unlisted places grantsOf waitsOf resumesOf
  rw [Nat.add_eq_zero_iff, Nat.add_eq_zero_iff, List.length_eq_zero_iff, List.length_eq_zero_iff, List.length_eq_zero_iff,
    List.filter_eq_nil_iff, List.filter_eq_nil_iff, List.filter_eq_nil_iff]
  simp only [decide_eq_true_eq, and_assoc]

theorem places_zero {c : Ch} (h : places s c = 0) : grantsOf s c = [] ∧ waitsOf s c = [] ∧ resumesOf s c = [] := by
  unfold places at h
  refine ⟨?_, ?_, ?_⟩ <;> exact List.length_eq_zero_iff.1 (by omega)

/-! ### The arbiter's handling of an event, seen from one channel -/

/-- A channel, its grants and its entries stand, but for its port, through an act of the arbiter on others. -/
structure Own (c : Ch) (s t : State) : Prop where
  runs    : Runs s t
  chan    : OnlyPort (s.ch c) (t.ch c)
  port    : (s.ch c).state ≠ .follower → t.ch c = s.ch c
  grants  : grantsOf t c = grantsOf s c
  waits   : waitsOf t c = waitsOf s c
  resumes : resumesOf t c = resumesOf s c

theorem Own.refl (c : Ch) (s : State) : Own c s s := ⟨.refl s, .refl _, fun _ => rfl, rfl, rfl, rfl⟩

theorem Own.trans {u : State} {c : Ch} (h : Own c s t) (k : Own c t u) : Own c s u :=
  ⟨h.runs.trans k.runs, h.chan.trans k.chan, fun hs => (k.port (by rw [h.port hs]; exact hs)).trans (h.port hs),
    k.grants.trans h.grants, k.waits.trans h.waits, k.resumes.trans h.resumes⟩

theorem Own.acts {c d : Ch} (hr : Runs s t) (ha : ActsOn d s t) (hd : c ≠ d) : Own c s t :=
  ⟨hr, ha.chans c hd, fun hs => ha.others c hd fun e => hs (e.2 ▸ ((isLeader_iff s d).1 e.1).2), ha.grantsOf_other hd,
    ha.waitsOf_other hd, ha.resumesOf_other hd⟩

theorem Own.places {c : Ch} (h : Own c s t) : places t c = places s c := by
  rw [Machine.places, Machine.places, h.grants, h.waits, h.resumes]

theorem Own.state {c : Ch} (h : Own c s t) : (t.ch c).state = (s.ch c).state := OnlyPort.state h.chan

theorem Own.evalDue (c : Ch) (s : State) (x : Bool) : Own c s (s.modArb fun a => { a with evalDue := x }) :=
  ⟨Runs.modArb s _ rfl, .refl _, fun _ => rfl, rfl, rfl, rfl⟩

theorem Runs.claimOf (h : Runs s t) (c : Ch) (x : StepRecord) : claimOf t c x = claimOf s c x := by
  have hf : ∀ d, isFollower t d = isFollower s d := fun d => by
    rw [Bool.eq_iff_iff, isFollower_iff, isFollower_iff]
    exact (h.keeps.chans d).follower
  have hlead : isLeader t c = isLeader s c := by unfold isLeader; rw [hf]
  unfold Machine.claimOf claimLimitOf
  rw [hlead, (h.keeps.chans c).settings, (h.keeps.chans (partner c)).settings]

theorem Runs.currentStep (h : Runs s t) (c : Ch) : currentStep t c = currentStep s c := by
  unfold Machine.currentStep windowRead
  rw [(h.chans c).active, (h.chans c).stepIndex, h.keeps.pool]

theorem holdsCover_iff (s : State) (c : Ch) (x : StepRecord) :
    holdsCover s c x = (grantsOf s c).head?.any (covers s c · x) := by
  rw [holdsCover, grantOf_eq_head]
  cases (grantsOf s c).head? <;> rfl

theorem Own.holdsCover {c : Ch} (h : Own c s t) (x : StepRecord) : holdsCover t c x = holdsCover s c x := by
  rw [holdsCover_iff, holdsCover_iff, h.grants]
  simp only [covers, h.runs.claimOf]

/-- A channel with the reserved grant an evaluation has made of its one entry (R90). -/
structure Granted (c : Ch) (e : Entry) (s t : State) : Prop where
  runs    : Runs s t
  chan    : OnlyPort (s.ch c) (t.ch c)
  port    : (s.ch c).state ≠ .follower → t.ch c = s.ch c
  before  : grantsOf s c = []
  entry   : waitsOf s c = [e] ∧ resumesOf s c = [] ∨ waitsOf s c = [] ∧ resumesOf s c = [e]
  grants  : grantsOf t c = [e.grant]
  waits   : waitsOf t c = []
  resumes : resumesOf t c = []

/-- An evaluation leaves a channel and its place, or grants it its one entry. -/
theorem evaluate_own {c : Ch} (h : places s c ≤ 1) : (evaluate s).2.count c = 0 ∧ Own c s (evaluate s).1 ∨
    (evaluate s).2.count c = 1 ∧ ∃ e, Granted c e s (evaluate s).1 := by
  obtain ⟨taken, hof, hgrants, hcount, -, hlen, hnone⟩ := evaluate_lists s c
  have hch : (evaluate s).1.ch c = s.ch c := by
    obtain ⟨-, -, -, -, -, -, -, -, -, -, hrest, -, -⟩ := evaluate_spec s
    rw [hrest]; rfl
  have hchan : OnlyPort (s.ch c) ((evaluate s).1.ch c) := by rw [hch]; exact .refl _
  unfold places at h
  match taken with
  | [] =>
    obtain ⟨hw, hr⟩ := hnone rfl
    exact .inl ⟨hcount, evaluate_runs s, hchan, fun _ => hch, by simpa using hgrants, hw, hr⟩
  | [e] =>
    rw [List.length_singleton] at hlen hcount
    have hbefore : grantsOf s c = [] := List.length_eq_zero_iff.1 (by omega)
    refine .inr ⟨hcount, e, evaluate_runs s, hchan, fun _ => hch, hbefore, ?_, ?_, ?_, ?_⟩
    · have hmem := hof e List.mem_cons_self
      have honly : ∀ l : List Entry, e ∈ l → l.length ≤ 1 → l = [e] := fun l he hl => by
        obtain ⟨x, rfl⟩ := List.length_eq_one_iff.1 (Nat.le_antisymm hl (List.length_pos_of_mem he))
        rw [List.mem_singleton.1 he]
      rcases hmem with hm | hm <;> have hpos := List.length_pos_of_mem hm
      · exact .inl ⟨honly _ hm (by omega), List.length_eq_zero_iff.1 (by omega)⟩
      · exact .inr ⟨List.length_eq_zero_iff.1 (by omega), honly _ hm (by omega)⟩
    · rw [hgrants, hbefore]; rfl
    · exact List.length_eq_zero_iff.1 (by omega)
    · exact List.length_eq_zero_iff.1 (by omega)
  | _ :: _ :: _ =>
    simp only [List.length_cons] at hlen
    omega

/-- What holds of a channel through the arbiter's handling of an event: it stands acts on others, it holds once an evaluation
that has granted the channel's entry has handed the grant over, and it keeps the channel to one place. -/
structure Carried (c : Ch) (P : State → Prop) : Prop where
  own   : ∀ u v, Own c u v → P u → P v
  once  : ∀ u, P u → places u c ≤ 1
  grant : ∀ u v e, Granted c e u v → P u → P (handOver v c)

theorem Granted.own {c : Ch} {e : Entry} {u : State} (h : Granted c e s t) (k : Own c t u) : Granted c e s u :=
  ⟨h.runs.trans k.runs, h.chan.trans k.chan, fun hs => (k.port (by rw [h.port hs]; exact hs)).trans (h.port hs), h.before, h.entry, k.grants.trans h.grants, k.waits.trans h.waits,
    k.resumes.trans h.resumes⟩

theorem handOverAll_carried {c : Ch} {P : State → Prop} (hP : Carried c P) {u : State} (hu : P u) (l : List Ch) {v : State}
    (h : l.count c = 0 ∧ P v ∨ l.count c = 1 ∧ ∃ e, Granted c e u v) : P (handOverAll v l) := by
  induction l generalizing v with
  | nil => exact (h.resolve_right fun h => absurd h.1 (by simp)).2
  | cons d l ih =>
    refine ih ?_
    by_cases hd : c = d
    · subst hd
      rw [List.count_cons_self] at h
      obtain ⟨hcount, e, he⟩ := h.resolve_left fun h => absurd h.1 (by omega)
      exact .inl ⟨by omega, hP.grant u v e he hu⟩
    · have hown : Own c v (handOver v d) := .acts (handOver_runs v d) (handOver_acts v d) hd
      rw [List.count_cons_of_ne (Ne.symm hd)] at h
      exact h.imp (fun h => ⟨h.1, hP.own _ _ hown h.2⟩) fun ⟨hcount, e, he⟩ => ⟨hcount, e, he.own hown⟩

theorem evaluateDue_carried {c : Ch} {P : State → Prop} (hP : Carried c P) (fuel : Nat) {u : State} (hu : P u) :
    P (evaluateDue fuel u) := by
  induction fuel generalizing u with
  | zero => exact hP.own _ _ (.evalDue c u false) hu
  | succ n ih =>
    unfold evaluateDue
    split
    · have hcleared := hP.own _ _ (.evalDue c u false) hu
      exact ih (handOverAll_carried hP hcleared _ ((evaluate_own (hP.once _ hcleared)).imp_left fun h =>
        ⟨h.1, hP.own _ _ h.2 hcleared⟩))
    · exact hu

/-- Shedding leaves a channel that has no grant. -/
theorem shed_own {c : Ch} (h : grantsOf s c = []) : Own c s (shed s) := by
  obtain ⟨htrace, -⟩ := shedLoop_removals (b := s.arb.budget) (cEff := cEffOf s) (last := none)
    (s.arb.grants.length + 1) (Nat.lt_succ_self _) (by simp)
  rcases shed_eq s with ⟨hs, -⟩ | hs
  · rw [hs]; exact .refl c s
  · rw [hs]
    generalize shedLoop s.arb.budget (cEffOf s) (s.arb.grants.length + 1) s.arb.grants = r at htrace ⊢
    have hnone : (r.1.filter fun g => g.ch = c) = [] := by
      refine List.filter_eq_nil_iff.2 fun g hg => ?_
      exact List.filter_eq_nil_iff.1 h g (htrace.sublist.subset hg)
    have hstart : Own c s (s.modArb fun a => { a with grants := r.1, evalDue := true }) :=
      ⟨Runs.modArb s _ rfl, .refl _, fun _ => rfl, hnone.trans h.symm, rfl, rfl⟩
    have hall : ∀ (l : List (Grant × BudgetTest)) (u : State), (∀ x ∈ l, x.1.ch ≠ c) → Own c u (shedAll u l) := by
      intro l
      induction l with
      | nil => exact fun u _ => .refl c u
      | cons x l ih =>
        intro u hl
        exact (Own.acts (shedOne_runs u x.1 x.2) (shedOne_acts u x.1 x.2) (Ne.symm (hl x List.mem_cons_self))).trans
          (ih _ fun y hy => hl y (List.mem_cons_of_mem _ hy))
    refine hstart.trans (hall r.2 _ fun x hx e => ?_)
    exact List.filter_eq_nil_iff.1 h x.1 (htrace.mem x hx).1 (by simpa using e)

/-- The arbiter's handling of an event, where the channel has no grant or nothing is shed. -/
theorem settle_carried {c : Ch} {P : State → Prop} (hP : Carried c P) (hcalm : grantsOf s c = [] ∨ testsHold s = true)
    (hs : P s) : P (settle s) := by
  unfold settle
  refine evaluateDue_carried hP _ ?_
  rcases hcalm with h | h
  · exact hP.own _ _ (shed_own h) hs
  · rw [shed_calm h]; exact hs

/-- A channel in no collection is left alone by the arbiter. -/
theorem settle_unlisted {c : Ch} (h : places s c = 0) : Own c s (settle s) := by
  have hP : Carried c fun u => Own c s u := by
    refine ⟨fun u v k hu => hu.trans k, fun u hu => by rw [hu.places, h]; omega, fun u v e he hu => ?_⟩
    obtain ⟨-, hw, hr⟩ := places_zero (hu.places.trans h)
    rcases he.entry with ⟨hw', -⟩ | ⟨-, hr'⟩
    · rw [hw] at hw'; cases hw'
    · rw [hr] at hr'; cases hr'
  exact settle_carried hP (.inl (places_zero h).1) (.refl c s)

/-- A channel that holds a grant, in one place, is left alone where nothing is shed. -/
theorem settle_granted {c : Ch} (h : places s c ≤ 1) (hg : grantsOf s c ≠ []) (ht : testsHold s = true) :
    Own c s (settle s) := by
  have hP : Carried c fun u => Own c s u :=
    ⟨fun u v k hu => hu.trans k, fun u hu => by rw [hu.places]; exact h, fun u v e he hu =>
      absurd (hu.grants.symm.trans he.before) hg⟩
  exact settle_carried hP (.inr ht) (.refl c s)

end

end Sys2Proof.Machine
end

section
/-! PROOF. Stopping a channel (R37, R38). -/
namespace Sys2Proof.Machine
open Sys2Proof.Safety

section
variable {s : State} {c : Ch}

/-- What entering STOPPING makes of the channel: it demands OFF, and rests at once where its ports allow it (R32, R37). -/
theorem enterStopping_ch (s : State) (c : Ch) (dest : StopDest) (absentCounts : Bool) :
    let t := issue (s.modCh c fun ch => { ch with state := .stopping, stopDest := dest }) c
    ∃ x, (t.ch c) = { s.ch c with state := .stopping, stopDest := dest, clamped := x, port := (t.ch c).port } ∧
      (enterStopping s c dest absentCounts).ch c = if restsAtOnce t c absentCounts then
        { t.ch c with state := dest.state, swapPending := none } else t.ch c := by
  intro t
  obtain ⟨x, p, hch⟩ := issue_ch (s.modCh c fun ch => { ch with state := .stopping, stopDest := dest }) c c
  rw [State.ch_modCh_self] at hch
  have hdest : (t.ch c).stopDest = dest := by rw [show t.ch c = _ from hch]
  refine ⟨x, ?_, ?_⟩
  · have hport : (t.ch c).port = p := by rw [show t.ch c = _ from hch]
    rw [hport]
    exact hch
  · unfold enterStopping
    show (if restsAtOnce t c absentCounts then finishStop t c else t).ch c = _
    split
    · unfold finishStop
      rw [State.ch_modCh_self]
      exact congrArg (fun x : StopDest => { t.ch c with state := x.state, swapPending := none }) hdest
    · rfl

/-- The OFF a stopping channel demands: a PRESENT stage that stands demanded anything else has it outstanding or pending, so
that the channel does not rest at once. -/
theorem not_restsAtOnce (dest : StopDest) (hl : isLeader s c = false) (hp : (s.ch c).port.presence = .present)
    (hs : (s.ch c).port.standing ≠ some ⟨.off, 0, 0, 0⟩) :
    restsAtOnce (issue (s.modCh c fun ch => { ch with state := .stopping, stopDest := dest }) c) c false = false := by
  have hlead : ∀ f, isLeader (s.modCh c f) c = false := fun f => by
    unfold isLeader isFollower at hl ⊢
    rw [State.ch_modCh_ne _ (partner_ne c)]
    exact hl
  have hcalled : calledFor (s.modCh c fun ch => { ch with state := .stopping, stopDest := dest }) c = (offDemand, false) := by
    unfold calledFor
    rw [State.ch_modCh_self]
  rw [issue_single (hlead _), hcalled, modCh_modCh]
  have hout : ((s.ch c).port.handNew offDemand).outstanding ≠ none := by
    rw [handNew_eq, if_neg (show ¬(s.ch c).port.standing = some offDemand from hs), if_neg (by rw [hp]; decide)]
    split
    · exact nofun
    · assumption
  unfold restsAtOnce portsOf
  rw [hlead, if_neg Bool.false_ne_true]
  have hnot : ∀ p : Port, p.outstanding ≠ none → p.offConfirmed = false := fun p hp => by
    unfold Port.offConfirmed
    rw [Option.isNone_eq_false_iff.2 (Option.isSome_iff_ne_none.2 hp), Bool.false_and]
  rw [List.all_cons, List.all_nil, Bool.and_true, State.port, State.ch_modCh_self, hnot _ hout]
  rfl

/-- What STOP makes of the channel's run (R37). -/
theorem stopChannel_own (s : State) (c : Ch) :
    let v := (withdrawEntries (releaseGrant s c) c).modCh c fun ch =>
      { ch.stopTimers with holds := HoldCauses.empty, heldBefore := false }
    Own c (enterStopping v c .idle false) (stopChannel s c) ∧ places (stopChannel s c) c = 0 ∧
      ActsOn c s (enterStopping v c .idle false) ∧
      v.ch c = { (s.ch c).stopTimers with holds := HoldCauses.empty, heldBefore := false } := by
  intro v
  have hch : v.ch c = { (s.ch c).stopTimers with holds := HoldCauses.empty, heldBefore := false } := by
    show State.ch (State.modCh _ _ _) c = _
    rw [State.ch_modCh_self, withdrawEntries_ch, releaseGrant_ch]
  have hplaces : places (enterStopping v c .idle false) c = 0 := by
    rw [places_congr (enterStopping_arb _ c _ _)]
    exact places_withdraw
  have hown : Own c (enterStopping v c .idle false) (stopChannel s c) := settle_unlisted hplaces
  exact ⟨hown, hown.places.trans hplaces, ((releaseGrant_acts s c).trans (withdrawEntries_acts _ c)).trans
    ((ActsOn.modCh c _ _).trans (enterStopping_acts _ c _ _)), hch⟩

theorem stopChannel_keeps (hc : (s.ch c).state ≠ .follower) : Keeps s (stopChannel s c) := by
  have h0 := (releaseGrant_keeps s c).trans (withdrawEntries_keeps _ c)
  have h1 := h0.trans (Keeps.modCh _ c
    (fun ch => { ch.stopTimers with holds := HoldCauses.empty, heldBefore := false })
    (by constructor <;> first | rfl | exact Iff.rfl | exact id))
  exact (h1.trans (enterStopping_keeps _ c _ _ (state_ne_follower h1 hc))).trans (settle_keeps _)

/-- The channel a STOP has been taken for. -/
theorem stopChannel_ch (s : State) (c : Ch) :
    ∃ x p q, (stopChannel s c).ch c = { (s.ch c).stopTimers with
      holds := HoldCauses.empty, heldBefore := false, stopDest := .idle, clamped := x, port := p
      state := if q then .idle else .stopping, swapPending := if q then none else (s.ch c).swapPending } ∧
      (isLeader s c = false → (s.ch c).port.presence = .present → (s.ch c).port.standing ≠ some ⟨.off, 0, 0, 0⟩ → q = false) := by
  obtain ⟨hown, -, -, hv⟩ := stopChannel_own s c
  have hchan := hown.chan
  have hlead : isLeader ((withdrawEntries (releaseGrant s c) c).modCh c fun ch =>
      { ch.stopTimers with holds := HoldCauses.empty, heldBefore := false }) c = isLeader s c := by
    unfold isLeader isFollower
    rw [State.ch_modCh_ne _ (partner_ne c), withdrawEntries_ch, releaseGrant_ch]
  generalize (withdrawEntries (releaseGrant s c) c).modCh c (fun ch =>
    { ch.stopTimers with holds := HoldCauses.empty, heldBefore := false }) = v at hchan hv hlead
  obtain ⟨x, hstopping, hentered⟩ := enterStopping_ch v c .idle false
  refine ⟨x, ((stopChannel s c).ch c).port,
    restsAtOnce (issue (v.modCh c fun ch => { ch with state := .stopping, stopDest := .idle }) c) c false, ?_, fun hl hp hs => ?_⟩
  · rw [hentered, hstopping, hv] at hchan
    rw [hchan]
    split <;> rfl
  · exact not_restsAtOnce .idle (hlead.trans hl) (by rw [hv]; exact hp) (by rw [hv]; exact hs)

end

/-- Settles O21. -/
theorem stop : Obligations.Stop := by
  unfold Obligations.Stop
  intro r s c hto ch answers
  have hb : r.body.length ≤ 1024 := by rw [hto.length]; decide
  have htake : takeKind .stop r s = _ := takeStop.eq_def r s
  rw [takeCh_of hto rfl] at htake
  refine ⟨fun hs => ?_, fun hs => ?_, fun hs => ?_, fun hs => ?_⟩
  · exact next_congr (arrive_same hto.free hb (htake.trans (by rw [show (s.ch c).state = _ from hs]; rfl)))
  · refine next_congr (arrive_same hto.free hb (htake.trans ?_))
    simp only [List.mem_cons, List.not_mem_nil, or_false] at hs
    rcases hs with hs | hs | hs <;> rw [show (s.ch c).state = _ from hs] <;> rfl
  · exact next_congr (arrive_same hto.free hb (htake.trans (by rw [show (s.ch c).state = _ from hs])))
  · have htaken : takeKind .stop r s = (stopChannel s c, .ok (.stateEntered ((stopChannel s c).ch c).state)) := by
      refine htake.trans ?_
      simp only [List.mem_cons, List.not_mem_nil, or_false] at hs
      rcases hs with hs | hs | hs | hs | hs <;> rw [show (s.ch c).state = _ from hs]
    have hf : (s.ch c).state ≠ .follower := fun e => by
      rw [show ch.state = _ from e] at hs
      exact absurd hs (by decide)
    obtain ⟨hanswered, hends⟩ := request_ends hto.free hb htaken
    obtain ⟨hown, hplaces, hacts, -⟩ := stopChannel_own s c
    obtain ⟨x, p, q, hch, hstays⟩ := stopChannel_ch s c
    obtain ⟨n, hfinal⟩ := hends.ch hch
    refine ⟨_, rfl, ?_, ?_, fun hl hp hd => ?_, ?_, ?_, ?_, ?_, ?_, ?_, hends.unlisted ((unlisted_iff _ c).2 hplaces), ?_, ?_, ?_,
      hends.frame (stopChannel_keeps hf).frame,
      fun d hd => hends.run (RunKeeps.trans (hacts.run hd) (hown.runs.chans d))⟩
    · rw [hends.get c Channel.state]
      exact hanswered
    · rw [hfinal]
      cases q
      · exact .inl ⟨rfl, rfl⟩
      · exact .inr rfl
    · rw [hfinal, hstays hl hp hd]
      rfl
    all_goals rw [hfinal] <;> rfl

end Sys2Proof.Machine
end

section
/-! PROOF. What a kind that latches makes of its channel (R42, R138 to R141): the latched channel out of a pair, the leader of a
pair and its follower. -/
namespace Sys2Proof.Machine
open Sys2Proof.Safety

/-! ### Reports already made (R190) -/

/-- The reports in the queue stay there, at its head. -/
def Grows (s t : State) : Prop := ∃ rest, t.link.reports = s.link.reports ++ rest

section
variable {s t : State}

theorem Grows.refl (s : State) : Grows s s := ⟨[], (List.append_nil _).symm⟩

theorem Grows.trans {u : State} (h : Grows s t) (k : Grows t u) : Grows s u := by
  obtain ⟨x, hx⟩ := h
  obtain ⟨y, hy⟩ := k
  exact ⟨x ++ y, by rw [hy, hx, List.append_assoc]⟩

theorem Grows.of_link (h : t.link = s.link) : Grows s t := ⟨[], by rw [h, List.append_nil]⟩

/-- A report that is no FAULT report is appended or dropped (R190). -/
theorem make_grows (l : Link) (now : Nat) (channel : Byte) (body : ReportBody)
    (hb : Report.isFault ⟨l.nextSeq, now, channel, body⟩ = false) : ∃ rest, (l.make now channel body).reports = l.reports ++ rest := by
  unfold Link.make Link.accept
  split
  · exact ⟨_, rfl⟩
  · rw [if_neg (by rw [hb]; exact Bool.false_ne_true)]
    exact ⟨[], (List.append_nil _).symm⟩

theorem reportPart_grows (s : State) (body : ReportBody) (hb : ∀ seq now ch, Report.isFault ⟨seq, now, ch, body⟩ = false) :
    Grows s (reportPart s body) := make_grows _ _ _ _ (hb _ _ _)

theorem settlingTest_grows (s : State) : Grows s (settlingTest s) := by
  unfold settlingTest
  split
  · exact reportPart_grows _ _ fun _ _ _ => rfl
  · exact .refl s

theorem shedOne_grows (s : State) (g : Grant) (x : BudgetTest) : Grows s (shedOne s g x) := by
  unfold Grows
  rw [shedOne_link]
  exact make_grows _ _ _ _ rfl

theorem shedAll_grows (l : List (Grant × BudgetTest)) (s : State) : Grows s (shedAll s l) := by
  induction l generalizing s with
  | nil => exact .refl s
  | cons x l ih => exact (shedOne_grows s x.1 x.2).trans (ih _)

theorem settle_grows (s : State) : Grows s (settle s) := by
  have hshed : Grows s (shed s) := by
    rcases shed_eq s with ⟨hs, -⟩ | hs
    · rw [hs]; exact .refl s
    · rw [hs]; exact Grows.trans (.of_link rfl) (shedAll_grows _ _)
  exact hshed.trans (.of_link (evaluateDue_link _ _))

end

/-! ### The faults of a channel out of FOLLOWER (R42) -/

/-- A channel that has faulted: its latched set and first-fault record, the resume point of an engaged one, no swap, no cause,
no running timer of the run, FAULTED. -/
def Channel.faulted (ch : Channel) (k : FaultKind) (value : Int) (now : Nat) : Channel :=
  { ch.stopTimers with
    latched := addKind ch.latched k
    firstFault := if ch.latched = 0 then some ⟨k, ch.stepIndex, ch.stepTime, value, now⟩ else ch.firstFault
    resume := if ch.state.engaged then some (resumePointOf ch) else ch.resume
    swapPending := none, holds := HoldCauses.empty, heldBefore := false, state := .faulted }

section
variable {s : State} {c : Ch}

/-- The state in which a channel that faults demands OFF. -/
def beforeOff (s : State) (c : Ch) : State :=
  (withdrawEntries (releaseGrant (grantNotLive (s.modCh c fun ch =>
    if ch.state.engaged then { ch with resume := some (resumePointOf ch) } else ch) c) c) c).modCh c fun ch =>
      { ch.stopTimers with swapPending := none, holds := HoldCauses.empty, heldBefore := false, state := .faulted }

theorem faultChannel_eq (s : State) (c : Ch) : faultChannel s c = issue (beforeOff s c) c := rfl

theorem beforeOff_ch (s : State) (c : Ch) : (beforeOff s c).ch c = { (s.ch c).stopTimers with
    resume := if (s.ch c).state.engaged then some (resumePointOf (s.ch c)) else (s.ch c).resume
    swapPending := none, holds := HoldCauses.empty, heldBefore := false, state := .faulted } := by
  have hch : ∀ u : State, (withdrawEntries (releaseGrant (grantNotLive u c) c) c).ch c = u.ch c := fun u => by
    rw [withdrawEntries_ch, releaseGrant_ch]; rfl
  unfold beforeOff
  rw [State.ch_modCh_self, hch, State.ch_modCh_self]
  split <;> rfl

theorem withdrawEntries_link (s : State) (c : Ch) : (withdrawEntries s c).link = s.link := by
  unfold withdrawEntries withdrawWaiting
  dsimp only
  repeat' split
  all_goals rfl

theorem beforeOff_link (s : State) (c : Ch) : (beforeOff s c).link = s.link := by
  show (withdrawEntries (releaseGrant (grantNotLive _ c) c) c).link = _
  rw [withdrawEntries_link, releaseGrant_link]
  rfl

theorem beforeOff_acts (s : State) (c : Ch) : ActsOn c s (beforeOff s c) :=
  ((((ActsOn.modCh c s _).trans (grantNotLive_acts _ c)).trans (releaseGrant_acts _ c)).trans
    (withdrawEntries_acts _ c)).trans (ActsOn.modCh c _ _)

theorem ActsOn.isLeader {t : State} (h : ActsOn c s t) : isLeader t c = isLeader s c := (h.chans _ (partner_ne c)).isLeader

theorem beforeOff_called (s : State) (c : Ch) : calledFor (beforeOff s c) c = (offDemand, false) := by
  unfold calledFor
  rw [beforeOff_ch]

theorem leaderShare_off : leaderShare offDemand = offDemand := rfl

theorem followerDemand_off (latched : BitVec 16) : followerDemand latched offDemand = offDemand := by
  unfold followerDemand
  split <;> rfl

/-- A fault's OFF is handed to the channel's port. -/
theorem faultChannel_ch (s : State) (c : Ch) : (faultChannel s c).ch c = { (s.ch c).stopTimers with
    resume := if (s.ch c).state.engaged then some (resumePointOf (s.ch c)) else (s.ch c).resume
    swapPending := none, holds := HoldCauses.empty, heldBefore := false, state := .faulted
    port := (s.ch c).port.handNew offDemand } := by
  have hbefore := beforeOff_ch s c
  rw [faultChannel_eq]
  cases hl : isLeader (beforeOff s c) c with
  | false =>
    rw [issue_single hl, State.ch_modCh_self, beforeOff_called, hbefore]
    simp only [Bool.or_false]
    rfl
  | true =>
    rw [issue_leader hl, State.ch_modPort, if_neg (Ne.symm (partner_ne c)), State.ch_modCh_self, beforeOff_called, hbefore]
    simp only [Bool.or_false, leaderShare_off]
    rfl

/-- The fault of a leader hands its follower's port OFF. -/
theorem faultChannel_follower (hl : isLeader s c = true) : (faultChannel s c).ch (partner c) =
    { s.ch (partner c) with port := (s.ch (partner c)).port.handNew offDemand } := by
  have hacts := beforeOff_acts s c
  have hchan : (beforeOff s c).ch (partner c) = s.ch (partner c) := by
    have hch : ∀ u : State, (withdrawEntries (releaseGrant (grantNotLive u c) c) c).ch (partner c) = u.ch (partner c) := fun u => by
      rw [withdrawEntries_ch, releaseGrant_ch]; rfl
    unfold beforeOff
    rw [State.ch_modCh_ne _ (partner_ne c), hch, State.ch_modCh_ne _ (partner_ne c)]
  rw [faultChannel_eq, issue_leader (hacts.isLeader.trans hl), State.ch_modPort, if_pos rfl, State.ch_modCh_ne _ (partner_ne c),
    beforeOff_called, followerDemand_off, hchan]

theorem faultChannel_link (s : State) (c : Ch) : (faultChannel s c).link = s.link := by
  rw [faultChannel_eq, issue_link, beforeOff_link]

/-- The state in which a kind has latched and the channel has responded, before its report. -/
def responded (s : State) (c : Ch) (k : FaultKind) (value : Int) : State :=
  respond (s.modCh c fun ch =>
    { ch with
      latched := addKind ch.latched k
      firstFault := if ch.latched = 0 then some ⟨k, (s.ch c).stepIndex, (s.ch c).stepTime, value, s.hall.partTime⟩
        else ch.firstFault }) c

/-- The FAULT report a kind that latches makes. -/
def faultBody (s : State) (c : Ch) (k : FaultKind) (value : Int) : ReportBody :=
  .fault k value false (s.ch c).stepIndex (s.ch c).stepTime ((responded s c k value).ch c).latched
    ((responded s c k value).ch c).state

theorem latchKind_eq (s : State) (c : Ch) (k : FaultKind) (value : Int) : latchKind s c k value =
    if (s.ch c).state ≠ .faulted ∧ ((responded s c k value).ch c).state = .faulted then
      settlingTest (reportCh (responded s c k value) c (faultBody s c k value))
    else reportCh (responded s c k value) c (faultBody s c k value) := rfl

theorem settlingTest_ch (s : State) (d : Ch) : (settlingTest s).ch d = s.ch d := by
  unfold settlingTest
  split <;> rfl

theorem settlingTest_arb (s : State) : (settlingTest s).arb = s.arb := by
  unfold settlingTest
  split <;> rfl

theorem latchKind_ch (s : State) (c : Ch) (k : FaultKind) (value : Int) (d : Ch) :
    (latchKind s c k value).ch d = (responded s c k value).ch d := by
  rw [latchKind_eq]
  split
  · rw [settlingTest_ch]; rfl
  · rfl

theorem latchKind_arb (s : State) (c : Ch) (k : FaultKind) (value : Int) :
    (latchKind s c k value).arb = (responded s c k value).arb := by
  rw [latchKind_eq]
  split
  · rw [settlingTest_arb]; rfl
  · rfl

theorem respond_link (s : State) (c : Ch) : (respond s c).link = s.link := by
  unfold respond
  split
  · rfl
  · rfl
  · exact faultChannel_link s c

theorem responded_link (s : State) (c : Ch) (k : FaultKind) (value : Int) : (responded s c k value).link = s.link :=
  respond_link _ c

/-- A kind that latches makes its FAULT report first. -/
theorem latchKind_report (s : State) (c : Ch) (k : FaultKind) (value : Int) (hroom : s.link.reports.length < 64) :
    ∃ rest, (latchKind s c k value).link.reports =
      s.link.reports ++ (⟨s.link.nextSeq, s.hall.partTime, chByte c, faultBody s c k value⟩ :: rest) := by
  have hhall : (responded s c k value).hall = s.hall := by
    unfold responded respond
    split
    · rfl
    · rfl
    · exact (faultChannel_acts _ c).hall
  have hmade : (reportCh (responded s c k value) c (faultBody s c k value)).link.reports =
      s.link.reports ++ [⟨s.link.nextSeq, s.hall.partTime, chByte c, faultBody s c k value⟩] := by
    show ((responded s c k value).link.make (responded s c k value).hall.partTime (chByte c) _).reports = _
    rw [responded_link, hhall, make_room _ _ _ hroom]
  rw [latchKind_eq]
  split
  · obtain ⟨rest, hrest⟩ := settlingTest_grows (reportCh (responded s c k value) c (faultBody s c k value))
    exact ⟨rest, by rw [hrest, hmade, List.append_assoc]; rfl⟩
  · exact ⟨[], hmade⟩

/-- The response of a channel that is neither FAULTED nor a follower. -/
theorem responded_faults {k : FaultKind} {value : Int} (h1 : (s.ch c).state ≠ .faulted) (h2 : (s.ch c).state ≠ .follower) :
    responded s c k value = faultChannel (s.modCh c fun ch =>
      { ch with
        latched := addKind ch.latched k
        firstFault := if ch.latched = 0 then some ⟨k, (s.ch c).stepIndex, (s.ch c).stepTime, value, s.hall.partTime⟩
          else ch.firstFault }) c := by
  unfold responded respond
  split
  · rename_i h; rw [State.ch_modCh_self] at h; exact absurd h h1
  · rename_i h; rw [State.ch_modCh_self] at h; exact absurd h h2
  · rfl

theorem responded_faulted {k : FaultKind} {value : Int} (h1 : (s.ch c).state ≠ .faulted) (h2 : (s.ch c).state ≠ .follower) :
    (responded s c k value).ch c =
        { (s.ch c).faulted k value s.hall.partTime with port := (s.ch c).port.handNew offDemand } ∧
      places (responded s c k value) c = 0 ∧ ActsOn c s (responded s c k value) := by
  rw [responded_faults h1 h2]
  refine ⟨?_, (faultChannel_places _ c).1, (ActsOn.modCh c s _).trans (faultChannel_acts _ c)⟩
  rw [faultChannel_ch, State.ch_modCh_self]
  rfl

/-- The response of a follower: its port is handed OFF, and it stays FOLLOWER (R131). -/
theorem responded_follower {k : FaultKind} {value : Int} (h : (s.ch c).state = .follower) :
    responded s c k value = s.modCh c fun ch =>
      { ch with
        latched := addKind ch.latched k
        firstFault := if ch.latched = 0 then some ⟨k, (s.ch c).stepIndex, (s.ch c).stepTime, value, s.hall.partTime⟩
          else ch.firstFault
        port := ch.port.handNew offDemand } := by
  unfold responded respond
  split
  · rename_i hf; rw [State.ch_modCh_self] at hf; exact absurd (hf.symm.trans h) (by decide)
  · exact modCh_modCh _ _ _ _
  · rename_i hf; rw [State.ch_modCh_self] at hf; exact absurd h hf

/-! ### A kind that latches in a channel out of a pair -/

theorem offer_single {k : FaultKind} {value : Int} (hp : paired s c = false) :
    offer s c k value = settle (offerOne s c k value) := by
  unfold offer
  dsimp only
  rw [if_neg fun h => absurd (hp.symm.trans h.2.2) (by decide)]

theorem offerOne_latches {k : FaultKind} {value : Int} (hw : warns (s.ch c).settings k = false)
    (hk : hasKind (s.ch c).latched k = false) : offerOne s c k value = latchKind s c k value := by
  unfold offerOne
  rw [hw, if_neg Bool.false_ne_true, hk, if_neg Bool.false_ne_true]

theorem paired_false (hp : paired s c = false) : isLeader s c = false ∧ (s.ch c).state ≠ .follower := by
  unfold paired at hp
  rw [Bool.or_eq_false_iff] at hp
  exact ⟨hp.1, fun h => absurd ((isFollower_iff s c).2 h) (by rw [hp.2]; decide)⟩

/-- A kind that latches in a channel out of a pair that is not FAULTED: what the offer leaves. -/
structure Latches (s t : State) (c : Ch) (k : FaultKind) (value : Int) : Prop where
  keeps  : Keeps s t
  chan   : t.ch c = { (s.ch c).faulted k value s.hall.partTime with port := (s.ch c).port.handNew offDemand }
  places : places t c = 0
  others : ∀ d, d ≠ c → RunFrame (s.ch d) (t.ch d)
  report : s.link.reports.length < 64 → ∃ rest, t.link.reports = s.link.reports ++
    (⟨s.link.nextSeq, s.hall.partTime, chByte c, .fault k value false (s.ch c).stepIndex (s.ch c).stepTime
      (addKind (s.ch c).latched k) .faulted⟩ :: rest)

theorem latchKind_latches {k : FaultKind} {value : Int} (h1 : (s.ch c).state ≠ .faulted) (h2 : (s.ch c).state ≠ .follower) :
    Latches s (latchKind s c k value) c k value := by
  obtain ⟨hch, hplaces, hacts⟩ := responded_faulted (k := k) (value := value) h1 h2
  refine ⟨latchKind_keeps s c k value, (latchKind_ch s c k value c).trans hch, ?_, fun d hd => ?_, fun hroom => ?_⟩
  · rw [places_congr (latchKind_arb s c k value)]; exact hplaces
  · rw [latchKind_ch]; exact hacts.run hd
  · obtain ⟨rest, hrest⟩ := latchKind_report s c k value hroom
    refine ⟨rest, ?_⟩
    rw [hrest, faultBody, hch]
    rfl

theorem Latches.settle {t : State} {k : FaultKind} {value : Int} (h : Latches s t c k value) :
    Latches s (settle t) c k value := by
  have hown := settle_unlisted h.places
  refine ⟨h.keeps.trans (settle_keeps t), (hown.port (by rw [h.chan]; exact nofun)).trans h.chan, hown.places.trans h.places,
    fun d hd => RunKeeps.trans (h.others d hd) (hown.runs.chans d), fun hroom => ?_⟩
  obtain ⟨x, hx⟩ := h.report hroom
  obtain ⟨y, hy⟩ := settle_grows t
  exact ⟨x ++ y, by rw [hy, hx, List.append_assoc]; rfl⟩

theorem offer_latches {k : FaultKind} {value : Int} (hp : paired s c = false) (hs : (s.ch c).state ≠ .faulted)
    (hw : warns (s.ch c).settings k = false) (hk : hasKind (s.ch c).latched k = false) :
    Latches s (offer s c k value) c k value := by
  rw [offer_single hp, offerOne_latches hw hk]
  exact (latchKind_latches hs (paired_false hp).2).settle

/-- The same in the words of the claims, at the end of the event. -/
theorem Latches.taken {t u : State} {k : FaultKind} {value : Int} (h : Latches s t c k value) (he : Ends t u) :
    FaultTaken s u c k value ∧ BoardFrame s u ∧ ∀ d, d ≠ c → RunFrame (s.ch d) (u.ch d) := by
  obtain ⟨n, hch⟩ := he.ch h.chan
  refine ⟨⟨?_, ?_, ?_, ?_, ?_, he.unlisted ((unlisted_iff t c).2 h.places), ?_, fun hs hroom => ?_⟩,
    he.frame h.keeps.frame, fun d hd => he.run (h.others d hd)⟩
  · rw [hch]; rfl
  · rw [hch]; rfl
  · rw [hch]; rfl
  · rw [hch]
    refine if_congr (engaged_iff _) rfl rfl
  · rw [hch]; exact ⟨rfl, rfl, rfl, rfl, rfl, rfl⟩
  · rw [hch]; exact handNew_standing _ _
  · rw [he.reports (by rw [h.keeps.link.sending]; exact hs)]
    exact h.report (by omega)

end

end Sys2Proof.Machine
end

section
/-! PROOF. The timers whose expiry faults a channel (R27, R95, R119) and the confirmation timer (R161), out of a pair. -/
namespace Sys2Proof.Machine
open Sys2Proof.Safety

section
variable {s : State} {c : Ch}

/-- A command that changes nothing, with no frame due at the transmitter. -/
theorem event_same {f : State → State} (hdue : NoFrameDue s) (hf : f s = s) : whenReady s f = s := by
  by_cases hp : s.part = .ready
  · exact whenReady_same hp hdue hf
  · exact if_neg hp

/-- The channel with its start and underrun timers set. -/
def Channel.timers (ch : Channel) (a b : Option Nat) : Channel :=
  { ch with startTimer := a, play := { ch.play with underrunTimer := b } }

/-- A timer that has stopped is no part of what a fault records. -/
theorem Latches.of_timers {t : State} {k : FaultKind} {value : Int} {f : Channel → Channel} {a b : Option Nat}
    (hf : f (s.ch c) = (s.ch c).timers a b) (h : Latches (s.modCh c f) t c k value) : Latches s t c k value := by
  have hself : (s.modCh c f).ch c = (s.ch c).timers a b := by rw [State.ch_modCh_self, hf]
  have hkeeps : Keeps s (s.modCh c f) := Keeps.modCh s c f (by rw [hf]; constructor <;> first | rfl | exact Iff.rfl | exact id)
  refine ⟨hkeeps.trans h.keeps, ?_, h.places, fun d hd => ?_, fun hroom => ?_⟩
  · rw [h.chan, hself]
    rfl
  · have hother := h.others d hd
    rw [State.ch_modCh_ne _ hd] at hother
    exact hother
  · have hreport := h.report hroom
    rw [hself] at hreport
    exact hreport

theorem startTimerExpires_latches (hs : (s.ch c).state = .starting) (ht : (s.ch c).startTimer ≠ none)
    (hk : hasKind (s.ch c).latched .stageStartTimeout = false) (hp : paired s c = false) :
    Latches s (startTimerExpires s c) c .stageStartTimeout (s.ch c).settings.startTimeout := by
  unfold startTimerExpires
  rw [if_pos ⟨hs, Option.isSome_iff_ne_none.2 ht⟩]
  refine Latches.of_timers (a := none) (b := (s.ch c).play.underrunTimer) rfl (offer_latches ?_ ?_ rfl ?_)
  · unfold paired isLeader isFollower at hp ⊢
    rw [State.ch_modCh_ne _ (partner_ne c), State.ch_modCh_self]
    exact hp
  · rw [State.ch_modCh_self, hs]; decide
  · rw [State.ch_modCh_self]; exact hk

theorem underrunExpires_latches (ht : (s.ch c).play.underrunTimer ≠ none) (hs : (s.ch c).state ≠ .faulted)
    (hk : hasKind (s.ch c).latched .profileUnderrun = false) (hp : paired s c = false) :
    Latches s (underrunExpires s c) c .profileUnderrun (s.ch c).settings.underrunLimit := by
  unfold underrunExpires
  rw [if_pos (Option.isSome_iff_ne_none.2 ht)]
  refine Latches.of_timers (a := (s.ch c).startTimer) (b := none) rfl (offer_latches ?_ ?_ rfl ?_)
  · unfold paired isLeader isFollower at hp ⊢
    rw [State.ch_modCh_ne _ (partner_ne c), State.ch_modCh_self]
    exact hp
  · rw [State.ch_modCh_self]; exact hs
  · rw [State.ch_modCh_self]; exact hk

end

/-- Settles O26. -/
theorem timeoutsFault : Obligations.TimeoutsFault := by
  unfold Obligations.TimeoutsFault
  refine ⟨⟨fun s c hdue h => ?_, fun s c hp hs ht hk hpair => ?_⟩, fun s c hdue h => ?_, fun s c hp ht hs hpair hk => ?_⟩
  · refine next_congr (event_same hdue (if_neg ?_))
    rintro ⟨hs, ht⟩
    rcases h with h | h
    · exact h hs
    · rw [h] at ht; cases ht
  · exact ⟨_, rfl, (startTimerExpires_latches hs ht hk hpair).taken (event_ends (f := fun s => startTimerExpires s c) hp)⟩
  · refine next_congr (event_same hdue (if_neg ?_))
    rw [h]
    exact Bool.false_ne_true
  · have hlatches := underrunExpires_latches ht hs hk hpair
    have hends := event_ends (f := fun s => underrunExpires s c) hp
    obtain ⟨htaken, hframe, hothers⟩ := hlatches.taken hends
    refine ⟨_, rfl, htaken, ?_, hframe, hothers⟩
    obtain ⟨n, hch⟩ := hends.ch hlatches.chan
    rw [hch]
    rfl

/-! ### The confirmation timer (R161) -/

/-- A report that is no FAULT report. -/
def alarmReport : Report := ⟨0, 0, 0xFF, .hallStopAlarm true⟩

/-- CH0 with an OFF outstanding whose confirmation timer has run down, 32 reports waiting, and 31 grants of CH2 under an intake
ceiling of 0. -/
def crowded : State :=
  { State.reset with
    part := .ready
    arb := { State.reset.arb with
      grants := List.replicate 31 ⟨2, .charge, 1, false, none⟩, budget := { State.reset.arb.budget with cIn := 0 } }
    link := { State.reset.link with
      sending := some (.report alarmReport), reports := List.replicate 32 alarmReport } }.modCh 0 fun ch =>
    { ch with port := { ch.port with presence := .present, confTimer := some 0, outstanding := some ⟨offDemand, 0⟩ } }

/-- Whether the report at a place of the queue a command leaves is a FAULT report. -/
def faultAt (x : Next) (n : Nat) : Option Bool :=
  match x with
  | .next t => (t.link.reports.map Report.isFault)[n]?
  | _ => none

/-- The last of the 32 places has a FAULT report once the timer has expired. -/
theorem crowded_fault {t : State} (h : exec (.confirmationTimerExpiry 0) crowded = .next t) :
    (t.link.reports.map Report.isFault)[31]? = some true :=
  have hlast : faultAt (exec (.confirmationTimerExpiry 0) crowded) 31 = some true := by decide +kernel
  (congrArg (faultAt · 31) h).symm.trans hlast

theorem crowded_plain (rest : List Report) : ((crowded.link.reports ++ rest).map Report.isFault)[31]? = some false := by
  have hplain : (crowded.link.reports.map Report.isFault)[31]? = some false := by decide +kernel
  rw [List.map_append, List.getElem?_append_left (by decide +kernel)]
  exact hplain

/-- Refutes O32: in `crowded` the arbiter's handling of STAGE_NO_ACK sheds 31 grants, whose reports fill the queue, and the FAULT
report of STAGE_UNSAFE then takes the place of the oldest report that was waiting (R190), so that the queue no longer begins
with the reports there were. -/
theorem not_confirmationTimeout : ¬ Obligations.ConfirmationTimeout := by
  unfold Obligations.ConfirmationTimeout
  rintro ⟨-, h, -⟩
  obtain ⟨t, ht, -, -, -, -, -, -, -, -, -, hreports, -⟩ := h crowded 0 ⟨offDemand, 0⟩ rfl (by decide +kernel)
    (by decide +kernel) (by decide +kernel) (by decide +kernel) rfl rfl
  obtain ⟨rest, hrest⟩ := hreports (by decide +kernel) (by decide +kernel)
  have hlast := crowded_fault ht
  rw [hrest, crowded_plain] at hlast
  cases hlast

end Sys2Proof.Machine
end

section
/-! PROOF. The hall stop line (R106, R152, R153). -/
namespace Sys2Proof.Machine
open Sys2Proof.Safety

/-- What the assertion of the hall stop line makes of a channel. -/
structure HallStopped (a b : Channel) : Prop where
  holds    : hasKind b.latched .hallStop = true
  faulted  : a.state ≠ .follower → hasKind a.latched .hallStop = false ∨ a.state = .faulted → b.state = .faulted
  follower : b.state = .follower ↔ a.state = .follower
  kept     : a.latched ≠ 0 → b.firstFault = a.firstFault
  first    : a.latched = 0 → ∃ f, b.firstFault = some f ∧ f.kind = .hallStop

theorem HallStopped.then_same {a b c : Channel} (h : HallStopped a b) (k : FaultSame b c) : HallStopped a c :=
  ⟨by rw [k.latched]; exact h.holds, fun hs hl => k.faulted.2 (h.faulted hs hl), k.follower.trans h.follower,
    fun hl => k.first.trans (h.kept hl), fun hl => by rw [k.first]; exact h.first hl⟩

/-- A further kind that latches. -/
theorem HallStopped.latched {a b c : Channel} {k : FaultKind} (h : HallStopped a b) (hk : Latched k b c) : HallStopped a c := by
  have hne : b.latched ≠ 0 := fun e => by
    have := h.holds
    rw [e, hasKind_zero] at this
    cases this
  obtain ⟨f, -, hf⟩ := hk.first
  rw [if_neg hne] at hf
  refine ⟨by rw [hk.latched]; simp [h.holds], fun hs _ => hk.faulted fun e => hs (h.follower.1 e),
    hk.follower.trans h.follower, fun hl => hf.trans (h.kept hl), fun hl => by rw [hf]; exact h.first hl⟩

/-- HALL_STOP that latches newly. -/
theorem Latched.hallStopped {a b : Channel} (h : Latched .hallStop a b) : HallStopped a b := by
  obtain ⟨f, hk, hf⟩ := h.first
  exact ⟨by rw [h.latched]; simp, fun hs _ => h.faulted hs, h.follower, fun hl => hf.trans (if_neg hl),
    fun hl => ⟨f, hf.trans (if_pos hl), hk⟩⟩

/-- HALL_STOP latched before. -/
theorem HallStopped.of_latched {a : Channel} (h : hasKind a.latched .hallStop = true) : HallStopped a a := by
  refine ⟨h, fun _ hs => hs.resolve_left fun e => ?_, Iff.rfl, fun _ => rfl, fun hl => ?_⟩
  · rw [h] at e; cases e
  · rw [hl, hasKind_zero] at h; cases h

section
variable {s t : State}

theorem HallStopped.offerOne {a : Channel} {d : Ch} (h : HallStopped a (s.ch d)) (c : Ch) (k : FaultKind) (value : Int) :
    HallStopped a ((offerOne s c k value).ch d) := by
  rcases offerOne_cases s c k value with ⟨-, hkept⟩ | ⟨-, hl, ho⟩
  · exact h.then_same (hkept.chans d)
  · by_cases hd : d = c
    · subst hd; exact h.latched hl
    · exact h.then_same (ho d hd)

theorem offerOne_hallStopped (s : State) (c : Ch) : HallStopped (s.ch c) ((offerOne s c .hallStop 0).ch c) := by
  rcases offerOne_cases s c .hallStop 0 with ⟨hn, hkept⟩ | ⟨-, hl, -⟩
  · refine HallStopped.then_same (.of_latched ?_) (hkept.chans c)
    simpa [latchesNewly, warns] using hn
  · exact hl.hallStopped

theorem HallStopped.of_same {a b c : Channel} (h : FaultSame a b) (k : HallStopped b c) : HallStopped a c := by
  refine ⟨k.holds, fun hs hl => k.faulted (fun e => hs (h.follower.1 e)) ?_, k.follower.trans h.follower, fun hl => ?_, fun hl => ?_⟩
  · exact hl.imp (fun e => by rw [h.latched]; exact e) h.faulted.2
  · exact (k.kept (by rw [h.latched]; exact hl)).trans h.first
  · exact k.first (by rw [h.latched]; exact hl)

theorem offerHallStop_stopped {r : State} (l : List Ch)
    (h : ∀ d, HallStopped (r.ch d) (s.ch d) ∨ d ∈ l ∧ FaultSame (r.ch d) (s.ch d)) (d : Ch) :
    HallStopped (r.ch d) ((offerHallStop s l).1.ch d) := by
  induction l generalizing s with
  | nil => exact (h d).resolve_right fun e => absurd e.1 List.not_mem_nil
  | cons c l ih =>
    refine ih fun e => ?_
    rcases h e with he | ⟨hmem, hsame⟩
    · exact .inl (he.offerOne c _ _)
    · by_cases hec : e = c
      · subst hec; exact .inl (.of_same hsame (offerOne_hallStopped s e))
      · exact .inr ⟨(List.mem_cons.1 hmem).resolve_left hec, hsame.trans (offerOne_others s c _ _ hec)⟩

theorem passHallStop_stopped {a : Channel} {d : Ch} (newly l : List Ch) (h : HallStopped a (s.ch d)) :
    HallStopped a ((passHallStop newly s l).ch d) := by
  induction l generalizing s with
  | nil => exact h
  | cons c l ih =>
    refine ih ?_
    split
    · exact h.offerOne _ _ _
    · exact h

/-! ### The arbiter's collections (R106) -/

theorem offerOne_places (c d : Ch) (k : FaultKind) (value : Int) (h : places s d = 0) : places (offerOne s c k value) d = 0 := by
  unfold offerOne
  split
  · unfold warnKind
    split <;> exact h
  · split
    · exact h
    · rw [places_congr (latchKind_arb s c k value)]
      unfold responded respond
      split
      · exact h
      · exact h
      · by_cases hd : d = c
        · subst hd; exact (faultChannel_places _ d).1
        · rw [(faultChannel_acts _ c).places_other hd]; exact h

theorem offerHallStop_places (l : List Ch) (d : Ch) (h : places s d = 0) : places (offerHallStop s l).1 d = 0 := by
  induction l generalizing s with
  | nil => exact h
  | cons c l ih => exact ih (offerOne_places c d _ _ h)

theorem passHallStop_places (newly l : List Ch) (d : Ch) (h : places s d = 0) : places (passHallStop newly s l) d = 0 := by
  induction l generalizing s with
  | nil => exact h
  | cons c l ih =>
    refine ih ?_
    split
    · exact offerOne_places _ d _ _ h
    · exact h

theorem hallStopActs_effect (s : State) :
    (∀ c, HallStopped (s.ch c) ((hallStopActs s).ch c)) ∧ (hallStopActs s).arb.grants = [] ∧
      (hallStopActs s).arb.waiting = [] ∧ (hallStopActs s).arb.resume = [] := by
  have hacts : ∀ u t : State, (∀ d, FaultSame (s.ch d) (u.ch d)) → (∀ c, places u c = 0) →
      t = settle (passHallStop (offerHallStop u allCh).2 (offerHallStop u allCh).1 allCh) →
      (∀ c, HallStopped (s.ch c) (t.ch c)) ∧ t.arb.grants = [] ∧ t.arb.waiting = [] ∧ t.arb.resume = [] := by
    rintro u _ hsame hnone rfl
    have hplaces : ∀ c, places (passHallStop (offerHallStop u allCh).2 (offerHallStop u allCh).1 allCh) c = 0 := fun c =>
      passHallStop_places _ _ c (offerHallStop_places allCh c (hnone c))
    have hstopped : ∀ c, HallStopped (s.ch c) ((passHallStop (offerHallStop u allCh).2 (offerHallStop u allCh).1 allCh).ch c) :=
      fun c => passHallStop_stopped _ _ (offerHallStop_stopped allCh (fun d => .inr ⟨mem_allCh d, hsame d⟩) c)
    have hcleared := settle_empty hplaces
    generalize passHallStop (offerHallStop u allCh).2 (offerHallStop u allCh).1 allCh = v at *
    rw [hcleared]
    exact ⟨hstopped, empty_of_places hplaces⟩
  have hreport : FaultsKept s (reportPart (emptyCollections s) (.hallStopAlarm true)) := .of_chans rfl rfl rfl
  exact hacts (reportPart (emptyCollections s) (.hallStopAlarm true)) _ hreport.chans (fun _ => rfl) rfl

end

/-- Settles O47. -/
theorem hallStop : Obligations.HallStop := by
  unfold Obligations.HallStop
  refine ⟨⟨fun s hdue hs => ?_, fun s hp => ?_, fun s hp hs => ?_⟩, fun s hp hs hsend => ?_, fun s hdue hs => ?_, fun s hp => ?_⟩
  · refine next_congr ?_
    have hsame : hallStopAsserts s = s := if_pos hs
    split
    · rw [hsame, finish_of_link rfl]; exact pump_noFrameDue hdue
    · exact congrArg (fun x => { s with prot := { s.prot with hallStop := x } }) hs.symm
  · exact next_congr (if_neg hp)
  · have hends := finish_ends s (hallStopAsserts s)
    have hacts : hallStopAsserts s = hallStopActs (s.modProt fun p => { p with hallStop := true }) :=
      if_neg (by rw [hs]; exact Bool.false_ne_true)
    rw [hacts] at hends
    obtain ⟨hstopped, hempty⟩ := hallStopActs_effect (s.modProt fun p => { p with hallStop := true })
    have hframe := hends.frame (hallStopActs_keeps (s.modProt fun p => { p with hallStop := true })).frame
    refine ⟨_, next_congr ((if_pos hp).trans (by rw [hacts])), ?_, fun l => ?_, ?_, ?_, ?_, fun c => ?_, hframe⟩
    · rw [hframe.prot]; rfl
    · rw [State.line, State.line, hframe.prot]; rfl
    · rw [hends.arb]; exact hempty.1
    · rw [hends.arb]; exact hempty.2.1
    · rw [hends.arb]; exact hempty.2.2
    · have hc : HallStopped (s.ch c) ((finish s (hallStopActs (s.modProt fun p => { p with hallStop := true }))).ch c) :=
        (hstopped c).then_same (by rw [hends.chans c]; exact ⟨rfl, rfl, Iff.rfl, Iff.rfl⟩)
      exact ⟨hc.holds, hc.faulted, hc.follower.2, hc.kept, hc.first⟩
  · refine next_congr ((if_pos hp).trans ?_)
    have hacts : hallStopDeasserts s = reportPart (s.modProt fun p => { p with hallStop := false }) (.hallStopAlarm false) :=
      if_pos hs
    obtain ⟨f, hf⟩ := Option.ne_none_iff_exists'.1 hsend
    have hkeeps := Link.make_keeps s.link s.hall.partTime 0xFF (.hallStopAlarm false)
    have hend : ∀ u : State, u.chans = s.chans → u.hall = s.hall →
        u.link = s.link.make s.hall.partTime 0xFF (.hallStopAlarm false) → finish s u = u := fun u hc hh hl => by
      rw [finish_calm (fun c => by rw [State.ch, State.ch, hc]) (fun c => by rw [State.ch, State.ch, hc]) (by rw [hh])]
      exact pump_busy (f := f) (by rw [hl]; exact hkeeps.sending.trans hf)
    rw [hacts]
    exact hend _ rfl rfl rfl
  · refine next_congr ?_
    have hsame : hallStopDeasserts s = s := if_neg (by rw [hs]; exact Bool.false_ne_true)
    split
    · rw [hsame, finish_of_link rfl]; exact pump_noFrameDue hdue
    · exact congrArg (fun x => { s with prot := { s.prot with hallStop := x } }) hs.symm
  · exact next_congr (if_neg hp)

end Sys2Proof.Machine
end

section
/-! PROOF. The settling of a PAUSING hall (R171, R172): a report queue that is filled while it settles. -/
namespace Sys2Proof.Machine
open Sys2Proof.Safety

/-- A HALL_STATE report. -/
def hallReport : Report := ⟨0, 0, 0xFF, .hallState .paused .pausing .settled none none true true none⟩

/-- `crowded` with a PAUSING hall, whose queue holds 32 HALL_STATE reports. -/
def crowdedPausing : State :=
  { crowded with
    hall := { crowded.hall with state := .pausing }
    link := { crowded.link with reports := List.replicate 32 hallReport } }

/-- How many HALL_STATE reports a queue holds. -/
def hallReports (q : List Report) : Nat :=
  (q.filter fun x => match x.body with | .hallState .. => true | _ => false).length

/-- The part, the state of the hall and the number of HALL_STATE reports a command leaves. -/
def hallAfter (x : Next) : Option (PartState × HallState × Nat) :=
  match x with
  | .next t => some (t.part, t.hall.state, hallReports t.link.reports)
  | _ => none

theorem crowdedPausing_after : hallAfter (exec (.confirmationTimerExpiry 0) crowdedPausing) = some (.ready, .paused, 32) := by
  decide +kernel

/-- Refutes O50: in `crowdedPausing` the expiry settles the last stage, and the hall's report joins 32 others; but what the
arbiter sheds fills the queue, so that the FAULT report of STAGE_UNSAFE takes the place of the oldest of them (R190). -/
theorem not_pauseAndWake : ¬ Obligations.PauseAndWake := by
  unfold Obligations.PauseAndWake
  rintro ⟨-, -, hsettle, -⟩
  obtain ⟨t, ht⟩ : ∃ t, exec (.confirmationTimerExpiry 0) crowdedPausing = .next t := ⟨_, rfl⟩
  have hafter : some (t.part, t.hall.state, hallReports t.link.reports) = some (.ready, .paused, 32) :=
    (congrArg hallAfter ht).symm.trans crowdedPausing_after
  obtain ⟨hpart, hstate, hcount⟩ : t.part = .ready ∧ t.hall.state = .paused ∧ hallReports t.link.reports = 32 := by
    simpa using hafter
  obtain ⟨-, hpaused⟩ := hsettle _ _ t ht (by decide +kernel) hpart (by decide +kernel)
  obtain ⟨-, htold⟩ := hpaused hstate
  have hlength := congrArg List.length (htold (by decide +kernel) (by decide +kernel) (by decide))
  rw [List.length_append, List.length_map, List.length_map] at hlength
  have hbefore : hallReports crowdedPausing.link.reports = 32 := by decide +kernel
  exact absurd (hcount.symm.trans (hlength.trans (congrArg (· + 1) hbefore))) (by decide)

end Sys2Proof.Machine
end

section
/-! PROOF. A reading that fails two checks (R53, R135, R136): the report of the first is not always followed by what the queue
held. -/
namespace Sys2Proof.Machine
open Sys2Proof.Safety

/-- CH0 awaiting a reading, with a live DISCHARGE grant that offsets the 31 grants of CH2 in the intake test, and the 32 reports
of `crowded`. -/
def offsetGrant : State :=
  { crowded with
    arb := { crowded.arb with
      grants := ⟨0, .discharge, 100, true, none⟩ :: crowded.arb.grants
      budget := { crowded.arb.budget with cRet := 1000, u := 1000 } } }.modCh 0 fun ch =>
    { ch with
      settings := { ch.settings with vMax := 100000 }
      port := { ch.port with queryAwaiting := true, outstanding := none, confTimer := none } }

/-- A reading above every voltage limit, with the stage's FAULT flag. -/
def failedReading : RawReading := ⟨0x7FFFFF, 0, 0, 0, 1⟩

theorem offsetGrant_fault {t : State} (h : exec (.reading 0 true failedReading) offsetGrant = .next t) :
    (t.link.reports.map Report.isFault)[31]? = some true :=
  have hlast : faultAt (exec (.reading 0 true failedReading) offsetGrant) 31 = some true := by decide +kernel
  (congrArg (faultAt · 31) h).symm.trans hlast

/-- Refutes O33: in `offsetGrant` the fault of LIMIT_V_HIGH releases the grant that carried the 31 others, which are shed and
fill the queue, so that the FAULT report of STAGE_REPORTED takes the place of the oldest report that was waiting (R190). -/
theorem not_readingTaken : ¬ Obligations.ReadingTaken := by
  unfold Obligations.ReadingTaken
  rintro ⟨-, -, h⟩
  obtain ⟨t, ht, -, -, -, -, -, -, -, -, hfails, -⟩ := h offsetGrant 0 failedReading (by decide +kernel) (by decide +kernel)
    (by decide +kernel)
  have hlow : ∀ j : FaultKind, ¬ j.code < FaultKind.limitVHigh.code := by intro j; cases j <;> decide
  obtain ⟨-, hreport⟩ := hfails .limitVHigh (Or.inl ⟨rfl, by decide +kernel⟩) (by decide +kernel)
    fun j hj => absurd hj (hlow j)
  obtain ⟨rest, hrest⟩ := hreport (fun hwarns => absurd hwarns.1 (by decide +kernel))
    ⟨by decide +kernel, by decide +kernel⟩
    (by decide +kernel)
    (by decide +kernel)
  have hlast := offsetGrant_fault ht
  rw [← hrest, List.append_assoc] at hlast
  exact absurd (hlast.symm.trans (crowded_plain _)) (by decide)

end Sys2Proof.Machine
end

section
/-! PROOF. START of a covered channel (R24, R148) where the arbiter's lists hold a channel twice. -/
namespace Sys2Proof.Machine
open Sys2Proof.Safety

/-- A CHARGE step with a claim of 50 W. -/
def chargeStep : StepRecord := .charge 1000 4000 (some 50) [⟨.time, 0, .hold, 1⟩]

/-- A line as LOCAL, over CH0, with its filtered level asserted. -/
def AlarmLine.covering (l : AlarmLine) : AlarmLine :=
  { l with settings := { l.settings with route := .localHold, mask := 1 }, raw := true, filtered := true }

/-- CH0 covered and ready to start, under an intake ceiling of 0; CH2 HELD by CURTAILED with a live DISCHARGE grant and a resume
entry besides. -/
def coveredStart : State :=
  (({ State.reset with
    part := .ready
    pool := [(0, chargeStep)]
    arb := { State.reset.arb with
      grants := [⟨2, .discharge, 100, true, none⟩]
      resume := [⟨2, .charge, 1, .new, some 1000, 0⟩]
      budget := { State.reset.arb.budget with cIn := 0, cRet := 1000, u := 1000 } } }.modLine 0 AlarmLine.covering).modCh 0
    fun ch =>
      { ch with
        active := some ⟨0, 1⟩
        settings := { ch.settings with grantHold := 1000 }
        port := { ch.port with presence := .present } }).modCh 2 fun ch =>
    { ch with state := .held, active := some ⟨0, 1⟩, holds := HoldCauses.empty.add .curtailed }

/-- START of CH0 in form BEGIN. -/
def beginRequest : Request := ⟨0, chByte 0, [1]⟩

/-- The hold causes of CH0 that a command leaves. -/
def holdsAfter (x : Next) : Option HoldCauses :=
  match x with
  | .next t => some (t.ch 0).holds
  | _ => none

/-- CH0 is shed in the event of its start. -/
theorem coveredStart_after :
    holdsAfter (exec (.start beginRequest) coveredStart) = some ⟨false, true, true, false, false⟩ := by decide +kernel

theorem coveredStart_silent : coveredStart.link.sending = none := by decide +kernel

/-- Refutes O20: in `coveredStart` the first evaluation grants CH2's entry and CH0's request on the strength of CH2's live
DISCHARGE grant, which CH2 releases on being handed the other; when CH0 is then held, the intake test fails and CH0 is shed, so
that it holds CURTAILED besides CHAMBER. -/
theorem not_start : ¬ Obligations.Start := by
  unfold Obligations.Start
  rintro ⟨-, h, -⟩
  obtain ⟨t, ht, -, -, -, -, -, -, -, -, -, -, -, -, hholds, -⟩ := h beginRequest coveredStart 0 ⟨0, 1⟩ chargeStep
    ⟨⟨by decide +kernel, by decide +kernel, by decide +kernel, fun _ hr => nomatch coveredStart_silent.symm.trans hr⟩, rfl, rfl⟩
    rfl (by decide +kernel) (by decide +kernel)
    (by decide +kernel) (by decide +kernel) (by decide +kernel) (by decide +kernel) (by decide +kernel) (by decide +kernel)
    ⟨by decide +kernel, by decide +kernel, by decide +kernel⟩
  have hafter : holdsAfter (.next t) = some ⟨false, true, true, false, false⟩ :=
    (congrArg holdsAfter ht).symm.trans coveredStart_after
  have hshed : (t.ch 0).holds = ⟨false, true, true, false, false⟩ := Option.some.inj hafter
  rw [hshed] at hholds
  exact absurd (congrArg HoldCauses.curtailed hholds) (by decide)

end Sys2Proof.Machine
end

section
/-! PROOF. What the acts of the channel unit make of one channel: its own figures, its demand apart, and its grants and
entries (R22, R26, R33, R34, R88, R97). -/
namespace Sys2Proof.Machine
open Sys2Proof.Safety

/-! ### A channel but for its demand -/

/-- A channel that differs from another in its port and its clamp flag at most. -/
def SameRun (a b : Channel) : Prop := b = { a with clamped := b.clamped, port := b.port }

theorem SameRun.refl (a : Channel) : SameRun a a := rfl

theorem SameRun.of {a : Channel} {x : Bool} {p : Port} : SameRun a { a with clamped := x, port := p } := rfl

theorem SameRun.trans {a b c : Channel} (h : SameRun a b) (k : SameRun b c) : SameRun a c := by
  unfold SameRun at *
  rw [k, h]

theorem SameRun.map {a b : Channel} {f : Channel → Channel} (h : SameRun a b)
    (hf : ∀ b x p, f { b with clamped := x, port := p } = { f b with clamped := x, port := p }) : SameRun (f a) (f b) := by
  unfold SameRun at h
  have hb : f b = { f a with clamped := b.clamped, port := b.port } := (congrArg f h).trans (hf a _ _)
  rw [hb]
  rfl

/-- A figure of a channel that its demand is no part of. -/
theorem SameRun.get {α : Type} {a b : Channel} (h : SameRun a b) (g : Channel → α)
    (hg : ∀ ch x p, g { ch with clamped := x, port := p } = g ch := by intros; rfl) : g b = g a := by
  rw [h]
  exact hg a _ _

theorem OnlyPort.sameRun {a b : Channel} (h : OnlyPort a b) : SameRun a b := by
  unfold OnlyPort at h
  unfold SameRun
  rw [h]

theorem issue_sameRun (s : State) (c d : Ch) : SameRun (s.ch d) ((issue s c).ch d) := by
  obtain ⟨x, p, h⟩ := issue_ch s c d
  rw [h]
  exact .of

/-! ### What an act makes of a channel -/

/-- The grant without its grant-hold timer. -/
def Grant.unidle (g : Grant) : Grant := { g with hold := none }

/-- A channel's grants once they have become idle (R98). -/
def idled (hold : Nat) (gs : List Grant) : List Grant :=
  match gs.head? with
  | none => gs
  | some g => if g.hold.isSome then gs else if hold = 0 then [] else gs.map fun g => { g with hold := some hold }

/-- A channel's request for a step (R88). -/
def requestOf (s : State) (c : Ch) (x : StepRecord) : Entry :=
  ⟨c, x.dir, claimOf s c x, .new, some (s.ch c).settings.deferralLimit, s.hall.partTime⟩

/-- An act on a channel has made `ch` of it, its demand apart, with grants `gs` and entries `ws` and `rs`. -/
structure Turned (c : Ch) (s t : State) (ch : Channel) (gs : List Grant) (ws rs : List Entry) : Prop where
  acts     : ActsOn c s t
  chan     : SameRun ch (t.ch c)
  settings : ch.settings = (s.ch c).settings
  pool     : t.pool = s.pool
  grants   : grantsOf t c = gs
  waits    : waitsOf t c = ws
  resumes  : resumesOf t c = rs

section
variable {c : Ch} {s t : State} {ch : Channel} {gs : List Grant} {ws rs : List Entry}

theorem Turned.self (c : Ch) (s : State) : Turned c s s (s.ch c) (grantsOf s c) (waitsOf s c) (resumesOf s c) :=
  ⟨.refl c s, .refl _, rfl, rfl, rfl, rfl, rfl⟩

theorem Turned.ownSettings (h : Turned c s t ch gs ws rs) : (t.ch c).settings = (s.ch c).settings := by
  rw [h.chan]
  exact h.settings

theorem Turned.claimOf (h : Turned c s t ch gs ws rs) (x : StepRecord) : claimOf t c x = claimOf s c x := by
  have hlead : isLeader t c = isLeader s c := (h.acts.chans _ (partner_ne c)).isLeader
  have hpartner : (t.ch (partner c)).settings = (s.ch (partner c)).settings := by
    rw [h.acts.chans _ (partner_ne c)]
  unfold Machine.claimOf claimLimitOf
  rw [hlead, h.ownSettings, hpartner]

theorem Turned.requestOf (h : Turned c s t ch gs ws rs) (x : StepRecord) : requestOf t c x = requestOf s c x := by
  rw [Machine.requestOf, h.claimOf, h.ownSettings, h.acts.hall, Machine.requestOf]

theorem Turned.holdsCover (h : Turned c s t ch gs ws rs) (x : StepRecord) :
    holdsCover t c x = gs.head?.any (covers s c · x) := by
  rw [holdsCover_iff, h.grants]
  simp only [covers, h.claimOf]

/-- The record at a channel's step index in its active window, with the step pool of a state. -/
def stepOf (s : State) (ch : Channel) : Option StepRecord :=
  ch.active.bind fun w => windowRead s w ch.stepIndex

theorem stepOf_self (s : State) (c : Ch) : stepOf s (s.ch c) = currentStep s c := by
  unfold stepOf currentStep
  cases (s.ch c).active <;> rfl

theorem Turned.currentStep (h : Turned c s t ch gs ws rs) : currentStep t c = stepOf s ch := by
  have hactive : (t.ch c).active = ch.active := by rw [h.chan]
  have hindex : (t.ch c).stepIndex = ch.stepIndex := by rw [h.chan]
  unfold Machine.currentStep stepOf windowRead
  rw [hactive, hindex, h.pool]
  cases ch.active <;> rfl

theorem Turned.state (h : Turned c s t ch gs ws rs) : (t.ch c).state = ch.state := by rw [h.chan]

theorem Turned.modCh (h : Turned c s t ch gs ws rs) (f : Channel → Channel)
    (hf : ∀ b x p, f { b with clamped := x, port := p } = { f b with clamped := x, port := p })
    (hset : (f ch).settings = ch.settings) : Turned c s (t.modCh c f) (f ch) gs ws rs := by
  refine ⟨h.acts.trans (.modCh c t f), ?_, hset.trans h.settings, h.pool, h.grants, h.waits, h.resumes⟩
  rw [State.ch_modCh_self]
  exact h.chan.map hf

theorem Turned.issue (h : Turned c s t ch gs ws rs) : Turned c s (issue t c) ch gs ws rs :=
  have harb := issue_arb t c
  ⟨h.acts.trans (issue_acts t c), h.chan.trans (issue_sameRun t c c), h.settings,
    (issue_runs t c).keeps.pool.trans h.pool, (grantsOf_congr c harb).trans h.grants,
    (waitsOf_congr c harb).trans h.waits, (resumesOf_congr c harb).trans h.resumes⟩

theorem Turned.modGrant (h : Turned c s t ch gs ws rs) (f : Grant → Grant) (hf : ∀ g, (f g).ch = g.ch) :
    Turned c s (modGrant t c f) ch (gs.map f) ws rs :=
  ⟨h.acts.trans (modGrant_acts t c f hf), h.chan, h.settings, h.pool, by rw [modGrant_grantsOf t c f hf, h.grants], h.waits,
    h.resumes⟩

theorem Turned.unidleGrant (h : Turned c s t ch gs ws rs) : Turned c s (unidleGrant t c) ch (gs.map Grant.unidle) ws rs :=
  h.modGrant Grant.unidle fun _ => rfl

theorem Turned.releaseGrant (h : Turned c s t ch gs ws rs) : Turned c s (releaseGrant t c) ch [] ws rs :=
  ⟨h.acts.trans (releaseGrant_acts t c), by rw [releaseGrant_ch]; exact h.chan, h.settings,
    (releaseGrant_runs t c).keeps.pool.trans h.pool, releaseGrant_grantsOf t c,
    by rw [waitsOf, releaseGrant_waiting]; exact h.waits, by rw [resumesOf, releaseGrant_resume]; exact h.resumes⟩

theorem Turned.withdrawWaiting (h : Turned c s t ch gs ws rs) : Turned c s (withdrawWaiting t c) ch gs [] rs :=
  ⟨h.acts.trans (withdrawWaiting_acts t c), by rw [withdrawWaiting_ch]; exact h.chan, h.settings,
    (withdrawWaiting_runs t c).keeps.pool.trans h.pool,
    by rw [grantsOf, withdrawWaiting_grants]; exact h.grants, withdrawWaiting_waitsOf t c,
    by rw [resumesOf, withdrawWaiting_resume]; exact h.resumes⟩

theorem Turned.lodge (h : Turned c s t ch gs ws rs) (x : StepRecord) :
    Turned c s (lodge t c x.dir (Machine.claimOf t c x)) ch gs (ws ++ [Machine.requestOf s c x]) rs := by
  refine ⟨h.acts.trans (lodge_acts t c _ _), h.chan, h.settings, h.pool, h.grants, ?_, h.resumes⟩
  rw [lodge_waitsOf, h.waits]
  show ws ++ [Machine.requestOf t c x] = _
  rw [h.requestOf]

theorem Turned.idleGrant (h : Turned c s t ch gs ws rs) :
    Turned c s (idleGrant t c) ch (idled (s.ch c).settings.grantHold gs) ws rs := by
  unfold Machine.idleGrant idled
  rw [grantOf_eq_head, h.grants, h.ownSettings]
  cases gs.head? with
  | none => exact h
  | some g =>
    dsimp only
    split
    · exact h
    · split
      · exact h.releaseGrant
      · exact h.modGrant _ fun _ => rfl

theorem Turned.exchangeGrant (h : Turned c s t ch gs ws rs) (x : StepRecord) :
    Turned c s (exchangeGrant t c x) ch [] (ws ++ [Machine.requestOf s c x]) rs := by
  have hlodge := h.releaseGrant.lodge x
  rw [h.releaseGrant.claimOf, ← h.claimOf] at hlodge
  exact hlodge

/-! ### The states a channel enters -/

/-- A channel in STARTING a step (R27). -/
def Channel.starts (ch : Channel) (x : StepRecord) : Channel :=
  { ch with state := .starting, lastDir := x.dir, startTimer := some ch.settings.startTimeout, gapTimer := none }

/-- A channel in DEFERRED (R26). -/
def Channel.defers (ch : Channel) : Channel := { ch with state := .deferred, gapTimer := none }

/-- A channel RUNNING a REST step (R22). -/
def Channel.rests (ch : Channel) : Channel := { ch with state := .running, gapTimer := none }

/-- A channel in GAP (R22). -/
def Channel.gaps (ch : Channel) (n : Nat) : Channel := { ch with state := .gap, gapTimer := some n }

theorem Turned.enterStarting (h : Turned c s t ch gs ws rs) (x : StepRecord) :
    Turned c s (enterStarting t c x) (ch.starts x) (gs.map Grant.unidle) ws rs :=
  (h.modCh (fun ch => ch.starts x) (fun _ _ _ => rfl) rfl).unidleGrant.issue

theorem Turned.enterDeferred (h : Turned c s t ch gs ws rs) : Turned c s (enterDeferred t c) ch.defers gs ws rs :=
  (h.modCh Channel.defers (fun _ _ _ => rfl) rfl).issue

theorem Turned.enterRest (h : Turned c s t ch gs ws rs) :
    Turned c s (enterRest t c) ch.rests (idled (s.ch c).settings.grantHold gs) ws rs :=
  (h.modCh Channel.rests (fun _ _ _ => rfl) rfl).issue.idleGrant

/-- Whether the first of a channel's grants covers a step. -/
def coversStep (s : State) (c : Ch) (x : StepRecord) (gs : List Grant) : Bool := gs.head?.any (covers s c · x)

theorem coversStep_self (s : State) (c : Ch) (x : StepRecord) : coversStep s c x (grantsOf s c) = holdsCover s c x :=
  (holdsCover_iff s c x).symm

/-- The entries of a channel that waits for a step: those there are, or a request. -/
def asks (s : State) (c : Ch) (x : StepRecord) (ws rs : List Entry) : List Entry :=
  if ws = [] ∧ rs = [] then [requestOf s c x] else ws

theorem Turned.settleAtGap (h : Turned c s t ch gs ws rs) (x : StepRecord) :
    Turned c s (settleAtGap t c x) ch (if coversStep s c x gs then gs.map Grant.unidle else [])
      (if coversStep s c x gs then ws else asks s c x ws rs) rs := by
  unfold Machine.settleAtGap
  rw [h.holdsCover, ← coversStep]
  by_cases hcover : coversStep s c x gs = true
  · simp only [hcover, if_true]
    have hone := h.unidleGrant
    refine iteInduction (motive := fun u => Turned c s u ch (gs.map Grant.unidle) ws rs) (fun _ => hone) fun hnot => absurd ?_ hnot
    have hgrant : (grantOf (Machine.unidleGrant t c) c).isSome = true := by
      rw [grantOf_eq_head, hone.grants, List.head?_map]
      unfold coversStep at hcover
      cases hg : gs.head? with
      | none => rw [hg] at hcover; cases hcover
      | some g => rfl
    rw [hgrant]
    rfl
  · simp only [hcover, Bool.false_eq_true, if_false]
    have hone := h.releaseGrant
    have hgrant : (grantOf (Machine.releaseGrant t c) c).isSome = false := by rw [grantOf_eq_head, hone.grants]; rfl
    by_cases hnone : ws = [] ∧ rs = []
    · obtain ⟨rfl, rfl⟩ := hnone
      rw [if_neg, asks, if_pos ⟨rfl, rfl⟩]
      · exact hone.lodge x
      · rw [hgrant, Bool.or_eq_true, Bool.or_eq_true, hasResume_iff, hasWaiting_iff, hone.waits, hone.resumes]
        simp
    · rw [if_pos, asks, if_neg hnone]
      · exact hone
      · rw [hgrant, Bool.or_eq_true, Bool.or_eq_true, hasResume_iff, hasWaiting_iff, hone.waits, hone.resumes]
        tauto

/-! ### Gaps (R22, R26) -/

section
variable {x : StepRecord}

theorem coversStep_unidle (s : State) (c : Ch) (x : StepRecord) (gs : List Grant) :
    coversStep s c x (gs.map Grant.unidle) = coversStep s c x gs := by
  unfold coversStep
  rw [List.head?_map, Option.any_map]
  rfl

theorem unidle_unidle (gs : List Grant) : (gs.map Grant.unidle).map Grant.unidle = gs.map Grant.unidle := by
  rw [List.map_map]
  rfl

theorem Turned.gapExpires_cover (h : Turned c s t ch gs ws rs) (hx : stepOf s ch = some x)
    (hcover : coversStep s c x gs = true) : Turned c s (gapExpires t c) (ch.starts x) (gs.map Grant.unidle) ws rs := by
  unfold Machine.gapExpires
  rw [h.currentStep, hx]
  dsimp only
  rw [if_pos (by rw [h.holdsCover]; exact hcover)]
  exact h.enterStarting x

theorem Turned.gapExpires_wait (h : Turned c s t ch gs ws rs) (hx : stepOf s ch = some x)
    (hcover : coversStep s c x gs = false) :
    Turned c s (gapExpires t c) ch.defers [] (if gs = [] then ws else ws ++ [Machine.requestOf s c x]) rs := by
  unfold Machine.gapExpires
  rw [h.currentStep, hx]
  dsimp only
  rw [if_neg (by rw [h.holdsCover]; exact Bool.not_eq_true _ ▸ hcover), grantOf_eq_head, h.grants]
  cases gs with
  | nil => exact h.enterDeferred
  | cons g gs => exact (h.exchangeGrant x).enterDeferred

theorem Turned.enterGap_cover (h : Turned c s t ch gs ws rs) (hx : stepOf s ch = some x) (gap : Nat)
    (hcover : coversStep s c x gs = true) :
    Turned c s (enterGap t c x gap) (if gap = 0 then ch.starts x else ch.gaps gap) (gs.map Grant.unidle) ws rs := by
  have hgap := ((h.modCh (fun ch => ch.gaps gap) (fun _ _ _ => rfl) rfl).settleAtGap x).issue
  rw [if_pos hcover, if_pos hcover] at hgap
  unfold Machine.enterGap
  dsimp only
  split
  · have hstart := hgap.gapExpires_cover hx (by rw [coversStep_unidle]; exact hcover)
    rw [unidle_unidle] at hstart
    exact hstart
  · exact hgap

theorem Turned.enterGap_wait (h : Turned c s t ch gs ws rs) (hx : stepOf s ch = some x) (gap : Nat)
    (hcover : coversStep s c x gs = false) :
    Turned c s (enterGap t c x gap) (if gap = 0 then ch.defers else ch.gaps gap) [] (asks s c x ws rs) rs := by
  have hgap := ((h.modCh (fun ch => ch.gaps gap) (fun _ _ _ => rfl) rfl).settleAtGap x).issue
  rw [if_neg (by rw [hcover]; exact Bool.false_ne_true), if_neg (by rw [hcover]; exact Bool.false_ne_true)] at hgap
  unfold Machine.enterGap
  dsimp only
  split
  · exact hgap.gapExpires_wait hx rfl
  · exact hgap

theorem Turned.beginStep_rest (h : Turned c s t ch gs ws rs) (hx : stepOf s ch = some x) (hrest : x.kind = .rest) :
    Turned c s (beginStep t c) ch.rests (idled (s.ch c).settings.grantHold gs) ws rs := by
  unfold Machine.beginStep
  rw [h.currentStep, hx]
  dsimp only
  rw [if_pos hrest]
  exact h.enterRest

theorem Turned.gapFor (h : Turned c s t ch gs ws rs) : gapFor (t.ch c) x = gapFor ch x := by
  rw [h.chan]
  rfl

theorem Turned.beginStep_cover (h : Turned c s t ch gs ws rs) (hx : stepOf s ch = some x) (hrest : x.kind ≠ .rest)
    (hcover : coversStep s c x gs = true) : Turned c s (beginStep t c)
      (if Machine.gapFor ch x = 0 then ch.starts x else ch.gaps (Machine.gapFor ch x)) (gs.map Grant.unidle) ws rs := by
  unfold Machine.beginStep
  rw [h.currentStep, hx]
  dsimp only
  rw [if_neg hrest, h.gapFor]
  exact h.enterGap_cover hx _ hcover

theorem Turned.beginStep_wait (h : Turned c s t ch gs ws rs) (hx : stepOf s ch = some x) (hrest : x.kind ≠ .rest)
    (hcover : coversStep s c x gs = false) : Turned c s (beginStep t c)
      (if Machine.gapFor ch x = 0 then ch.defers else ch.gaps (Machine.gapFor ch x)) [] (asks s c x ws rs) rs := by
  unfold Machine.beginStep
  rw [h.currentStep, hx]
  dsimp only
  rw [if_neg hrest, h.gapFor]
  exact h.enterGap_wait hx _ hcover

/-! ### Leaving HELD (R34) -/

theorem Turned.leaveHeld_before (h : Turned c s t ch gs ws rs) (hb : ch.heldBefore = true) :
    Machine.leaveHeld t c = Machine.beginStep (t.modCh c fun ch => { ch with heldBefore := false }) c := by
  unfold Machine.leaveHeld
  rw [if_pos (by rw [h.chan]; exact hb)]

theorem Turned.leaveHeld_rest (h : Turned c s t ch gs ws rs) (hb : ch.heldBefore = false) (hx : stepOf s ch = some x)
    (hrest : x.kind = .rest) :
    Turned c s (leaveHeld t c) ch.rests (idled (s.ch c).settings.grantHold gs) ws rs := by
  unfold Machine.leaveHeld
  rw [if_neg (by rw [h.chan]; exact Bool.not_eq_true _ ▸ hb), h.currentStep, hx]
  dsimp only
  rw [if_pos hrest]
  exact h.enterRest

theorem Turned.leaveHeld_cover (h : Turned c s t ch gs ws rs) (hb : ch.heldBefore = false) (hx : stepOf s ch = some x)
    (hrest : x.kind ≠ .rest) (hcover : coversStep s c x gs = true) :
    Turned c s (leaveHeld t c) (ch.starts x) (gs.map Grant.unidle) ws rs := by
  unfold Machine.leaveHeld
  rw [if_neg (by rw [h.chan]; exact Bool.not_eq_true _ ▸ hb), h.currentStep, hx]
  dsimp only
  rw [if_neg hrest, if_pos (by rw [h.holdsCover]; exact hcover)]
  exact h.enterStarting x

theorem Turned.leaveHeld_wait (h : Turned c s t ch gs ws rs) (hb : ch.heldBefore = false) (hx : stepOf s ch = some x)
    (hrest : x.kind ≠ .rest) (hcover : coversStep s c x gs = false) :
    Turned c s (leaveHeld t c) ch.defers [] (if rs = [] then ws ++ [Machine.requestOf s c x] else ws) rs := by
  have hdefers := h.releaseGrant.enterDeferred
  unfold Machine.leaveHeld
  rw [if_neg (by rw [h.chan]; exact Bool.not_eq_true _ ▸ hb), h.currentStep, hx]
  dsimp only
  rw [if_neg hrest, if_neg (by rw [h.holdsCover]; exact Bool.not_eq_true _ ▸ hcover)]
  by_cases hrs : rs = []
  · rw [if_neg (by rw [hasResume_iff, hdefers.resumes]; exact not_not.2 hrs), if_pos hrs]
    exact hdefers.lodge x
  · rw [if_pos (by rw [hasResume_iff, hdefers.resumes]; exact hrs), if_neg hrs]
    exact hdefers

/-! ### A grant handed over (R91) -/

/-- A channel that no longer holds CURTAILED. -/
def Channel.uncurtailed (ch : Channel) : Channel := { ch with holds := ch.holds.drop .curtailed }

theorem Turned.uncurtailed (h : Turned c s t ch gs ws rs) :
    Turned c s (t.modCh c fun ch => { ch with holds := ch.holds.drop .curtailed }) ch.uncurtailed gs ws rs :=
  h.modCh Channel.uncurtailed (fun _ _ _ => rfl) rfl

theorem Turned.handOver_gap (h : Turned c s t ch gs ws rs) (hx : stepOf s ch = some x) (hs : ch.state = .gap) :
    handOver t c = if coversStep s c x gs then t else Machine.exchangeGrant t c x := by
  unfold handOver
  rw [h.currentStep, hx]
  dsimp only
  rw [h.state, hs, h.holdsCover]
  rfl

theorem Turned.handOver_deferred (h : Turned c s t ch gs ws rs) (hx : stepOf s ch = some x) (hs : ch.state = .deferred) :
    handOver t c = if coversStep s c x gs then Machine.enterStarting t c x else Machine.exchangeGrant t c x := by
  unfold handOver
  rw [h.currentStep, hx]
  dsimp only
  rw [h.state, hs, h.holdsCover]
  rfl

theorem Turned.handOver_held (h : Turned c s t ch gs ws rs) (hx : stepOf s ch = some x) (hs : ch.state = .held) :
    handOver t c =
      if ch.uncurtailed.holds = HoldCauses.empty then
        Machine.leaveHeld (t.modCh c fun ch => { ch with holds := ch.holds.drop .curtailed }) c
      else if ch.uncurtailed.holds.keepsIdle then
        Machine.idleGrant (t.modCh c fun ch => { ch with holds := ch.holds.drop .curtailed }) c
      else t.modCh c fun ch => { ch with holds := ch.holds.drop .curtailed } := by
  have hholds : ((t.modCh c fun ch => { ch with holds := ch.holds.drop .curtailed }).ch c).holds = ch.uncurtailed.holds := by
    rw [h.uncurtailed.chan]
  unfold handOver
  rw [h.currentStep, hx]
  dsimp only
  rw [h.state, hs]
  dsimp only
  rw [hholds]

theorem Turned.handOver_running (h : Turned c s t ch gs ws rs) (hx : stepOf s ch = some x) (hs : ch.state = .running) :
    handOver t c = if x.kind = .rest then Machine.idleGrant t c else t := by
  unfold handOver
  rw [h.currentStep, hx]
  dsimp only
  rw [h.state, hs]

end

end

end Sys2Proof.Machine
end

section
/-! PROOF. What becomes of a channel that is shed (R100 to R102), and the two acts that shed or evaluate for a change of the
ceilings: SET_BUDGET (R87) and the curtailment line (R176, R177). -/
namespace Sys2Proof.Machine
open Sys2Proof.Safety

section
variable {c : Ch} {s t u v : State} {ch : Channel} {gs : List Grant} {ws rs : List Entry} {x : StepRecord}

/-! ### A grant that is handed over leads to a run, a request, or an idle grant given up -/

/-- A channel holds a grant or waits with a request, or its grant hold is 0. -/
def Provided (c : Ch) (u : State) : Prop := grantsOf u c ≠ [] ∨ waitsOf u c ≠ [] ∨ (u.ch c).settings.grantHold = 0

theorem Turned.provided (h : Turned c s t ch gs ws rs) (hp : gs ≠ [] ∨ ws ≠ [] ∨ (s.ch c).settings.grantHold = 0) :
    Provided c t := by
  rw [Provided, h.grants, h.waits, h.ownSettings]
  exact hp

theorem idled_provided (n : Nat) (hgs : gs ≠ []) : idled n gs ≠ [] ∨ n = 0 := by
  cases gs with
  | nil => exact absurd rfl hgs
  | cons g gs =>
    unfold idled
    dsimp only [List.head?_cons]
    split
    · exact .inl hgs
    · split
      · exact .inr ‹_›
      · exact .inl (by simp)

theorem ne_nil_of_coversStep (h : coversStep s c x gs = true) : gs ≠ [] := by
  rintro rfl
  cases h

theorem asks_nil (s : State) (c : Ch) (x : StepRecord) : asks s c x [] [] = [requestOf s c x] := if_pos ⟨rfl, rfl⟩

theorem Turned.provided_idle (h : Turned c s t ch (idled (s.ch c).settings.grantHold gs) ws rs) (hgs : gs ≠ []) :
    Provided c t :=
  h.provided ((idled_provided _ hgs).imp_right Or.inr)

/-- A step begun with a grant. -/
theorem Turned.beginStep_provided (h : Turned c s t ch gs [] []) (hx : stepOf s ch = some x) (hgs : gs ≠ []) :
    Provided c (Machine.beginStep t c) ∧ ((Machine.beginStep t c).ch c).holds = ch.holds := by
  by_cases hrest : x.kind = .rest
  · have hbegun := h.beginStep_rest hx hrest
    exact ⟨hbegun.provided_idle hgs, hbegun.chan.get Channel.holds⟩
  · cases hcover : coversStep s c x gs
    · have hbegun := h.beginStep_wait hx hrest hcover
      rw [asks_nil] at hbegun
      refine ⟨hbegun.provided (.inr (.inl (by simp))), ?_⟩
      refine (hbegun.chan.get Channel.holds).trans ?_
      split <;> rfl
    · have hbegun := h.beginStep_cover hx hrest hcover
      refine ⟨hbegun.provided (.inl (by simpa using hgs)), ?_⟩
      refine (hbegun.chan.get Channel.holds).trans ?_
      split <;> rfl

theorem Turned.leaveHeld_provided (h : Turned c s t ch gs [] []) (hx : stepOf s ch = some x) (hgs : gs ≠ []) :
    Provided c (Machine.leaveHeld t c) ∧ ((Machine.leaveHeld t c).ch c).holds = ch.holds := by
  cases hb : ch.heldBefore
  · by_cases hrest : x.kind = .rest
    · have hleft := h.leaveHeld_rest hb hx hrest
      exact ⟨hleft.provided_idle hgs, hleft.chan.get Channel.holds⟩
    · cases hcover : coversStep s c x gs
      · have hleft := h.leaveHeld_wait hb hx hrest hcover
        exact ⟨hleft.provided (.inr (.inl (by simp))), hleft.chan.get Channel.holds⟩
      · have hleft := h.leaveHeld_cover hb hx hrest hcover
        exact ⟨hleft.provided (.inl (by simpa using hgs)), hleft.chan.get Channel.holds⟩
  · rw [h.leaveHeld_before hb]
    exact (h.modCh (fun ch => { ch with heldBefore := false }) (fun _ _ _ => rfl) rfl).beginStep_provided hx hgs

theorem Turned.exchanged_provided {b : Channel} {hs : List Grant} (h : Turned c s t ch gs [] [])
    (hc : ch.holds.curtailed = false) (hu : Turned c s u b hs [] []) (hb : b.holds = ch.holds) (hhs : hs ≠ []) (p : Bool) :
    grantsOf (if p then u else Machine.exchangeGrant t c x) c ≠ [] ∨
      Provided c (if p then u else Machine.exchangeGrant t c x) ∧
        ((if p then u else Machine.exchangeGrant t c x).ch c).holds.curtailed = false := by
  have hexchanged := h.exchangeGrant x
  refine .inr ?_
  cases p
  · exact ⟨hexchanged.provided (.inr (.inl (by simp))), (hexchanged.chan.get fun ch => ch.holds.curtailed).trans hc⟩
  · exact ⟨hu.provided (.inl hhs), (hu.chan.get fun ch => ch.holds.curtailed).trans ((congrArg HoldCauses.curtailed hb).trans hc)⟩

/-- A channel that has just been granted keeps the grant, exchanges it for a request, or has given it up as idle; and a HELD
channel with a step no longer holds CURTAILED. -/
theorem Turned.handOver_provided (h : Turned c s t ch gs [] []) (hgs : gs ≠ []) (hs : ch.state = .held ∨ ch.holds.curtailed = false) :
    grantsOf (handOver t c) c ≠ [] ∨ Provided c (handOver t c) ∧ ((handOver t c).ch c).holds.curtailed = false := by
  cases hx : stepOf s ch with
  | none =>
    refine .inl ?_
    rw [handOver, h.currentStep, hx]
    rw [h.grants]
    exact hgs
  | some x =>
    cases hstate : ch.state with
    | held =>
      refine .inr ?_
      rw [h.handOver_held hx hstate]
      refine iteInduction (motive := fun u => Provided c u ∧ (u.ch c).holds.curtailed = false) (fun _ => ?_) fun _ =>
        iteInduction (motive := fun u => Provided c u ∧ (u.ch c).holds.curtailed = false) (fun _ => ?_) fun _ => ?_
      · obtain ⟨hprovided, hholds⟩ := h.uncurtailed.leaveHeld_provided hx hgs
        exact ⟨hprovided, congrArg HoldCauses.curtailed hholds⟩
      · have hidle := h.uncurtailed.idleGrant
        exact ⟨hidle.provided_idle hgs, hidle.chan.get fun ch => ch.holds.curtailed⟩
      · exact ⟨h.uncurtailed.provided (.inl hgs), h.uncurtailed.chan.get fun ch => ch.holds.curtailed⟩
    | gap =>
      rw [h.handOver_gap hx hstate]
      exact h.exchanged_provided (hs.resolve_left (by rw [hstate]; decide)) h rfl hgs _
    | deferred =>
      rw [h.handOver_deferred hx hstate]
      exact h.exchanged_provided (hs.resolve_left (by rw [hstate]; decide)) (h.enterStarting x) rfl (by simpa using hgs) _
    | running =>
      rw [h.handOver_running hx hstate]
      have hcurtailed := hs.resolve_left (by rw [hstate]; decide)
      refine .inr (iteInduction (motive := fun u => Provided c u ∧ (u.ch c).holds.curtailed = false) (fun _ => ?_) fun _ => ?_)
      · have hidle := h.idleGrant
        exact ⟨hidle.provided_idle hgs, (hidle.chan.get fun ch => ch.holds.curtailed).trans hcurtailed⟩
      · exact ⟨h.provided (.inl hgs), (h.chan.get fun ch => ch.holds.curtailed).trans hcurtailed⟩
    | _ =>
      refine .inl ?_
      rw [handOver, h.currentStep, hx]
      dsimp only
      rw [h.state, hstate]
      dsimp only
      rw [h.grants]
      exact hgs

/-! ### A shed channel through the arbiter's handling -/

/-- What becomes of a shed channel: it is HELD with CURTAILED and its resume entry, or holds a grant again, or no longer holds
CURTAILED and waits with a request or has no grant hold. -/
def AfterShed (c : Ch) (u : State) : Prop :=
  HeldCurtailed (u.ch c) ∧ resumesOf u c ≠ [] ∨ grantsOf u c ≠ [] ∨ Provided c u ∧ (u.ch c).holds.curtailed = false

theorem afterShed_carried (c : Ch) : Carried c fun u => AtPlace u c ∧ AfterShed c u where
  own u v k h := by
    obtain ⟨hplace, hafter⟩ := h
    have hsettings : (v.ch c).settings = (u.ch c).settings := by rw [k.chan]
    have hholds : (v.ch c).holds = (u.ch c).holds := by rw [k.chan]
    refine ⟨hplace.mono (by rw [k.grants]) (by rw [k.waits]) (by rw [k.resumes]) k.state, ?_⟩
    unfold AfterShed Provided HeldCurtailed
    rw [k.grants, k.waits, k.resumes, hsettings, hholds, k.state]
    exact hafter
  once u h := h.1.once
  grant u v e he h := by
    obtain ⟨hplace, hafter⟩ := h
    have hentry : waitsOf u c ≠ [] ∨ resumesOf u c ≠ [] := by
      rcases he.entry with ⟨hw, -⟩ | ⟨-, hr⟩
      · exact .inl (by rw [hw]; simp)
      · exact .inr (by rw [hr]; simp)
    have hstate : (v.ch c).state = (u.ch c).state := OnlyPort.state he.chan
    have hholds : (v.ch c).holds = (u.ch c).holds := by rw [he.chan]
    have hholdable : (v.ch c).state.holdable = true := by
      rw [hstate]
      refine hplace.states fun e => ?_
      obtain ⟨-, hw, hr⟩ := places_zero e
      exact hentry.elim (absurd hw) (absurd hr)
    have hplaced : AtPlace v c := .of_unwaiting (by rw [places, he.grants, he.waits, he.resumes]; rfl) he.waits hholdable
    have hturned : Turned c v v (v.ch c) [e.grant] [] [] :=
      ⟨.refl c v, .refl _, rfl, rfl, he.grants, he.waits, he.resumes⟩
    have hhands := hturned.handOver_provided (by simp) (by
      rw [hstate, hholds]
      rcases hafter with ⟨⟨hheld, -⟩, -⟩ | hgrant | ⟨-, hfree⟩
      · exact .inl hheld
      · exact absurd he.before hgrant
      · exact .inr hfree)
    exact ⟨hplaced.handOver (by rw [he.grants]; simp), .inr hhands⟩

/-- A channel whose grant is among those shed has its resume entry and is HELD with CURTAILED. -/
theorem shed_afterShed (h : Placed s) {x : Grant × BudgetTest}
    (hx : x ∈ (shedLoop s.arb.budget (cEffOf s) (s.arb.grants.length + 1) s.arb.grants).2) : AfterShed x.1.ch (shed s) := by
  obtain ⟨htrace, -⟩ := shedLoop_removals (b := s.arb.budget) (cEff := cEffOf s) (last := none)
    (s.arb.grants.length + 1) (Nat.lt_succ_self _) (by simp)
  rcases shed_eq s with ⟨-, hnone⟩ | hs
  · rw [hnone] at hx
    cases hx
  · rw [hs]
    generalize shedLoop s.arb.budget (cEffOf s) (s.arb.grants.length + 1) s.arb.grants = r at htrace hx ⊢
    have hgrant : x.1 ∈ grantsOf s x.1.ch := mem_grantsOf.2 ⟨(htrace.mem x hx).1, rfl⟩
    have hholdable : (s.ch x.1.ch).state.holdable = true := (h _).states fun e => by
      rw [(places_zero e).1] at hgrant
      cases hgrant
    have hentry : shedEntry s x.1 ∈ resumesOf (shedAll (s.modArb fun a => { a with grants := r.1, evalDue := true }) r.2) x.1.ch := by
      refine mem_resumesOf.2 ⟨?_, rfl⟩
      rw [shedAll_resume]
      exact List.mem_append_right _ (List.mem_map.2 ⟨x, hx, rfl⟩)
    exact .inl ⟨shedAll_curtailed (.inr ⟨hholdable, x, hx, rfl⟩), List.ne_nil_of_mem hentry⟩

/-- The arbiter's handling of a change of the ceilings: what it does to the grants. -/
theorem settle_ceilings (h : Placed s) : Placed (settle s) ∧ Quiet (settle s) ∧
    (testsHold s = true → ∀ g ∈ s.arb.grants, g ∈ (settle s).arb.grants) ∧
    ∀ x ∈ (shedLoop s.arb.budget (cEffOf s) (s.arb.grants.length + 1) s.arb.grants).2, AfterShed x.1.ch (settle s) := by
  obtain ⟨hplaced, hquiet⟩ := settle_placed h
  refine ⟨hplaced, hquiet, fun ht g hg => ?_, fun x hx => ?_⟩
  · have hmem : g ∈ grantsOf s g.ch := mem_grantsOf.2 ⟨hg, rfl⟩
    have hown := settle_granted (h g.ch).once (List.ne_nil_of_mem hmem) ht
    rw [← hown.grants] at hmem
    exact (mem_grantsOf.1 hmem).1
  · obtain ⟨hshed, -⟩ := shed_placed h
    exact (evaluateDue_carried (afterShed_carried x.1.ch) (settleFuel (shed s)) ⟨hshed _, shed_afterShed h hx⟩).2

/-- A shed channel, in the words of the obligations. -/
theorem AfterShed.cases (h : AfterShed c u) :
    ((u.ch c).state = .held ∧ (u.ch c).holds.curtailed = true ∧ ∃ e ∈ u.arb.resume, e.ch = c) ∨
      (∃ g ∈ u.arb.grants, g.ch = c) ∨ (∃ e ∈ u.arb.waiting, e.ch = c) ∨
      (u.ch c).holds.curtailed = false ∧ (u.ch c).settings.grantHold = 0 := by
  have hgranted : grantsOf u c ≠ [] → ∃ g ∈ u.arb.grants, g.ch = c := fun hg => by
    obtain ⟨g, hmem⟩ := List.exists_mem_of_ne_nil _ hg
    exact ⟨g, mem_grantsOf.1 hmem⟩
  rcases h with ⟨⟨hheld, hcurtailed⟩, hr⟩ | hg | ⟨hg | hw | hhold, hfree⟩
  · obtain ⟨e, hmem⟩ := List.exists_mem_of_ne_nil _ hr
    exact .inl ⟨hheld, hcurtailed, e, mem_resumesOf.1 hmem⟩
  · exact .inr (.inl (hgranted hg))
  · exact .inr (.inl (hgranted hg))
  · obtain ⟨e, hmem⟩ := List.exists_mem_of_ne_nil _ hw
    exact .inr (.inr (.inl ⟨e, mem_waitsOf.1 hmem⟩))
  · exact .inr (.inr (.inr ⟨hfree, hhold⟩))

end

/-! ### SET_BUDGET (R87) -/

theorem BudgetPatch.apply_eq (p : BudgetPatch) (b : BudgetSettings) : p.apply b =
    ⟨min 400000 (p.cIn.getD b.cIn), min (p.cCurt.getD b.cCurt) (min 400000 (p.cIn.getD b.cIn)),
      min 400000 (p.cRet.getD b.cRet), max 800 (min 1000 (p.eta.getD b.eta)), min 1000 (p.u.getD b.u)⟩ := by
  simp [BudgetPatch.apply, BudgetSettings.clamp, clampNat]

theorem Ends.testsHold {s t : State} (h : Ends s t) : testsHold t = testsHold s :=
  testsHold_congr (by rw [h.arb]) (by rw [h.arb]) (by rw [cEffOf, cEffOf, h.hall, h.arb])

/-- Settles O17. -/
theorem setBudget : Obligations.SetBudget := by
  unfold Obligations.SetBudget
  intro r s hto p carries old cIn new cEff
  have hb : r.body.length ≤ 1024 := by rw [hto.length]; decide
  have hset : (s.modArb fun a => { a with budget := (budgetPatch r.body).apply a.budget }) = s.modArb fun a => { a with budget := new } :=
    congrArg (fun b => s.modArb fun a => { a with budget := b }) (BudgetPatch.apply_eq (budgetPatch r.body) s.arb.budget)
  obtain ⟨u, hu⟩ : ∃ u, u = settleEvaluating (s.modArb fun a => { a with budget := new }) := ⟨_, rfl⟩
  have hruns : Runs (s.modArb fun a => { a with budget := new }) u := hu ▸ settleEvaluating_runs _
  have hbudget : u.arb.budget = new := hruns.keeps.budget
  have hhall : u.hall = s.hall := hruns.hall
  have hceiling : cEffOf u = cEff := by
    unfold cEffOf
    rw [hbudget, hhall]
  have htake : takeKind .setBudget r s = (u, .ok (.budgetSet new cEff s.hall.curtFiltered (sumsOf new.eta u.arb.grants))) := by
    have hdef : takeKind .setBudget r s = _ := takeSetBudget.eq_def r s
    rw [takePart_of hto rfl, hset] at hdef
    dsimp only at hdef
    rw [← hu, hceiling, hbudget, hhall] at hdef
    exact hdef
  obtain ⟨hanswered, hends⟩ := request_ends hto.free hb htake
  refine ⟨rfl, _, rfl, ?_, ?_, hends.arb.trans (congrArg State.arb hu), fun hsound => ?_, hends.frame hruns.keeps.frame,
    hends.hall.trans hruns.hall, fun c => hends.run (hruns.chans c)⟩
  · rw [hends.arb]
    exact hanswered
  · rw [hends.arb]
    exact hbudget
  · obtain ⟨⟨hplaced, -⟩, -⟩ := (arbiterSound_iff s).1 hsound
    have hstart : Placed ((s.modArb fun a => { a with budget := new }).modArb fun a => { a with evalDue := true }) := fun c =>
      (hplaced c).mono (Nat.le_refl _) (Nat.le_refl _) (Nat.le_refl _) rfl
    obtain ⟨-, ⟨htests, hdue⟩, hstay, hshed⟩ := settle_ceilings hstart
    rw [← settleEvaluating, ← hu] at htests hdue hstay hshed
    refine ⟨hends.testsHold.trans htests, by rw [hends.arb]; exact hdue, fun hw g hg => ?_, fun x hx => ?_⟩
    · rw [hends.arb]
      exact hstay hw g hg
    · have hcases := (hshed x hx).cases
      rw [(hruns.keeps.chans x.1.ch).settings] at hcases
      rw [hends.arb, hends.get _ Channel.state, hends.get _ Channel.holds]
      exact hcases

end Sys2Proof.Machine
end

section
/-! PROOF. The curtailment line (R176, R177). -/
namespace Sys2Proof.Machine
open Sys2Proof.Safety

section
variable {s t : State}

theorem settleEvaluating_grows (s : State) : Grows s (settleEvaluating s) := Grows.trans (.of_link rfl) (settle_grows _)

/-! ### Waking the hall (R173) -/

/-- A cause removed: the channel leaves HELD at most. -/
theorem removeCauses_runs (s : State) (c : Ch) (f : HoldCauses → HoldCauses) :
    Runs (s.modCh c fun ch => { ch with holds := f ch.holds }) (removeCauses s c f) := by
  unfold removeCauses
  dsimp only
  split
  · rename_i h
    exact leaveHeld_runs _ c (by rw [h.1]; rfl)
  · exact .refl _

theorem appendAll_link (l : List PauseEntry) (s : State) : (appendAll s l).link = s.link := by
  induction l generalizing s with
  | nil => rfl
  | cons e l ih => exact ih _

theorem appendAll_hall (l : List PauseEntry) (s : State) : (appendAll s l).hall = s.hall := by
  induction l generalizing s with
  | nil => rfl
  | cons e l ih => exact ih _

theorem unpauseAll_link (l : List Ch) (s : State) : (unpauseAll s l).link = s.link := by
  induction l generalizing s with
  | nil => rfl
  | cons c l ih => exact (ih _).trans (removeCauses_link s c _)

theorem unpauseAll_hall (l : List Ch) (s : State) : (unpauseAll s l).hall = s.hall := by
  induction l generalizing s with
  | nil => rfl
  | cons c l ih => exact (ih _).trans (removeCauses_acts s c _).hall

/-- PAUSE is removed from each channel of the list, and given to none (R173). -/
theorem unpauseAll_pause (l : List Ch) (s : State) (c : Ch) (h : c ∈ l ∨ (s.ch c).holds.pause = false) :
    ((unpauseAll s l).ch c).holds.pause = false := by
  induction l generalizing s with
  | nil => exact h.resolve_left List.not_mem_nil
  | cons d l ih =>
    refine ih _ ?_
    have hpause := ((removeCauses_runs s d fun h => h.drop .pause).chans c).pause
    by_cases e : c = d
    · subst e
      rw [State.ch_modCh_self] at hpause
      exact .inr hpause
    · rw [State.ch_modCh_ne _ e] at hpause
      exact h.imp (fun hc => (List.mem_cons.1 hc).resolve_left e) hpause.trans

/-- What waking leaves of the hall, of the causes and of the reports (R173, R178). -/
theorem wakeHall_effect (s : State) (cause : HallCause) :
    (wakeHall s cause).hall = { s.hall with state := .active, wakeTimer := none, pauseOrder := [] } ∧
      (∀ c, ((wakeHall s cause).ch c).holds.pause = false) ∧ Grows s (wakeHall s cause) ∧
      Keeps (s.modHall fun h => { h with state := .active, wakeTimer := none, pauseOrder := [] }) (wakeHall s cause) := by
  unfold wakeHall
  dsimp only
  generalize stillNeeded s s.hall.pauseOrder = l
  obtain ⟨u, hu⟩ : ∃ u, u = unpauseAll (appendAll (s.modHall fun h => { h with state := .active, wakeTimer := none, pauseOrder := [] }) l)
    allCh := ⟨_, rfl⟩
  rw [← hu]
  have hruns := settleEvaluating_runs u
  have hhall : u.hall = { s.hall with state := .active, wakeTimer := none, pauseOrder := [] } := by
    rw [hu, unpauseAll_hall, appendAll_hall]
    rfl
  have hlink : u.link = s.link := by rw [hu, unpauseAll_link, appendAll_link]; rfl
  refine ⟨hruns.hall.trans hhall, fun c => ?_, ?_, ?_⟩
  · refine ((hruns.chans c).pause).trans ?_
    rw [hu]
    exact unpauseAll_pause allCh _ c (.inl (mem_allCh c))
  · exact ((Grows.of_link hlink).trans (settleEvaluating_grows u)).trans (reportPart_grows _ _ fun _ _ _ => rfl)
  · rw [hu] at hruns ⊢
    exact (((appendAll_keeps _ _).trans (unpauseAll_keeps _ _)).trans hruns.keeps).trans (reportPart_keeps _ _)

/-! ### The filtered level (R177) -/

/-- The report of a filtered level, with the level taken. -/
def curtailReported (s : State) : State :=
  let u := s.modHall fun h => { h with curtFiltered := h.curtRaw, curtTimer := none }
  reportPart u (.curtail s.hall.curtRaw (cEffOf u) s.arb.budget.cIn s.arb.budget.cCurt)

/-- The arbiter's handling of a C_eff that has been another. -/
def curtailSettled (was : Nat) (u : State) : State :=
  if was < cEffOf u then settleEvaluating u else if cEffOf u < was then settle u else u

theorem curtailChanges_eq (s : State) : curtailChanges s =
    let u := curtailSettled (cEffOf s) (curtailReported s)
    if s.hall.curtRaw = false ∧ u.hall.wakeByCurtail = true ∧ u.hall.state ≠ .active then wakeHall u .curtailEnd else u := by
  have hlevel : (!s.hall.curtRaw) = true ↔ s.hall.curtRaw = false := by simp
  unfold curtailChanges
  simp only [hlevel]
  rfl

theorem curtailSettled_effect (was : Nat) (u : State) :
    Runs u (curtailSettled was u) ∧ Grows u (curtailSettled was u) := by
  unfold curtailSettled
  split
  · exact ⟨settleEvaluating_runs u, settleEvaluating_grows u⟩
  · split
    · exact ⟨settle_runs u, settle_grows u⟩
    · exact ⟨.refl u, .refl u⟩

theorem shedLoop_calm {b : BudgetSettings} {cEff fuel : Nat} {gs : List Grant} (h : withinCeilings b cEff gs = true) :
    (shedLoop b cEff fuel gs).2 = [] := by
  cases fuel with
  | zero => rfl
  | succ n => rw [shedLoop, if_pos h]

/-- The arbiter's handling of a new C_eff: what it does to the grants. -/
theorem curtailSettled_grants {was : Nat} {u : State} (h : Placed u)
    (ht : cEffOf u = was → testsHold u = true) :
    (testsHold u = true → ∀ g ∈ u.arb.grants, g ∈ (curtailSettled was u).arb.grants) ∧
      ∀ x ∈ (shedLoop u.arb.budget (cEffOf u) (u.arb.grants.length + 1) u.arb.grants).2,
        AfterShed x.1.ch (curtailSettled was u) := by
  unfold curtailSettled
  split
  · obtain ⟨-, -, hgrants⟩ := settle_ceilings (h.evalDue true)
    exact hgrants
  · split
    · obtain ⟨-, -, hgrants⟩ := settle_ceilings h
      exact hgrants
    · refine ⟨fun _ _ hg => hg, fun x hx => ?_⟩
      rw [shedLoop_calm (ht (by omega))] at hx
      cases hx

/-- What the change of the filtered level leaves, and its report (R177). -/
theorem curtailChanges_effect (s : State) :
    (curtailChanges s).link.sending = s.link.sending ∧ Grows (curtailReported s) (curtailChanges s) ∧
      (curtailChanges s).pool = s.pool ∧ (curtailChanges s).prot = s.prot ∧ (curtailChanges s).arb.budget = s.arb.budget ∧
      ∀ c, ChKeeps (s.ch c) ((curtailChanges s).ch c) := by
  obtain ⟨hruns, hgrows⟩ := curtailSettled_effect (cEffOf s) (curtailReported s)
  have hkeeps := hruns.keeps
  have hsend : (curtailReported s).link.sending = s.link.sending := (Link.make_keeps _ _ _ _).sending
  rw [curtailChanges_eq]
  dsimp only
  split
  · obtain ⟨-, -, hwoken, hk⟩ := wakeHall_effect (curtailSettled (cEffOf s) (curtailReported s)) .curtailEnd
    exact ⟨hk.link.sending.trans (hkeeps.link.sending.trans hsend), hgrows.trans hwoken, hk.pool.trans hkeeps.pool,
      hk.prot.trans hkeeps.prot, hk.budget.trans hkeeps.budget, fun c => (hkeeps.chans c).trans (hk.chans c)⟩
  · exact ⟨hkeeps.link.sending.trans hsend, hgrows, hkeeps.pool, hkeeps.prot, hkeeps.budget, hkeeps.chans⟩

end

/-- The debounce timer's expiry (R177), where it runs. -/
theorem curtailExpiry {s : State} (hp : s.part = .ready) (ht : s.hall.curtTimer ≠ none) :
    let b := s.arb.budget
    let cEff := if s.hall.curtRaw then b.cCurt else b.cIn
    let wakes : Bool := s.hall.curtRaw = false ∧ s.hall.wakeByCurtail = true ∧ s.hall.state ≠ .active
    let report : Report := ⟨s.link.nextSeq, s.hall.partTime, 0xFF, .curtail s.hall.curtRaw cEff b.cIn b.cCurt⟩
    ∃ t, exec .curtailDebounceExpiry s = .next t ∧
    (s.link.sending ≠ none → s.link.reports.length < 64 → ∃ rest, t.link.reports = s.link.reports ++ report :: rest) ∧
    (wakes = true → t.hall = { s.hall with
      curtFiltered := s.hall.curtRaw, curtTimer := none, state := .active, wakeTimer := none, pauseOrder := [] } ∧
      ∀ c, (t.ch c).holds.pause = false) ∧
    (wakes = false → t.hall = { s.hall with curtFiltered := s.hall.curtRaw, curtTimer := none }) ∧
    (ArbiterSound s → testsHold t = true ∧ t.arb.evalDue = false ∧
      (withinCeilings b cEff s.arb.grants = true → ∀ g ∈ s.arb.grants, g ∈ t.arb.grants) ∧
      ∀ x ∈ (shedLoop b cEff (s.arb.grants.length + 1) s.arb.grants).2,
        ((t.ch x.1.ch).state = .held ∧ (t.ch x.1.ch).holds.curtailed = true ∧ ∃ e ∈ t.arb.resume, e.ch = x.1.ch) ∨
          (∃ g ∈ t.arb.grants, g.ch = x.1.ch) ∨ (∃ e ∈ t.arb.waiting, e.ch = x.1.ch) ∨
          (t.ch x.1.ch).holds.curtailed = false ∧ (s.ch x.1.ch).settings.grantHold = 0) ∧
    t.pool = s.pool ∧ t.prot = s.prot ∧ t.arb.budget = b ∧ (∀ c, ChFrame (s.ch c) (t.ch c)) := by
  intro b cEff wakes report
  have hexpires : curtailDebounceExpires s = curtailChanges s := if_neg (by simpa using ht)
  obtain ⟨u, hu⟩ : ∃ u, u = curtailSettled (cEffOf s) (curtailReported s) := ⟨_, rfl⟩
  obtain ⟨hruns, -⟩ := curtailSettled_effect (cEffOf s) (curtailReported s)
  obtain ⟨hsame, hgrows, hpool, hprot, hbudget, hchans⟩ := curtailChanges_effect s
  rw [← hu] at hruns
  have hhall : u.hall = { s.hall with curtFiltered := s.hall.curtRaw, curtTimer := none } := hruns.hall
  have heq : curtailChanges s = if wakes = true then wakeHall u .curtailEnd else u := by
    rw [curtailChanges_eq, ← hu]
    dsimp only
    rw [hhall]
    simp only [wakes, decide_eq_true_eq]
  have hends : Ends (curtailChanges s) (whenReady s curtailDebounceExpires) := hexpires ▸ event_ends hp
  refine ⟨_, rfl, fun hsend hroom => ?_, fun hw => ?_, fun hw => ?_, fun hsound => ?_, hends.pool.trans hpool,
    hends.prot.trans hprot, by rw [hends.arb]; exact hbudget, fun c => ?_⟩
  · rw [hends.reports (by rw [hsame]; exact hsend)]
    obtain ⟨rest, hrest⟩ := hgrows
    refine ⟨rest, hrest.trans ?_⟩
    have hmade : (curtailReported s).link.reports = s.link.reports ++ [report] := congrArg Link.reports (make_room _ _ _ hroom)
    rw [hmade, List.append_assoc]
    rfl
  · rw [if_pos hw] at heq
    obtain ⟨hawake, hpause, -, -⟩ := wakeHall_effect u .curtailEnd
    rw [← heq] at hawake hpause
    refine ⟨?_, fun c => ?_⟩
    · rw [hends.hall, hawake, hhall]
    · rw [hends.get c Channel.holds]
      exact hpause c
  · rw [hends.hall, heq, if_neg (by rw [hw]; exact Bool.false_ne_true)]
    exact hhall
  · have hsteady := (arbiterSound_iff s).1 hsound
    have hchanged := hsteady.curtailChanges
    obtain ⟨⟨hplaced, hpaused⟩, htests, -⟩ := hsteady
    obtain ⟨-, hholds, hdue⟩ := hchanged
    refine ⟨hends.testsHold.trans hholds, by rw [hends.arb]; exact hdue, ?_⟩
    by_cases hw : wakes = true
    · have hidle : s.hall.state ≠ .active := by
        simp only [wakes, decide_eq_true_eq] at hw
        exact hw.2.2
      have hnone : s.arb.grants = [] := (empty_of_places (hpaused hidle).1).1
      refine ⟨fun _ g hg => ?_, fun x hx => ?_⟩
      · rw [hnone] at hg
        cases hg
      · obtain ⟨htrace, -⟩ := shedLoop_removals (b := b) (cEff := cEff) (last := none)
          (s.arb.grants.length + 1) (Nat.lt_succ_self s.arb.grants.length) (by simp)
        have hmem := (htrace.mem x hx).1
        rw [hnone] at hmem
        cases hmem
    · rw [if_neg hw] at heq
      have hstart : Placed (curtailReported s) := fun c => (hplaced c).of_arb rfl rfl
      have hkeep : cEffOf (curtailReported s) = cEffOf s → testsHold (curtailReported s) = true := fun e =>
        (testsHold_congr (s := s) (t := curtailReported s) rfl rfl e).trans htests
      obtain ⟨hstay, hshed⟩ := curtailSettled_grants (was := cEffOf s) hstart hkeep
      rw [← hu, ← heq] at hstay hshed
      refine ⟨fun hwithin g hg => ?_, fun x hx => ?_⟩
      · rw [hends.arb]
        exact hstay hwithin g hg
      · have hcases := (hshed x hx).cases
        rw [(hchans x.1.ch).settings] at hcases
        rw [hends.arb, hends.get _ Channel.state, hends.get _ Channel.holds]
        exact hcases
  · have hc := hchans c
    rw [hends.chans c]
    exact ⟨hc.settings, hc.cal, hc.life, hc.lifeSaturated, hc.queue, hc.last, hc.held, hc.missed, hc.taken, hc.pack,
      hc.elapsed, hc.presence, hc.lastConfirmed, hc.lineErr, hc.lineErrCount, hc.breaking⟩

/-- The event's end looks at the state before the event for its part, its channels and its hall state only. -/
theorem finish_before {s t : State} (u : State) (hp : u.part = s.part) (hc : ∀ c, u.ch c = s.ch c)
    (hh : u.hall.state = s.hall.state) : finish s t = finish u t := by
  have hperiod : ∀ c, periodInForce u c = periodInForce s c := fun c => by rw [periodInForce, periodInForce, hc, hh]
  have hone : ∀ v c, bringForward s v c = bringForward u v c := fun v c => by
    unfold bringForward isFollower
    rw [hperiod, hc]
  have hall : ∀ (l : List Ch) v, bringForwardAll s v l = bringForwardAll u v l := by
    intro l
    induction l with
    | nil => exact fun _ => rfl
    | cons c l ih => exact fun v => by rw [bringForwardAll, bringForwardAll, hone, ih]
  unfold finish
  rw [hp, hall]

/-- Settles O49. -/
theorem curtailmentLine : Obligations.CurtailmentLine := by
  unfold Obligations.CurtailmentLine
  refine ⟨⟨fun s level hp hdue hraw hd => ?_, fun s level hp hraw hd hf => ?_, fun s level hdue hraw => ?_, fun s level hp => ?_⟩,
    fun s hdue ht => ?_, fun s hp ht => curtailExpiry hp ht, fun s hp ht hsend hc hs => ?_⟩
  · refine next_congr ?_
    have hacts : curtailRawChange s level = s.modHall fun h =>
        { h with curtRaw := level, curtTimer := if level = h.curtFiltered then none else some h.curtDebounce } := by
      refine (if_neg hraw).trans ?_
      by_cases he : level = s.hall.curtFiltered
      · refine (if_pos he).trans ?_
        simp [State.modHall, he]
      · refine (if_neg he).trans ((if_neg hd).trans ?_)
        simp [State.modHall, he]
    rw [if_pos hp, hacts, finish_calm]
    · exact pump_noFrameDue hdue
    all_goals first | rfl | exact fun _ => rfl
  · refine next_congr ?_
    have hacts : curtailRawChange s level = curtailChanges (s.modHall fun h => { h with curtRaw := level, curtTimer := some 0 }) := by
      refine (if_neg hraw).trans ((if_neg (Ne.symm hf)).trans ((if_pos hd).trans ?_))
      rw [curtailChanges_eq, curtailChanges_eq]
      rfl
    rw [if_pos hp, hacts, finish_before (s := s) (s.modHall fun h => { h with curtRaw := level, curtTimer := some 0 }) rfl (fun _ => rfl) rfl]
    exact (if_pos hp).symm
  · refine next_congr ?_
    by_cases hp : s.part = .ready
    · rw [if_pos hp, curtailRawChange, if_pos hraw, finish_of_link rfl]
      exact pump_noFrameDue hdue
    · rw [if_neg hp, ← hraw]
      rfl
  · exact next_congr (if_neg hp)
  · exact next_congr (event_same hdue (if_pos (by rw [ht]; rfl)))
  · refine next_congr ?_
    have hceil : ∀ u : State, u.arb.budget = s.arb.budget → cEffOf u = s.arb.budget.cIn := fun u hu => by
      rw [cEffOf, hu, hc, ite_self]
    have hacts : curtailDebounceExpires s = (s.modHall fun h => { h with curtFiltered := h.curtRaw, curtTimer := none }).modLink
        fun l => l.make s.hall.partTime 0xFF (.curtail s.hall.curtRaw s.arb.budget.cIn s.arb.budget.cIn s.arb.budget.cIn) := by
      refine (if_neg (by simpa using ht)).trans ?_
      have hcalm : curtailSettled (cEffOf s) (curtailReported s) = curtailReported s := by
        unfold curtailSettled
        rw [hceil s rfl, hceil (curtailReported s) rfl, if_neg (Nat.lt_irrefl _), if_neg (Nat.lt_irrefl _)]
      have hreported : curtailReported s = (s.modHall fun h => { h with curtFiltered := h.curtRaw, curtTimer := none }).modLink
          fun l => l.make s.hall.partTime 0xFF (.curtail s.hall.curtRaw s.arb.budget.cIn s.arb.budget.cIn s.arb.budget.cIn) := by
        unfold curtailReported
        rw [hc]
        dsimp only
        rw [hceil (s.modHall fun h => { h with curtFiltered := h.curtRaw, curtTimer := none }) rfl]
        rfl
      rw [curtailChanges_eq, hcalm]
      exact (if_neg fun h => h.2.2 hs).trans hreported
    have hbusy : ((s.modHall fun h => { h with curtFiltered := h.curtRaw, curtTimer := none }).modLink fun l =>
        l.make s.hall.partTime 0xFF (.curtail s.hall.curtRaw s.arb.budget.cIn s.arb.budget.cIn s.arb.budget.cIn)).link.sending =
          s.link.sending := (Link.make_keeps _ _ _ _).sending
    obtain ⟨f, hf⟩ := Option.ne_none_iff_exists'.1 hsend
    rw [whenReady, if_pos hp, hacts, finish_calm]
    · exact pump_busy (hbusy.trans hf)
    all_goals first | rfl | exact fun _ => rfl

end Sys2Proof.Machine
end

section
/-! PROOF. An evaluation that grants nothing, the channels that one grants, and the timers that bring one about (R26, R90, R91,
R95, R98). -/
namespace Sys2Proof.Machine
open Sys2Proof.Safety

section
variable {s t u v : State} {c : Ch}

/-! ### An evaluation that grants nothing -/

theorem walkWaiting_none {b : BudgetSettings} {cEff : Nat} {ring : List (Option Ch)} {lows cs : List Ch} {w : Walk}
    (h : (walkWaiting b cEff ring lows cs w).granted = w.granted) : walkWaiting b cEff ring lows cs w = w := by
  induction cs generalizing w with
  | nil => rfl
  | cons c cs ih =>
    unfold walkWaiting at h ⊢
    split at h
    · exact ih h
    · rename_i e hf
      by_cases hfit : withinCeilings b cEff (w.grants ++ [e.grant]) = true
      · rw [if_pos hfit] at h
        obtain ⟨taken, -, hmore, -⟩ := walkWaiting_adds b cEff ring lows cs
          { grants := w.grants ++ [e.grant], waiting := withoutCh w.waiting c, hp := (movePointers ring lows c w.hp w.lp).1,
            lp := (movePointers ring lows c w.hp w.lp).2, granted := w.granted ++ [c] }
        have hlength := congrArg List.length (hmore.symm.trans h)
        simp only [List.length_append, List.length_singleton] at hlength
        omega
      · rw [if_neg hfit] at h ⊢
        split at h
        · rw [if_pos ‹_›]
        · rw [if_neg ‹_›]
          exact ih h

theorem evaluate_none (h : (evaluate s).2 = []) : (evaluate s).1 = s := by
  obtain ⟨taken, hes, hgs, hcs, -⟩ := grantResume_spec s.arb.budget (cEffOf s) s.arb.grants s.arb.resume
  unfold evaluate at h ⊢
  dsimp only at h ⊢
  generalize grantResume s.arb.budget (cEffOf s) s.arb.grants s.arb.resume = one at hes hgs hcs h ⊢
  obtain ⟨gs, rest, chs⟩ := one
  obtain rfl : gs = s.arb.grants ++ taken.map Entry.grant := hgs
  obtain rfl : chs = taken.map Entry.ch := hcs
  split at h
  · rename_i hrest
    rw [if_pos hrest]
    obtain rfl : rest = [] := List.isEmpty_iff.1 hrest
    obtain ⟨htaken, hwalk⟩ := List.append_eq_nil_iff.1 h
    obtain rfl : taken = [] := List.map_eq_nil_iff.1 htaken
    rw [walkWaiting_none hwalk]
    have hnone : s.arb.resume = [] := by simpa using hes
    show ({ s with arb := { s.arb with grants := s.arb.grants ++ [], resume := [], waiting := s.arb.waiting } } : State) = s
    rw [List.append_nil, ← hnone]
  · rename_i hrest
    rw [if_neg hrest]
    obtain rfl : taken = [] := List.map_eq_nil_iff.1 h
    have hsame : s.arb.resume = rest := by simpa using hes
    show ({ s with arb := { s.arb with grants := s.arb.grants ++ [], resume := rest } } : State) = s
    rw [List.append_nil, ← hsame]

/-- An evaluation looks at the arbiter, the hall and the rotation groups only. -/
theorem evaluate_congr (harb : t.arb = s.arb) (hhall : t.hall = s.hall) (hgroup : ∀ c, groupOfCh t c = groupOfCh s c) :
    (evaluate t).2 = (evaluate s).2 ∧ (evaluate t).1.arb = (evaluate s).1.arb := by
  have hlows : lowList t = lowList s := List.filter_congr fun c _ => by rw [hgroup]
  have hring : ringOf t = ringOf s := by
    unfold ringOf
    rw [hlows]
    simp only [hgroup]
  have hwalk : walkOrder t = walkOrder s := by
    unfold walkOrder lowFrom
    rw [hring, hlows, harb]
  have hceil : cEffOf t = cEffOf s := by rw [cEffOf, cEffOf, harb, hhall]
  unfold evaluate State.modArb
  rw [hceil, harb, hring, hlows, hwalk]
  dsimp only
  split <;> exact ⟨rfl, rfl⟩

/-- The state with no evaluation due. -/
def State.evaluated (s : State) : State := s.modArb fun a => { a with evalDue := false }

theorem settle_due (ht : testsHold s = true) (hdue : s.arb.evalDue = true) :
    ∃ n, settle s = evaluateDue n (handOverAll (evaluate s.evaluated).1 (evaluate s.evaluated).2) := by
  unfold settle
  rw [shed_calm ht]
  exact ⟨2 * (s.arb.resume.length + s.arb.waiting.length) + 3, if_pos hdue⟩

theorem evaluateDue_calm (n : Nat) (h : s.arb.evalDue = false) : evaluateDue n s = s := by
  have hsame : s.evaluated = s := by
    show ({ s with arb := { s.arb with evalDue := false } } : State) = s
    rw [← h]
  cases n with
  | zero => exact hsame
  | succ n => exact if_neg (by rw [h]; exact Bool.false_ne_true)

/-- Where the evaluation that is due grants nothing, nothing changes. -/
theorem settle_none (ht : testsHold s = true) (hdue : s.arb.evalDue = true) (hnone : (evaluate s.evaluated).2 = []) :
    settle s = s.evaluated := by
  obtain ⟨n, hn⟩ := settle_due ht hdue
  rw [hn, hnone, evaluate_none hnone]
  exact evaluateDue_calm n rfl

/-! ### A channel the evaluation grants -/

/-- A channel that is granted, and that its grant leaves without an entry, is at the end as the handing over made it. -/
theorem settle_hands (ht : testsHold s = true) (hdue : s.arb.evalDue = true) (hone : places s c ≤ 1)
    (hc : c ∈ (evaluate s.evaluated).2)
    (hquiet : ∀ v, Own c (evaluate s.evaluated).1 v → waitsOf (handOver v c) c = [] ∧ resumesOf (handOver v c) c = [] ∧
      (grantsOf (handOver v c) c).length ≤ 1) :
    ∃ v, Own c (evaluate s.evaluated).1 v ∧ Own c (handOver v c) (settle s) := by
  have hP : Carried c fun u => ∃ v, Own c (evaluate s.evaluated).1 v ∧ Own c (handOver v c) u := by
    refine ⟨fun u w k ⟨v, hv, hu⟩ => ⟨v, hv, hu.trans k⟩, fun u ⟨v, hv, hu⟩ => ?_, fun u w e he ⟨v, hv, hu⟩ => ?_⟩
    · obtain ⟨hw, hr, hg⟩ := hquiet v hv
      rw [hu.places, places, hw, hr]
      exact hg
    · obtain ⟨hw, hr, -⟩ := hquiet v hv
      rcases he.entry with ⟨hw', -⟩ | ⟨-, hr'⟩
      · rw [hu.waits, hw] at hw'; cases hw'
      · rw [hu.resumes, hr] at hr'; cases hr'
  have hcount : (evaluate s.evaluated).2.count c = 1 := by
    have hpos := List.count_pos_iff.2 hc
    rcases evaluate_own (s := s.evaluated) hone with ⟨h, -⟩ | ⟨h, -⟩ <;> omega
  have hown : ∀ (l : List Ch) (v : State), c ∉ l → Own c v (handOverAll v l) := by
    intro l
    induction l with
    | nil => exact fun v _ => .refl c v
    | cons d l ih =>
      intro v hl
      rw [List.mem_cons, not_or] at hl
      exact (Own.acts (handOver_runs v d) (handOver_acts v d) hl.1).trans (ih _ hl.2)
  have hall : ∀ (l : List Ch) (v : State), l.count c = 1 → Own c (evaluate s.evaluated).1 v →
      ∃ w, Own c (evaluate s.evaluated).1 w ∧ Own c (handOver w c) (handOverAll v l) := by
    intro l
    induction l with
    | nil => exact fun v h => absurd h (by simp)
    | cons d l ih =>
      intro v hl hv
      by_cases hd : c = d
      · subst hd
        rw [List.count_cons_self] at hl
        exact ⟨v, hv, hown l _ (List.count_eq_zero.1 (by omega))⟩
      · rw [List.count_cons_of_ne (Ne.symm hd)] at hl
        exact ih _ hl (hv.trans (.acts (handOver_runs v d) (handOver_acts v d) hd))
  obtain ⟨n, hn⟩ := settle_due ht hdue
  rw [hn]
  exact evaluateDue_carried hP n (hall _ _ hcount (.refl c _))

/-- A channel just granted its one entry, as it comes to be handed the grant. -/
theorem Own.granted_turned {e : Entry} (h : Granted c e s t) (k : Own c t v) :
    Turned c v v (s.ch c) [e.grant] [] [] :=
  ⟨.refl c v, (h.chan.trans k.chan).sameRun, by rw [h.chan.trans k.chan], rfl, k.grants.trans h.grants, k.waits.trans h.waits,
    k.resumes.trans h.resumes⟩

theorem Runs.requestOf (h : Runs s t) (c : Ch) (x : StepRecord) : requestOf t c x = requestOf s c x := by
  rw [Machine.requestOf, Machine.requestOf, h.claimOf, (h.keeps.chans c).settings, h.hall]

theorem Runs.coversStep (h : Runs s t) (c : Ch) (x : StepRecord) (gs : List Grant) : coversStep t c x gs = coversStep s c x gs := by
  simp only [Machine.coversStep, covers, h.claimOf]

theorem Runs.stepOf (h : Runs s t) (ch : Channel) : stepOf t ch = stepOf s ch := by
  unfold Machine.stepOf windowRead
  rw [h.keeps.pool]

/-- The request for a step, granted, covers the step. -/
theorem coversStep_request (s : State) (c : Ch) (x : StepRecord) : coversStep s c x [(requestOf s c x).grant] = true := by
  simp [coversStep, covers, requestOf, Entry.grant]

/-! ### A channel that waits in DEFERRED -/

/-- A channel in DEFERRED with one entry, or STARTING on a grant that covers its step. An entry stands in the resume queue only
where `r` says that it may. -/
def Deferring (s : State) (c : Ch) (ch : Channel) (x : StepRecord) (r : Prop) (u : State) : Prop :=
  Runs s u ∧ (SameRun ch (u.ch c) ∧ grantsOf u c = [] ∧
      ((waitsOf u c).length = 1 ∧ resumesOf u c = [] ∨ r ∧ waitsOf u c = [] ∧ (resumesOf u c).length = 1) ∨
    SameRun (ch.starts x) (u.ch c) ∧ holdsCover u c x = true ∧ waitsOf u c = [] ∧ resumesOf u c = [] ∧
      (grantsOf u c).length = 1)

theorem deferring_carried {ch : Channel} {x : StepRecord} (r : Prop) (hs : ch.state = .deferred) (hx : stepOf s ch = some x) :
    Carried c (Deferring s c ch x r) where
  own u v k h := by
    obtain ⟨hruns, h⟩ := h
    refine ⟨hruns.trans k.runs, ?_⟩
    rw [k.grants, k.waits, k.resumes, k.holdsCover]
    exact h.imp (fun h => ⟨h.1.trans k.chan.sameRun, h.2⟩) fun h => ⟨h.1.trans k.chan.sameRun, h.2⟩
  once u h := by
    unfold places
    rcases h with ⟨-, ⟨-, hg, ⟨hw, hr⟩ | ⟨-, hw, hr⟩⟩ | ⟨-, -, hw, hr, hg⟩⟩ <;> rw [hg, hw, hr] <;> simp
  grant u v e he h := by
    obtain ⟨hruns, ⟨hchan, -, -⟩ | ⟨-, -, -, -, hg⟩⟩ := h
    · have hall := hruns.trans he.runs
      have hsettings : ch.settings = (v.ch c).settings := by
        rw [(hchan.trans he.chan.sameRun)]
      have hturned : Turned c v v ch [e.grant] [] [] :=
        ⟨.refl c v, hchan.trans he.chan.sameRun, hsettings, rfl, he.grants, he.waits, he.resumes⟩
      refine ⟨hall.trans (handOver_runs v c), ?_⟩
      rw [hturned.handOver_deferred ((hall.stepOf ch).trans hx) hs]
      cases hcover : coversStep v c x [e.grant]
      · have hexchanged := hturned.exchangeGrant x
        exact .inl ⟨hexchanged.chan, hexchanged.grants, .inl ⟨by
          show (waitsOf (exchangeGrant v c x) c).length = 1
          rw [hexchanged.waits]; rfl, hexchanged.resumes⟩⟩
      · have hstarts := hturned.enterStarting x
        refine .inr ⟨hstarts.chan, ?_, hstarts.waits, hstarts.resumes, ?_⟩
        · show holdsCover (enterStarting v c x) c x = true
          rw [hstarts.holdsCover, ← coversStep, coversStep_unidle]
          exact hcover
        · show (grantsOf (enterStarting v c x) c).length = 1
          rw [hstarts.grants]
          rfl
    · rw [he.before] at hg
      cases hg

/-! ### A condition of one channel through the arbiter's handling -/

/-- A condition of a channel that its port is no part of and that every handing over keeps holds once the arbiter has handled an
event for which the channel has no grant, or nothing is shed. -/
theorem settle_inv {P : Channel → Prop} (hport : ∀ a b, OnlyPort a b → P a → P b)
    (hhand : ∀ u, P (u.ch c) → P ((handOver u c).ch c)) (hg : grantsOf s c = [] ∨ testsHold s = true)
    (h : P (s.ch c)) : P ((settle s).ch c) := by
  have hall : ∀ (l : List Ch) (u : State), P (u.ch c) → P ((handOverAll u l).ch c) := by
    intro l
    induction l with
    | nil => exact fun _ h => h
    | cons d l ih =>
      intro u hu
      refine ih _ ?_
      by_cases hd : c = d
      · subst hd
        exact hhand u hu
      · exact hport _ _ ((handOver_acts u d).chans c hd) hu
  have hdue : ∀ (n : Nat) (u : State), P (u.ch c) → P ((evaluateDue n u).ch c) := by
    intro n
    induction n with
    | zero => exact fun _ h => h
    | succ n ih =>
      intro u hu
      unfold evaluateDue
      split
      · refine ih _ (hall _ _ ?_)
        obtain ⟨-, -, -, -, -, -, -, -, -, -, hrest, -, -⟩ := evaluate_spec (u.modArb fun a => { a with evalDue := false })
        rw [hrest]
        exact hu
      · exact hu
  refine hdue _ _ ?_
  rcases hg with hg | ht
  · exact hport _ _ (shed_own hg).chan h
  · rw [shed_calm ht]
    exact h

end

end Sys2Proof.Machine
end

section
/-! PROOF. The gap timer (R26), the grant-hold timer (R98) and the wait timer (R95). -/
namespace Sys2Proof.Machine
open Sys2Proof.Safety

section
variable {s t u : State} {c : Ch} {x : StepRecord}

/-! ### The gap timer -/

theorem covers_ne_nil (h : holdsCover s c x = true) : (grantOf s c).isSome = true := by
  rw [holdsCover_iff] at h
  rw [grantOf_eq_head]
  cases hg : (grantsOf s c).head? with
  | none => rw [hg] at h; cases h
  | some g => rfl

/-- A channel that has left GAP for DEFERRED or STARTING has no gap timer. -/
def GapOver (ch : Channel) : Prop := (ch.state = .deferred ∨ ch.state = .starting) ∧ ch.gapTimer = none

theorem handOver_gapOver (h : GapOver (u.ch c)) : GapOver ((handOver u c).ch c) := by
  obtain ⟨hs, hg⟩ := h
  have hself := Turned.self c u
  cases hx : currentStep u c with
  | none =>
    rw [handOver, hx]
    exact ⟨hs, hg⟩
  | some x =>
    rcases hs with hs | hs
    · rw [hself.handOver_deferred ((stepOf_self u c).trans hx) hs]
      refine iteInduction (motive := fun v : State => GapOver (v.ch c)) (fun _ => ?_) fun _ => ?_
      · have hstarts := (hself.enterStarting x).chan
        exact ⟨.inr (hstarts.get Channel.state), hstarts.get Channel.gapTimer⟩
      · have hsame := (hself.exchangeGrant x).chan
        exact ⟨.inl ((hsame.get Channel.state).trans hs), (hsame.get Channel.gapTimer).trans hg⟩
    · rw [handOver, hx]
      dsimp only
      rw [hs]
      exact ⟨.inr hs, hg⟩

theorem gapExpires_gapOver (hx : currentStep s c = some x) :
    GapOver ((gapExpires s c).ch c) ∧ (holdsCover s c x = false → grantsOf (gapExpires s c) c = []) := by
  have hself := Turned.self c s
  have hstep := (stepOf_self s c).trans hx
  cases hcover : holdsCover s c x
  · have hwaits := hself.gapExpires_wait hstep ((coversStep_self s c x).trans hcover)
    exact ⟨⟨.inl (hwaits.chan.get Channel.state), hwaits.chan.get Channel.gapTimer⟩, fun _ => hwaits.grants⟩
  · have hstarts := hself.gapExpires_cover hstep ((coversStep_self s c x).trans hcover)
    exact ⟨⟨.inr (hstarts.chan.get Channel.state), hstarts.chan.get Channel.gapTimer⟩, fun h => by cases h⟩

/-- The gap timer's expiry gives the grant up only where it does not cover the step. -/
theorem gapTimerExpires_eq (hs : (s.ch c).state = .gap) (ht : (s.ch c).gapTimer ≠ none) (hx : currentStep s c = some x) :
    gapTimerExpires s c =
      if holdsCover s c x = false ∧ grantOf s c ≠ none then settle (gapExpires s c) else gapExpires s c := by
  have hself := Turned.self c s
  have hstep := (stepOf_self s c).trans hx
  unfold gapTimerExpires
  rw [if_pos ⟨hs, Option.isSome_iff_ne_none.2 ht⟩]
  dsimp only
  refine if_congr ?_ rfl rfl
  rw [Option.isSome_iff_ne_none, Option.isNone_iff_eq_none, grantOf_isNone (gapExpires s c)]
  cases hcover : holdsCover s c x
  · have hnone := (gapExpires_gapOver hx).2 hcover
    tauto
  · have hstarts := hself.gapExpires_cover hstep ((coversStep_self s c x).trans hcover)
    have hsome : grantsOf s c ≠ [] := holdsCover_granted hcover
    rw [hstarts.grants, List.map_eq_nil_iff]
    tauto

theorem gapTimerExpires_effect (hs : (s.ch c).state = .gap) (ht : (s.ch c).gapTimer ≠ none) (hx : currentStep s c = some x) :
    Runs s (gapTimerExpires s c) ∧ ((gapTimerExpires s c).ch c).gapTimer = none ∧
      ∀ d, d ≠ c → RunFrame (s.ch d) ((gapTimerExpires s c).ch d) := by
  have hruns := gapExpires_runs s c (by rw [hs]; rfl)
  obtain ⟨hover, hnone⟩ := gapExpires_gapOver hx
  rw [gapTimerExpires_eq hs ht hx]
  split
  · rename_i h
    have hsettled := hruns.trans (settle_runs _)
    obtain ⟨-, htimer⟩ := settle_inv (P := GapOver) (fun a b k ha => by rw [k]; exact ha) (fun _ => handOver_gapOver)
      (.inl (hnone h.1)) hover
    exact ⟨hsettled, htimer, fun d _ => hsettled.chans d⟩
  · exact ⟨hruns, hover.2, fun d _ => hruns.chans d⟩

/-- The state in which a channel has given its grant up and asked for its step anew. -/
def exchanged (s : State) (c : Ch) (x : StepRecord) : State :=
  s.modArb fun a =>
    { a with grants := a.grants.filter (fun y => y.ch ≠ c), waiting := a.waiting ++ [requestOf s c x] }

theorem gapExpires_asked {g : Grant} (hx : currentStep s c = some x) (hg : grantOf s c = some g)
    (hcover : holdsCover s c x = false) :
    (gapExpires s c).arb = { (exchanged s c x).arb with evalDue := true } := by
  have hsome : (grantOf s c).isSome = true := by rw [hg]; rfl
  have hacts : gapExpires s c = enterDeferred (exchangeGrant s c x) c := by
    unfold gapExpires
    rw [hx]
    dsimp only
    rw [if_neg (by rw [hcover]; exact Bool.false_ne_true), if_pos hsome]
  rw [hacts, enterDeferred_arb]
  unfold exchangeGrant releaseGrant
  rw [if_pos hsome]
  rfl

/-- A grant that is not live is given up at the end of the gap: the request lodged in its place is granted, or waits (R26, R88,
R90, R91). -/
theorem gapTimerExpires_exchange {g : Grant} (hs : (s.ch c).state = .gap) (ht : (s.ch c).gapTimer ≠ none)
    (hx : currentStep s c = some x) (hg : grantOf s c = some g) (hcover : holdsCover s c x = false) (hlive : g.live = false)
    (hsteady : Steady s) :
    ((evaluate (exchanged s c x)).2 = [] →
        ((gapTimerExpires s c).ch c).state = .deferred ∧ (gapTimerExpires s c).arb = (exchanged s c x).arb) ∧
      (c ∈ (evaluate (exchanged s c x)).2 → ((gapTimerExpires s c).ch c).state = .starting) ∧
      Deferring (gapExpires s c) c (s.ch c).defers x False (gapTimerExpires s c) := by
  obtain ⟨⟨hplaced, -⟩, htests, hdue⟩ := hsteady
  have hone := (hplaced c).once
  have hmem := grantOf_mem hg
  obtain ⟨hlen, hw, hr⟩ := AtPlace.granted hone (List.ne_nil_of_mem hmem)
  obtain ⟨g', hgs⟩ := List.length_eq_one_iff.1 hlen
  rw [hgs, List.mem_singleton] at hmem
  subst hmem
  have hacts : gapTimerExpires s c = settle (gapExpires s c) := by
    rw [gapTimerExpires_eq hs ht hx, if_pos ⟨hcover, by rw [hg]; simp⟩]
  have hruns := gapExpires_runs s c (by rw [hs]; rfl)
  have hstep := (stepOf_self s c).trans hx
  have hgave := (Turned.self c s).gapExpires_wait hstep ((coversStep_self s c x).trans hcover)
  rw [hgs, hw, hr, if_neg (by simp), List.nil_append] at hgave
  have harb := gapExpires_asked hx hg hcover
  have hholds : testsHold (gapExpires s c) = true :=
    (gapExpires_acts s c).testsHold (gapExpires_soft s c) (fun y hy => by
      rw [hgs, List.mem_singleton] at hy
      rw [hy]
      exact hlive) htests
  have hdue' : (gapExpires s c).arb.evalDue = true := by rw [harb]
  have hsame : (gapExpires s c).evaluated.arb = (exchanged s c x).arb := by
    show ({ (gapExpires s c).arb with evalDue := false } : Arbiter) = _
    rw [harb, ← hdue]
    rfl
  obtain ⟨hgranted, -⟩ := evaluate_congr (s := exchanged s c x) (t := (gapExpires s c).evaluated) hsame hruns.hall
    (fun d => by rw [groupOfCh, groupOfCh]; exact congrArg ChanSettings.group (hruns.keeps.chans d).settings)
  rw [← hgranted, hacts]
  have hstate : ((gapExpires s c).ch c).state = .deferred := hgave.chan.get Channel.state
  have hstart : Deferring (gapExpires s c) c (s.ch c).defers x False (gapExpires s c) :=
    ⟨.refl _, .inl ⟨hgave.chan, hgave.grants, .inl ⟨by rw [hgave.waits]; rfl, hgave.resumes⟩⟩⟩
  have hstep' : stepOf (gapExpires s c) (s.ch c).defers = some x := (hruns.stepOf _).trans hstep
  refine ⟨fun hnone => ?_, fun hc => ?_, settle_carried (deferring_carried False rfl hstep') (.inl hgave.grants) hstart⟩
  · rw [settle_none hholds hdue' hnone]
    exact ⟨hstate, hsame⟩
  · have hplace : places (gapExpires s c) c ≤ 1 := (deferring_carried False rfl hstep').once _ hstart
    obtain ⟨e, he⟩ : ∃ e, Granted c e (gapExpires s c).evaluated (evaluate (gapExpires s c).evaluated).1 := by
      have hpos := List.count_pos_iff.2 hc
      rcases evaluate_own (s := (gapExpires s c).evaluated) hplace with ⟨h, -⟩ | ⟨-, h⟩
      · omega
      · exact h
    have hreq : e = requestOf s c x := by
      have hw' : waitsOf (gapExpires s c).evaluated c = [requestOf s c x] := hgave.waits
      rcases he.entry with ⟨h, -⟩ | ⟨h, -⟩
      · exact (List.cons.inj (h.symm.trans hw')).1
      · rw [hw'] at h; cases h
    have hhand : ∀ v, Own c (evaluate (gapExpires s c).evaluated).1 v →
        ∃ gs, Turned c v (handOver v c) ((s.ch c).defers.starts x) gs [] [] ∧ gs.length ≤ 1 := fun v hv => by
      have hall : Runs s v := hruns.trans ((Runs.modArb _ (fun a => { a with evalDue := false }) rfl).trans (he.runs.trans hv.runs))
      have hturned : Turned c v v (s.ch c).defers [e.grant] [] [] := by
        have hchan : SameRun (s.ch c).defers (v.ch c) := hgave.chan.trans (he.chan.trans hv.chan).sameRun
        exact ⟨.refl c v, hchan, by rw [hchan], rfl, hv.grants.trans he.grants, hv.waits.trans he.waits, hv.resumes.trans he.resumes⟩
      rw [hturned.handOver_deferred ((hall.stepOf _).trans hstep) rfl, if_pos]
      · exact ⟨_, hturned.enterStarting x, Nat.le_refl 1⟩
      · rw [hall.coversStep, hreq]
        exact coversStep_request s c x
    obtain ⟨v, hv, hown⟩ := settle_hands hholds hdue' hplace hc fun v hv => by
      obtain ⟨gs, hturned, hgs⟩ := hhand v hv
      exact ⟨hturned.waits, hturned.resumes, by rw [hturned.grants]; exact hgs⟩
    obtain ⟨gs, hturned, -⟩ := hhand v hv
    rw [hown.state]
    exact hturned.chan.get Channel.state

/-! ### The grant-hold timer -/

/-- A grant that covers the step, handed to a channel that waits for it in DEFERRED, or in HELD with CURTAILED alone (R34, R91). -/
theorem Turned.handOver_starts {ch : Channel} {g : Grant} {v : State} (h : Turned c v v ch [g] [] [])
    (hx : stepOf v ch = some x) (hcover : coversStep v c x [g] = true)
    (hs : ch.state = .deferred ∨ x.kind ≠ .rest ∧ ch.state = .held ∧ ch.heldBefore = false ∧
      ch.holds = ⟨false, true, false, false, false⟩) :
    ∃ b : Channel, Turned c v (handOver v c) (b.starts x) ([g].map Grant.unidle) [] [] := by
  rcases hs with hs | ⟨hk, hs, hb, hh⟩
  · rw [h.handOver_deferred hx hs, if_pos hcover]
    exact ⟨_, h.enterStarting x⟩
  · rw [h.handOver_held hx hs, if_pos (by rw [Channel.uncurtailed, hh]; rfl)]
    exact ⟨_, h.uncurtailed.leaveHeld_cover hb hx hk hcover⟩

theorem Turned.handOver_rests {ch : Channel} {g : Grant} {v : State} (h : Turned c v v ch [g] [] [])
    (hx : stepOf v ch = some x) (hk : x.kind = .rest) (hs : ch.state = .held) (hb : ch.heldBefore = false)
    (hh : ch.holds = ⟨false, true, false, false, false⟩) :
    ∃ b : Channel, Turned c v (handOver v c) b.rests (idled (v.ch c).settings.grantHold [g]) [] [] := by
  rw [h.handOver_held hx hs, if_pos (by rw [Channel.uncurtailed, hh]; rfl)]
  exact ⟨_, h.uncurtailed.leaveHeld_rest hb hx hk⟩

theorem idled_length (n : Nat) (gs : List Grant) : (idled n gs).length ≤ gs.length := by
  unfold idled
  split
  · exact Nat.le_refl _
  · split
    · exact Nat.le_refl _
    · split
      · exact Nat.zero_le _
      · rw [List.length_map]

/-- The state in which a channel has given its grant up (R99). -/
def given (s : State) (c : Ch) : State := s.modArb fun a => { a with grants := a.grants.filter fun y => y.ch ≠ c }

theorem releaseGrant_given {g : Grant} (hg : grantOf s c = some g) (hdue : s.arb.evalDue = false) :
    (releaseGrant s c).arb.evalDue = true ∧ (releaseGrant s c).evaluated = given s c := by
  have hsome : (grantOf s c).isSome = true := by rw [hg]; rfl
  have hacts : releaseGrant s c = s.modArb fun a => { a with grants := a.grants.filter (fun y => y.ch ≠ c), evalDue := true } :=
    if_pos hsome
  rw [hacts]
  refine ⟨rfl, ?_⟩
  show ({ s with arb := { s.arb with grants := _, evalDue := false } } : State) = _
  rw [← hdue]
  rfl

/-- An idle grant that is not live has been held for its time (R98): it leaves the list, and the arbiter evaluates. -/
theorem grantHoldExpires_effect {g : Grant} (hg : grantOf s c = some g) (hhold : g.hold ≠ none) (hlive : g.live = false)
    (hsteady : Steady s) :
    ((evaluate (given s c)).2 = [] → grantHoldExpires s c = given s c) ∧ Steady (grantHoldExpires s c) ∧
      Runs s (grantHoldExpires s c) ∧ places (grantHoldExpires s c) c = 0 ∧
      ((grantHoldExpires s c).ch c).state = (s.ch c).state ∧
      (∀ x ∈ (given s c).arb.grants, x ∈ (grantHoldExpires s c).arb.grants) ∧
      ∀ d x, d ∈ (evaluate (given s c)).2 → currentStep s d = some x →
        (holdsCover (evaluate (given s c)).1 d x = true →
          ((s.ch d).state = .gap → ((grantHoldExpires s c).ch d).state = .gap ∧ holdsCover (grantHoldExpires s c) d x = true) ∧
          ((s.ch d).state = .deferred ∨ x.kind ≠ .rest ∧ (s.ch d).state = .held ∧ (s.ch d).heldBefore = false ∧
              (s.ch d).holds = ⟨false, true, false, false, false⟩ →
            ((grantHoldExpires s c).ch d).state = .starting ∧ holdsCover (grantHoldExpires s c) d x = true ∧
              ((grantHoldExpires s c).ch d).lastDir = x.dir)) ∧
        (x.kind = .rest → (s.ch d).state = .held → (s.ch d).heldBefore = false →
          (s.ch d).holds = ⟨false, true, false, false, false⟩ → ((grantHoldExpires s c).ch d).state = .running) := by
  have hafter := hsteady.grantHoldExpires (c := c)
  obtain ⟨⟨hplaced, -⟩, htests, hdue⟩ := hsteady
  have hmem := grantOf_mem hg
  obtain ⟨hlen, hw, hr⟩ := AtPlace.granted (hplaced c).once (List.ne_nil_of_mem hmem)
  obtain ⟨g', hgs⟩ := List.length_eq_one_iff.1 hlen
  rw [hgs, List.mem_singleton] at hmem
  subst hmem
  have hacts : grantHoldExpires s c = settle (releaseGrant s c) := by
    unfold grantHoldExpires
    rw [hg]
    exact if_pos (Option.isSome_iff_ne_none.2 hhold)
  obtain ⟨hdue', hgiven⟩ := releaseGrant_given hg hdue
  have hholds : testsHold (releaseGrant s c) = true :=
    (releaseGrant_acts s c).testsHold (releaseGrant_soft s c) (fun y hy => by
      rw [hgs, List.mem_singleton] at hy
      rw [hy]
      exact hlive) htests
  have hruns := releaseGrant_runs s c
  have hplace : ∀ d, places (releaseGrant s c) d ≤ 1 := fun d => ((hplaced.acts (releaseGrant_acts s c) (hplaced c).releaseGrant) d).once
  have hnone : places (releaseGrant s c) c = 0 :=
    places_releaseGrant (hplaced c).once (.inl (by rw [hgs]; simp))
  have hown := settle_unlisted hnone
  rw [hacts] at hafter ⊢
  rw [← hgiven]
  refine ⟨fun h => settle_none hholds hdue' h, hafter, hruns.trans (settle_runs _), hown.places.trans hnone, ?_, ?_, fun d x hd hx => ?_⟩
  · rw [hown.state, releaseGrant_ch]
  · obtain ⟨-, -, hstay, -⟩ := settle_ceilings (hplaced.acts (releaseGrant_acts s c) (hplaced c).releaseGrant)
    exact hstay hholds
  · obtain ⟨e, he⟩ : ∃ e, Granted d e (releaseGrant s c).evaluated (evaluate (releaseGrant s c).evaluated).1 := by
      have hpos := List.count_pos_iff.2 hd
      rcases evaluate_own (s := (releaseGrant s c).evaluated) (hplace d) with ⟨h, -⟩ | ⟨-, h⟩
      · omega
      · exact h
    have hturned : ∀ v, Own d (evaluate (releaseGrant s c).evaluated).1 v → Turned d v v (s.ch d) [e.grant] [] [] ∧
        stepOf v (s.ch d) = some x ∧
        (holdsCover (evaluate (releaseGrant s c).evaluated).1 d x = true → coversStep v d x [e.grant] = true) := fun v hv => by
      have hchan : SameRun (s.ch d) (v.ch d) := by
        have h := (he.chan.trans hv.chan).sameRun
        rw [show (releaseGrant s c).evaluated.ch d = s.ch d from releaseGrant_ch s c d] at h
        exact h
      have hall : Runs s v := hruns.trans ((Runs.modArb _ (fun a => { a with evalDue := false }) rfl).trans (he.runs.trans hv.runs))
      refine ⟨⟨.refl d v, hchan, by rw [hchan], rfl, hv.grants.trans he.grants, hv.waits.trans he.waits,
        hv.resumes.trans he.resumes⟩, (hall.stepOf _).trans ((stepOf_self s d).trans hx), fun hcover => ?_⟩
      rw [holdsCover_iff, he.grants] at hcover
      rw [hv.runs.coversStep]
      exact hcover
    have hfinal : ∀ (P : State → Prop), (∀ v w, Own d v w → P v → P w) →
        (∀ v, Own d (evaluate (releaseGrant s c).evaluated).1 v → P (handOver v d) ∧ waitsOf (handOver v d) d = [] ∧
          resumesOf (handOver v d) d = [] ∧ (grantsOf (handOver v d) d).length ≤ 1) → P (settle (releaseGrant s c)) :=
      fun P hP hhand => by
        obtain ⟨v, hv, hend⟩ := settle_hands hholds hdue' (hplace d) hd fun v hv => (hhand v hv).2
        exact hP _ _ hend (hhand v hv).1
    refine ⟨fun hcover => ⟨fun hs => ?_, fun hs => ?_⟩, fun hk hs hb hh => ?_⟩
    · refine hfinal (fun u => (u.ch d).state = .gap ∧ holdsCover u d x = true)
        (fun v w k h => ⟨k.state.trans h.1, (k.holdsCover x).trans h.2⟩) fun v hv => ?_
      obtain ⟨ht, hxv, hc⟩ := hturned v hv
      have hcv := hc hcover
      rw [ht.handOver_gap hxv hs, if_pos hcv]
      exact ⟨⟨ht.state.trans hs, (ht.holdsCover x).trans hcv⟩, ht.waits, ht.resumes, by rw [ht.grants]; exact Nat.le_refl 1⟩
    · refine hfinal (fun u => (u.ch d).state = .starting ∧ holdsCover u d x = true ∧ (u.ch d).lastDir = x.dir)
        (fun v w k h => ⟨k.state.trans h.1, (k.holdsCover x).trans h.2.1, (k.chan.sameRun.get Channel.lastDir).trans h.2.2⟩)
        fun v hv => ?_
      obtain ⟨ht, hxv, hc⟩ := hturned v hv
      have hcv := hc hcover
      obtain ⟨b, hb⟩ := ht.handOver_starts hxv hcv hs
      refine ⟨⟨hb.state, ?_, hb.chan.get Channel.lastDir⟩, hb.waits, hb.resumes, by rw [hb.grants]; exact Nat.le_refl 1⟩
      rw [hb.holdsCover, ← coversStep, coversStep_unidle]
      exact hcv
    · refine hfinal (fun u => (u.ch d).state = .running) (fun v w k h => k.state.trans h) fun v hv => ?_
      obtain ⟨ht, hxv, -⟩ := hturned v hv
      obtain ⟨b, hb⟩ := ht.handOver_rests hxv hk hs hb hh
      refine ⟨hb.state, hb.waits, hb.resumes, ?_⟩
      rw [hb.grants]
      exact idled_length _ _

end

/-! ### The timers' expiry -/

theorem gapTimerExpiry (s : State) (c : Ch) (x : StepRecord) (hp : s.part = .ready) (hs : (s.ch c).state = .gap)
    (ht : (s.ch c).gapTimer ≠ none) (hx : currentStep s c = some x) : ∃ t, exec (.gapTimerExpiry c) s = .next t ∧
      (holdsCover s c x = true → (t.ch c).state = .starting ∧ (t.ch c).lastDir = x.dir ∧
        (t.ch c).startTimer = some (s.ch c).settings.startTimeout) ∧
      (grantOf s c = none → (t.ch c).state = .deferred ∧ (t.ch c).startTimer = (s.ch c).startTimer ∧
        t.arb = s.arb) ∧
      (∀ g, grantOf s c = some g → holdsCover s c x = false → g.live = false → ArbiterSound s →
        let asked := exchanged s c x
        let granted := (evaluate asked).2
        (granted = [] → (t.ch c).state = .deferred ∧ t.arb = asked.arb) ∧
        (c ∈ granted → (t.ch c).state = .starting) ∧
        ((t.ch c).state = .deferred ∧ grantOf t c = none ∧ hasWaiting t c = true ∧
            (t.ch c).startTimer = (s.ch c).startTimer ∨
          (t.ch c).state = .starting ∧ holdsCover t c x = true ∧ (t.ch c).lastDir = x.dir ∧
            (t.ch c).startTimer = some (s.ch c).settings.startTimeout) ∧
        testsHold t = true ∧ t.arb.evalDue = false) ∧
      (t.ch c).gapTimer = none ∧ (t.ch c).stepIndex = (s.ch c).stepIndex ∧ (t.ch c).stepTime = (s.ch c).stepTime ∧
      t.hall = s.hall ∧ BoardFrame s t ∧ ∀ d, d ≠ c → RunFrame (s.ch d) (t.ch d) := by
  have hends := event_ends (f := fun s => gapTimerExpires s c) hp
  obtain ⟨hruns, htimer, hothers⟩ := gapTimerExpires_effect hs ht hx
  have hrun := hruns.chans c
  have hself := Turned.self c s
  have hstep := (stepOf_self s c).trans hx
  refine ⟨_, rfl, fun hcover => ?_, fun hnone => ?_, fun g hg hcover hlive hsound => ?_, (hends.get c Channel.gapTimer).trans htimer,
    (hends.get c Channel.stepIndex).trans hrun.stepIndex, (hends.get c Channel.stepTime).trans hrun.stepTime,
    hends.hall.trans hruns.hall, hends.frame hruns.keeps.frame, fun d hd => hends.run (hothers d hd)⟩
  · have hacts : gapTimerExpires s c = gapExpires s c := by
      rw [gapTimerExpires_eq hs ht hx, if_neg fun h => absurd h.1 (by rw [hcover]; decide)]
    have hstarts := (hself.gapExpires_cover hstep ((coversStep_self s c x).trans hcover)).chan
    rw [hacts] at hends
    exact ⟨(hends.get c Channel.state).trans (hstarts.get Channel.state),
      (hends.get c Channel.lastDir).trans (hstarts.get Channel.lastDir),
      (hends.get c Channel.startTimer).trans (hstarts.get Channel.startTimer)⟩
  · have hacts : gapTimerExpires s c = gapExpires s c := by
      rw [gapTimerExpires_eq hs ht hx, if_neg fun h => h.2 hnone]
    have hcover : holdsCover s c x = false := by
      by_contra h
      have hsome := covers_ne_nil (Bool.not_eq_false _ ▸ h)
      rw [hnone] at hsome
      cases hsome
    have hdefers := (hself.gapExpires_wait hstep ((coversStep_self s c x).trans hcover)).chan
    have harb : (gapExpires s c).arb = s.arb := by
      unfold gapExpires
      rw [hx]
      dsimp only
      rw [if_neg (by rw [hcover]; exact Bool.false_ne_true), if_neg (by rw [hnone]; exact Bool.false_ne_true)]
      exact enterDeferred_arb c s
    rw [hacts] at hends
    exact ⟨(hends.get c Channel.state).trans (hdefers.get Channel.state),
      (hends.get c Channel.startTimer).trans (hdefers.get Channel.startTimer), hends.arb.trans harb⟩
  · have hsteady := (arbiterSound_iff s).1 hsound
    obtain ⟨hcalm, hgranted, -, hdefers⟩ := gapTimerExpires_exchange hs ht hx hg hcover hlive hsteady
    obtain ⟨-, htests, hdue⟩ := hsteady.gapTimerExpires (c := c)
    refine ⟨fun h => ⟨(hends.get c Channel.state).trans (hcalm h).1, hends.arb.trans (hcalm h).2⟩,
      fun h => (hends.get c Channel.state).trans (hgranted h), ?_, hends.testsHold.trans htests, by rw [hends.arb]; exact hdue⟩
    rcases hdefers with ⟨hchan, hgrants, ⟨hw, -⟩ | ⟨h, -⟩⟩ | ⟨hchan, hcovers, -⟩
    · refine .inl ⟨(hends.get c Channel.state).trans (hchan.get Channel.state), ?_, ?_,
        (hends.get c Channel.startTimer).trans (hchan.get Channel.startTimer)⟩
      · rw [hends.grantOf, grantOf_isNone]
        exact hgrants
      · rw [hasWaiting_iff, waitsOf_congr c hends.arb]
        intro h
        rw [h] at hw
        cases hw
    · exact h.elim
    · exact .inr ⟨(hends.get c Channel.state).trans (hchan.get Channel.state), (hends.holdsCover c x).trans hcovers,
        (hends.get c Channel.lastDir).trans (hchan.get Channel.lastDir),
        (hends.get c Channel.startTimer).trans (hchan.get Channel.startTimer)⟩

theorem timed_iff {s : State} {c : Ch} : (s.arb.waiting.any (Entry.timed c) || s.arb.resume.any (Entry.timed c)) = true ↔
    ∃ e ∈ s.arb.waiting ++ s.arb.resume, e.ch = c ∧ e.timer ≠ none := by
  rw [← List.any_append, List.any_eq_true]
  simp only [Entry.timed, Bool.and_eq_true, decide_eq_true_eq, Option.isSome_iff_ne_none]

/-- Settles O46. -/
theorem gapAndArbiterTimers : Obligations.GapAndArbiterTimers := by
  unfold Obligations.GapAndArbiterTimers
  refine ⟨⟨⟨fun s c hdue h => ?_, gapTimerExpiry⟩, fun s c hdue h => ?_, fun s c g hp hg hhold hlive hsound => ?_⟩,
    fun s c hp hdue hm he => ?_, fun s c e hp hmem hc ht hm hs hpair hk => ?_, fun s c hdue h => ?_⟩
  · refine next_congr (event_same hdue (if_neg fun hn => ?_))
    rcases h with h | h
    · exact h hn.1
    · rw [h] at hn
      exact absurd hn.2 (by decide)
  · refine next_congr (event_same hdue ?_)
    unfold grantHoldExpires
    cases hg : grantOf s c with
    | none => rfl
    | some g =>
      dsimp only
      rw [h g hg]
      rfl
  · intro left granted
    obtain ⟨hcalm, ⟨-, htests, hquiet⟩, hruns, hplace, hstate, hstay, hhands⟩ :=
      grantHoldExpires_effect hg hhold hlive ((arbiterSound_iff s).1 hsound)
    have hends := event_ends (f := fun s => grantHoldExpires s c) hp
    refine ⟨fun hdue h => ?_, _, rfl, hends.unlisted ((unlisted_iff _ c).2 hplace), (hends.get c Channel.state).trans hstate,
      hends.testsHold.trans htests, by rw [hends.arb]; exact hquiet, fun x hx => by rw [hends.arb]; exact hstay x hx,
      fun d x hd hx hcover => ?_, fun d x hd hx hr hs hb hh => ?_, hends.frame hruns.keeps.frame, hends.hall.trans hruns.hall,
      fun d => hends.run (hruns.chans d)⟩
    · refine next_congr ?_
      rw [whenReady, if_pos hp, hcalm h, finish_calm]
      · exact pump_noFrameDue hdue
      all_goals first | rfl | exact fun _ => rfl
    · obtain ⟨hgap, hstarts⟩ := (hhands d x hd hx).1 hcover
      rw [hends.get d Channel.state, hends.get d Channel.lastDir, hends.holdsCover]
      exact ⟨hgap, hstarts⟩
    · rw [hends.get d Channel.state]
      exact (hhands d x hd hx).2 hr hs hb hh
  · intro starve
    have hany : (s.arb.waiting.any (Entry.timed c) || s.arb.resume.any (Entry.timed c)) = true := timed_iff.2 he
    have hacts : waitTimerExpires s c = s.modArb fun a =>
        { a with waiting := a.waiting.map (Entry.starve c), resume := a.resume.map (Entry.starve c) } := by
      unfold waitTimerExpires
      rw [if_pos hany, hm]
    have hstarve : Entry.starve c = starve := funext fun e => if_congr (by
      rw [Bool.and_eq_true, decide_eq_true_eq, Option.isSome_iff_ne_none]) rfl rfl
    refine next_congr ?_
    rw [whenReady, if_pos hp, hacts, hstarve, finish_calm]
    · exact pump_noFrameDue hdue
    all_goals first | rfl | exact fun _ => rfl
  · have hany : (s.arb.waiting.any (Entry.timed c) || s.arb.resume.any (Entry.timed c)) = true :=
      timed_iff.2 ⟨e, List.mem_append.2 hmem, hc, ht⟩
    have hacts : waitTimerExpires s c = offer s c .deferLimit (s.ch c).settings.deferralLimit := by
      unfold waitTimerExpires
      rw [if_pos hany, hm]
    have hends := event_ends (f := fun s => waitTimerExpires s c) hp
    rw [hacts] at hends
    exact ⟨_, rfl, (offer_latches hpair hs rfl hk).taken hends⟩
  · refine next_congr (event_same hdue (if_neg fun hany => ?_))
    obtain ⟨e, hmem, hc, ht⟩ := timed_iff.1 hany
    exact ht (h e hmem hc)

end Sys2Proof.Machine
end

section
/-! PROOF. HOLD and RELEASE (R33 to R36). -/
namespace Sys2Proof.Machine
open Sys2Proof.Safety

section
variable {s t u v : State} {c : Ch} {ch : Channel} {gs : List Grant} {ws rs : List Entry} {x : StepRecord}

/-! ### A cause added (R33) -/

/-- A channel HELD by a cause that stops its timers (R33). -/
def Channel.holdsBy (ch : Channel) (cause : HoldCause) : Channel :=
  { ch.stopTimers with holds := ch.holds.add cause, state := .held }

theorem Turned.addCause_free (h : Turned c s t ch gs ws rs) (cause : HoldCause) (hs : ch.state.holdable = true)
    (hh : ch.state ≠ .held) :
    Turned c s (Machine.addCause t c cause) (ch.holdsBy cause)
      (if (ch.holds.add cause).keepsIdle then idled (s.ch c).settings.grantHold (gs.map fun g => { g with live := false })
        else gs.map fun g => { g with live := false }) [] rs := by
  have hheld : Turned c s (holdOf t c cause) (ch.holdsBy cause) (gs.map fun g => { g with live := false }) [] rs :=
    ((((h.modCh Channel.stopTimers (fun _ _ _ => rfl) rfl).withdrawWaiting).modGrant
      (fun g => { g with live := false }) fun _ => rfl).modCh
        (fun b => { b with holds := b.holds.add cause, state := .held }) (fun _ _ _ => rfl) rfl).issue
  have hholds : ((holdOf t c cause).ch c).holds = ch.holds.add cause := hheld.chan.get Channel.holds
  rw [Machine.addCause_free (by rw [h.state]; exact hs) (by rw [h.state]; exact hh), hholds]
  split
  · exact hheld.idleGrant
  · exact hheld

theorem Turned.addCause_held (h : Turned c s t ch gs ws rs) (cause : HoldCause) (hs : ch.state = .held) :
    Turned c s (Machine.addCause t c cause) { ch with holds := ch.holds.add cause }
      (if (ch.holds.add cause).keepsIdle then idled (s.ch c).settings.grantHold gs else gs) ws rs := by
  have hheld : Turned c s (t.modCh c fun b => { b with holds := b.holds.add cause }) { ch with holds := ch.holds.add cause } gs ws rs :=
    h.modCh (fun b => { b with holds := b.holds.add cause }) (fun _ _ _ => rfl) rfl
  have hholds : ((t.modCh c fun b => { b with holds := b.holds.add cause }).ch c).holds = ch.holds.add cause :=
    hheld.chan.get Channel.holds
  rw [Machine.addCause_held (by rw [h.state]; exact hs), hholds]
  split
  · exact hheld.idleGrant
  · exact hheld

/-! ### A channel held by a cause the arbiter does not own -/

/-- A channel that differs from another in CURTAILED and its port at most. -/
def HeldOn (a b : Channel) : Prop := ∃ x p, b = { a with holds := { a.holds with curtailed := x }, port := p }

theorem HeldOn.of {a b : Channel} (h : OnlyPort a b) : HeldOn a b := ⟨a.holds.curtailed, b.port, h⟩

theorem HeldOn.trans {a b c : Channel} (h : HeldOn a b) (k : HeldOn b c) : HeldOn a c := by
  obtain ⟨x, p, rfl⟩ := h
  obtain ⟨y, q, rfl⟩ := k
  exact ⟨y, q, rfl⟩

theorem HeldOn.fast {a b : Channel} (h : HeldOn a b) (ha : HeldFast a) : HeldFast b := by
  obtain ⟨x, p, rfl⟩ := h
  exact ha

theorem HeldOn.get {α : Type} {a b : Channel} (h : HeldOn a b) (g : Channel → α)
    (hg : ∀ ch x p, g { ch with holds := { ch.holds with curtailed := x }, port := p } = g ch := by intros; rfl) : g b = g a := by
  obtain ⟨x, p, rfl⟩ := h
  exact hg a x p

theorem addCurtailed_heldOn (d : Ch) (h : HeldFast (s.ch c)) : HeldOn (s.ch c) ((addCause s d .curtailed).ch c) := by
  by_cases e : c = d
  · subst e
    have hch : (addCause s c .curtailed).ch c = (s.modCh c fun ch => { ch with holds := ch.holds.add .curtailed }).ch c := by
      rw [Machine.addCause_held h.1]
      exact iteInduction (motive := fun t : State => t.ch c = _) (fun _ => idleGrant_ch _ c c) fun _ => rfl
    rw [hch, State.ch_modCh_self]
    exact ⟨true, (s.ch c).port, rfl⟩
  · exact .of (addCause_leaves e s _)

theorem handOver_heldOn (d : Ch) (h : HeldFast (s.ch c)) : HeldOn (s.ch c) ((handOver s d).ch c) := by
  by_cases e : c = d
  · subst e
    cases hx : currentStep s c with
    | none =>
      rw [handOver, hx]
      exact .of (.refl _)
    | some x =>
      have hself := Turned.self c s
      have hdrop : ((s.modCh c fun ch => { ch with holds := ch.holds.drop .curtailed }).ch c) = (s.ch c).uncurtailed :=
        State.ch_modCh_self ..
      have hon : HeldOn (s.ch c) (s.ch c).uncurtailed := ⟨false, (s.ch c).port, rfl⟩
      rw [hself.handOver_held ((stepOf_self s c).trans hx) h.1, if_neg (show ¬(s.ch c).uncurtailed.holds = _ from h.holds)]
      refine iteInduction (motive := fun t : State => HeldOn (s.ch c) (t.ch c)) (fun _ => ?_) fun _ => ?_
      · rw [idleGrant_ch, hdrop]
        exact hon
      · rw [hdrop]
        exact hon
  · exact .of (handOver_leaves e s)

/-- A channel HELD by a cause other than CURTAILED changes in CURTAILED and its port at most in the arbiter's handling of an
event. -/
theorem settle_heldOn (h : HeldFast (s.ch c)) : HeldOn (s.ch c) ((settle s).ch c) := by
  have hhands : ∀ (l : List Ch) (u : State), HeldOn (s.ch c) (u.ch c) → HeldOn (s.ch c) ((handOverAll u l).ch c) := by
    intro l
    induction l with
    | nil => exact fun _ hu => hu
    | cons d l ih => exact fun u hu => ih _ (hu.trans (handOver_heldOn d (hu.fast h)))
  have hdue : ∀ (n : Nat) (u : State), HeldOn (s.ch c) (u.ch c) → HeldOn (s.ch c) ((evaluateDue n u).ch c) := by
    intro n
    induction n with
    | zero => exact fun _ hu => hu
    | succ n ih =>
      intro u hu
      unfold evaluateDue
      split
      · exact ih _ (hhands _ _ (hu.trans (.of ((Leaves.modArb c u _).trans (evaluate_leaves c _)))))
      · exact hu
  have hshed : ∀ (l : List (Grant × BudgetTest)) (u : State), HeldOn (s.ch c) (u.ch c) → HeldOn (s.ch c) ((shedAll u l).ch c) := by
    intro l
    induction l with
    | nil => exact fun _ hu => hu
    | cons y l ih =>
      intro u hu
      have hadd : HeldOn (u.ch c) ((shedOne u y.1 y.2).ch c) :=
        addCurtailed_heldOn (s := appendResume u y.1.ch y.1.dir y.1.amount) y.1.ch (hu.fast h)
      exact ih _ (hu.trans hadd)
  refine hdue _ _ ?_
  rcases shed_eq s with ⟨hs, -⟩ | hs
  · rw [hs]
    exact .of (.refl _)
  · rw [hs]
    exact hshed _ _ (.of (.refl _))

/-! ### A channel that leaves HELD (R34) -/

/-- A channel through a handing over that finds it in GAP, RUNNING or STARTING. -/
theorem handOver_still (h : (u.ch c).state = .gap ∨ (u.ch c).state = .running ∨ (u.ch c).state = .starting) :
    (handOver u c).ch c = u.ch c := by
  have hself := Turned.self c u
  cases hx : currentStep u c with
  | none => rw [handOver, hx]
  | some x =>
    have hstep := (stepOf_self u c).trans hx
    rcases h with h | h | h
    · rw [hself.handOver_gap hstep h]
      exact iteInduction (motive := fun t : State => t.ch c = u.ch c) (fun _ => rfl) fun _ => releaseGrant_ch u c c
    · rw [hself.handOver_running hstep h]
      exact iteInduction (motive := fun t : State => t.ch c = u.ch c) (fun _ => idleGrant_ch u c c) fun _ => rfl
    · rw [handOver, hx]
      dsimp only
      rw [h]

/-- A channel in GAP, RUNNING or STARTING stands, but for its port, in the handling of an event that sheds nothing of it. -/
theorem settle_still (h : (s.ch c).state = .gap ∨ (s.ch c).state = .running ∨ (s.ch c).state = .starting)
    (hg : grantsOf s c = [] ∨ testsHold s = true) : OnlyPort (s.ch c) ((settle s).ch c) :=
  settle_inv (P := OnlyPort (s.ch c)) (fun _ _ k hu => hu.trans k) (fun u hu => by
    rw [handOver_still (by rw [OnlyPort.state hu]; exact h)]
    exact hu) hg (.refl _)

/-- A channel that has left HELD: its causes are gone, and it does not come to be HELD again. -/
def Unheld (ch : Channel) : Prop :=
  (ch.state = .deferred ∨ ch.state = .gap ∨ ch.state = .running ∨ ch.state = .starting) ∧ ch.heldBefore = false ∧
    ch.holds = HoldCauses.empty

theorem handOver_unheld (h : Unheld (u.ch c)) : Unheld ((handOver u c).ch c) := by
  obtain ⟨hs, hrest⟩ := h
  rcases hs with hs | hs
  · have hself := Turned.self c u
    cases hx : currentStep u c with
    | none =>
      rw [handOver, hx]
      exact ⟨.inl hs, hrest⟩
    | some x =>
      rw [hself.handOver_deferred ((stepOf_self u c).trans hx) hs]
      refine iteInduction (motive := fun v : State => Unheld (v.ch c)) (fun _ => ?_) fun _ => ?_
      · have hstarts := (hself.enterStarting x).chan
        exact ⟨.inr (.inr (.inr (hstarts.get Channel.state))), (hstarts.get Channel.heldBefore).trans hrest.1,
          (hstarts.get Channel.holds).trans hrest.2⟩
      · have hsame := (hself.exchangeGrant x).chan
        exact ⟨.inl ((hsame.get Channel.state).trans hs), (hsame.get Channel.heldBefore).trans hrest.1,
          (hsame.get Channel.holds).trans hrest.2⟩
  · rw [handOver_still hs]
    exact ⟨.inr hs, hrest⟩

theorem settle_unheld (h : Unheld (s.ch c)) (hg : grantsOf s c = [] ∨ testsHold s = true) : Unheld ((settle s).ch c) :=
  settle_inv (fun a b k ha => by unfold Unheld; rw [k]; exact ha) (fun _ => handOver_unheld) hg h

/-- Leaving HELD gives the grant up, or leaves the tests holding. -/
theorem leaveHeld_calm (ht : testsHold s = true) : grantsOf (leaveHeld s c) c = [] ∨ testsHold (leaveHeld s c) = true := by
  rcases leaveHeld_soft s c with h | ⟨f, hf⟩
  · exact .inl h
  · exact .inr ((leaveHeld_acts s c).testsHold_hold hf ht)

/-- A channel HELD before a step, or in one, as it leaves HELD (R34). -/
theorem leaveHeld_unheld (hh : (s.ch c).holds = HoldCauses.empty) (hx : currentStep s c = some x) :
    Unheld ((leaveHeld s c).ch c) := by
  have hself := Turned.self c s
  have hstep := (stepOf_self s c).trans hx
  cases hb : (s.ch c).heldBefore
  · by_cases hr : x.kind = .rest
    · have hleft := (hself.leaveHeld_rest hb hstep hr).chan
      exact ⟨.inr (.inr (.inl (hleft.get Channel.state))), (hleft.get Channel.heldBefore).trans hb, (hleft.get Channel.holds).trans hh⟩
    · cases hcover : coversStep s c x (grantsOf s c)
      · have hleft := (hself.leaveHeld_wait hb hstep hr hcover).chan
        exact ⟨.inl (hleft.get Channel.state), (hleft.get Channel.heldBefore).trans hb, (hleft.get Channel.holds).trans hh⟩
      · have hleft := (hself.leaveHeld_cover hb hstep hr hcover).chan
        exact ⟨.inr (.inr (.inr (hleft.get Channel.state))), (hleft.get Channel.heldBefore).trans hb, (hleft.get Channel.holds).trans hh⟩
  · rw [hself.leaveHeld_before hb]
    have hbefore := hself.modCh (fun ch => { ch with heldBefore := false }) (fun _ _ _ => rfl) rfl
    have hgap : ∀ b : Channel, SameRun (if gapFor (s.ch c) x = 0 then b else { s.ch c with heldBefore := false }.gaps (gapFor (s.ch c) x))
        ((beginStep (s.modCh c fun ch => { ch with heldBefore := false }) c).ch c) →
        (b.state = .deferred ∨ b.state = .starting) → b.heldBefore = false → b.holds = (s.ch c).holds →
        Unheld ((beginStep (s.modCh c fun ch => { ch with heldBefore := false }) c).ch c) := by
      intro b hsame hstate hbb hbh
      split at hsame
      · exact ⟨hstate.imp (hsame.get Channel.state).trans fun e => .inr (.inr ((hsame.get Channel.state).trans e)),
          (hsame.get Channel.heldBefore).trans hbb, ((hsame.get Channel.holds).trans hbh).trans hh⟩
      · exact ⟨.inr (.inl (hsame.get Channel.state)), hsame.get Channel.heldBefore, (hsame.get Channel.holds).trans hh⟩
    by_cases hr : x.kind = .rest
    · have hleft := (hbefore.beginStep_rest hstep hr).chan
      exact ⟨.inr (.inr (.inl (hleft.get Channel.state))), hleft.get Channel.heldBefore, (hleft.get Channel.holds).trans hh⟩
    · cases hcover : coversStep s c x (grantsOf s c)
      · exact hgap _ (hbefore.beginStep_wait hstep hr hcover).chan (.inl rfl) rfl rfl
      · exact hgap _ (hbefore.beginStep_cover hstep hr hcover).chan (.inr rfl) rfl rfl

/-- HOST and END_HOLD removed (R36). -/
def HoldCauses.released (h : HoldCauses) : HoldCauses := { h with host := false, endHold := false }

/-- A RELEASE leaves the run, and of the causes CURTAILED at most (R36). -/
theorem unholdChannel_effect (s : State) (c : Ch) :
    Runs (s.modCh c fun ch => { ch with holds := ch.holds.released }) (unholdChannel s c HoldCauses.released) :=
  (removeCauses_runs s c _).trans (settle_runs _)

end

theorem holdRefusal_of {s : State} {c : Ch} :
    ((s.ch c).state = .follower → holdRefusal s c = some (refuse .paired)) ∧
      ((s.ch c).state ∈ [.idle, .stopping, .complete, .faulted] → holdRefusal s c = some (refuse .wrongState)) ∧
      ((s.ch c).state ∈ [.gap, .deferred, .starting, .running, .held] → holdRefusal s c = none) := by
  have hf : isFollower s c = decide ((s.ch c).state = .follower) := rfl
  unfold holdRefusal
  rw [hf]
  refine ⟨fun h => ?_, fun h => ?_, fun h => ?_⟩
  · rw [h]; rfl
  · simp only [List.mem_cons, List.not_mem_nil, or_false] at h
    rcases h with h | h | h | h <;> rw [h] <;> rfl
  · simp only [List.mem_cons, List.not_mem_nil, or_false] at h
    rcases h with h | h | h | h | h <;> rw [h] <;> rfl

/-- A figure of a channel that was HELD fast, at the end of the event. -/
theorem Ends.heldOn {α : Type} {s t : State} {c : Ch} {a b : Channel} (h : Ends s t) (hb : SameRun b a) (hon : HeldOn a (s.ch c))
    (g : Channel → α) (h1 : ∀ ch x p, g { ch with clamped := x, port := p } = g ch := by intros; rfl)
    (h2 : ∀ ch x p, g { ch with holds := { ch.holds with curtailed := x }, port := p } = g ch := by intros; rfl)
    (h3 : ∀ ch n, g { ch with periodLength := n } = g ch := by intros; rfl) : g (t.ch c) = g b :=
  (h.get c g h3).trans ((hon.get g h2).trans (hb.get g h1))

theorem holdTaken (r : Request) (s : State) (c : Ch) (hto : ToChannel s r c 0) :
    let ch := s.ch c
    let answers := fun body => exec (.hold r) s = .next (replied s (replyTo .hold r body))
    (ch.state = .follower → answers (.refused ⟨.paired, none, 0, 0, 0⟩)) ∧
    (ch.state ∈ [.idle, .stopping, .complete, .faulted] → answers (.refused ⟨.wrongState, none, 0, 0, 0⟩)) ∧
    (ch.state ∈ [.gap, .deferred, .starting, .running, .held] → ch.holds.host = true →
      answers (.ok (.holds ch.holds))) ∧
    (ch.state ∈ [.gap, .deferred, .starting, .running, .held] → ch.holds.host = false → ∃ t,
      exec (.hold r) s = .next t ∧ Answered s t (replyTo .hold r (.ok (.holds (t.ch c).holds))) ∧
      (t.ch c).state = .held ∧ (t.ch c).holds.host = true ∧ (t.ch c).holds.chamber = ch.holds.chamber ∧
      (t.ch c).holds.pause = ch.holds.pause ∧ (t.ch c).holds.endHold = ch.holds.endHold ∧
      (ch.state ≠ .held → (t.ch c).gapTimer = none ∧ (t.ch c).startTimer = none) ∧
      (t.ch c).stepIndex = ch.stepIndex ∧ (t.ch c).stepTime = ch.stepTime ∧ (t.ch c).qStep = ch.qStep ∧
      (t.ch c).confirms = ch.confirms ∧ (t.ch c).loops = ch.loops ∧ (t.ch c).cycle = ch.cycle ∧
      BoardFrame s t ∧ ∀ d, d ≠ c → RunFrame (s.ch d) (t.ch d)) := by
  intro ch answers
  have hb : r.body.length ≤ 1024 := by rw [hto.length]; decide
  have htake : takeKind .hold r s = _ := takeHold.eq_def r s
  rw [takeCh_of hto rfl] at htake
  obtain ⟨hpaired, hwrong, hnone⟩ := holdRefusal_of (s := s) (c := c)
  refine ⟨fun hs => ?_, fun hs => ?_, fun hs hhost => ?_, fun hs hhost => ?_⟩
  · exact next_congr (arrive_same hto.free hb (htake.trans (by rw [hpaired hs]; rfl)))
  · exact next_congr (arrive_same hto.free hb (htake.trans (by rw [hwrong hs]; rfl)))
  · refine next_congr (arrive_same hto.free hb (htake.trans ?_))
    rw [hnone hs]
    dsimp only
    rw [if_pos hhost]
  · have htaken : takeKind .hold r s = (holdChannel s c .host, .ok (.holds ((holdChannel s c .host).ch c).holds)) := by
      refine htake.trans ?_
      rw [hnone hs]
      dsimp only
      rw [if_neg (by rw [show (s.ch c).holds.host = false from hhost]; exact Bool.false_ne_true)]
    have hholdable := (holdable_iff _).2 hs
    have hacts := addCause_acts s c .host
    obtain ⟨b, hsame, hheld, hholds, htimers, hfigures⟩ : ∃ b, SameRun b ((addCause s c .host).ch c) ∧ b.state = .held ∧
        b.holds = ch.holds.add .host ∧ (ch.state ≠ .held → b.gapTimer = none ∧ b.startTimer = none) ∧
        (b.stepIndex = ch.stepIndex ∧ b.stepTime = ch.stepTime ∧ b.qStep = ch.qStep ∧ b.confirms = ch.confirms ∧
          b.loops = ch.loops ∧ b.cycle = ch.cycle) := by
      by_cases hh : (s.ch c).state = .held
      · exact ⟨_, ((Turned.self c s).addCause_held .host hh).chan, hh, rfl, fun h => absurd hh h, rfl, rfl, rfl, rfl, rfl, rfl⟩
      · exact ⟨_, ((Turned.self c s).addCause_free .host hholdable hh).chan, rfl, rfl, fun _ => ⟨rfl, rfl⟩, rfl, rfl, rfl, rfl,
          rfl, rfl⟩
    have hfast : HeldFast ((addCause s c .host).ch c) := by
      refine ⟨(hsame.get Channel.state).trans hheld, .inl ?_⟩
      rw [hsame.get Channel.holds, hholds]
      rfl
    have hon : HeldOn ((addCause s c .host).ch c) ((holdChannel s c .host).ch c) := settle_heldOn hfast
    obtain ⟨hanswered, hends⟩ := request_ends hto.free hb htaken
    obtain ⟨h1, h2, h3, h4, h5, h6⟩ := hfigures
    have hadded : ∀ k : HoldCauses → Bool, (∀ h x, k { h with curtailed := x } = k h) →
        k ((arrive (ReqKind.hold.frame r) s).ch c).holds = k (ch.holds.add .host) := fun k hk => by
      rw [← hholds]
      exact hends.heldOn hsame hon (fun b => k b.holds) (by intros; rfl) (fun _ _ _ => hk _ _)
    refine ⟨_, rfl, ?_, (hends.heldOn hsame hon Channel.state).trans hheld, hadded HoldCauses.host fun _ _ => rfl,
      hadded HoldCauses.chamber fun _ _ => rfl, hadded HoldCauses.pause fun _ _ => rfl, hadded HoldCauses.endHold fun _ _ => rfl,
      fun h => ⟨(hends.heldOn hsame hon Channel.gapTimer).trans (htimers h).1,
        (hends.heldOn hsame hon Channel.startTimer).trans (htimers h).2⟩,
      (hends.heldOn hsame hon Channel.stepIndex).trans h1, (hends.heldOn hsame hon Channel.stepTime).trans h2,
      (hends.heldOn hsame hon Channel.qStep).trans h3, (hends.heldOn hsame hon Channel.confirms).trans h4,
      (hends.heldOn hsame hon Channel.loops).trans h5, (hends.heldOn hsame hon Channel.cycle).trans h6,
      hends.frame (holdChannel_keeps s c .host).frame,
      fun d hd => hends.run (RunKeeps.trans (hacts.run hd) ((settle_runs _).chans d))⟩
    rw [hends.get c Channel.holds]
    exact hanswered

/-! ### RELEASE (R34, R36) -/

section
variable {s : State} {c : Ch} {x : StepRecord}

/-- The state with HOST and END_HOLD removed from a channel. -/
def released (s : State) (c : Ch) : State := s.modCh c fun ch => { ch with holds := ch.holds.released }

theorem released_ch (s : State) (c : Ch) : (released s c).ch c = { s.ch c with holds := (s.ch c).holds.released } := State.ch_modCh_self ..

/-- A channel HELD by HOST or END_HOLD and by nothing else leaves HELD (R34). -/
theorem unhold_leaves (hs : (s.ch c).state = .held) (hne : (s.ch c).holds ≠ HoldCauses.empty)
    (he : (s.ch c).holds.released = HoldCauses.empty) :
    unholdChannel s c HoldCauses.released = settle (leaveHeld (released s c) c) := by
  have hch := released_ch s c
  have hremoved : removeCauses s c HoldCauses.released = leaveHeld (released s c) c := by
    unfold removeCauses
    dsimp only
    refine if_pos ⟨?_, hne, ?_⟩
    · exact (congrArg Channel.state hch).trans hs
    · exact (congrArg Channel.holds hch).trans he
  rw [unholdChannel, hremoved]

theorem unhold_stays (he : (s.ch c).holds.released ≠ HoldCauses.empty) :
    unholdChannel s c HoldCauses.released = settle (released s c) := by
  have hch := released_ch s c
  have hremoved : removeCauses s c HoldCauses.released = released s c := by
    unfold removeCauses
    dsimp only
    exact if_neg fun h => he ((congrArg Channel.holds hch).symm.trans h.2.2)
  rw [unholdChannel, hremoved]

/-- What leaving HELD comes to, at the end of the event, where nothing is shed of the channel (R34). -/
theorem release_effect (hx : currentStep s c = some x) (ht : testsHold s = true) (hh : (s.ch c).holds = HoldCauses.empty) :
    Unheld ((settle (leaveHeld s c)).ch c) ∧ (x.kind = .rest → ((settle (leaveHeld s c)).ch c).state = .running) ∧
      (x.kind ≠ .rest → (s.ch c).heldBefore = true → gapFor (s.ch c) x ≠ 0 →
        ((settle (leaveHeld s c)).ch c).state = .gap ∧ ((settle (leaveHeld s c)).ch c).gapTimer = some (gapFor (s.ch c) x)) ∧
      (x.kind ≠ .rest → (s.ch c).heldBefore = false → holdsCover s c x = true →
        ((settle (leaveHeld s c)).ch c).state = .starting ∧ ((settle (leaveHeld s c)).ch c).lastDir = x.dir ∧
          ((settle (leaveHeld s c)).ch c).startTimer = some (s.ch c).settings.startTimeout) ∧
      (x.kind ≠ .rest → (s.ch c).heldBefore = false → holdsCover s c x = false → AtPlace s c → (s.ch c).state = .held →
        ((settle (leaveHeld s c)).ch c).state = .deferred ∧
            (∃ e ∈ (settle (leaveHeld s c)).arb.waiting ++ (settle (leaveHeld s c)).arb.resume, e.ch = c) ∨
          ((settle (leaveHeld s c)).ch c).state = .starting ∧ holdsCover (settle (leaveHeld s c)) c x = true) := by
  have hself := Turned.self c s
  have hstep := (stepOf_self s c).trans hx
  have hcalm := leaveHeld_calm (s := s) (c := c) ht
  have hstill : ∀ b : Channel, SameRun b ((leaveHeld s c).ch c) → (b.state = .gap ∨ b.state = .running ∨ b.state = .starting) →
      SameRun b ((settle (leaveHeld s c)).ch c) := fun b hsame hb =>
    hsame.trans (settle_still (by rw [hsame.get Channel.state]; exact hb) hcalm).sameRun
  have hbefore := hself.modCh (fun ch => { ch with heldBefore := false }) (fun _ _ _ => rfl) rfl
  refine ⟨settle_unheld (leaveHeld_unheld hh hx) hcalm, fun hr => ?_, fun hr hb hgap => ?_, fun hr hb hcover => ?_,
    fun hr hb hcover hplace hs => ?_⟩
  · cases hb : (s.ch c).heldBefore
    · exact (hstill _ (hself.leaveHeld_rest hb hstep hr).chan (.inr (.inl rfl))).get Channel.state
    · have hleft := (hbefore.beginStep_rest hstep hr).chan
      rw [← hself.leaveHeld_before hb] at hleft
      exact (hstill _ hleft (.inr (.inl rfl))).get Channel.state
  · have hleft : SameRun ({ s.ch c with heldBefore := false }.gaps (gapFor (s.ch c) x)) ((leaveHeld s c).ch c) := by
      rw [hself.leaveHeld_before hb]
      cases hcover : coversStep s c x (grantsOf s c)
      · have hleft := (hbefore.beginStep_wait hstep hr hcover).chan
        rw [if_neg (by exact hgap)] at hleft
        exact hleft
      · have hleft := (hbefore.beginStep_cover hstep hr hcover).chan
        rw [if_neg (by exact hgap)] at hleft
        exact hleft
    have hend := hstill _ hleft (.inl rfl)
    exact ⟨hend.get Channel.state, hend.get Channel.gapTimer⟩
  · have hend := hstill _ (hself.leaveHeld_cover hb hstep hr ((coversStep_self s c x).trans hcover)).chan (.inr (.inr rfl))
    exact ⟨hend.get Channel.state, hend.get Channel.lastDir, hend.get Channel.startTimer⟩
  · have hleft := hself.leaveHeld_wait hb hstep hr ((coversStep_self s c x).trans hcover)
    have hw := hplace.unwaiting (by rw [hs]; decide) (by rw [hs]; decide)
    have hone := hplace.once
    unfold places at hone
    have hruns := leaveHeld_runs s c (by rw [hs]; rfl)
    have hstart : Deferring (leaveHeld s c) c (s.ch c).defers x True (leaveHeld s c) := by
      refine ⟨.refl _, .inl ⟨hleft.chan, hleft.grants, ?_⟩⟩
      rw [hleft.waits, hleft.resumes, hw]
      by_cases hr : resumesOf s c = []
      · rw [if_pos hr]
        exact .inl ⟨rfl, hr⟩
      · rw [if_neg hr]
        have hpos := List.length_pos_iff.2 hr
        exact .inr ⟨trivial, rfl, by omega⟩
    obtain ⟨-, ⟨hchan, -, hentry⟩ | ⟨hchan, hcovers, -⟩⟩ := settle_carried
      (deferring_carried (ch := (s.ch c).defers) True rfl ((hruns.stepOf _).trans hstep)) (.inl hleft.grants) hstart
    · refine .inl ⟨hchan.get Channel.state, ?_⟩
      rcases hentry with ⟨h, -⟩ | ⟨-, -, h⟩
      · obtain ⟨e, he⟩ := List.length_eq_one_iff.1 h
        obtain ⟨hm, hc⟩ := mem_waitsOf.1 (he ▸ List.mem_singleton_self e)
        exact ⟨e, List.mem_append_left _ hm, hc⟩
      · obtain ⟨e, he⟩ := List.length_eq_one_iff.1 h
        obtain ⟨hm, hc⟩ := mem_resumesOf.1 (he ▸ List.mem_singleton_self e)
        exact ⟨e, List.mem_append_right _ hm, hc⟩
    · exact .inr ⟨hchan.get Channel.state, hcovers⟩

end

theorem releaseTaken (r : Request) (s : State) (c : Ch) (hto : ToChannel s r c 0) :
    let ch := s.ch c
    let answers := fun body => exec (.release r) s = .next (replied s (replyTo .release r body))
    (ch.state = .follower → answers (.refused ⟨.paired, none, 0, 0, 0⟩)) ∧
    (ch.state ∈ [.idle, .stopping, .complete, .faulted] → answers (.refused ⟨.wrongState, none, 0, 0, 0⟩)) ∧
    (ch.state ∈ [.gap, .deferred, .starting, .running, .held] → ∃ t, exec (.release r) s = .next t ∧
      Answered s t (replyTo .release r (.ok (.holds (t.ch c).holds))) ∧
      (t.ch c).holds.host = false ∧ (t.ch c).holds.endHold = false ∧ (t.ch c).holds.chamber = ch.holds.chamber ∧
      (t.ch c).holds.pause = ch.holds.pause ∧
      (ch.state = .held → ch.holds.chamber = true ∨ ch.holds.pause = true → (t.ch c).state = .held) ∧
      (∀ x, ch.state = .held → ch.holds.curtailed = false → ch.holds.chamber = false → ch.holds.pause = false →
        (ch.holds.host = true ∨ ch.holds.endHold = true) → currentStep s c = some x → testsHold s = true →
        let gap := if x.dir ≠ ch.lastDir ∨ x.dir = .both ∨ ch.lastDir = .none then ch.settings.reversalGap
          else ch.settings.continuationGap
        (t.ch c).heldBefore = false ∧ (t.ch c).holds = ⟨false, false, false, false, false⟩ ∧
        (x.kind = .rest → (t.ch c).state = .running) ∧
        (x.kind ≠ .rest → ch.heldBefore = true → gap ≠ 0 → (t.ch c).state = .gap ∧ (t.ch c).gapTimer = some gap) ∧
        (x.kind ≠ .rest → ch.heldBefore = false → holdsCover s c x = true →
          (t.ch c).state = .starting ∧ (t.ch c).lastDir = x.dir ∧ (t.ch c).startTimer = some ch.settings.startTimeout) ∧
        (x.kind ≠ .rest → ch.heldBefore = false → holdsCover s c x = false → ArbiterSound s →
          ((t.ch c).state = .deferred ∧ ∃ e ∈ t.arb.waiting ++ t.arb.resume, e.ch = c) ∨
            ((t.ch c).state = .starting ∧ holdsCover t c x = true))) ∧
      (t.ch c).stepIndex = ch.stepIndex ∧ (t.ch c).stepTime = ch.stepTime ∧ (t.ch c).loops = ch.loops ∧
      (t.ch c).cycle = ch.cycle ∧ BoardFrame s t ∧ ∀ d, d ≠ c → RunFrame (s.ch d) (t.ch d)) := by
  intro ch answers
  have hb : r.body.length ≤ 1024 := by rw [hto.length]; decide
  have htake : takeKind .release r s = _ := takeRelease.eq_def r s
  rw [takeCh_of hto rfl] at htake
  obtain ⟨hpaired, hwrong, hnone⟩ := holdRefusal_of (s := s) (c := c)
  refine ⟨fun hs => ?_, fun hs => ?_, fun hs => ?_⟩
  · exact next_congr (arrive_same hto.free hb (htake.trans (by rw [hpaired hs]; rfl)))
  · exact next_congr (arrive_same hto.free hb (htake.trans (by rw [hwrong hs]; rfl)))
  · have htaken : takeKind .release r s =
        (unholdChannel s c HoldCauses.released, .ok (.holds ((unholdChannel s c HoldCauses.released).ch c).holds)) := by
      refine htake.trans ?_
      rw [hnone hs]
      rfl
    obtain ⟨hanswered, hends⟩ := request_ends hto.free hb htaken
    have hruns := unholdChannel_effect s c
    have hrun := hruns.chans c
    rw [State.ch_modCh_self] at hrun
    have hfree : ∀ x, ch.state = .held → ch.holds.curtailed = false → ch.holds.chamber = false → ch.holds.pause = false →
        (ch.holds.host = true ∨ ch.holds.endHold = true) → currentStep s c = some x → testsHold s = true →
        unholdChannel s c HoldCauses.released = settle (leaveHeld (released s c) c) ∧
          currentStep (released s c) c = some x ∧ testsHold (released s c) = true ∧
          ((released s c).ch c).holds = HoldCauses.empty := by
      intro x hheld h1 h2 h3 h4 hx ht
      have hempty : (s.ch c).holds.released = HoldCauses.empty := by
        show (⟨false, ch.holds.curtailed, ch.holds.chamber, ch.holds.pause, false⟩ : HoldCauses) = _
        rw [h1, h2, h3]
        rfl
      have hne : (s.ch c).holds ≠ HoldCauses.empty := fun e => by
        rw [show ch.holds = HoldCauses.empty from e] at h4
        exact absurd h4 (by decide)
      have hstep : currentStep (released s c) c = stepOf s { s.ch c with holds := (s.ch c).holds.released } :=
        ((Turned.self c s).modCh (fun b => { b with holds := b.holds.released }) (fun _ _ _ => rfl) rfl).currentStep
      exact ⟨unhold_leaves hheld hne hempty, hstep.trans ((stepOf_self s c).trans hx), ht,
        (congrArg Channel.holds (released_ch s c)).trans hempty⟩
    refine ⟨_, rfl, ?_, (hends.get c fun b => b.holds.host).trans hrun.host, (hends.get c fun b => b.holds.endHold).trans hrun.endHold,
      (hends.get c fun b => b.holds.chamber).trans hrun.chamber, (hends.get c fun b => b.holds.pause).trans hrun.pause,
      fun hheld hkept => ?_, fun x hheld h1 h2 h3 h4 hx ht => ?_, (hends.get c Channel.stepIndex).trans hrun.stepIndex,
      (hends.get c Channel.stepTime).trans hrun.stepTime, (hends.get c Channel.loops).trans hrun.loops,
      (hends.get c Channel.cycle).trans hrun.cycle, hends.frame (unholdChannel_keeps s c _).frame,
      fun d hd => hends.run ?_⟩
    · rw [hends.get c Channel.holds]
      exact hanswered
    · have hfast : HeldFast ((released s c).ch c) := by
        rw [released_ch]
        exact ⟨hheld, .inr (hkept.imp_right .inl)⟩
      have hne : (s.ch c).holds.released ≠ HoldCauses.empty := fun e => by
        rcases hkept with h | h
        · exact absurd ((congrArg HoldCauses.chamber e).symm.trans h) (by decide)
        · exact absurd ((congrArg HoldCauses.pause e).symm.trans h) (by decide)
      refine (hends.get c Channel.state).trans ?_
      rw [unhold_stays hne]
      exact ((settle_heldOn hfast).get Channel.state).trans hfast.1
    · obtain ⟨hacts, hstep, htests, hempty⟩ := hfree x hheld h1 h2 h3 h4 hx ht
      obtain ⟨⟨-, hbefore, hholds⟩, hrest, hgap, hcover, hwait⟩ := release_effect hstep htests hempty
      have hch := released_ch s c
      have hsettings : ((released s c).ch c).settings = (s.ch c).settings := (congrArg Channel.settings hch).trans rfl
      have hb : ((released s c).ch c).heldBefore = (s.ch c).heldBefore := (congrArg Channel.heldBefore hch).trans rfl
      have hg : gapFor ((released s c).ch c) x = gapFor (s.ch c) x := by rw [hch]; rfl
      have hcovers : holdsCover (released s c) c x = holdsCover s c x :=
        (((Turned.self c s).modCh (fun b => { b with holds := b.holds.released }) (fun _ _ _ => rfl) rfl).holdsCover x).trans
          (holdsCover_iff s c x).symm
      rw [← hacts] at hbefore hholds hrest hgap hcover hwait
      rw [hb, hg] at hgap
      rw [hb, hcovers, hsettings] at hcover
      rw [hb, hcovers] at hwait
      rw [hends.get c Channel.state, hends.get c Channel.heldBefore, hends.get c Channel.holds, hends.get c Channel.gapTimer,
        hends.get c Channel.lastDir, hends.get c Channel.startTimer, hends.holdsCover, hends.arb]
      refine ⟨hbefore, hholds, hrest, hgap, hcover, fun hr hbf hc hsound => hwait hr hbf hc ?_ ?_⟩
      · exact (((arbiterSound_iff s).1 hsound).1.placed c).of_arb rfl ((congrArg Channel.state hch).trans rfl)
      · exact (congrArg Channel.state hch).trans hheld
    · have hother := hruns.chans d
      rw [State.ch_modCh_ne _ hd] at hother
      exact hother

/-- Settles O22. -/
theorem holdAndRelease : Obligations.HoldAndRelease := ⟨holdTaken, releaseTaken⟩

end Sys2Proof.Machine
end

section
/-! PROOF. The period event of a channel outside a pair (R51, R54, R55): the layer for the statements about it. -/
namespace Sys2Proof.Machine
open Sys2Proof.Safety

section
variable {s t u : State} {c d : Ch}

/-! ### What the later stages leave (R54) -/

/-- What stages 4 to 8 of a period event leave: everything the acts of the channel unit keep but the profile queue, every other
channel's run, and every latched set but for PROFILE_UNDERRUN and what it passes on. -/
structure Works (c : Ch) (s t : State) : Prop where
  keeps  : ∃ q, Keeps (s.modCh c fun ch => { ch with queue := q }) t
  others : ∀ d, d ≠ c → (d = partner c → isLeader s c = false) → RunFrame (s.ch d) (t.ch d)
  kinds  : ∀ d k, k ≠ .profileUnderrun → k ≠ .pairPartner → hasKind (t.ch d).latched k = hasKind (s.ch d).latched k
  grows  : ∀ d k, hasKind (s.ch d).latched k = true → hasKind (t.ch d).latched k = true

theorem Keeps.isLeader (h : Keeps s t) (c : Ch) : isLeader t c = isLeader s c := by
  unfold Machine.isLeader isFollower
  rw [decide_eq_decide.2 (h.chans (partner c)).follower]

theorem Keeps.paired (h : Keeps s t) (c : Ch) : paired t c = paired s c := by
  unfold Machine.paired isFollower
  rw [h.isLeader c, decide_eq_decide.2 (h.chans c).follower]

theorem isLeader_modCh_same (f : Channel → Channel) : isLeader (s.modCh c f) c = isLeader s c := by
  unfold isLeader isFollower
  rw [State.ch_modCh_ne _ (partner_ne c)]

theorem Keeps.queued (h : Keeps s t) (q : List Point) :
    Keeps (s.modCh c fun ch => { ch with queue := q }) (t.modCh c fun ch => { ch with queue := q }) := by
  refine ⟨h.part, h.startCause, h.image, h.saveInFlight, h.link, h.pool, fun d => ?_, h.budget, h.prot, h.hall, h.freeCount,
    h.pending⟩
  have hk := h.chans d
  by_cases hd : d = c
  · subst hd
    rw [State.ch_modCh_self, State.ch_modCh_self]
    exact ⟨hk.settings, hk.cal, hk.life, hk.lifeSaturated, rfl, hk.last, hk.held, hk.missed, hk.taken, hk.pack, hk.packDone,
      hk.elapsed, hk.length, hk.presence, hk.lastConfirmed, hk.lineErr, hk.lineErrCount, hk.awaiting, hk.breaking, hk.follower,
      hk.sound⟩
  · rw [State.ch_modCh_ne _ hd, State.ch_modCh_ne _ hd]
    exact hk

theorem Works.of_keeps (h : Keeps s t) (ho : ∀ d, d ≠ c → (d = partner c → Machine.isLeader s c = false) → RunFrame (s.ch d) (t.ch d))
    (hl : ∀ d, (t.ch d).latched = (s.ch d).latched) : Works c s t := by
  refine ⟨⟨(s.ch c).queue, ?_⟩, ho, fun d k _ _ => by rw [hl], fun d k e => by rw [hl]; exact e⟩
  rwa [modCh_self rfl]

theorem Works.refl (c : Ch) (s : State) : Works c s s := .of_keeps (.refl s) (fun _ _ _ => RunKeeps.refl _) fun _ => rfl

theorem Works.isLeader (h : Works c s t) : isLeader t c = isLeader s c := by
  obtain ⟨q, hq⟩ := h.keeps
  rw [hq.isLeader, isLeader_modCh_same]

theorem Works.ne_follower (h : Works c s t) (hc : (s.ch c).state ≠ .follower) : (t.ch c).state ≠ .follower := by
  obtain ⟨q, hq⟩ := h.keeps
  exact state_ne_follower hq (by rw [State.ch_modCh_self]; exact hc)

theorem Works.trans (h : Works c s t) (k : Works c t u) : Works c s u := by
  obtain ⟨p, hp⟩ := h.keeps
  obtain ⟨q, hq⟩ := k.keeps
  refine ⟨⟨q, ?_⟩, fun d hd hl => RunKeeps.trans (h.others d hd hl) (k.others d hd fun e => h.isLeader.trans (hl e)),
    fun d j h1 h2 => (k.kinds d j h1 h2).trans (h.kinds d j h1 h2), fun d j e => k.grows d j (h.grows d j e)⟩
  have hpq := (hp.queued (c := c) q).trans hq
  rwa [modCh_modCh] at hpq

theorem Works.ite (p : Prop) [Decidable p] (h : Works c s t) (k : Works c s u) : Works c s (if p then t else u) :=
  iteInduction (motive := Works c s) (fun _ => h) fun _ => k

/-! ### A kind offered -/

theorem respond_acts (s : State) (c : Ch) : ActsOn c s (respond s c) := by
  unfold respond
  split
  · exact .refl c s
  · exact ActsOn.modCh c s _
  · exact faultChannel_acts s c

/-- A kind offered to a channel leaves every other channel's run. -/
theorem offerOne_run (s : State) {c d : Ch} (hd : d ≠ c) (k : FaultKind) (value : Int) :
    RunFrame (s.ch d) ((offerOne s c k value).ch d) := by
  unfold offerOne
  split
  · unfold warnKind
    split
    · exact RunKeeps.refl _
    · exact ((ActsOn.modCh c s _).trans (ActsOn.modLink c _ _)).run hd
  · split
    · exact RunKeeps.refl _
    · rw [latchKind_ch]
      exact ((ActsOn.modCh c s _).trans (respond_acts _ c)).run hd

theorem offer_run (s : State) {c d : Ch} (hd : d ≠ c) (hf : d = partner c → isLeader s c = false ∧ (s.ch c).state ≠ .follower)
    (k : FaultKind) (value : Int) : RunFrame (s.ch d) ((offer s c k value).ch d) := by
  rw [offer_eq]
  refine RunKeeps.trans ?_ ((settle_runs _).chans d)
  unfold offerPair
  split
  · rename_i hp
    have hne : d ≠ partner c := fun e => by
      obtain ⟨hl, hs⟩ := hf e
      have hpaired := hp.2.2
      unfold paired isFollower at hpaired
      rw [hl, Bool.false_or, decide_eq_true_iff] at hpaired
      exact hs hpaired
    exact RunKeeps.trans (offerOne_run s hd k value) (offerOne_run _ hne _ _)
  · exact offerOne_run s hd k value

/-- A kind offered latches no other kind but PAIR_PARTNER. -/
theorem offer_kinds (s : State) (c d : Ch) {k j : FaultKind} (value : Int) (hj : j ≠ k) (hp : j ≠ .pairPartner) :
    hasKind ((offer s c k value).ch d).latched j = hasKind (s.ch d).latched j := by
  have hone : ∀ (u : State) (a : Ch) (i : FaultKind) (v : Int), j ≠ i →
      hasKind ((offerOne u a i v).ch d).latched j = hasKind (u.ch d).latched j := fun u a i v hi => by
    rcases offerOne_cases u a i v with ⟨-, hkept⟩ | ⟨-, hl, ho⟩
    · rw [(hkept.chans d).latched]
    · by_cases hd : d = a
      · subst hd
        rw [hl.latched]
        simp [hi]
      · rw [(ho d hd).latched]
  rw [offer_eq, ((settle_faultsKept _).chans d).latched]
  exact iteInduction (motive := fun t : State => hasKind (t.ch d).latched j = hasKind (s.ch d).latched j)
    (fun _ => (hone _ _ _ _ hp).trans (hone _ _ _ _ hj)) fun _ => hone _ _ _ _ hj

theorem offer_grows (s : State) (c d : Ch) (k j : FaultKind) (value : Int) (hj : hasKind (s.ch d).latched j = true) :
    hasKind ((offer s c k value).ch d).latched j = true := by
  rw [offer_eq, ((settle_faultsKept _).chans d).latched]
  exact offerPair_grows s c k value d j hj

/-! ### The end of a step acts on its own channel -/

/-- A step that has ended is reported, its grant no longer live and its timers stopped (R29). -/
def toldOf (s : State) (c : Ch) (r : StepRecord) (reason : EndReason) (action : Action) : State :=
  (reportCh (grantNotLive s c) c (.stepEnd (s.ch c).stepIndex r.kind reason action (chosenIndex (s.ch c).stepIndex action)
    (s.ch c).stepTime (reported (s.ch c).qStep) (reported (s.ch c).eStep) (s.ch c).cycleNumber)).modCh c Channel.stopTimers

/-- Where the walk of a step end leads from a chosen window index (R30, R31). -/
def walkOn (s : State) (c : Ch) (j : Nat) (hold : Bool) : State :=
  match (walkFrom 1024 s c j).2 with
  | some k => landOn (walkFrom 1024 s c j).1 c k hold
  | none => scheduleEnd (walkFrom 1024 s c j).1 c .windowEnd hold

/-- The end of a step before the arbiter handles it (R29 to R32). -/
def stepEnded (s : State) (c : Ch) (r : StepRecord) (reason : EndReason) (action : Action) : State :=
  match chosenIndex (s.ch c).stepIndex action with
  | none => scheduleEnd (toldOf s c r reason action) c .endAction (action = .hold)
  | some j => walkOn (toldOf s c r reason action) c j (action = .hold)

theorem endStep_eq (s : State) (c : Ch) (r : StepRecord) (reason : EndReason) (action : Action) :
    endStep s c r reason action = settle (stepEnded s c r reason action) := rfl

theorem closeCycle_acts (s : State) (c : Ch) (j : Nat) : ActsOn c s (closeCycle s c j) := by
  unfold closeCycle
  exact (ActsOn.modLink c s _).trans (ActsOn.modCh c _ _)

theorem walkFrom_acts (fuel : Nat) (s : State) (c : Ch) (j : Nat) : ActsOn c s (walkFrom fuel s c j).1 := by
  induction fuel generalizing s j with
  | zero => exact .refl c s
  | succ n ih =>
    unfold walkFrom
    split
    · exact .refl c s
    · split
      · exact .refl c s
      · split
        · have hclose : ∀ b : Bool, ActsOn c s (if b = true then closeCycle s c j else s) := fun b =>
            .ite _ (closeCycle_acts s c j) (.refl c s)
          dsimp only
          split
          · exact (hclose _).trans (ih _ _)
          · exact (hclose _).trans ((ActsOn.modCh c _ _).trans (ih _ _))
        · exact .refl c s

theorem landOn_acts (s : State) (c : Ch) (k : Nat) (hold : Bool) : ActsOn c s (landOn s c k hold) :=
  (prepareStep_acts s c k hold).trans
    (.ite _ ((ActsOn.modCh c _ _).trans (addCause_acts _ c _)) (beginStep_acts _ c))

theorem completeSchedule_acts (s : State) (c : Ch) (reason : ScheduleEnd) : ActsOn c s (completeSchedule s c reason) :=
  (((ActsOn.modLink c s _).trans (releaseGrant_acts _ c)).trans (withdrawEntries_acts _ c)).trans
    ((ActsOn.modCh c _ _).trans (enterStopping_acts _ c _ _))

theorem scheduleEnd_acts (s : State) (c : Ch) (reason : ScheduleEnd) (hold : Bool) :
    ActsOn c s (scheduleEnd s c reason hold) := by
  have hwalk := fun body : ReportBody => (ActsOn.modLink c s fun l => l.make s.hall.partTime (chByte c) body).trans
    ((ActsOn.modCh c _ Channel.carryOutSwap).trans (walkFrom_acts 1024 _ c 0))
  unfold scheduleEnd
  dsimp only
  split
  · split
    · exact (hwalk _).trans (landOn_acts _ c _ _)
    · exact (hwalk _).trans (completeSchedule_acts _ c _)
  · exact completeSchedule_acts s c reason

theorem toldOf_acts (s : State) (c : Ch) (r : StepRecord) (reason : EndReason) (action : Action) :
    ActsOn c s (toldOf s c r reason action) := by
  unfold toldOf
  exact ((grantNotLive_acts s c).trans (ActsOn.modLink c _ _)).trans (ActsOn.modCh c _ Channel.stopTimers)

theorem walkOn_acts (s : State) (c : Ch) (j : Nat) (hold : Bool) : ActsOn c s (walkOn s c j hold) := by
  unfold walkOn
  split
  · exact (walkFrom_acts 1024 s c j).trans (landOn_acts _ c _ _)
  · exact (walkFrom_acts 1024 s c j).trans (scheduleEnd_acts _ c _ _)

theorem stepEnded_acts (s : State) (c : Ch) (r : StepRecord) (reason : EndReason) (action : Action) :
    ActsOn c s (stepEnded s c r reason action) := by
  have htold := toldOf_acts s c r reason action
  unfold stepEnded
  split
  · exact htold.trans (scheduleEnd_acts _ c _ _)
  · exact htold.trans (walkOn_acts _ c _ _)

/-! ### The stages (R54) -/

theorem Works.offer (s : State) (c : Ch) (hc : (s.ch c).state ≠ .follower) (value : Int) :
    Works c s (offer s c .profileUnderrun value) := by
  refine ⟨⟨(s.ch c).queue, ?_⟩, fun d hd hl => offer_run s hd (fun e => ⟨hl e, hc⟩) _ _,
    fun d k h1 h2 => offer_kinds s c d value h1 h2, fun d k h => offer_grows s c d _ k value h⟩
  rw [modCh_self rfl]
  exact offer_keeps s c _ value

/-- A change of the channel's own run that no other claim of the stages is about. -/
theorem Works.modCh (s : State) (c : Ch) (f : Channel → Channel) (hk : ChKeeps (s.ch c) (f (s.ch c)))
    (hl : (f (s.ch c)).latched = (s.ch c).latched) : Works c s (s.modCh c f) :=
  .of_keeps (Keeps.modCh s c f hk) (fun d hd _ => by rw [State.ch_modCh_ne _ hd]; exact RunKeeps.refl _)
    (ch_modCh_eq s c f Channel.latched hl)

theorem Works.goIntoUnderrun (s : State) (c : Ch) (hc : (s.ch c).state ≠ .follower) : Works c s (goIntoUnderrun s c) := by
  have hset : ∀ p : Channel → Playback, Works c s (s.modCh c fun ch => { ch with play := p ch }) := fun p =>
    .modCh s c _ (by constructor <;> first | rfl | exact Iff.rfl | exact id) rfl
  unfold Machine.goIntoUnderrun
  refine .ite _ ((hset _).trans (.offer _ c ?_ _)) (hset _)
  rw [State.ch_modCh_self]
  exact hc

theorem Works.restartUnderrun (s : State) (c : Ch) (hc : (s.ch c).state ≠ .follower) : Works c s (restartUnderrun s c) := by
  unfold Machine.restartUnderrun
  split
  · exact .ite _ (.goIntoUnderrun s c hc) (.refl c s)
  · exact .refl c s

theorem Works.stagePeak (s : State) (c : Ch) (taken : Bool) : Works c s (stagePeak s c taken) := by
  unfold Machine.stagePeak
  exact .ite _ (.modCh s c _ (by constructor <;> first | rfl | exact Iff.rfl | exact id) rfl) (.refl c s)

theorem Works.of_runs (h : Runs s t) : Works c s t :=
  .of_keeps h.keeps (fun d _ _ => h.chans d) fun d => (h.chans d).latched

theorem grantLive_runs (s : State) (c : Ch) : Runs s (grantLive s c) :=
  (modGrant_runs s c _).trans (Runs.modArb _ _ rfl)

theorem Works.stageStart (s : State) (c : Ch) (taken : Bool) : Works c s (stageStart s c taken) := by
  unfold Machine.stageStart
  refine iteInduction (motive := Works c s) (fun h => ?_) fun _ => .refl c s
  have hstart : Works c s (s.modCh c fun ch => { ch with state := .running, startTimer := none }) :=
    .modCh s c _ ⟨rfl, rfl, rfl, rfl, rfl, rfl, rfl, rfl, rfl, rfl, rfl, rfl, rfl, rfl, rfl, rfl, rfl, rfl, rfl,
      by rw [h.1]; simp, id⟩ rfl
  have hgrant : Works c s (settle (grantLive (s.modCh c fun ch => { ch with state := .running, startTimer := none }) c)) :=
    hstart.trans (.of_runs ((grantLive_runs _ c).trans (settle_runs _)))
  exact hgrant.trans (.restartUnderrun _ c (hgrant.ne_follower (by rw [h.1]; decide)))

theorem Works.advancePlayback (s : State) (c : Ch) (counted : Bool) (hc : (s.ch c).state ≠ .follower) :
    Works c s (advancePlayback s c counted) := by
  obtain ⟨q, p, hadvance⟩ := advancePoint_eq (s.ch c) counted
  have hpoint : Works c s (s.modCh c fun _ => (advancePoint (s.ch c) counted).1) := by
    rw [hadvance]
    refine ⟨⟨q, ?_⟩, fun d hd _ => by rw [State.ch_modCh_ne _ hd]; exact RunKeeps.refl _,
      fun d k _ _ => congrArg (hasKind · k) (ch_modCh_eq s c _ Channel.latched rfl d),
      fun d k h => (congrArg (hasKind · k) (ch_modCh_eq s c _ Channel.latched rfl d)).trans h⟩
    have hplay := Keeps.modCh (s.modCh c fun ch => { ch with queue := q }) c (fun ch => { ch with play := p })
      (by constructor <;> first | rfl | exact Iff.rfl | exact id)
    rwa [modCh_modCh] at hplay
  have hlow : ∀ u : State, Works c u (lowWaterTest u c) := fun u => by
    unfold lowWaterTest
    refine .ite _ (.trans (.modCh u c (fun ch => { ch with play := { ch.play with lowArmed := false } })
      (by constructor <;> first | rfl | exact Iff.rfl | exact id) rfl) (.of_runs (reportCh_runs _ c _))) (.refl c u)
  have hboth := hpoint.trans (.ite ((advancePoint (s.ch c) counted).2 = true) (hlow _) (.refl c _))
  exact hboth.trans (.ite _ (.goIntoUnderrun _ c (hboth.ne_follower hc)) (.refl c _))

theorem Works.stagePlay (s : State) (c : Ch) (counted : Bool) : Works c s (stagePlay s c counted) := by
  unfold Machine.stagePlay
  split
  · exact iteInduction (motive := Works c s) (fun h => .advancePlayback s c counted (running_ne s c h.1)) fun _ => .refl c s
  · exact .refl c s

theorem isRunning_iff : isRunning s c = true ↔ (s.ch c).state = .running := by
  unfold isRunning
  exact decide_eq_true_iff

theorem Works.endStep (s : State) (c : Ch) (h : (s.ch c).state = .running) (r : StepRecord) (reason : EndReason) (action : Action) :
    Works c s (endStep s c r reason action) := by
  have hne : (s.ch c).state ≠ .follower := by rw [h]; decide
  refine .of_keeps (endStep_keeps s c r reason action hne) (fun d hd _ => ?_) fun d => ?_
  · rw [endStep_eq]
    exact RunKeeps.trans ((stepEnded_acts s c r reason action).run hd) ((settle_runs _).chans d)
  · exact ((endStep_faultsKept (isRunning_unfaulted (isRunning_iff.2 h)) r reason action).chans d).latched

theorem Works.stageTests (s : State) (c : Ch) (taken : Bool) : Works c s (stageTests s c taken) := by
  unfold Machine.stageTests
  refine iteInduction (motive := Works c s) (fun h => ?_) fun _ => .refl c s
  have h0 : ∀ x, Works c s (s.modCh c fun ch => { ch with confirms := x }) := fun x =>
    .modCh s c _ (by constructor <;> first | rfl | exact Iff.rfl | exact id) rfl
  have hend : ∀ x r reason action, Works c s (Machine.endStep (s.modCh c fun ch => { ch with confirms := x }) c r reason action) :=
    fun x r reason action => (h0 x).trans (.endStep _ c (by rw [State.ch_modCh_self]; exact isRunning_iff.1 h) r reason action)
  unfold endTests
  split
  · exact .refl c s
  · dsimp only
    split
    · exact hend _ _ _ _
    · exact .ite _ (hend _ _ _ _) (h0 _)

/-- What stages 4 to 8 leave. -/
theorem stagesLater_works (s : State) (c : Ch) (taken counted : Bool) : Works c s (stagesLater s c taken counted) := by
  unfold stagesLater
  refine .ite _ (.refl c s) (((((Works.stagePeak s c taken).trans (.stageStart _ c taken)).trans (.stagePlay _ c counted)).trans
    (.stageTests _ c taken)).trans ?_)
  unfold stageRefresh
  exact .ite _ (.of_runs (issue_runs _ c)) (.refl c _)

end

end Sys2Proof.Machine
end

section
/-! PROOF. The first stages of a period event (R51, R54, R55), and the missed period (R55). -/
namespace Sys2Proof.Machine
open Sys2Proof.Safety

/-! ### Stages of one channel, as functions of it -/

/-- A channel as the opening of its next period leaves it (R51, R52). -/
def Channel.opens (ch : Channel) (n : Nat) : Channel :=
  { ch with taken := false, packDone := false, periodElapsed := 0, periodLength := n, port := ch.port.openPeriod }

/-- A channel as a missed period leaves it, STAGE_SILENT apart (R55). -/
def Channel.misses (ch : Channel) : Channel :=
  { ch with
    held := true
    missed := if ch.port.presence = .present then satAdd count16Limit ch.missed 1 else ch.missed }

/-- A channel as stages 2 and 3 leave it, with the step time advanced or not and the accounts fed or not (R54). -/
def Channel.feeds (ch : Channel) (timed fed : Bool) (n : Nat) (f : Figures) : Channel :=
  { ch with
    stepTime := if timed then satAdd countLimit ch.stepTime n else ch.stepTime
    qStep := if fed && ch.state.feedsStep then satAddInt ch.qStep (f.i * n) else ch.qStep
    eStep := if fed && ch.state.feedsStep then satAddInt ch.eStep (powerOf f.v f.i * n) else ch.eStep
    cycle := if fed && ch.state.engaged then ch.cycle.feed (f.i * n) (powerOf f.v f.i * n) else ch.cycle
    life := if fed then ch.life.feed (f.i * n) (powerOf f.v f.i * n) else ch.life
    lifeSaturated := ch.lifeSaturated || fed && ch.life.saturates (f.i * n) (powerOf f.v f.i * n) }

/-- A figure that neither step time nor the accounts are part of. -/
theorem Channel.feeds_get {α : Type} (ch : Channel) (timed fed : Bool) (n : Nat) (f : Figures) (g : Channel → α)
    (hg : ∀ (ch : Channel) a x y z l b,
      g { ch with stepTime := a, qStep := x, eStep := y, cycle := z, life := l, lifeSaturated := b } = g ch := by intros; rfl) :
    g (ch.feeds timed fed n f) = g ch := hg _ _ _ _ _ _ _

theorem Channel.integrate_eq (ch : Channel) (n : Nat) (f : Figures) :
    ch.integrate (f.i * n) (powerOf f.v f.i * n) = ch.feeds false true n f := by
  unfold Channel.integrate Channel.feeds
  cases hs : ch.state.feedsStep <;> cases he : ch.state.engaged <;> simp [he]

theorem Channel.feeds_none (ch : Channel) (n : Nat) (f : Figures) : ch.feeds false false n f = ch := by
  unfold Channel.feeds
  simp

theorem Channel.feeds_time (ch : Channel) (timed fed : Bool) (n : Nat) (f : Figures) :
    (ch.feeds timed false n f).feeds false fed n f = ch.feeds timed fed n f := by
  unfold Channel.feeds
  simp

section
variable {s t u v : State} {c d : Ch}

/-! ### Stages of the state -/

/-- The state with the next period open (R51, R52). -/
def openedOf (s : State) (c : Ch) : State :=
  let n := periodInForce s c
  if isLeader s c then (s.modCh c fun ch => ch.opens n).modCh (partner c) fun ch => ch.opens n
  else s.modCh c fun ch => ch.opens n

/-- The state after stage 1 (R54, R55, R128). -/
def settledOf (s : State) (c : Ch) : State :=
  stageSettle (openedOf s c) c (s.ch c).taken (s.ch (partner c)).taken (s.ch c).packDone

/-- The state after stage 3. -/
def closedOf (s : State) (c : Ch) : State :=
  let u := settledOf s c
  integratePeriod (if u.hall.state = .paused then u else stageTime u c (s.ch c).periodLength) c (s.ch c).periodLength

/-- Whether the period of a channel, or the pack period of a leader, is a taken one (R128). -/
def periodTaken (s : State) (c : Ch) : Bool :=
  if isLeader s c then (s.ch c).taken && (s.ch (partner c)).taken else (s.ch c).taken

theorem periodExpires_eq (hf : (s.ch c).state ≠ .follower) : periodExpires s c =
    restartPeriod (stagesLater (closedOf s c) c (periodTaken s c) (isRunning (settledOf s c) c)) c := by
  unfold periodExpires
  rw [isFollower_false hf, if_neg Bool.false_ne_true]
  rfl

theorem missPeriod_eq (s : State) (c : Ch) : missPeriod s c =
    if (s.ch c).port.presence = .present ∧ 3 ≤ (s.ch c).misses.missed then
      offer (s.modCh c Channel.misses) c .stageSilent (s.ch c).misses.missed
    else s.modCh c Channel.misses := by
  unfold missPeriod
  have hsame : (s.modCh c fun ch =>
      { ch with held := true, missed := if decide ((s.port c).presence = .present) = true then satAdd count16Limit ch.missed 1
          else ch.missed }) = s.modCh c Channel.misses := by
    refine modCh_congr ?_
    unfold Channel.misses State.port
    by_cases hp : (s.ch c).port.presence = .present <;> simp only [hp, decide_true, decide_false, if_true, if_false]
    rfl
  dsimp only
  rw [hsame, State.ch_modCh_self]
  refine if_congr (and_congr_left fun _ => decide_eq_true_iff) rfl rfl

theorem openedOf_single (hl : isLeader s c = false) : openedOf s c = s.modCh c fun ch => ch.opens (periodInForce s c) := by
  unfold openedOf
  rw [hl]
  rfl

/-- A figure of a port that its query and its transmitter are no part of. -/
theorem openPeriod_get {α : Type} (p : Port) (g : Port → α)
    (hg : ∀ (p : Port) a x d, g { p with queryAwaiting := a, sending := x, due := d } = g p := by intros; rfl) :
    g p.openPeriod = g p := by
  unfold Port.openPeriod Port.enqueue
  split <;> exact hg p _ _ _

theorem settledOf_single (hl : isLeader s c = false) : settledOf s c =
    if (s.ch c).taken then s.modCh c fun ch => ch.opens (periodInForce s c)
    else missPeriod (s.modCh c fun ch => ch.opens (periodInForce s c)) c := by
  have hstill : ∀ b : Bool, isLeader (if b = true then s.modCh c fun ch => ch.opens (periodInForce s c)
      else missPeriod (s.modCh c fun ch => ch.opens (periodInForce s c)) c) c = false := fun b => by
    have hopen : isLeader (s.modCh c fun ch => ch.opens (periodInForce s c)) c = false := by rw [isLeader_modCh_same]; exact hl
    cases b
    · rw [if_neg Bool.false_ne_true, missPeriod_eq]
      split
      · rw [(offer_keeps _ c _ _).isLeader, isLeader_modCh_same]; exact hopen
      · rw [isLeader_modCh_same]; exact hopen
    · exact hopen
  unfold settledOf stageSettle
  rw [openedOf_single hl]
  dsimp only
  rw [if_neg (by rw [hstill]; exact Bool.false_ne_true)]

/-- A channel outside a pair whose period was taken, or missed without STAGE_SILENT, settles on its own. -/
theorem settledOf_plain (hl : isLeader s c = false)
    (hq : (s.ch c).taken = false → (s.ch c).port.presence = .present → (s.ch c).missed < 2) :
    settledOf s c = s.modCh c fun ch =>
      if ch.taken then ch.opens (periodInForce s c) else (ch.opens (periodInForce s c)).misses := by
  rw [settledOf_single hl]
  cases ht : (s.ch c).taken
  · rw [if_neg Bool.false_ne_true, missPeriod_eq, State.ch_modCh_self, if_neg, modCh_modCh]
    · exact modCh_congr (by rw [ht]; rfl)
    · rintro ⟨hp, hm⟩
      replace hp : (s.ch c).port.presence = .present := (openPeriod_get _ Port.presence).symm.trans hp
      have hmissed : ((s.ch c).opens (periodInForce s c)).misses.missed = satAdd count16Limit (s.ch c).missed 1 :=
        if_pos ((openPeriod_get _ Port.presence).trans hp)
      rw [hmissed] at hm
      have hfew := hq ht hp
      unfold satAdd count16Limit at hm
      omega
  · rw [if_pos rfl]
    exact modCh_congr (by rw [ht]; rfl)

theorem stageTime_eq (s : State) (c : Ch) (n : Nat) (f : Figures) :
    stageTime s c n = s.modCh c fun ch => ch.feeds (isRunning s c) false n f := by
  unfold stageTime
  cases isRunning s c
  · exact (modCh_self (Channel.feeds_none _ _ _)).symm
  · refine (if_pos rfl).trans (modCh_congr ?_)
    unfold Channel.feeds
    simp

theorem integratePeriod_eq (s : State) (c : Ch) (n : Nat) :
    integratePeriod s c n = s.modCh c fun ch => ch.feeds false (accountsFed s c) n (figuresOf s c) := by
  unfold integratePeriod
  cases accountsFed s c
  · exact (modCh_self (Channel.feeds_none _ _ _)).symm
  · exact (if_pos rfl).trans (modCh_congr (Channel.integrate_eq _ _ _))

/-- What the accounts of a period go by is no part of what the period feeds. -/
theorem feeds_figures (s : State) (c : Ch) (timed fed : Bool) (n : Nat) (f : Figures) :
    let u := s.modCh c fun ch => ch.feeds timed fed n f
    accountsFed u c = accountsFed s c ∧ figuresOf u c = figuresOf s c := by
  intro u
  have hleads : isLeader u c = isLeader s c := isLeader_modCh_same _
  unfold accountsFed figuresOf portsOf State.port
  rw [hleads]
  have hport : ∀ d, (u.ch d).port = (s.ch d).port := ch_modCh_eq s c _ Channel.port (Channel.feeds_get _ _ _ _ _ _)
  have hpack : ∀ d, (u.ch d).pack = (s.ch d).pack := ch_modCh_eq s c _ Channel.pack (Channel.feeds_get _ _ _ _ _ _)
  have hlast : ∀ d, (u.ch d).last = (s.ch d).last := ch_modCh_eq s c _ Channel.last (Channel.feeds_get _ _ _ _ _ _)
  simp only [hport, hpack, hlast, and_self]

theorem closedOf_eq (s : State) (c : Ch) : closedOf s c = (settledOf s c).modCh c fun ch =>
    ch.feeds ((settledOf s c).hall.state ≠ .paused && isRunning (settledOf s c) c) (accountsFed (settledOf s c) c)
      (s.ch c).periodLength (figuresOf (settledOf s c) c) := by
  obtain ⟨u, hu⟩ : ∃ u, u = settledOf s c := ⟨_, rfl⟩
  obtain ⟨n, hn⟩ : ∃ n, n = (s.ch c).periodLength := ⟨_, rfl⟩
  have hfirst : (if u.hall.state = .paused then u else stageTime u c n) =
      u.modCh c fun ch => ch.feeds (u.hall.state ≠ .paused && isRunning u c) false n (figuresOf u c) := by
    by_cases hp : u.hall.state = .paused
    · rw [if_pos hp, hp]
      exact (modCh_self (Channel.feeds_none _ _ _)).symm
    · rw [if_neg hp, stageTime_eq u c n (figuresOf u c)]
      simp [hp]
  unfold closedOf
  rw [← hu, ← hn]
  dsimp only
  rw [hfirst, integratePeriod_eq, (feeds_figures u c _ _ _ _).1, (feeds_figures u c _ _ _ _).2, modCh_modCh]
  exact modCh_congr (Channel.feeds_time _ _ _ _ _)

/-! ### The end of the event -/

theorem restartPeriod_ends (s : State) (c : Ch) : Ends s (restartPeriod s c) := by
  have hmod : ∀ u d n, Ends u (u.modCh d fun ch => { ch with periodLength := n }) := fun u d n =>
    ⟨rfl, fun e => by
      rw [State.ch_modCh]
      split
      · rename_i he; rw [he]
      · rfl, rfl, ⟨rfl, rfl⟩, rfl, fun _ => rfl⟩
  unfold restartPeriod portsOf
  split
  · exact (hmod s c _).trans (hmod _ _ _) rfl
  · exact hmod s c _

theorem restartPeriod_link (s : State) (c : Ch) : (restartPeriod s c).link = s.link := by
  unfold restartPeriod portsOf
  split <;> rfl

/-- A period event ends as its stages leave the state, its periods apart. -/
theorem periodEvent_ends (hp : s.part = .ready) (hf : (s.ch c).state ≠ .follower) :
    Ends (stagesLater (closedOf s c) c (periodTaken s c) (isRunning (settledOf s c) c))
      (whenReady s fun s => periodExpires s c) := by
  have hends := event_ends (f := fun s => periodExpires s c) hp
  rw [periodExpires_eq hf] at hends
  exact (restartPeriod_ends _ c).trans hends (by rw [restartPeriod_link])

/-- Stages 4 to 8 work in STARTING and RUNNING alone. -/
theorem stagesLater_rests (h1 : (s.ch c).state ≠ .starting) (h2 : (s.ch c).state ≠ .running) (taken counted : Bool) :
    stagesLater s c taken counted = s := by
  have hr : isRunning s c = false := decide_eq_false h2
  have hpeak : stagePeak s c taken = s := if_neg fun h => absurd (hr.symm.trans h.1) Bool.false_ne_true
  have hstart : stageStart s c taken = s := if_neg fun h => h1 h.1
  have hplay : stagePlay s c counted = s := by
    unfold stagePlay
    split
    · exact if_neg fun h => absurd (hr.symm.trans h.1) Bool.false_ne_true
    · rfl
  have htests : stageTests s c taken = s := if_neg (by rw [hr]; exact Bool.false_ne_true)
  have hrefresh : stageRefresh s c = s := if_neg (not_or.2 ⟨h1, h2⟩)
  unfold stagesLater
  rw [hpeak, hstart, hplay, htests, hrefresh, ite_self]

/-! ### A missed period (R55) -/

/-- The channel of a missed period before STAGE_SILENT is offered. -/
def missing (s : State) (c : Ch) : State := s.modCh c fun ch => (ch.opens (periodInForce s c)).misses

theorem settledOf_missed (hl : isLeader s c = false) (ht : (s.ch c).taken = false) : settledOf s c =
    if (s.ch c).port.presence = .present ∧ 3 ≤ min 65535 ((s.ch c).missed + 1) then
      offer (missing s c) c .stageSilent (min 65535 ((s.ch c).missed + 1) : Nat)
    else missing s c := by
  have hpresence : (s.ch c).port.openPeriod.presence = (s.ch c).port.presence := openPeriod_get _ Port.presence
  rw [settledOf_single hl, ht, if_neg Bool.false_ne_true, missPeriod_eq, State.ch_modCh_self, modCh_modCh]
  unfold Channel.misses Channel.opens
  dsimp only
  rw [hpresence]
  by_cases hp : (s.ch c).port.presence = .present
  · simp only [hp, if_true, true_and]
    rfl
  · simp only [hp, if_false, false_and]
    rfl

theorem missing_ch (s : State) (c : Ch) : (missing s c).ch c = ((s.ch c).opens (periodInForce s c)).misses :=
  State.ch_modCh_self s c _

theorem missing_paired (hp : paired s c = false) : paired (missing s c) c = false := by
  unfold missing paired isFollower at *
  rw [isLeader_modCh_same, State.ch_modCh_self]
  exact hp

theorem settledOf_missing (hl : isLeader s c = false) (ht : (s.ch c).taken = false) : Keeps (missing s c) (settledOf s c) := by
  rw [settledOf_missed hl ht]
  split
  · exact offer_keeps _ c _ _
  · exact .refl _

end

end Sys2Proof.Machine
end

section
/-! PROOF. The missed period (R55), and the period event outside a run (R51, R63 to R67). -/
namespace Sys2Proof.Machine
open Sys2Proof.Safety

section
variable {s t u v : State} {c d : Ch}

theorem portsOf_single (hl : isLeader s c = false) : portsOf s c = [c] := if_neg (by rw [hl]; exact Bool.false_ne_true)

theorem accountsFed_single (hl : isLeader s c = false) : accountsFed s c = decide ((s.ch c).port.presence = .present) := by
  unfold accountsFed
  rw [portsOf_single hl, List.all_cons, List.all_nil, Bool.and_true]
  rfl

theorem figuresOf_single (hl : isLeader s c = false) : figuresOf s c = lastFigures (s.ch c) :=
  if_neg (by rw [hl]; exact Bool.false_ne_true)

theorem closedOf_ch (s : State) (c : Ch) : (closedOf s c).ch c = ((settledOf s c).ch c).feeds
    ((settledOf s c).hall.state ≠ .paused && isRunning (settledOf s c) c) (accountsFed (settledOf s c) c)
      (s.ch c).periodLength (figuresOf (settledOf s c) c) := by
  rw [closedOf_eq, State.ch_modCh_self]

theorem openPeriod_presence (p : Port) : p.openPeriod.presence = p.presence := openPeriod_get p Port.presence

/-- Out of its run a channel feeds its lifetime accounts alone (R65, R67). -/
theorem Channel.feeds_rests {ch : Channel} (he : ch.state.engaged = false) (hf : ch.state.feedsStep = false) (fed : Bool)
    (n : Nat) (f : Figures) : ch.feeds false fed n f =
      { ch with
        life := if fed then ch.life.feed (f.i * n) (powerOf f.v f.i * n) else ch.life
        lifeSaturated := ch.lifeSaturated || fed && ch.life.saturates (f.i * n) (powerOf f.v f.i * n) } := by
  unfold Channel.feeds
  simp only [he, hf, Bool.and_false, Bool.false_eq_true, if_false]

/-! ### The third missed period in a row -/

/-- STAGE_SILENT has been dealt with at the end of the event: the channel is FAULTED, and the later stages leave it so. -/
theorem silent_taken {value : Int} (h : Latches (missing s c) u c .stageSilent value) (hu : settledOf s c = u)
    (he : Ends (stagesLater (closedOf s c) c (periodTaken s c) (isRunning (settledOf s c) c)) t) :
    FaultTaken s t c .stageSilent value := by
  subst hu
  have hstate : ((settledOf s c).ch c).state = .faulted := by rw [h.chan]; rfl
  have hrun : isRunning (settledOf s c) c = false := decide_eq_false (by rw [hstate]; decide)
  obtain ⟨l, m, hclosed⟩ : ∃ l m, (closedOf s c).ch c = { (settledOf s c).ch c with life := l, lifeSaturated := m } := by
    have hch := closedOf_ch s c
    rw [hrun, Bool.and_false, Channel.feeds_rests (by rw [hstate]; rfl) (by rw [hstate]; rfl)] at hch
    exact ⟨_, _, hch⟩
  rw [stagesLater_rests (by rw [hclosed]; simp [hstate]) (by rw [hclosed]; simp [hstate])] at he
  obtain ⟨n, hch⟩ := he.ch hclosed
  have hends : Ends (settledOf s c) (settledOf s c) := ⟨rfl, fun _ => rfl, rfl, ⟨rfl, rfl⟩, rfl, fun _ => rfl⟩
  have htaken := (h.taken hends).1
  have harb : t.arb = (settledOf s c).arb := by rw [he.arb, closedOf_eq]; rfl
  have hmissing := missing_ch s c
  refine ⟨?_, ?_, ?_, ?_, ?_, ?_, ?_, fun hs hroom => ?_⟩
  · rw [hch]; exact htaken.latched.trans (by rw [hmissing]; rfl)
  · rw [hch]; exact htaken.first.trans (by rw [hmissing]; rfl)
  · rw [hch]; exact htaken.state
  · rw [hch]; exact htaken.resume.trans (by rw [hmissing]; rfl)
  · rw [hch]; exact htaken.cleared
  · unfold Unlisted
    rw [harb]
    exact htaken.unlisted
  · rw [hch]; exact htaken.demand
  · obtain ⟨rest, hrest⟩ := htaken.report hs hroom
    refine ⟨rest, ?_⟩
    rw [he.reports (by rw [closedOf_eq]; exact h.keeps.link.sending.trans_ne hs), closedOf_eq]
    refine (show (settledOf s c).link.reports = _ from hrest).trans ?_
    rw [hmissing]
    rfl

/-! ### Periods in force out of a run -/

theorem periodInForce_rests (he : (s.ch c).state.engaged = false) : periodInForce s c = 1000 :=
  if_neg fun h => absurd (he.symm.trans h.1) Bool.false_ne_true

/-- IDLE, COMPLETE and FAULTED channels run nothing. -/
theorem rests_states (h : (s.ch c).state ∈ [ChState.idle, .complete, .faulted]) :
    (s.ch c).state.engaged = false ∧ (s.ch c).state.feedsStep = false ∧ (s.ch c).state ≠ .starting ∧
      (s.ch c).state ≠ .running ∧ (s.ch c).state ≠ .follower := by
  simp only [List.mem_cons, List.not_mem_nil, or_false] at h
  rcases h with h | h | h <;> rw [h] <;> decide

/-- A period event out of a run: what stage 1 leaves, the lifetime accounts fed (R67), and the standby period. -/
theorem periodExpires_rests (h : (s.ch c).state ∈ [ChState.idle, .complete, .faulted]) (hl : isLeader s c = false)
    {f : Channel → Channel} (hset : settledOf s c = s.modCh c f) (hs : (f (s.ch c)).state = (s.ch c).state)
    (hn : (f (s.ch c)).periodLength = 1000) (hp : (f (s.ch c)).port.presence = (s.ch c).port.presence) :
    periodExpires s c = s.modCh c fun ch => (f ch).feeds false (ch.port.presence = .present) ch.periodLength (lastFigures (f ch)) := by
  obtain ⟨he, hfs, h1, h2, h3⟩ := rests_states h
  have hch : (settledOf s c).ch c = f (s.ch c) := by rw [hset, State.ch_modCh_self]
  have hlead : isLeader (settledOf s c) c = false := by rw [hset, isLeader_modCh_same]; exact hl
  have hrun : isRunning (settledOf s c) c = false := decide_eq_false (by rw [hch, hs]; exact h2)
  have hclosed : closedOf s c = s.modCh c fun ch =>
      (f ch).feeds false (ch.port.presence = .present) ch.periodLength (lastFigures (f ch)) := by
    rw [closedOf_eq, accountsFed_single hlead, figuresOf_single hlead, hrun, Bool.and_false, hch, hp, hset, modCh_modCh]
    exact modCh_congr rfl
  have hstate : ((closedOf s c).ch c).state = (s.ch c).state := by
    rw [hclosed, State.ch_modCh_self]
    exact hs
  have hlater : isLeader (closedOf s c) c = false := by rw [hclosed, isLeader_modCh_same]; exact hl
  rw [periodExpires_eq h3, stagesLater_rests (by rw [hstate]; exact h1) (by rw [hstate]; exact h2)]
  unfold restartPeriod
  rw [portsOf_single hlater, List.foldl_cons, List.foldl_nil, periodInForce_rests (by rw [hstate]; exact he)]
  refine (modCh_self ?_).trans hclosed
  rw [hclosed, State.ch_modCh_self]
  have hlength : ((f (s.ch c)).feeds false (decide ((s.ch c).port.presence = .present)) (s.ch c).periodLength
      (lastFigures (f (s.ch c)))).periodLength = 1000 := hn
  rw [← hlength]

/-- The event of such a channel, with no frame due at the control link. -/
theorem periodEvent_rests (hp : s.part = .ready) (hdue : NoFrameDue s) {f : Channel → Channel}
    (hf : periodExpires s c = s.modCh c f) (hs : (f (s.ch c)).state = (s.ch c).state)
    (hk : (f (s.ch c)).settings = (s.ch c).settings) : exec (.periodEvent c) s = .next (s.modCh c f) := by
  refine next_congr ?_
  rw [whenReady, if_pos hp, hf, finish_modCh s c f hs hk]
  exact pump_noFrameDue hdue

end

/-- A channel that missed its period out of a run, at the end of the event. -/
theorem Channel.misses_feeds {ch : Channel} (he : ch.state.engaged = false) (hf : ch.state.feedsStep = false) :
    let dq : Int := ch.last.i * ch.periodLength
    let de : Int := powerOf ch.last.v ch.last.i * ch.periodLength
    (ch.opens 1000).misses.feeds false (ch.port.presence = .present) ch.periodLength (lastFigures (ch.opens 1000).misses) =
      { ch with
        held := true
        missed := if ch.port.presence = .present then min 65535 (ch.missed + 1) else ch.missed
        life := if ch.port.presence = .present then ch.life.feed dq de else ch.life
        lifeSaturated := if ch.port.presence = .present then ch.lifeSaturated || ch.life.saturates dq de
          else ch.lifeSaturated
        taken := false
        packDone := false
        periodElapsed := 0
        periodLength := 1000
        port := ch.port.openPeriod } := by
  have hopen : (ch.opens 1000).port.presence = ch.port.presence := openPeriod_presence _
  rw [Channel.feeds_rests (ch := (ch.opens 1000).misses) he hf, Channel.misses, hopen]
  by_cases hp : ch.port.presence = .present
  · simp only [hp, decide_true, Bool.true_and, if_true]
    rfl
  · simp only [hp, decide_false, Bool.false_and, Bool.or_false, if_false]
    rfl

/-- A kind that is latched already, with nothing for the arbiter to do. -/
theorem offer_held {s : State} {c : Ch} {k : FaultKind} {value : Int} (hp : paired s c = false)
    (hw : warns (s.ch c).settings k = false) (hk : hasKind (s.ch c).latched k = true) (hq : ArbiterQuiet s) :
    offer s c k value = s := by
  rw [offer_single hp, offerOne, hw, if_neg Bool.false_ne_true, if_pos hk]
  exact settle_calm hq.1 hq.2

/-- Settles O39. -/
theorem missedPeriod : Obligations.MissedPeriod := by
  unfold Obligations.MissedPeriod
  intro s c hp hpair ht ch present count silent dq de
  obtain ⟨hl, hf⟩ := paired_false hpair
  have hmissed : ((missing s c).ch c).missed = if present then count else ch.missed := by
    rw [missing_ch]
    exact if_congr (by rw [show (((s.ch c).opens _).port.presence = _) from openPeriod_presence _]) rfl rfl
  have hpresence : ((missing s c).ch c).port.presence = ch.port.presence := by
    rw [missing_ch]
    exact openPeriod_presence _
  have hset := (settledOf_missing hl ht).chans c
  have hlead : isLeader (settledOf s c) c = false := by
    rw [(settledOf_missing hl ht).isLeader, missing, isLeader_modCh_same]
    exact hl
  refine ⟨?_, fun hdue hquiet hstate hold => ?_⟩
  · have hends := periodEvent_ends hp hf
    have hworks := stagesLater_works (closedOf s c) c (periodTaken s c) (isRunning (settledOf s c) c)
    obtain ⟨q, hq⟩ := hworks.keeps
    have hkeeps := hq.chans c
    rw [State.ch_modCh_self, closedOf_ch] at hkeeps
    have hlife : ((settledOf s c).ch c).life = ch.life := hset.life.trans (by rw [missing_ch]; rfl)
    have hlast : ((settledOf s c).ch c).last = ch.last := hset.last.trans (by rw [missing_ch]; rfl)
    have hfed : accountsFed (settledOf s c) c = decide present := by
      rw [accountsFed_single hlead, hset.presence, hpresence]
    have hsilentTaken : silent → hasKind ch.latched .stageSilent = false → ch.state ≠ .faulted →
        FaultTaken s (whenReady s fun s => periodExpires s c) c .stageSilent count := fun hsilent hk hs => by
      refine silent_taken (offer_latches (missing_paired hpair) ?_ rfl ?_) ?_ hends
      · rw [missing_ch]; exact hs
      · rw [missing_ch]; exact hk
      · exact (settledOf_missed hl ht).trans (if_pos hsilent)
    refine ⟨_, rfl, ?_, ?_, ?_, ?_, ?_, ?_, fun hsilent => ?_, hsilentTaken, fun hsilent => ?_⟩
    · exact (hends.get c Channel.held).trans (hkeeps.held.trans (hset.held.trans (by rw [missing_ch]; rfl)))
    · exact (hends.get c Channel.last).trans (hkeeps.last.trans hlast)
    · exact (hends.get c Channel.taken).trans (hkeeps.taken.trans (hset.taken.trans (by rw [missing_ch]; rfl)))
    · exact (hends.get c Channel.missed).trans (hkeeps.missed.trans (hset.missed.trans hmissed))
    · exact (hends.get c fun ch => ch.port.presence).trans (hkeeps.presence.trans (hset.presence.trans hpresence))
    · refine (hends.get c Channel.life).trans (hkeeps.life.trans ?_)
      unfold Channel.feeds
      dsimp only
      rw [hfed, hlife, figuresOf_single hlead, lastFigures, hlast]
      exact if_congr decide_eq_true_iff rfl rfl
    · refine (congrArg (hasKind · .stageSilent) (hends.get c Channel.latched)).trans (hworks.grows c _ ?_)
      rw [closedOf_ch, show (Channel.feeds _ _ _ _ _).latched = _ from Channel.feeds_get _ _ _ _ _ Channel.latched,
        (settledOf_missed hl ht).trans (if_pos hsilent)]
      exact offer_hasKind _ rfl
    · have hplain : settledOf s c = missing s c := (settledOf_missed hl ht).trans (if_neg hsilent)
      have hclosed := closedOf_ch s c
      by_cases hs : ch.state ∈ [.starting, .running]
      · exact .inr hs
      · have hstate : ((closedOf s c).ch c).state = ch.state := by
          rw [hclosed, hplain, missing_ch]
          rfl
        simp only [List.mem_cons, List.not_mem_nil, or_false, not_or] at hs
        refine .inl ((hends.get c Channel.latched).trans ?_)
        rw [stagesLater_rests (by rw [hstate]; exact hs.1) (by rw [hstate]; exact hs.2), hclosed, hplain, missing_ch]
        rfl
  · obtain ⟨he, -, -, -, -⟩ := rests_states hstate
    have hplain : settledOf s c = missing s c := by
      rw [settledOf_missed hl ht]
      refine ite_eq_right_iff.2 fun hsilent => ?_
      exact offer_held (missing_paired hpair) rfl (by rw [missing_ch]; exact hold hsilent) hquiet
    have hexpires := periodExpires_rests hstate hl (f := fun ch => (ch.opens (periodInForce s c)).misses)
      hplain rfl (periodInForce_rests he) (openPeriod_presence _)
    refine (periodEvent_rests hp hdue hexpires rfl rfl).trans (next_congr (modCh_congr ?_))
    rw [periodInForce_rests he]
    exact Channel.misses_feeds he (rests_states hstate).2.1

end Sys2Proof.Machine
end

section
/-! PROOF. The period event of a channel RUNNING or STARTING outside a pair (R27, R28, R54). -/
namespace Sys2Proof.Machine
open Sys2Proof.Safety

/-- A channel as stages 1 to 3 leave it in STARTING: step time and V_peak stand (R54). -/
def startWorked (ch : Channel) : Channel := { worked ch with stepTime := ch.stepTime, vPeak := ch.vPeak }

section
variable {s t u v : State} {c d : Ch} {x : StepRecord}

/-- A channel outside a pair, its stage PRESENT in an ACTIVE hall, its period taken or missed without STAGE_SILENT. -/
structure Sampled (s : State) (c : Ch) : Prop where
  leads   : isLeader s c = false
  hall    : s.hall.state = .active
  present : (s.ch c).port.presence = .present
  settled : (s.ch c).taken = true ∨ (s.ch c).missed < 2

theorem Sampled.unpaused (h : Sampled s c) : s.hall.state ≠ .paused := by rw [h.hall]; decide

theorem Sampled.length (h : Sampled s c) (he : (s.ch c).state.engaged = true) :
    periodInForce s c = 10 * 2 ^ (s.ch c).settings.periodExp := if_pos ⟨he, h.unpaused⟩

theorem Sampled.modCh (h : Sampled s c) (f : Channel → Channel) (hp : (f (s.ch c)).port.presence = (s.ch c).port.presence)
    (hs : (f (s.ch c)).taken = true ∨ (f (s.ch c)).missed < 2) : Sampled (s.modCh c f) c :=
  ⟨by rw [isLeader_modCh_same]; exact h.leads, h.hall, by rw [State.ch_modCh_self, hp]; exact h.present,
    by rw [State.ch_modCh_self]; exact hs⟩

/-- A channel with its stage PRESENT as the opening of a period and stage 1 leave it, STAGE_SILENT apart. -/
def Channel.settles (ch : Channel) (n : Nat) : Channel :=
  { ch.opens n with
    held := if ch.taken then ch.held else true
    missed := if ch.taken then ch.missed else ch.missed + 1 }

theorem settledOf_sampled (h : Sampled s c) : settledOf s c = s.modCh c fun ch => ch.settles (periodInForce s c) := by
  rw [settledOf_plain h.leads fun ht _ => h.settled.resolve_left (by rw [ht]; exact Bool.false_ne_true)]
  refine modCh_congr ?_
  unfold Channel.settles
  cases ht : (s.ch c).taken
  · have hfew : (s.ch c).missed < 2 := h.settled.resolve_left (by rw [ht]; exact Bool.false_ne_true)
    have hpres : ((s.ch c).opens (periodInForce s c)).port.presence = .present := (openPeriod_presence _).trans h.present
    have hcount : satAdd count16Limit (s.ch c).missed 1 = (s.ch c).missed + 1 := by
      unfold satAdd count16Limit
      omega
    simp only [Bool.false_eq_true, if_false, Channel.misses, hpres, if_true]
    rw [← hcount]
    rfl
  · rfl

/-- Stages 1 to 3, with the step time advanced in RUNNING alone. -/
theorem closedOf_working (h : Sampled s c) (hf : (s.ch c).state.feedsStep = true) (he : (s.ch c).state.engaged = true) :
    closedOf s c = s.modCh c fun ch =>
      { startWorked ch with stepTime := if isRunning s c then (worked ch).stepTime else ch.stepTime } := by
  have hset := settledOf_sampled h
  have hlead : isLeader (settledOf s c) c = false := by rw [hset, isLeader_modCh_same]; exact h.leads
  have hhall : (settledOf s c).hall = s.hall := by rw [hset]; rfl
  have hrun : isRunning (settledOf s c) c = isRunning s c := by rw [hset, isRunning, State.ch_modCh_self]; rfl
  have hpres : ((settledOf s c).ch c).port.presence = .present := by
    rw [hset, State.ch_modCh_self]
    exact (openPeriod_presence _).trans h.present
  have hfigures : lastFigures ((settledOf s c).ch c) = lastFigures (s.ch c) := by rw [hset, State.ch_modCh_self]; rfl
  rw [closedOf_eq, hhall, hrun, accountsFed_single hlead, hpres, figuresOf_single hlead, hfigures, hset, modCh_modCh]
  refine modCh_congr ?_
  have hfs : ((s.ch c).settles (periodInForce s c)).state.feedsStep = true := hf
  have hes : ((s.ch c).settles (periodInForce s c)).state.engaged = true := he
  unfold Channel.feeds
  rw [hfs, hes, h.length he]
  simp only [h.hall, decide_true, Bool.and_true, Bool.true_and, if_true, ne_eq, reduceCtorEq, not_false_eq_true]
  rfl

theorem periodTaken_single (hl : isLeader s c = false) : periodTaken s c = (s.ch c).taken :=
  if_neg (by rw [hl]; exact Bool.false_ne_true)

theorem isRunning_settled (h : Sampled s c) : isRunning (settledOf s c) c = isRunning s c := by
  rw [settledOf_sampled h, isRunning, State.ch_modCh_self]
  rfl

/-- The event of a RUNNING channel up to stage 5 (R54, R61). -/
theorem periodExpires_running (h : Sampled s c) (hs : (s.ch c).state = .running) :
    periodExpires s c = restartPeriod (stageRefresh (stageTests (stagePlay (s.modCh c worked) c true) c (s.ch c).taken) c) c := by
  have hrun : isRunning s c = true := isRunning_iff.2 hs
  have hclosed := closedOf_working h (by rw [hs]; rfl) (by rw [hs]; rfl)
  have hstate : ((closedOf s c).ch c).state = .running := by
    rw [hclosed, State.ch_modCh_self]
    exact hs
  have hhall : (closedOf s c).hall.state = .active := by rw [hclosed]; exact h.hall
  have hlead : isLeader (closedOf s c) c = false := by rw [hclosed, isLeader_modCh_same]; exact h.leads
  have hlast : ((closedOf s c).ch c).last = (s.ch c).last := by rw [hclosed, State.ch_modCh_self]; rfl
  have hpeak : stagePeak (closedOf s c) c (s.ch c).taken = s.modCh c worked := by
    unfold stagePeak
    rw [figuresOf_single hlead, lastFigures, hlast, hclosed]
    cases ht : (s.ch c).taken
    · rw [if_neg fun e => absurd e.2 Bool.false_ne_true]
      refine modCh_congr ?_
      unfold startWorked worked
      rw [hrun, ht]
      rfl
    · rw [if_pos ⟨isRunning_iff.2 (by rw [State.ch_modCh_self]; exact hs), rfl⟩, modCh_modCh]
      refine modCh_congr ?_
      unfold startWorked worked
      rw [hrun, ht]
      rfl
  have hstart : stageStart (s.modCh c worked) c (s.ch c).taken = s.modCh c worked := by
    refine if_neg fun e => ?_
    have hrunning : ((s.modCh c worked).ch c).state = .running := by rw [State.ch_modCh_self]; exact hs
    exact absurd (hrunning.symm.trans e.1) (by decide)
  rw [periodExpires_eq (by rw [hs]; decide), isRunning_settled h, hrun, periodTaken_single h.leads, stagesLater,
    if_neg (by rw [hhall]; decide), hpeak, hstart]

/-- The event of a channel in STARTING up to stage 4 (R27, R54). -/
theorem periodExpires_starting (h : Sampled s c) (hs : (s.ch c).state = .starting) :
    periodExpires s c = restartPeriod (stageRefresh (stageTests (stagePlay (stageStart (s.modCh c startWorked) c
      (s.ch c).taken) c false) c (s.ch c).taken) c) c := by
  have hrun : isRunning s c = false := decide_eq_false (by rw [hs]; decide)
  have hclosed : closedOf s c = s.modCh c startWorked := by
    rw [closedOf_working h (by rw [hs]; rfl) (by rw [hs]; rfl), hrun]
    rfl
  have hstate : ((closedOf s c).ch c).state = .starting := by
    rw [hclosed, State.ch_modCh_self]
    exact hs
  have hhall : (closedOf s c).hall.state = .active := by rw [hclosed]; exact h.hall
  have hpeak : stagePeak (closedOf s c) c (s.ch c).taken = closedOf s c :=
    if_neg fun e => absurd ((isRunning_iff.1 e.1).symm.trans hstate) (by decide)
  rw [periodExpires_eq (by rw [hs]; decide), isRunning_settled h, hrun, periodTaken_single h.leads, stagesLater,
    if_neg (by rw [hhall]; decide), hpeak, hclosed]

end

end Sys2Proof.Machine
end

section
/-! PROOF. The period event outside a run and of a channel that runs on (R28, R51, R54, R63 to R67). -/
namespace Sys2Proof.Machine
open Sys2Proof.Safety

section
variable {s t u v : State} {c d : Ch} {x : StepRecord}

theorem currentStep_modCh (f : Channel → Channel) (ha : (f (s.ch c)).active = (s.ch c).active)
    (hi : (f (s.ch c)).stepIndex = (s.ch c).stepIndex) : currentStep (s.modCh c f) c = currentStep s c := by
  rw [← stepOf_self, ← stepOf_self, State.ch_modCh_self, stepOf, stepOf, ha, hi]
  rfl

theorem stagePlay_none (hx : currentStep s c = some x) (hk : x.kind ≠ .profile) (counted : Bool) : stagePlay s c counted = s := by
  unfold stagePlay
  rw [hx]
  exact if_neg fun h => hk h.2

/-- The end tests of a channel where no condition fires and no segment has ended (R73, R74, R79). -/
theorem stageTests_none {taken : Bool} {counters : List Nat} (hr : (s.ch c).state = .running) (hx : currentStep s c = some x)
    (hc : counters = stepCounters (s.ch c) (figuresOf s c) taken x.conds (s.ch c).confirms)
    (hn : firstFired 0 x.conds counters = none) (hp : x.kind = .profile → (s.ch c).play.profileEnd = false) :
    stageTests s c taken = s.modCh c fun ch => { ch with confirms := counters } := by
  unfold stageTests endTests
  rw [if_pos (isRunning_iff.2 hr), hx]
  subst hc
  dsimp only
  rw [hn]
  exact if_neg fun h => absurd (h.2.symm.trans (hp h.1)) (by decide)

/-- The end tests of a channel where a condition fires. -/
theorem stageTests_fires {taken : Bool} {counters : List Nat} {i : Nat} {e : EndCond} (hr : (s.ch c).state = .running)
    (hx : currentStep s c = some x)
    (hc : counters = stepCounters (s.ch c) (figuresOf s c) taken x.conds (s.ch c).confirms)
    (hn : firstFired 0 x.conds counters = some (i, e)) :
    stageTests s c taken = endStep (s.modCh c fun ch => { ch with confirms := counters }) c x (.condition i e.kind) e.action := by
  unfold stageTests endTests
  rw [if_pos (isRunning_iff.2 hr), hx]
  subst hc
  dsimp only
  rw [hn]

theorem stageRefresh_working (hs : (s.ch c).state = .starting ∨ (s.ch c).state = .running) : stageRefresh s c = issue s c :=
  if_pos hs

theorem restartPeriod_same (hl : isLeader s c = false) (hn : (s.ch c).periodLength = periodInForce s c) :
    restartPeriod s c = s := by
  unfold restartPeriod
  rw [portsOf_single hl, List.foldl_cons, List.foldl_nil, ← hn]
  exact modCh_self rfl

/-- The demand a channel has handed its port already leaves the port as it is. -/
theorem issue_handed {a : Demand} (hl : isLeader s c = false) (hd : calledFor s c = (a, false))
    (hp : (s.ch c).port.standing = some a) : issue s c = s := by
  rw [issue_single hl, hd]
  refine modCh_self ?_
  simp only [Bool.or_false]
  rw [show (s.ch c).port.handNew a = (s.ch c).port by rw [handNew_eq, if_pos hp]]

/-- A refreshed setpoint leaves the period as it stands. -/
theorem restartPeriod_issue (hl : isLeader s c = false) (hn : (s.ch c).periodLength = periodInForce s c) :
    restartPeriod (issue s c) c = issue s c := by
  have hruns := issue_runs s c
  refine restartPeriod_same (hruns.keeps.isLeader c ▸ hl) ?_
  have hforce : periodInForce (issue s c) c = periodInForce s c := by
    unfold periodInForce
    rw [hruns.hall, (hruns.keeps.chans c).settings, show ((issue s c).ch c).state = (s.ch c).state from ?_]
    rw [issue_single hl, State.ch_modCh_self]
  rw [hforce, ← hn]
  exact (hruns.keeps.chans c).length

/-- The event of a channel that ends with its setpoint refreshed, no frame being due at the control link. -/
theorem periodEvent_issues (hp : s.part = .ready) (hdue : NoFrameDue s) {f : Channel → Channel} (hl : isLeader s c = false)
    (hf : periodExpires s c = issue (s.modCh c f) c) (hs : (f (s.ch c)).state = (s.ch c).state)
    (hk : (f (s.ch c)).settings = (s.ch c).settings) : exec (.periodEvent c) s = .next (issue (s.modCh c f) c) := by
  have hsingle : issue (s.modCh c f) c = s.modCh c fun ch =>
      { f ch with
        clamped := (f ch).clamped || (calledFor (s.modCh c f) c).2
        port := (f ch).port.handNew (calledFor (s.modCh c f) c).1 } := by
    rw [issue_single (by rw [isLeader_modCh_same]; exact hl), modCh_modCh]
  rw [hsingle] at hf ⊢
  exact periodEvent_rests hp hdue hf hs hk

/-- A RUNNING channel none of whose conditions fires runs its step on (R28, R73). -/
theorem running_goes_on (h : Sampled s c) (hs : (s.ch c).state = .running) (hx : currentStep s c = some x) (hk : x.kind ≠ .profile)
    {counters : List Nat}
    (hc : counters = stepCounters (worked (s.ch c)) (lastFigures (s.ch c)) (s.ch c).taken x.conds (s.ch c).confirms)
    (hn : firstFired 0 x.conds counters = none) :
    periodExpires s c = issue (s.modCh c fun ch => { worked ch with confirms := counters }) c := by
  have hlead : ∀ f, isLeader (s.modCh c f) c = false := fun f => by rw [isLeader_modCh_same]; exact h.leads
  have hstep : currentStep (s.modCh c worked) c = some x := (currentStep_modCh worked rfl rfl).trans hx
  have htests : stageTests (s.modCh c worked) c (s.ch c).taken =
      s.modCh c fun ch => { worked ch with confirms := counters } := by
    have hrun : ((s.modCh c worked).ch c).state = .running := by rw [State.ch_modCh_self]; exact hs
    refine (stageTests_none hrun hstep ?_ hn fun e => absurd e hk).trans (modCh_modCh _ _ _ _)
    rw [figuresOf_single (hlead _), State.ch_modCh_self, hc]
    rfl
  have hstate : ((s.modCh c fun ch => { worked ch with confirms := counters }).ch c).state = .running := by
    rw [State.ch_modCh_self]
    exact hs
  rw [periodExpires_running h hs, stagePlay_none hstep hk, htests, stageRefresh_working (.inr hstate)]
  refine restartPeriod_issue (hlead _) ?_
  rw [State.ch_modCh_self]
  refine (h.length (by rw [hs]; rfl)).symm.trans ?_
  unfold periodInForce
  rw [State.ch_modCh_self]
  rfl

theorem Accounts.saturates_eq (a : Accounts) (dq de : Int) :
    a.saturates dq de = decide (2 ^ 63 - 1 < a.qChg + dq.toNat ∨ 2 ^ 63 - 1 < a.qDis + (-dq).toNat ∨
      2 ^ 63 - 1 < a.eChg + de.toNat ∨ 2 ^ 63 - 1 < a.eDis + (-de).toNat) := by
  unfold Accounts.saturates accountLimit
  simp only [Bool.decide_or, Bool.or_assoc]

/-- A channel whose period was taken out of a run, at the end of the event. -/
theorem Channel.opens_feeds {ch : Channel} (he : ch.state.engaged = false) (hf : ch.state.feedsStep = false) :
    let dq : Int := ch.last.i * ch.periodLength
    let de : Int := powerOf ch.last.v ch.last.i * ch.periodLength
    let limit := 2 ^ 63 - 1
    let opened := { ch with
      taken := false, packDone := false, periodElapsed := 0, periodLength := 1000, port := ch.port.openPeriod }
    (ch.opens 1000).feeds false (ch.port.presence = .present) ch.periodLength (lastFigures (ch.opens 1000)) =
      if ch.port.presence = .absent then opened
      else
        { opened with
          life := ⟨min limit (ch.life.qChg + dq.toNat), min limit (ch.life.qDis + (-dq).toNat),
            min limit (ch.life.eChg + de.toNat), min limit (ch.life.eDis + (-de).toNat)⟩
          lifeSaturated := ch.lifeSaturated || decide (limit < ch.life.qChg + dq.toNat ∨
            limit < ch.life.qDis + (-dq).toNat ∨ limit < ch.life.eChg + de.toNat ∨
            limit < ch.life.eDis + (-de).toNat) } := by
  intro dq de limit opened
  rw [Channel.feeds_rests (ch := ch.opens 1000) he hf, ← Accounts.saturates_eq]
  cases ch.port.presence with
  | absent =>
    simp only [reduceCtorEq, decide_false, Bool.false_eq_true, if_false, Bool.false_and, Bool.or_false, if_true]
    rfl
  | present =>
    simp only [reduceCtorEq, decide_true, if_true, Bool.true_and, if_false]
    rfl

end

/-- Settles O38. -/
theorem periodEvent : Obligations.PeriodEvent := by
  unfold Obligations.PeriodEvent
  refine ⟨⟨fun s c hdue hs => ?_, fun s c hp hdue hl hs ht => ?_⟩, fun s c x hp hdue hpair hs hh hset hpres hx hk => ?_⟩
  · exact next_congr (event_same hdue (if_pos ((isFollower_iff s c).2 hs)))
  · intro ch dq de limit opened
    obtain ⟨he, hf, -⟩ := rests_states hs
    have hplain : settledOf s c = s.modCh c fun ch => ch.opens (periodInForce s c) :=
      (settledOf_single hl).trans (if_pos ht)
    have hexpires := periodExpires_rests hs hl hplain rfl (periodInForce_rests he) (openPeriod_presence _)
    refine (periodEvent_rests hp hdue hexpires rfl rfl).trans (next_congr (modCh_congr ?_))
    rw [periodInForce_rests he]
    exact Channel.opens_feeds he hf
  · intro counters hn t
    have hsampled : Sampled s c := ⟨(paired_false hpair).1, hh, hpres, hset⟩
    have hgoes := running_goes_on hsampled hs hx hk (counters := counters) rfl hn
    refine ⟨periodEvent_issues hp hdue hsampled.leads hgoes rfl rfl, fun hrest hstand => ?_⟩
    have hlead : isLeader t c = false := by
      show isLeader (s.modCh c _) c = false
      rw [isLeader_modCh_same]
      exact hsampled.leads
    have hch : t.ch c = { worked (s.ch c) with confirms := counters } := State.ch_modCh_self s c _
    have hstep : currentStep t c = some x := (currentStep_modCh _ rfl rfl).trans hx
    refine issue_handed hlead (a := ⟨.idle, 0, 0, 0⟩) ?_ ?_
    · rw [calledFor_working (.inr (by rw [hch]; exact hs)) hstep]
      unfold regulateDemand
      cases x <;> first | rfl | cases hrest
    · rw [hch]
      exact (openPeriod_get _ Port.standing).trans hstand

end Sys2Proof.Machine
end

section
/-! PROOF. The reports of a step end (R29 to R32), a grant that becomes live (R83, R85), and the completion of a stage start
(R27). -/
namespace Sys2Proof.Machine
open Sys2Proof.Safety

section
variable (s : State) (c : Ch)

/-! ### The reports of a step end -/

theorem reportCh_grows (body : ReportBody) (hb : ∀ seq now ch, Report.isFault ⟨seq, now, ch, body⟩ = false) :
    Grows s (reportCh s c body) := make_grows _ _ _ _ (hb _ _ _)

theorem modGrant_link (f : Grant → Grant) : (modGrant s c f).link = s.link := rfl

theorem settleOffer_link (r : StepRecord) (toHeld : Bool) : (settleOffer s c r toHeld).link = s.link := by
  unfold settleOffer
  split
  · rfl
  · dsimp only
    refine iteInduction (motive := fun t : State => t.link = s.link) (fun _ => ?_) fun _ => ?_
    · exact iteInduction (motive := fun t : State => t.link = s.link) (fun _ => idleGrant_link _ c) fun _ => rfl
    · exact iteInduction (motive := fun t : State => t.link = s.link) (fun _ => idleGrant_link _ c) fun _ => releaseGrant_link _ c

theorem prepareStep_link (k : Nat) (toHeld : Bool) : (prepareStep s c k toHeld).link = s.link := by
  unfold prepareStep
  dsimp only
  split
  · rfl
  · exact settleOffer_link _ c _ _

theorem landOn_link (k : Nat) (hold : Bool) : (landOn s c k hold).link = s.link := by
  unfold landOn
  refine iteInduction (motive := fun t : State => t.link = s.link) (fun _ => ?_) fun _ => ?_
  · exact (addCause_link _ c _).trans (prepareStep_link s c k hold)
  · exact (beginStep_link _ c).trans (prepareStep_link s c k hold)

theorem enterStopping_link (dest : StopDest) (absentCounts : Bool) : (enterStopping s c dest absentCounts).link = s.link := by
  unfold enterStopping
  exact iteInduction (motive := fun t : State => t.link = s.link) (fun _ => issue_link _ c) fun _ => issue_link _ c

theorem completeSchedule_link (reason : ScheduleEnd) : (completeSchedule s c reason).link =
    (reportCh s c (.scheduleComplete .stopped (s.ch c).cycleNumber (s.ch c).cycle.reported reason)).link := by
  unfold completeSchedule
  dsimp only
  rw [enterStopping_link]
  exact (withdrawEntries_link _ c).trans (releaseGrant_link _ c)

theorem completeSchedule_grows (reason : ScheduleEnd) : Grows s (completeSchedule s c reason) := by
  unfold Grows
  rw [completeSchedule_link]
  exact reportCh_grows s c _ fun _ _ _ => rfl

theorem closeCycle_grows (j : Nat) : Grows s (closeCycle s c j) := by
  unfold closeCycle
  exact Grows.trans (reportCh_grows s c _ fun _ _ _ => rfl) (.of_link rfl)

theorem walkFrom_grows (fuel : Nat) (j : Nat) : Grows s (walkFrom fuel s c j).1 := by
  induction fuel generalizing s j with
  | zero => exact .refl s
  | succ n ih =>
    unfold walkFrom
    split
    · exact .refl s
    · split
      · exact .refl s
      · split
        · have hclose : ∀ b : Bool, Grows s (if b = true then closeCycle s c j else s) := fun b =>
            iteInduction (motive := Grows s) (fun _ => closeCycle_grows s c j) fun _ => .refl s
          dsimp only
          split
          · exact (hclose _).trans (ih _ _)
          · exact (hclose _).trans (Grows.trans (.of_link rfl) (ih _ _))
        · exact .refl s

theorem scheduleEnd_grows (reason : ScheduleEnd) (hold : Bool) : Grows s (scheduleEnd s c reason hold) := by
  unfold scheduleEnd
  dsimp only
  split
  · have hwalk := fun body hb => (reportCh_grows s c body hb).trans
      (Grows.trans (.of_link rfl) (walkFrom_grows ((reportCh s c body).modCh c Channel.carryOutSwap) c 1024 0))
    split
    · exact (hwalk _ fun _ _ _ => rfl).trans (.of_link (landOn_link _ c _ _))
    · exact (hwalk _ fun _ _ _ => rfl).trans (completeSchedule_grows _ c _)
  · exact completeSchedule_grows s c reason

theorem walkOn_grows (j : Nat) (hold : Bool) : Grows s (walkOn s c j hold) := by
  unfold walkOn
  split
  · exact (walkFrom_grows s c 1024 j).trans (.of_link (landOn_link _ c _ _))
  · exact (walkFrom_grows s c 1024 j).trans (scheduleEnd_grows _ c _ _)

theorem Grows.prefix {t u : State} (h : Grows t u) : t.link.reports <+: u.link.reports := by
  obtain ⟨x, hx⟩ := h
  exact ⟨x, hx.symm⟩

/-- STEP_END is the first report of a step end. -/
theorem toldOf_report (r : StepRecord) (reason : EndReason) (action : Action) (hroom : s.link.reports.length < 64) :
    (toldOf s c r reason action).link = { s.link with
      nextSeq := s.link.nextSeq + 1
      reports := s.link.reports ++ [⟨s.link.nextSeq, s.hall.partTime, chByte c, .stepEnd (s.ch c).stepIndex r.kind reason action
        (chosenIndex (s.ch c).stepIndex action) (s.ch c).stepTime (reported (s.ch c).qStep) (reported (s.ch c).eStep)
        (s.ch c).cycleNumber⟩] } := make_room _ _ _ hroom

theorem stepEnded_grows (r : StepRecord) (reason : EndReason) (action : Action) :
    Grows (toldOf s c r reason action) (stepEnded s c r reason action) := by
  unfold stepEnded
  split
  · exact scheduleEnd_grows _ c _ _
  · exact walkOn_grows _ c _ _

theorem endStep_report (r : StepRecord) (reason : EndReason) (action : Action) (hroom : s.link.reports.length < 64) :
    s.link.reports ++ [⟨s.link.nextSeq, s.hall.partTime, chByte c, .stepEnd (s.ch c).stepIndex r.kind reason action
      (chosenIndex (s.ch c).stepIndex action) (s.ch c).stepTime (reported (s.ch c).qStep) (reported (s.ch c).eStep)
      (s.ch c).cycleNumber⟩] <+: (endStep s c r reason action).link.reports := by
  have hgrows := ((stepEnded_grows s c r reason action).trans (settle_grows _)).prefix
  rwa [toldOf_report s c r reason action hroom] at hgrows

end

/-! ### A grant that becomes live (R83, R85) -/

/-- Live grants give the tests credit alone. -/
theorem sumsOf_live (eta : Nat) (f : Grant → Grant) (hf : ∀ g, f g = g ∨ f g = { g with live := true }) (l : List Grant) :
    (sumsOf eta (l.map f)).chgAll = (sumsOf eta l).chgAll ∧ (sumsOf eta (l.map f)).disAll = (sumsOf eta l).disAll ∧
      (sumsOf eta l).chgLive ≤ (sumsOf eta (l.map f)).chgLive ∧ (sumsOf eta l).disLive ≤ (sumsOf eta (l.map f)).disLive := by
  unfold sumsOf
  dsimp only
  induction l with
  | nil => exact ⟨rfl, rfl, Nat.le_refl _, Nat.le_refl _⟩
  | cons g l ih =>
    obtain ⟨h1, h2, h3, h4⟩ := ih
    simp only [List.map_cons, List.sum_cons]
    rw [h1, h2]
    rcases hf g with e | e <;> rw [e]
    · exact ⟨rfl, rfl, Nat.add_le_add_left h3 _, Nat.add_le_add_left h4 _⟩
    · refine ⟨rfl, rfl, Nat.add_le_add ?_ h3, Nat.add_le_add ?_ h4⟩ <;> split <;> simp_all

theorem withinCeilings_live {b : BudgetSettings} {cEff : Nat} {f : Grant → Grant}
    (hf : ∀ g, f g = g ∨ f g = { g with live := true }) {l : List Grant} (h : withinCeilings b cEff l = true) :
    withinCeilings b cEff (l.map f) = true := by
  obtain ⟨h1, h2, h3, h4⟩ := sumsOf_live b.eta f hf l
  rw [withinCeilings_iff, intakeOk_iff, returnOk_iff] at h ⊢
  rw [h1, h2]
  exact ⟨h.1.trans (Nat.add_le_add_left (Nat.div_le_div_right (Nat.mul_le_mul_right _ h4)) _),
    h.2.trans (Nat.add_le_add_left (Nat.div_le_div_right (Nat.mul_le_mul_right _ h3)) _)⟩

theorem grantLive_testsHold {s : State} {c : Ch} (h : testsHold s = true) : testsHold (grantLive s c) = true := by
  refine withinCeilings_live (fun g => ?_) h
  split
  · exact .inr rfl
  · exact .inl rfl

end Sys2Proof.Machine
end

section
/-! PROOF. The completion of a stage start (R27). -/
namespace Sys2Proof.Machine
open Sys2Proof.Safety

section
variable {s t u v : State} {c d : Ch} {x : StepRecord}

theorem startComplete_iff (hl : isLeader s c = false) (taken : Bool) : startComplete s c taken = true ↔
    taken = true ∧ (s.ch c).port.outstanding = none ∧ (s.ch c).port.pending = none ∧
      (∃ d, (s.ch c).port.lastConfirmed = some d ∧ d.mode = .regulate) ∧
      ((s.ch c).last.reg = .current ∨ (s.ch c).last.reg = .voltageLimited) := by
  unfold startComplete
  rw [portsOf_single hl, figuresOf_single hl, List.all_cons, List.all_nil, Bool.and_true]
  unfold State.port Port.settled lastFigures
  cases (s.ch c).port.lastConfirmed <;> simp [and_assoc, and_comm, and_left_comm]

/-- A channel whose stage start has completed, before anything else of it (R27). -/
def Channel.started (ch : Channel) : Channel := { ch with state := .running, startTimer := none }

/-- The completion of a stage start in an arbiter that is sound: the channel RUNS with its grant live, nothing is shed, and no
report is made (R27, R83). -/
structure Started (s t : State) (c : Ch) : Prop where
  runs   : Runs (s.modCh c Channel.started) t
  chan   : OnlyPort (s.ch c).started (t.ch c)
  link   : t.link = s.link
  grant  : ∀ g, grantOf s c = some g → grantOf t c = some { g with live := true }
  grants : ∀ g ∈ s.arb.grants, g.ch ≠ c → g ∈ t.arb.grants

theorem settle_link (ht : testsHold s = true) : (settle s).link = s.link := by
  unfold settle
  rw [shed_calm ht]
  exact evaluateDue_link _ _

theorem restartUnderrun_calm (hu : (s.ch c).play.underrun = false) : restartUnderrun s c = s := by
  unfold restartUnderrun
  split
  · exact if_neg fun h => absurd (hu.symm.trans h.2.1) Bool.false_ne_true
  · rfl

theorem grantsOf_grantLive (s : State) (c : Ch) :
    grantsOf (grantLive s c) c = (grantsOf s c).map fun g => { g with live := true } :=
   modGrant_grantsOf s c (fun g => { g with live := true }) fun _ => rfl

theorem stageStart_started (h : ArbiterSound s) (hs : (s.ch c).state = .starting) (hh : s.hall.state = .active)
    {taken : Bool} (hc : startComplete s c taken = true) (hu : (s.ch c).play.underrun = false) :
    Started s (stageStart s c taken) c := by
  have hsteady := (arbiterSound_iff s).1 h
  have hrun : InPlace (s.modCh c Channel.started) := by
    have hw := (hsteady.1.placed c).unwaiting (by rw [hs]; decide) (by rw [hs]; decide)
    exact hsteady.1.acts_active (ActsOn.modCh c s _) (.of_unwaiting (hsteady.1.placed c).once hw (by rw [State.ch_modCh_self]; rfl)) hh
  have hlive : InPlace (grantLive (s.modCh c Channel.started) c) :=
    InPlace.evalDue (hrun.acts_active (modGrant_acts _ c (fun g => { g with live := true }) fun _ => rfl)
      ((hrun.placed c).modGrant _ fun _ => rfl) hh) true
  have htests : testsHold (grantLive (s.modCh c Channel.started) c) = true :=
    grantLive_testsHold (show testsHold (s.modCh c Channel.started) = true from hsteady.2.1)
  obtain ⟨w, hw⟩ : ∃ w, w = grantLive (s.modCh c Channel.started) c := ⟨_, rfl⟩
  have hch : w.ch c = (s.ch c).started := by rw [hw]; exact State.ch_modCh_self s c _
  have hgrants : grantsOf w c = (grantsOf s c).map fun g => { g with live := true } := by rw [hw]; exact grantsOf_grantLive _ c
  rw [← hw] at hlive htests
  have hruns : Runs (s.modCh c Channel.started) (settle w) := by rw [hw]; exact (grantLive_runs _ c).trans (settle_runs _)
  have hstill : OnlyPort (s.ch c).started ((settle w).ch c) := by
    rw [← hch]
    exact settle_still (.inr (.inl (by rw [hch]; rfl))) (.inr htests)
  have hunder : ((settle w).ch c).play.underrun = false := by rw [hstill]; exact hu
  have hstart : stageStart s c taken = settle w := by
    refine (show stageStart s c taken = restartUnderrun (settle w) c from ?_).trans (restartUnderrun_calm hunder)
    rw [hw]
    exact if_pos ⟨hs, hc⟩
  rw [hstart]
  refine ⟨hruns, hstill, (settle_link htests).trans (by rw [hw]; rfl), fun g hg => ?_, fun g hg hne => ?_⟩
  · rw [grantOf_eq_head] at hg ⊢
    have hsome : grantsOf w c ≠ [] := by
      rw [hgrants]
      cases hl : grantsOf s c with
      | nil => rw [hl] at hg; cases hg
      | cons => exact List.cons_ne_nil _ _
    rw [(settle_granted (hlive.placed c).once hsome htests).grants, hgrants, List.head?_map, hg]
    rfl
  · refine (settle_ceilings hlive.placed).2.2.1 htests g ?_
    rw [hw]
    exact List.mem_map.2 ⟨g, hg, if_neg hne⟩

/-! ### The demand of a channel and what it goes by -/

/-- The demand a channel calls for goes by no port, no clamp flag and no period. -/
theorem calledFor_congr (hpool : t.pool = s.pool) (hgrant : grantOf t c = grantOf s c)
    (h : ∀ d, ∃ x p n, t.ch d = { s.ch d with clamped := x, port := p, periodLength := n }) : calledFor t c = calledFor s c := by
  obtain ⟨x, p, n, hc⟩ := h c
  obtain ⟨y, q, m, hf⟩ := h (partner c)
  have hlead : isLeader t c = isLeader s c := by unfold isLeader isFollower; rw [hf]
  have hstep : currentStep t c = currentStep s c := by
    unfold currentStep windowRead
    rw [hc, hpool]
  have hv : divisorVoltage t c = divisorVoltage s c := by
    unfold divisorVoltage latestVoltage
    rw [hlead, hc]
  have hregulate : ∀ r, regulateDemand t c r = regulateDemand s c r := fun r => by
    unfold regulateDemand rawCurrent currentCap claimCurrent playCurrent playPoint playPosition
    rw [hv, hgrant, hlead, hf, hc]
  unfold calledFor
  rw [hstep, hc]
  simp only [hregulate]

theorem issue_calledFor (s : State) (c : Ch) : calledFor (issue s c) c = calledFor s c := by
  refine calledFor_congr (issue_runs s c).keeps.pool (by rw [grantOf, issue_arb]; rfl) fun d => ?_
  obtain ⟨x, p, hd⟩ := issue_ch s c d
  exact ⟨x, p, _, hd⟩

theorem Ends.calledFor (h : Ends s t) (c : Ch) : calledFor t c = calledFor s c :=
  calledFor_congr h.pool (h.grantOf c) fun d => ⟨_, _, _, h.chans d⟩

/-! ### Playback of a period that is not counted (R114) -/

theorem advancePoint_uncounted {ch : Channel} (h : ∀ q, playPoint ch = some q → ch.play.played < q.duration) :
    advancePoint ch false = ({ ch with play := { ch.play with inPlay := (playPoint ch).isSome } }, false) := by
  have hpoint : ∀ p : Playback, p.position = ch.play.position → playPoint { ch with play := p } = playPoint ch := fun p hp => by
    unfold playPoint playPosition
    rw [hp]
  unfold advancePoint
  simp only [Bool.and_false, Bool.false_eq_true, if_false]
  cases hq : playPoint ch with
  | none =>
    have hnone : ∀ p : Playback, p.position = ch.play.position → playPoint { ch with play := p } = none := fun p hp =>
      (hpoint p hp).trans hq
    cases hi : ch.play.inPlay <;> simp [hnone]
  | some q =>
    have hsome : ∀ p : Playback, p.position = ch.play.position → playPoint { ch with play := p } = some q := fun p hp =>
      (hpoint p hp).trans hq
    cases hi : ch.play.inPlay
    · simp [hsome]
    · simp [if_pos (h q hq), ← hi]

theorem stagePlay_uncounted (hr : (s.ch c).state = .running) (hx : currentStep s c = some x)
    (h : ∀ q, playPoint (s.ch c) = some q → (s.ch c).play.played < q.duration) :
    ∃ b, stagePlay s c false = s.modCh c fun ch => { ch with play := { ch.play with inPlay := b } } := by
  by_cases hk : x.kind = .profile
  · refine ⟨(playPoint (s.ch c)).isSome, ?_⟩
    unfold stagePlay
    rw [hx]
    dsimp only
    rw [if_pos ⟨isRunning_iff.2 hr, hk⟩]
    unfold advancePlayback
    dsimp only
    rw [advancePoint_uncounted h, if_neg Bool.false_ne_true, if_neg fun e => absurd e.1 Bool.false_ne_true]
    rfl
  · exact ⟨(s.ch c).play.inPlay, (stagePlay_none hx hk false).trans (modCh_self rfl).symm⟩

/-! ### End tests of figures that stand -/

theorem stepCounters_congr {a b : Channel} (hp : b.vPeak = a.vPeak) (ht : b.stepTime = a.stepTime) (hq : b.qStep = a.qStep)
    (he : b.eStep = a.eStep) (f : Figures) (taken : Bool) (es : List EndCond) (ns : List Nat) :
    stepCounters b f taken es ns = stepCounters a f taken es ns := by
  induction es generalizing ns with
  | nil => cases ns <;> rfl
  | cons e es ih =>
    cases ns with
    | nil => rfl
    | cons n ns =>
      have hholds : condHolds b f taken e = condHolds a f taken e := by
        unfold condHolds
        rw [hp, ht, hq, he]
      rw [stepCounters, stepCounters, ih, hholds]

theorem stageTests_keeps (s : State) (c : Ch) (taken : Bool) : Keeps s (stageTests s c taken) := by
  unfold stageTests
  refine iteInduction (motive := Keeps s) (fun h => ?_) fun _ => .refl s
  have h0 : ∀ x, Keeps s (s.modCh c fun ch => { ch with confirms := x }) := fun x =>
    Keeps.modCh s c _ (by constructor <;> first | rfl | exact Iff.rfl | exact id)
  have hend : ∀ x r reason action, Keeps s (endStep (s.modCh c fun ch => { ch with confirms := x }) c r reason action) :=
    fun x r reason action => (h0 x).trans (endStep_keeps _ c r reason action (state_ne_follower (h0 x) (running_ne s c h)))
  unfold endTests
  split
  · exact .refl s
  · dsimp only
    split
    · exact hend _ _ _ _
    · exact iteInduction (motive := Keeps s) (fun _ => hend _ _ _ _) fun _ => h0 _

theorem stageRefresh_keeps (s : State) (c : Ch) : Keeps s (stageRefresh s c) := by
  unfold stageRefresh
  exact iteInduction (motive := Keeps s) (fun _ => issue_keeps s c) fun _ => .refl s

theorem stageRefresh_link (s : State) (c : Ch) : (stageRefresh s c).link = s.link := by
  unfold stageRefresh
  exact iteInduction (motive := fun t : State => t.link = s.link) (fun _ => issue_link s c) fun _ => rfl

theorem Works.stageRefresh (s : State) (c : Ch) : Works c s (stageRefresh s c) := by
  unfold Machine.stageRefresh
  exact .ite _ (.of_runs (issue_runs s c)) (.refl c s)

/-- The end of an event whose stages leave a state. -/
theorem periodEvent_ends_of (hp : s.part = .ready) (h : periodExpires s c = restartPeriod u c) :
    Ends u (whenReady s fun s => periodExpires s c) := by
  have hends := event_ends (f := fun s => periodExpires s c) hp
  rw [h] at hends
  exact (restartPeriod_ends u c).trans hends (by rw [restartPeriod_link])

end

end Sys2Proof.Machine
end

section
/-! PROOF. PERIOD_EVENT in STARTING (R27, R54), out of a pair. -/
namespace Sys2Proof.Machine
open Sys2Proof.Safety

section
variable {s t u v w : State} {c d : Ch} {x : StepRecord}

/-- A completed stage start before the end tests: the channel RUNS with its grant live. -/
structure StartDone (s w : State) (c : Ch) : Prop where
  keeps  : Keeps (s.modCh c startWorked) w
  works  : Works c (s.modCh c startWorked) w
  chan   : ∃ p b, w.ch c = { (startWorked (s.ch c)).started with port := p, play := { (s.ch c).play with inPlay := b } }
  hall   : w.hall = s.hall
  link   : w.link = s.link
  step   : currentStep w c = currentStep s c
  grant  : ∀ g, grantOf s c = some g → grantOf w c = some { g with live := true }
  grants : ∀ g ∈ s.arb.grants, g.ch ≠ c → g ∈ w.arb.grants

theorem startDone (h : Sampled s c) (harb : ArbiterSound s) (hs : (s.ch c).state = .starting) (hx : currentStep s c = some x)
    (hc : startComplete (s.modCh c startWorked) c (s.ch c).taken = true) (hu : (s.ch c).play.underrun = false)
    (hp : ∀ q, playPoint (s.ch c) = some q → (s.ch c).play.played < q.duration) :
    StartDone s (stagePlay (stageStart (s.modCh c startWorked) c (s.ch c).taken) c false) c := by
  have hself : (s.modCh c startWorked).ch c = startWorked (s.ch c) := State.ch_modCh_self s c _
  have hsound : ArbiterSound (s.modCh c startWorked) :=
    (arbiterSound_iff _).2 (Steady.neutral ((arbiterSound_iff s).1 harb) (Neutral.modCh s c startWorked rfl rfl))
  have hstarted := stageStart_started hsound (by rw [hself]; exact hs) h.hall hc (by rw [hself]; exact hu)
  have hworks := Works.stageStart (s.modCh c startWorked) c (s.ch c).taken
  obtain ⟨v, hv⟩ : ∃ v, v = stageStart (s.modCh c startWorked) c (s.ch c).taken := ⟨_, rfl⟩
  rw [← hv] at hstarted hworks ⊢
  have hchan := hstarted.chan
  rw [hself] at hchan
  have hstep : currentStep v c = some x := by
    rw [hstarted.runs.currentStep, currentStep_modCh _ rfl rfl, currentStep_modCh _ rfl rfl, hx]
  have hplay : playPoint (v.ch c) = playPoint (s.ch c) := by rw [hchan]; rfl
  have hplayed : (v.ch c).play = (s.ch c).play := by rw [hchan]; rfl
  obtain ⟨b, hb⟩ := stagePlay_uncounted (by rw [hchan]; rfl) hstep (fun q hq => by rw [hplayed]; exact hp q (hplay.symm.trans hq))
  rw [hb]
  have hkeeps : Keeps v (v.modCh c fun ch => { ch with play := { ch.play with inPlay := b } }) :=
    Keeps.modCh v c _ (by constructor <;> first | rfl | exact Iff.rfl | exact id)
  have hrun : Keeps (s.modCh c startWorked) ((s.modCh c startWorked).modCh c Channel.started) :=
    Keeps.modCh _ c _ ⟨rfl, rfl, rfl, rfl, rfl, rfl, rfl, rfl, rfl, rfl, rfl, rfl, rfl, rfl, rfl, rfl, rfl, rfl, rfl,
      by rw [hself, show (startWorked (s.ch c)).state = _ from hs]; simp [Channel.started], id⟩
  refine ⟨(hrun.trans hstarted.runs.keeps).trans hkeeps, ?_, ⟨(v.ch c).port, b, ?_⟩, hstarted.runs.hall, hstarted.link, ?_, hstarted.grant,
    hstarted.grants⟩
  · exact hworks.trans (.modCh v c _ (by constructor <;> first | rfl | exact Iff.rfl | exact id) rfl)
  · rw [State.ch_modCh_self, hplayed]
    rw [hchan]
  · rw [currentStep_modCh _ rfl rfl, hstep, hx]

end

end Sys2Proof.Machine

namespace Sys2Proof.Safety
open Sys2Proof.Machine

/-- Settles O40. -/
theorem stageStart : Obligations.StageStart := by
  unfold Obligations.StageStart
  intro s c x hp hpair hs hh hpres hset hx ch p a counters complete
  have hsampled : Sampled s c := ⟨(paired_false hpair).1, hh, hpres, hset⟩
  have hself : (s.modCh c startWorked).ch c = startWorked ch := State.ch_modCh_self s c _
  have hlead : ∀ f, isLeader (s.modCh c f) c = false := fun f => by rw [isLeader_modCh_same]; exact hsampled.leads
  have hcomplete : startComplete (s.modCh c startWorked) c ch.taken = true ↔ complete := by
    rw [startComplete_iff (hlead _), hself]
    unfold startWorked worked
    dsimp only
    rw [openPeriod_get ch.port Port.outstanding, openPeriod_get ch.port Port.pending, openPeriod_get ch.port Port.lastConfirmed]
  have hexpires := periodExpires_starting hsampled hs
  refine ⟨fun hdue hnot => ?_, fun harb hdone hunder hend hplay => ?_⟩
  · have hstart : Machine.stageStart (s.modCh c startWorked) c ch.taken = s.modCh c startWorked :=
      if_neg fun e => hnot (hcomplete.1 e.2)
    have hstate : ((s.modCh c startWorked).ch c).state = .starting := by rw [hself]; exact hs
    have hrun : isRunning (s.modCh c startWorked) c = false := decide_eq_false (by rw [hstate]; decide)
    have hplay : stagePlay (s.modCh c startWorked) c false = s.modCh c startWorked := by
      unfold stagePlay
      split
      · exact if_neg fun e => absurd (hrun.symm.trans e.1) Bool.false_ne_true
      · rfl
    have htests : stageTests (s.modCh c startWorked) c ch.taken = s.modCh c startWorked :=
      if_neg (by rw [hrun]; exact Bool.false_ne_true)
    rw [hstart, hplay, htests, stageRefresh_working (.inl hstate), restartPeriod_issue (hlead _)] at hexpires
    · exact periodEvent_issues hp hdue hsampled.leads hexpires rfl rfl
    · rw [hself]
      refine (hsampled.length (by rw [hs]; rfl)).symm.trans ?_
      unfold periodInForce
      rw [hself]
      rfl
  · have hstart := startDone hsampled harb hs hx (hcomplete.2 hdone) hunder hplay
    have hworks := hstart.works.trans ((Works.stageTests _ c ch.taken).trans (.stageRefresh _ c))
    have hkeeps := hstart.keeps.trans ((stageTests_keeps _ c ch.taken).trans (stageRefresh_keeps _ c))
    have hends := periodEvent_ends_of hp hexpires
    obtain ⟨w, hw⟩ : ∃ w, w = stagePlay (Machine.stageStart (s.modCh c startWorked) c ch.taken) c false := ⟨_, rfl⟩
    rw [← hw] at hstart hworks hkeeps hends
    obtain ⟨q, b, hch⟩ := hstart.chan
    have hrun : (w.ch c).state = .running := by rw [hch]; rfl
    have hwlead : isLeader w c = false := (hstart.keeps.isLeader c).trans (hlead _)
    have hstep : currentStep w c = some x := hstart.step.trans hx
    have hcounters : counters = stepCounters (w.ch c) (figuresOf w c) ch.taken x.conds (w.ch c).confirms := by
      have hfigures : lastFigures (w.ch c) = lastFigures ch := by rw [hch]; rfl
      have hconfirms : (w.ch c).confirms = ch.confirms := by rw [hch]; rfl
      rw [figuresOf_single hwlead, hfigures, hconfirms]
      exact (stepCounters_congr (a := a) (by rw [hch]; rfl) (by rw [hch]; rfl) (by rw [hch]; rfl) (by rw [hch]; rfl) _ _ _ _).symm
    refine ⟨_, rfl, fun hnone => ?_, fun i e hfired hsend hroom => ?_, hends.frame hkeeps.frame, fun d hd => ?_⟩
    · have htests := stageTests_none hrun hstep hcounters hnone fun _ => by rw [hch]; exact hend
      obtain ⟨z, hz⟩ : ∃ z, z = w.modCh c fun ch => { ch with confirms := counters } := ⟨_, rfl⟩
      have hzch : z.ch c = { w.ch c with confirms := counters } := by rw [hz]; exact State.ch_modCh_self w c _
      have hzlead : isLeader z c = false := by rw [hz, isLeader_modCh_same]; exact hwlead
      rw [htests, ← hz, stageRefresh_working (.inr (by rw [hzch]; exact hrun))] at hends
      obtain ⟨m, hfinal⟩ := hends.ch (congrFun (congrArg State.ch (issue_single hzlead)) c)
      rw [State.ch_modCh_self, hzch, hch] at hfinal
      refine ⟨by rw [hfinal]; rfl, by rw [hfinal]; rfl, by rw [hfinal]; rfl, by rw [hfinal]; rfl, by rw [hfinal]; rfl,
        by rw [hfinal]; rfl, by rw [hfinal]; rfl, by rw [hfinal]; rfl, by rw [hfinal], by rw [hfinal]; rfl, fun g hg => ?_,
        fun g hg hne => ?_, ?_⟩
      · rw [hends.grantOf, grantOf, issue_arb, hz]
        exact hstart.grant g hg
      · rw [hends.arb, issue_arb, hz]
        exact hstart.grants g hg hne
      · rw [hends.calledFor, issue_calledFor, hfinal]
        exact handNew_standing _ _
    · have htests := stageTests_fires hrun hstep hcounters hfired
      have hsending : (Machine.stageRefresh (stageTests w c ch.taken) c).link.sending ≠ none := by
        rw [hkeeps.link.sending]
        exact hsend
      rw [hends.reports hsending, stageRefresh_link, htests]
      have hroom' : (w.modCh c fun ch => { ch with confirms := counters }).link.reports.length < 64 := by
        rw [State.modCh_link, hstart.link]
        omega
      have hreport := endStep_report (w.modCh c fun ch => { ch with confirms := counters }) c x (.condition i e.kind) e.action hroom'
      rw [State.ch_modCh_self, State.modCh_link, State.modCh_hall, hstart.link, hstart.hall, hch] at hreport
      exact hreport
    · refine hends.run ?_
      have hother := hworks.others d hd fun _ => hlead _
      rwa [State.ch_modCh_ne _ hd] at hother

end Sys2Proof.Safety
end

section
/-! PROOF. Playback in a PERIOD_EVENT of a channel RUNNING a PROFILE step (R114, R115, R117 to R119). -/
namespace Sys2Proof.Machine
open Sys2Proof.Safety

/-! ### The play of a point (R114, R115) -/

section
variable {ch : Channel} {q : Point}

/-- The point at the play position goes by no other figure of the playback record. -/
theorem playPoint_play (ch : Channel) (p : Playback) (hp : p.position = ch.play.position) :
    playPoint { ch with play := p } = playPoint ch := by
  unfold playPoint playPosition
  rw [hp]

theorem advancePoint_goes_on (hi : ch.play.inPlay = true) (hq : playPoint ch = some q) (hd : ch.play.played + 1 < q.duration) :
    advancePoint ch true = ({ ch with play := { ch.play with played := ch.play.played + 1 } }, false) := by
  have hpoint := fun p hp => (playPoint_play ch p hp).trans hq
  unfold advancePoint
  simp [hi, hpoint, hd]

theorem advancePoint_repeats (hi : ch.play.inPlay = true) (hq : playPoint ch = some q) (hd : q.duration ≤ ch.play.played + 1)
    (hm : ch.settings.profileMode = .repeat) : advancePoint ch true = ({ ch with play := { ch.play with
      played := 0
      heldCurrent := q.current
      position := if q.endFlag = true ∨ ch.queue.length ≤ ch.play.position + 1 then 0 else ch.play.position + 1 } }, false) := by
  have hpoint := fun p hp => (playPoint_play ch p hp).trans hq
  unfold advancePoint
  simp [hi, hpoint, Nat.not_lt.2 hd, hm]

/-- A point that has been played in ONE_SHOT mode leaves the queue, and the next one comes into play (R115). -/
theorem advancePoint_leaves_queue (hi : ch.play.inPlay = true) (hq : playPoint ch = some q) (hd : q.duration ≤ ch.play.played + 1)
    (hm : ch.settings.profileMode = .oneShot) : advancePoint ch true =
      ({ ch with
          queue := ch.queue.tail
          play := { ch.play with
            played := 0
            heldCurrent := q.current
            inPlay := decide (q.endFlag = false ∧ ch.queue.tail ≠ [])
            profileEnd := ch.play.profileEnd || q.endFlag } }, true) := by
  have hpoint := fun p hp => (playPoint_play ch p hp).trans hq
  have htail : ∀ p : Playback, playPoint { ch with queue := ch.queue.tail, play := p } = ch.queue.tail.head? := fun p => by
    unfold playPoint playPosition
    rw [hm]
    exact List.head?_eq_getElem?.symm
  unfold advancePoint
  cases he : q.endFlag
  · cases ht : ch.queue.tail with
    | nil => rw [ht] at htail; simp [hi, hpoint, Nat.not_lt.2 hd, hm, he, ht, htail]
    | cons r l => rw [ht] at htail; simp [hi, hpoint, Nat.not_lt.2 hd, hm, he, ht, htail]
  · simp [hi, hpoint, Nat.not_lt.2 hd, hm, he]

theorem advancePoint_comes (hi : ch.play.inPlay = false) (hq : playPoint ch = some q) :
    advancePoint ch true = ({ ch with play := { ch.play with inPlay := true } }, false) := by
  have hpoint := fun p hp => (playPoint_play ch p hp).trans hq
  unfold advancePoint
  simp [hi, hpoint]

theorem advancePoint_nothing (hq : playPoint ch = none) : advancePoint ch true = ({ ch with play := { ch.play with
    inPlay := false, played := if ch.play.inPlay then ch.play.played + 1 else ch.play.played } }, false) := by
  have hpoint := fun p hp => (playPoint_play ch p hp).trans hq
  unfold advancePoint
  cases hi : ch.play.inPlay <;> simp [hi, hpoint]

end

/-! ### The low-water test and the underrun (R117, R118) -/

/-- Whether the queue stands at the low-water mark while the report is armed (R117). -/
def Channel.low (ch : Channel) : Bool := ch.play.lowArmed && decide (ch.queue.length ≤ ch.settings.lowWater)

/-- Whether a counted period finds nothing to play and no underrun in progress (R118). -/
def Channel.starves (ch : Channel) : Bool :=
  !ch.play.inPlay && (playPoint ch).isNone && !ch.play.profileEnd && !ch.play.underrun

theorem Channel.starves_inPlay {ch : Channel} (h : ch.play.inPlay = true) : ch.starves = false := by
  unfold Channel.starves
  rw [h]
  rfl

theorem Channel.starves_underrun {ch : Channel} (h : ch.play.underrun = true) : ch.starves = false := by
  unfold Channel.starves
  rw [h, Bool.not_true, Bool.and_false]

theorem Channel.starves_dry {ch : Channel} (h1 : ch.play.inPlay = false) (h2 : playPoint ch = none)
    (h3 : ch.play.profileEnd = false) (h4 : ch.play.underrun = false) : ch.starves = true := by
  unfold Channel.starves
  rw [h1, h2, h3, h4]
  rfl

/-- A channel after the low-water test. -/
def Channel.lowTested (ch : Channel) : Channel :=
  { ch with play := { ch.play with lowArmed := if ch.low then false else ch.play.lowArmed } }

section
variable {s t u v w : State} {c d : Ch} {x : StepRecord} {ch : Channel}

theorem lowWaterTest_ch (s : State) (c : Ch) : (lowWaterTest s c).ch c = (s.ch c).lowTested := by
  unfold lowWaterTest Channel.lowTested Channel.low
  dsimp only
  by_cases h : (s.ch c).play.lowArmed = true ∧ (s.ch c).queue.length ≤ (s.ch c).settings.lowWater
  · rw [if_pos h, h.1, decide_eq_true h.2]
    refine (State.ch_modCh_self s c fun ch => { ch with play := { ch.play with lowArmed := false } }).trans ?_
    simp
  · rw [if_neg h]
    have hnot : ((s.ch c).play.lowArmed && decide ((s.ch c).queue.length ≤ (s.ch c).settings.lowWater)) = false := by
      cases ha : (s.ch c).play.lowArmed
      · rfl
      · exact decide_eq_false fun e => h ⟨ha, e⟩
    rw [hnot]
    rfl

theorem lowWaterTest_pool (s : State) (c : Ch) : (lowWaterTest s c).pool = s.pool := by
  unfold lowWaterTest
  exact iteInduction (motive := fun t : State => t.pool = s.pool) (fun _ => rfl) fun _ => rfl

theorem lowWaterTest_report (h : (s.ch c).low = true) (hroom : s.link.reports.length < 64) :
    (lowWaterTest s c).link.reports = s.link.reports ++ [⟨s.link.nextSeq, s.hall.partTime, chByte c,
      .profileLow (s.ch c).queue.length (s.ch c).settings.lowWater (s.ch c).stepIndex⟩] := by
  unfold Channel.low at h
  rw [Bool.and_eq_true, decide_eq_true_iff] at h
  unfold lowWaterTest
  dsimp only
  rw [if_pos h]
  exact congrArg Link.reports (make_room (l := s.link) _ _ _ hroom)

theorem lowWaterTest_high (h : (s.ch c).low = false) : lowWaterTest s c = s := by
  unfold lowWaterTest
  refine if_neg fun e => ?_
  unfold Channel.low at h
  rw [e.1, Bool.true_and] at h
  exact absurd e.2 (of_decide_eq_false h)

/-- Playback up to the underrun: the point played, and the low-water test where one has left the queue. -/
def playedOf (s : State) (c : Ch) (a : Channel × Bool) : State :=
  if a.2 then lowWaterTest (s.modCh c fun _ => a.1) c else s.modCh c fun _ => a.1

theorem playedOf_ch (s : State) (c : Ch) (a : Channel × Bool) : (playedOf s c a).ch c = if a.2 then a.1.lowTested else a.1 := by
  unfold playedOf
  split
  · rw [lowWaterTest_ch, State.ch_modCh_self]
  · exact State.ch_modCh_self s c _

theorem playedOf_pool (s : State) (c : Ch) (a : Channel × Bool) : (playedOf s c a).pool = s.pool := by
  unfold playedOf
  split
  · exact lowWaterTest_pool _ c
  · rfl

theorem stagePlay_plays (hr : (s.ch c).state = .running) (hx : currentStep s c = some x) (hk : x.kind = .profile)
    {a : Channel × Bool} (ha : advancePoint (s.ch c) true = a) : stagePlay s c true =
      if ((playedOf s c a).ch c).starves then goIntoUnderrun (playedOf s c a) c else playedOf s c a := by
  subst ha
  unfold stagePlay
  rw [hx]
  dsimp only
  rw [if_pos ⟨isRunning_iff.2 hr, hk⟩]
  unfold advancePlayback
  refine if_congr ?_ rfl rfl
  unfold Channel.starves playedOf
  simp only [Bool.and_eq_true, true_and, and_assoc]

/-! ### The end of the event -/

/-- A channel that RUNS on in a PROFILE step with its queue and playback record as they stand after playback. -/
theorem plays_on {queue : List Point} {play : Playback} (hs : (s.ch c).state = .running) (hx : currentStep s c = some x)
    {counters : List Nat}
    (hc : counters = stepCounters (worked (s.ch c)) (lastFigures (s.ch c)) (s.ch c).taken x.conds (s.ch c).confirms)
    (hn : firstFired 0 x.conds counters = none)
    (hv : v.ch c = { worked (s.ch c) with queue := queue, play := play }) (hpool : v.pool = s.pool) (hl : isLeader v c = false)
    (hend : play.profileEnd = false) (he : Ends (stageRefresh (stageTests v c (s.ch c).taken) c) t) :
    (t.ch c).state = .running ∧ (t.ch c).queue = queue ∧ (t.ch c).play = play ∧ (t.ch c).stepIndex = (s.ch c).stepIndex ∧
      (t.ch c).stepTime = (worked (s.ch c)).stepTime ∧ (t.ch c).confirms = counters := by
  have hstep : currentStep v c = some x := by
    rw [← hx, ← stepOf_self, ← stepOf_self, hv]
    unfold stepOf windowRead
    rw [hpool]
    rfl
  have hrun : (v.ch c).state = .running := by rw [hv]; exact hs
  have hcounters : counters = stepCounters (v.ch c) (figuresOf v c) (s.ch c).taken x.conds (v.ch c).confirms := by
    have hfigures : lastFigures (v.ch c) = lastFigures (s.ch c) := by rw [hv]; rfl
    have hconfirms : (v.ch c).confirms = (s.ch c).confirms := by rw [hv]; rfl
    rw [figuresOf_single hl, hfigures, hconfirms, hc]
    exact (stepCounters_congr (by rw [hv]) (by rw [hv]) (by rw [hv]) (by rw [hv]) _ _ _ _).symm
  obtain ⟨z, hz⟩ : ∃ z, z = v.modCh c fun ch => { ch with confirms := counters } := ⟨_, rfl⟩
  have hzch : z.ch c = { v.ch c with confirms := counters } := by rw [hz]; exact State.ch_modCh_self v c _
  have hzlead : isLeader z c = false := by rw [hz, isLeader_modCh_same]; exact hl
  rw [stageTests_none hrun hstep hcounters hn fun _ => by rw [hv]; exact hend, ← hz,
    stageRefresh_working (.inr (by rw [hzch]; exact hrun))] at he
  obtain ⟨m, hfinal⟩ := he.ch (congrFun (congrArg State.ch (issue_single hzlead)) c)
  rw [State.ch_modCh_self, hzch, hv] at hfinal
  exact ⟨by rw [hfinal]; exact hs, by rw [hfinal], by rw [hfinal], by rw [hfinal]; rfl, by rw [hfinal], by rw [hfinal]⟩

/-- Where no condition fires and no segment has ended, the end tests move the counters at most. -/
theorem stageTests_counts {taken : Bool} (h : (v.ch c).state = .running → currentStep v c = some x ∧
      firstFired 0 x.conds (stepCounters (v.ch c) (figuresOf v c) taken x.conds (v.ch c).confirms) = none ∧
      (v.ch c).play.profileEnd = false) :
    ∃ y, stageTests v c taken = v.modCh c fun ch => { ch with confirms := y } := by
  by_cases hr : (v.ch c).state = .running
  · obtain ⟨hstep, hn, hend⟩ := h hr
    exact ⟨_, stageTests_none hr hstep rfl hn fun _ => hend⟩
  · refine ⟨(v.ch c).confirms, ?_⟩
    rw [modCh_self rfl]
    exact if_neg fun e => hr (isRunning_iff.1 e)

theorem stageRefresh_ch (s : State) (c : Ch) : ∃ x p, (stageRefresh s c).ch c = { s.ch c with clamped := x, port := p } := by
  unfold stageRefresh
  exact iteInduction (motive := fun t : State => ∃ x p, t.ch c = { s.ch c with clamped := x, port := p })
    (fun _ => issue_ch s c c) fun _ => ⟨_, _, rfl⟩

theorem offer_latched {k : FaultKind} {value : Int} (hp : paired s c = false) (hw : warns (s.ch c).settings k = false)
    (hk : hasKind (s.ch c).latched k = true) : offer s c k value = settle s := by
  rw [offer_single hp, offerOne, hw, if_neg Bool.false_ne_true, if_pos hk]

/-- An underrun with a limit of 0 latches PROFILE_UNDERRUN at once (R119). -/
theorem runs_dry {queue : List Point} {play : Playback} (hs : (s.ch c).state = .running) (hx : currentStep s c = some x)
    (hn : firstFired 0 x.conds (stepCounters (worked (s.ch c)) (lastFigures (s.ch c)) (s.ch c).taken x.conds (s.ch c).confirms) = none)
    (hv : v.ch c = { worked (s.ch c) with queue := queue, play := play }) (hpool : v.pool = s.pool) (hl : isLeader v c = false)
    (hend : play.profileEnd = false) (hlimit : (s.ch c).settings.underrunLimit = 0)
    (he : Ends (stageRefresh (stageTests (goIntoUnderrun v c) c (s.ch c).taken) c) t) :
    (t.ch c).queue = queue ∧ (t.ch c).play.underrun = true ∧ hasKind (t.ch c).latched .profileUnderrun = true ∧
      (hasKind (s.ch c).latched .profileUnderrun = false → (t.ch c).state = .faulted) := by
  obtain ⟨w, hw⟩ : ∃ w, w = v.modCh c fun ch => { ch with play := { ch.play with underrun := true, underrunTimer := none } } :=
    ⟨_, rfl⟩
  have hwch : w.ch c = { worked (s.ch c) with queue := queue, play := { play with underrun := true, underrunTimer := none } } := by
    rw [hw, State.ch_modCh_self, hv]
  have hwlead : isLeader w c = false := by rw [hw, isLeader_modCh_same]; exact hl
  have hwpair : paired w c = false := by
    unfold paired isFollower
    rw [hwlead, hwch, show (worked (s.ch c)).state = _ from hs]
    rfl
  have hgoes : goIntoUnderrun v c = offer w c .profileUnderrun 0 := by
    rw [hw]
    exact if_pos (by rw [hv]; exact hlimit)
  rw [hgoes] at he
  obtain ⟨u, hu⟩ : ∃ u, u = offer w c .profileUnderrun 0 := ⟨_, rfl⟩
  rw [← hu] at he
  have hkeeps : Keeps w u := hu ▸ offer_keeps w c _ _
  have hstarved : (u.ch c).play.underrun = true ∧ (hasKind (s.ch c).latched .profileUnderrun = false → (u.ch c).state = .faulted) ∧
      ∃ y, stageTests u c (s.ch c).taken = u.modCh c fun ch => { ch with confirms := y } := by
    cases hk : hasKind (w.ch c).latched .profileUnderrun
    · have hlatches : Latches w u c .profileUnderrun 0 := hu ▸ offer_latches hwpair (by rw [hwch, show (worked (s.ch c)).state = _ from hs]; decide) rfl hk
      have hstate : (u.ch c).state = .faulted := by rw [hlatches.chan]; rfl
      refine ⟨by rw [hlatches.chan, hwch]; rfl, fun _ => hstate, stageTests_counts (x := x) fun e => ?_⟩
      exact absurd (hstate.symm.trans e) (by decide)
    · have hruns : Runs w u := by rw [hu, offer_latched hwpair rfl hk]; exact settle_runs w
      have hrun := hruns.chans c
      rw [hwch] at hrun hk
      refine ⟨hrun.underrun, fun e => absurd (hk.symm.trans e) (by decide), stageTests_counts (x := x) fun _ => ⟨?_, ?_, hrun.profileEnd.trans hend⟩⟩
      · rw [hruns.currentStep, ← hx, ← stepOf_self, ← stepOf_self, hwch]
        unfold stepOf windowRead
        rw [hw, State.modCh_pool, hpool]
        rfl
      · have hlast : (u.ch c).last = (s.ch c).last := (hkeeps.chans c).last.trans (by rw [hwch]; rfl)
        rw [figuresOf_single (hkeeps.isLeader c ▸ hwlead), lastFigures, hlast, hrun.confirms,
          stepCounters_congr (a := worked (s.ch c)) hrun.vPeak hrun.stepTime hrun.qStep hrun.eStep]
        exact hn
  obtain ⟨hunder, hstate, y, htests⟩ := hstarved
  rw [htests] at he
  obtain ⟨a, p, hch⟩ := stageRefresh_ch (u.modCh c fun ch => { ch with confirms := y }) c
  obtain ⟨n, hfinal⟩ := he.ch hch
  rw [State.ch_modCh_self] at hfinal
  refine ⟨?_, by rw [hfinal]; exact hunder, ?_, fun e => by rw [hfinal]; exact hstate e⟩
  · rw [hfinal]
    exact (hkeeps.chans c).queue.trans (by rw [hwch])
  · rw [hfinal, hu]
    exact offer_hasKind _ rfl

end

end Sys2Proof.Machine
end

section
/-! PROOF. Playback at the end of the event (R114, R115, R117 to R119, R79). -/
namespace Sys2Proof.Machine
open Sys2Proof.Safety

section
variable {s t u v w : State} {c d : Ch} {x : StepRecord}

/-- A channel RUNNING a PROFILE step none of whose conditions fires. -/
structure Plays (s : State) (c : Ch) (x : StepRecord) : Prop where
  ready   : s.part = .ready
  sampled : Sampled s c
  running : (s.ch c).state = .running
  step    : currentStep s c = some x
  profile : x.kind = .profile
  fires   : firstFired 0 x.conds
              (stepCounters (worked (s.ch c)) (lastFigures (s.ch c)) (s.ch c).taken x.conds (s.ch c).confirms) = none

/-- The state of the event after playback and before its end tests. -/
def playbackOf (s : State) (c : Ch) : State := stagePlay (s.modCh c worked) c true

theorem Plays.ends (h : Plays s c x) : Ends (stageRefresh (stageTests (playbackOf s c) c (s.ch c).taken) c)
    (whenReady s fun s => periodExpires s c) := periodEvent_ends_of h.ready (periodExpires_running h.sampled h.running)

theorem Plays.eq (h : Plays s c x) {a : Channel × Bool} (ha : advancePoint (worked (s.ch c)) true = a) : playbackOf s c =
    if ((playedOf (s.modCh c worked) c a).ch c).starves then goIntoUnderrun (playedOf (s.modCh c worked) c a) c
    else playedOf (s.modCh c worked) c a := by
  have hself : (s.modCh c worked).ch c = worked (s.ch c) := State.ch_modCh_self s c _
  exact stagePlay_plays (by rw [hself]; exact h.running) ((currentStep_modCh _ rfl rfl).trans h.step) h.profile (by rw [hself]; exact ha)

theorem playedOf_leads (h : Plays s c x) (a : Channel × Bool) : isLeader (playedOf (s.modCh c worked) c a) c = false := by
  have hmod : isLeader ((s.modCh c worked).modCh c fun _ => a.1) c = false := by
    rw [isLeader_modCh_same, isLeader_modCh_same]
    exact h.sampled.leads
  unfold playedOf lowWaterTest
  refine iteInduction (motive := fun t : State => isLeader t c = false) (fun _ => ?_) fun _ => hmod
  refine iteInduction (motive := fun t : State => isLeader t c = false) (fun _ => ?_) fun _ => hmod
  exact (isLeader_modCh_same (s := (s.modCh c worked).modCh c fun _ => a.1) fun ch =>
    { ch with play := { ch.play with lowArmed := false } }).trans hmod

/-- What playback leaves of the run once the event has ended. -/
theorem Plays.outcome (h : Plays s c x) {a : Channel × Bool} {queue : List Point} {play : Playback}
    (ha : advancePoint (worked (s.ch c)) true = a)
    (hy : (if a.2 then a.1.lowTested else a.1) = { worked (s.ch c) with queue := queue, play := play })
    (hend : play.profileEnd = false) :
    let t := whenReady s fun s => periodExpires s c
    let limit := (s.ch c).settings.underrunLimit
    let becomes := fun (queue : List Point) (play : Playback) => (t.ch c).state = .running ∧ (t.ch c).queue = queue ∧
      (t.ch c).play = play ∧ (t.ch c).stepIndex = (s.ch c).stepIndex ∧ (t.ch c).stepTime = (worked (s.ch c)).stepTime ∧
      (t.ch c).confirms =
        stepCounters (worked (s.ch c)) (lastFigures (s.ch c)) (s.ch c).taken x.conds (s.ch c).confirms
    (Channel.starves { worked (s.ch c) with queue := queue, play := play } = false → becomes queue play) ∧
    (Channel.starves { worked (s.ch c) with queue := queue, play := play } = true → (t.ch c).queue = queue ∧
      (limit ≠ 0 → becomes queue { play with underrun := true, underrunTimer := some limit }) ∧
      (limit = 0 → (t.ch c).play.underrun = true ∧ hasKind (t.ch c).latched .profileUnderrun = true ∧
        (hasKind (s.ch c).latched .profileUnderrun = false → (t.ch c).state = .faulted))) := by
  intro t limit becomes
  have hends := h.ends
  have hlead := playedOf_leads h a
  have hpool : (playedOf (s.modCh c worked) c a).pool = s.pool := playedOf_pool _ c a
  have hch : (playedOf (s.modCh c worked) c a).ch c = { worked (s.ch c) with queue := queue, play := play } :=
    (playedOf_ch _ c a).trans hy
  rw [h.eq ha, hch] at hends
  refine ⟨fun hs => ?_, fun hs => ?_⟩
  · rw [hs, if_neg Bool.false_ne_true] at hends
    exact plays_on h.running h.step rfl h.fires hch hpool hlead hend hends
  · rw [hs, if_pos rfl] at hends
    by_cases hlimit : limit = 0
    · obtain ⟨hqueue, hunder, hkind, hstate⟩ := runs_dry h.running h.step h.fires hch hpool hlead hend hlimit hends
      exact ⟨hqueue, fun e => absurd hlimit e, fun _ => ⟨hunder, hkind, hstate⟩⟩
    · obtain ⟨z, hz⟩ : ∃ z, z = (playedOf (s.modCh c worked) c a).modCh c fun ch =>
          { ch with play := { ch.play with underrun := true, underrunTimer := some limit } } := ⟨_, rfl⟩
      have hgoes : goIntoUnderrun (playedOf (s.modCh c worked) c a) c = z := by
        rw [hz]
        unfold goIntoUnderrun
        rw [hch]
        exact if_neg hlimit
      have hzch : z.ch c = { worked (s.ch c) with
          queue := queue, play := { play with underrun := true, underrunTimer := some limit } } := by
        rw [hz, State.ch_modCh_self, hch]
      rw [hgoes] at hends
      have hbecomes : becomes queue { play with underrun := true, underrunTimer := some limit } :=
        plays_on h.running h.step rfl h.fires hzch (by rw [hz]; exact hpool)
          (by rw [hz, isLeader_modCh_same]; exact hlead) hend hends
      exact ⟨hbecomes.2.1, fun _ => hbecomes, fun e => absurd e hlimit⟩

/-- The reports there were, and PROFILE_LOW where the queue has come to the mark, stay at the head of the queue. -/
theorem offer_prefix {k : FaultKind} {value : Int} (hp : paired s c = false) (hw : warns (s.ch c).settings k = false)
    (hroom : s.link.reports.length < 64) : s.link.reports <+: (offer s c k value).link.reports := by
  rw [offer_single hp]
  have hone : s.link.reports <+: (offerOne s c k value).link.reports := by
    unfold offerOne
    rw [hw, if_neg Bool.false_ne_true]
    split
    · exact List.prefix_refl _
    · obtain ⟨rest, hrest⟩ := latchKind_report s c k value hroom
      exact ⟨_, hrest.symm⟩
  exact hone.trans (settle_grows _).prefix

theorem endStep_grows (s : State) (c : Ch) (r : StepRecord) (reason : EndReason) (action : Action) :
    Grows s (endStep s c r reason action) := by
  have htold : Grows s (toldOf s c r reason action) := by
    unfold toldOf
    exact Grows.trans (Grows.trans (.of_link rfl) (reportCh_grows (grantNotLive s c) c _ fun _ _ _ => rfl)) (.of_link rfl)
  exact (htold.trans (stepEnded_grows s c r reason action)).trans (settle_grows _)

theorem stageTests_grows (s : State) (c : Ch) (taken : Bool) : Grows s (stageTests s c taken) := by
  have hend : ∀ x r reason action, Grows s (endStep (s.modCh c fun ch => { ch with confirms := x }) c r reason action) :=
    fun x r reason action => Grows.trans (.of_link rfl) (endStep_grows _ c r reason action)
  unfold stageTests
  refine iteInduction (motive := Grows s) (fun _ => ?_) fun _ => .refl s
  unfold endTests
  split
  · exact .refl s
  · dsimp only
    split
    · exact hend _ _ _ _
    · exact iteInduction (motive := Grows s) (fun _ => hend _ _ _ _) fun _ => .of_link rfl

/-- PROFILE_LOW is the first report of the event where the queue has come to the mark (R117). -/
theorem Plays.low (h : Plays s c x) {X : Channel} {queue : List Point} {play : Playback}
    (ha : advancePoint (worked (s.ch c)) true = (X, true)) (hX : X = { worked (s.ch c) with queue := queue, play := play })
    (hlow : X.low = true) (hsend : s.link.sending ≠ none) (hroom : s.link.reports.length ≤ 32) :
    s.link.reports ++ [⟨s.link.nextSeq, s.hall.partTime, chByte c, .profileLow queue.length (s.ch c).settings.lowWater
      (s.ch c).stepIndex⟩] <+: (whenReady s fun s => periodExpires s c).link.reports := by
  obtain ⟨v, hv⟩ : ∃ v, v = playedOf (s.modCh c worked) c (X, true) := ⟨_, rfl⟩
  have hvch : v.ch c = X.lowTested := by rw [hv]; exact playedOf_ch _ c (X, true)
  have hreports : v.link.reports = s.link.reports ++ [⟨s.link.nextSeq, s.hall.partTime, chByte c, .profileLow queue.length
      (s.ch c).settings.lowWater (s.ch c).stepIndex⟩] := by
    rw [hv]
    refine (lowWaterTest_report (s := (s.modCh c worked).modCh c fun _ => X) (by rw [State.ch_modCh_self]; exact hlow)
      (show s.link.reports.length < 64 by omega)).trans ?_
    rw [State.ch_modCh_self, hX]
    rfl
  have hgoes : v.link.reports <+: (goIntoUnderrun v c).link.reports := by
    unfold goIntoUnderrun
    refine iteInduction (motive := fun t : State => v.link.reports <+: t.link.reports) (fun _ => ?_) fun _ => List.prefix_refl _
    refine offer_prefix (s := v.modCh c fun ch => { ch with play := { ch.play with underrun := true, underrunTimer := none } })
      ?_ rfl ?_
    · unfold paired isFollower
      rw [isLeader_modCh_same, State.ch_modCh_self, hvch, hX, hv, playedOf_leads h]
      exact decide_eq_false fun e => absurd (h.running.symm.trans e) (by decide)
    · rw [State.modCh_link, hreports, List.length_append, List.length_singleton]
      omega
  have hplayback : v.link.reports <+: (playbackOf s c).link.reports := by
    rw [h.eq ha, ← hv]
    exact iteInduction (motive := fun t : State => v.link.reports <+: t.link.reports) (fun _ => hgoes) fun _ => List.prefix_refl _
  obtain ⟨q, hq⟩ := (Works.trans (Works.stagePlay (s.modCh c worked) c true) ((Works.stageTests _ c (s.ch c).taken).trans (.stageRefresh _ c))).keeps
  have hsending : (stageRefresh (stageTests (playbackOf s c) c (s.ch c).taken) c).link.sending ≠ none := by
    rw [show (stageRefresh (stageTests (playbackOf s c) c (s.ch c).taken) c).link.sending = s.link.sending from hq.link.sending]
    exact hsend
  rw [h.ends.reports hsending, stageRefresh_link, ← hreports]
  exact hplayback.trans (stageTests_grows _ c _).prefix

theorem stageTests_segment {taken : Bool} {counters : List Nat} (hr : (s.ch c).state = .running) (hx : currentStep s c = some x)
    (hc : counters = stepCounters (s.ch c) (figuresOf s c) taken x.conds (s.ch c).confirms)
    (hn : firstFired 0 x.conds counters = none) (hk : x.kind = .profile) (hp : (s.ch c).play.profileEnd = true) :
    stageTests s c taken = endStep (s.modCh c fun ch => { ch with confirms := counters }) c x .profileEnd .next := by
  unfold stageTests endTests
  rw [if_pos (isRunning_iff.2 hr), hx]
  subst hc
  dsimp only
  rw [hn]
  exact if_pos ⟨hk, hp⟩

/-- A ONE_SHOT segment that has been played out ends the step (R79). -/
theorem Plays.segment_ends (h : Plays s c x) {X : Channel} {queue : List Point} {play : Playback}
    (ha : advancePoint (worked (s.ch c)) true = (X, true)) (hX : X = { worked (s.ch c) with queue := queue, play := play })
    (hend : play.profileEnd = true) :
    ((whenReady s fun s => periodExpires s c).ch c).queue = queue ∧
      (X.low = false → s.link.sending ≠ none → s.link.reports.length ≤ 32 → s.link.reports ++
        [⟨s.link.nextSeq, s.hall.partTime, chByte c, .stepEnd (s.ch c).stepIndex .profile .profileEnd .next
          (some ((s.ch c).stepIndex + 1)) (worked (s.ch c)).stepTime (reported (worked (s.ch c)).qStep)
          (reported (worked (s.ch c)).eStep) (s.ch c).cycleNumber⟩] <+:
        (whenReady s fun s => periodExpires s c).link.reports) := by
  have hends := h.ends
  obtain ⟨v, hv⟩ : ∃ v, v = playedOf (s.modCh c worked) c (X, true) := ⟨_, rfl⟩
  obtain ⟨play', hvch, hend'⟩ : ∃ p, v.ch c = { worked (s.ch c) with queue := queue, play := p } ∧ p.profileEnd = true := by
    refine ⟨X.lowTested.play, ?_, ?_⟩
    · rw [hv]
      refine (playedOf_ch _ c (X, true)).trans ?_
      rw [hX]
      rfl
    · rw [hX]
      exact hend
  have hstarves : (v.ch c).starves = false := by
    rw [hvch]
    unfold Channel.starves
    simp [hend']
  rw [h.eq ha, ← hv, hstarves, if_neg Bool.false_ne_true] at hends
  have hstep : currentStep v c = some x := by
    rw [← h.step, ← stepOf_self, ← stepOf_self, hvch]
    unfold stepOf windowRead
    rw [hv, playedOf_pool]
    rfl
  have hlead : isLeader v c = false := by rw [hv]; exact playedOf_leads h _
  have hrun : (v.ch c).state = .running := by rw [hvch]; exact h.running
  have hfires : firstFired 0 x.conds (stepCounters (v.ch c) (figuresOf v c) (s.ch c).taken x.conds (v.ch c).confirms) = none := by
    have hfigures : lastFigures (v.ch c) = lastFigures (s.ch c) := by rw [hvch]; rfl
    have hconfirms : (v.ch c).confirms = (s.ch c).confirms := by rw [hvch]; rfl
    rw [figuresOf_single hlead, hfigures, hconfirms, stepCounters_congr (a := worked (s.ch c)) (by rw [hvch]) (by rw [hvch])
      (by rw [hvch]) (by rw [hvch])]
    exact h.fires
  obtain ⟨y, htests⟩ : ∃ y, stageTests v c (s.ch c).taken =
      endStep (v.modCh c fun ch => { ch with confirms := y }) c x .profileEnd .next :=
    ⟨_, stageTests_segment hrun hstep rfl hfires h.profile (by rw [hvch]; exact hend')⟩
  rw [htests] at hends
  obtain ⟨z, hz⟩ : ∃ z, z = v.modCh c fun ch => { ch with confirms := y } := ⟨_, rfl⟩
  have hzch : z.ch c = { worked (s.ch c) with queue := queue, play := play', confirms := y } := by
    rw [hz, State.ch_modCh_self, hvch]
  rw [← hz] at hends
  have hne : (z.ch c).state ≠ .follower := by
    rw [hzch]
    exact fun e => absurd (h.running.symm.trans e) (by decide)
  have hkeeps := (endStep_keeps z c x .profileEnd .next hne).trans (stageRefresh_keeps _ c)
  refine ⟨?_, fun hlow hsend hroom => ?_⟩
  · exact (hends.get c Channel.queue).trans ((hkeeps.chans c).queue.trans (by rw [hzch]))
  · have hlink : z.link = s.link := by
      rw [hz, State.modCh_link, hv]
      exact (congrArg State.link (lowWaterTest_high (s := (s.modCh c worked).modCh c fun _ => X)
        (by rw [State.ch_modCh_self]; exact hlow))).trans rfl
    have hhall : z.hall = s.hall := by
      rw [hz, State.modCh_hall, hv]
      exact (congrArg State.hall (lowWaterTest_high (s := (s.modCh c worked).modCh c fun _ => X)
        (by rw [State.ch_modCh_self]; exact hlow))).trans rfl
    have hreport := endStep_report z c x .profileEnd .next (by rw [hlink]; omega)
    rw [hlink, hhall, hzch, h.profile] at hreport
    rw [hends.reports (by rw [hkeeps.link.sending, hlink]; exact hsend), stageRefresh_link]
    exact hreport

end

theorem requeue {ch : Channel} {l m : List Point} {p : Playback} (h : l = m) :
    { ch with queue := l, play := p } = { ch with queue := m, play := p } := by rw [h]

/-- Settles O43. -/
theorem profilePlays : Obligations.ProfilePlays := by
  unfold Obligations.ProfilePlays
  intro s c x hp hpair hs hh hpres hset hx hk ch p set a counters hn hend position low
  have h : Plays s c x := ⟨hp, ⟨(paired_false hpair).1, hh, hpres, hset⟩, hs, hx, hk, hn⟩
  have hends := h.ends
  have hworks := Works.trans (Works.stagePlay (s.modCh c worked) c true)
    ((Works.stageTests _ c (s.ch c).taken).trans (.stageRefresh _ c))
  have hpoint : playPoint (worked ch) = ch.queue[position]? := rfl
  refine ⟨_, rfl, ?_, fun d hd => ?_, ?_⟩
  · obtain ⟨q, hq⟩ := hworks.keeps
    rw [modCh_modCh] at hq
    have hqueue : ((whenReady s fun s => periodExpires s c).ch c).queue = q := by
      refine (hends.get c Channel.queue).trans ((hq.chans c).queue.trans ?_)
      rw [State.ch_modCh_self]
    exact hqueue ▸ hends.frame hq.frame
  · have hother := hworks.others d hd fun _ => by rw [isLeader_modCh_same]; exact h.sampled.leads
    rw [State.ch_modCh_ne _ hd] at hother
    exact hends.run hother
  intro becomes starves
  refine ⟨fun q hi hq => ⟨fun hd => ?_, fun hd hm => ?_, fun hd hm => ?_⟩, fun q hi hq => ?_, fun hq => ⟨fun hu => ?_, fun hu => ?_⟩⟩
  · exact (h.outcome (advancePoint_goes_on hi (hpoint.trans hq) hd) (queue := ch.queue)
      (play := { p with played := p.played + 1 }) rfl hend).1 (Channel.starves_inPlay hi)
  · have hposition : position = p.position := if_pos hm
    rw [hposition]
    exact (h.outcome (advancePoint_repeats hi (hpoint.trans hq) hd hm) (queue := ch.queue) rfl hend).1
      (Channel.starves_inPlay hi)
  · have hadvance := advancePoint_leaves_queue (ch := worked ch) hi (hpoint.trans hq) hd hm
    have hlow : ∀ b e, Channel.low { worked ch with
        queue := ch.queue.tail
        play := { p with played := 0, heldCurrent := q.current, inPlay := b, profileEnd := e } } = low := fun b e => by
      show (p.lowArmed && decide (ch.queue.tail.length ≤ set.lowWater)) = decide (_ ∧ _)
      rw [Bool.decide_and, Bool.decide_eq_true]
    have hplay : q.endFlag = false → Channel.lowTested { worked ch with
        queue := ch.queue.tail
        play := { p with
          played := 0
          heldCurrent := q.current
          inPlay := decide (q.endFlag = false ∧ ch.queue.tail ≠ [])
          profileEnd := p.profileEnd || q.endFlag } } = { worked ch with
        queue := ch.queue.tail
        play := { p with
          played := 0, heldCurrent := q.current, inPlay := decide (q.endFlag = false ∧ ch.queue.tail ≠ [])
          lowArmed := if low then false else p.lowArmed } } := fun he => by
      rw [Channel.lowTested, hlow, he, Bool.or_false]
    refine ⟨fun hl hsend hroom => h.low hadvance rfl ((hlow _ _).trans hl) hsend hroom, fun he hcomes => ?_, fun he ht hu => ?_,
      fun he hl hsend hroom => (h.segment_ends hadvance rfl ?_).2 ((hlow _ _).trans hl) hsend hroom,
      fun he => (h.segment_ends hadvance rfl ?_).1⟩
    · refine (h.outcome hadvance (hplay he) hend).1 ?_
      rcases hcomes with ht | hu
      · exact Channel.starves_inPlay (decide_eq_true ⟨he, ht⟩)
      · exact Channel.starves_underrun hu
    · refine (h.outcome hadvance ((hplay he).trans (requeue ht)) hend).2 (Channel.starves_dry ?_ ?_ hend hu)
      · exact decide_eq_false fun e => e.2 ht
      · exact (playPoint_play { worked ch with queue := [] } _ rfl).trans rfl
    · show (p.profileEnd || q.endFlag) = true
      rw [he, Bool.or_true]
    · show (p.profileEnd || q.endFlag) = true
      rw [he, Bool.or_true]
  · exact (h.outcome (advancePoint_comes hi (hpoint.trans hq)) (queue := ch.queue) (play := { p with inPlay := true }) rfl
      hend).1 rfl
  · exact (h.outcome (advancePoint_nothing (hpoint.trans hq)) (queue := ch.queue) rfl hend).1
      (Channel.starves_underrun hu)
  · refine (h.outcome (advancePoint_nothing (hpoint.trans hq)) (queue := ch.queue) rfl hend).2 ?_
    exact Channel.starves_dry rfl ((playPoint_play (worked ch) _ rfl).trans (hpoint.trans hq)) hend hu

end Sys2Proof.Machine
end

section
/-! PROOF. Chamber alarm lines: the cover of LOCAL lines and the offers of DIRECT lines (R146 to R151). -/
namespace Sys2Proof.Machine
open Sys2Proof.Safety

section
variable {s t u : State} {c : Ch}

/-! ### The cover of LOCAL lines (R148) -/

/-- A channel is covered by the same lines while the lines and the followers stand. -/
theorem covered_congr (hp : t.prot = s.prot) (hf : ∀ d, (t.ch d).state = .follower ↔ (s.ch d).state = .follower) (c : Ch) :
    covered t c = covered s c := by
  have hfollow : ∀ d, isFollower t d = isFollower s d := fun d => by
    rw [Bool.eq_iff_iff, isFollower_iff, isFollower_iff, hf]
  have hlead : isLeader t c = isLeader s c := by unfold isLeader; rw [hfollow]
  unfold covered maskNames State.line
  rw [hp, hfollow, hlead]

theorem Keeps.covered (h : Keeps s t) (c : Ch) : covered t c = covered s c :=
  covered_congr h.prot (fun d => (h.chans d).follower) c

/-- A LOCAL line whose filtered level is asserted covers a channel of its mask. -/
theorem covered_of_mask {line : LineNo} (hr : (s.line line).settings.route = .localHold) (hf : (s.line line).filtered = true)
    (hm : (s.line line).settings.mask.getLsbD c.val = true) (hs : (s.ch c).state ≠ .follower) : covered s c = true := by
  have hmem : ∀ l : LineNo, l ∈ allLines := by decide
  have hfollow : isFollower s c = false := isFollower_false hs
  unfold covered maskNames
  rw [hfollow, Bool.not_false, Bool.true_and, List.any_eq_true]
  exact ⟨line, hmem line, by rw [hr, hf, hm]; rfl⟩

/-- A line that is not LOCAL covers nothing before and after. -/
theorem covered_modLine {line : LineNo} {f : AlarmLine → AlarmLine} (hold : (s.line line).settings.route ≠ .localHold)
    (hnew : (f (s.line line)).settings.route ≠ .localHold) (c : Ch) : covered (s.modLine line f) c = covered s c := by
  unfold covered
  have hfollow : isFollower (s.modLine line f) c = isFollower s c := rfl
  rw [hfollow]
  congr 2
  funext l
  have hmask : ∀ m, maskNames (s.modLine line f) m c = maskNames s m c := fun _ => rfl
  rw [State.line_modLine, hmask]
  split
  · rename_i e
    subst e
    rw [decide_eq_false hold, decide_eq_false hnew]
    rfl
  · rfl

/-! ### What the arbiter's handling leaves of CHAMBER -/

/-- CHAMBER stands, and a channel in a step or between steps stays so, HELD where no cause of the arbiter's own holds it. -/
structure ChamberSame (a b : Channel) : Prop where
  chamber  : b.holds.chamber = a.holds.chamber
  fast     : HeldFast a → HeldFast b
  holdable : b.state.holdable = a.state.holdable

theorem ChamberSame.refl (a : Channel) : ChamberSame a a := ⟨rfl, id, rfl⟩

theorem ChamberSame.trans {a b c : Channel} (h : ChamberSame a b) (k : ChamberSame b c) : ChamberSame a c :=
  ⟨k.chamber.trans h.chamber, fun x => k.fast (h.fast x), k.holdable.trans h.holdable⟩

theorem ChamberSame.of_port {a b : Channel} (h : OnlyPort a b) : ChamberSame a b := by
  rw [h]
  exact ⟨rfl, id, rfl⟩

theorem settle_chamber (s : State) (c : Ch) : ChamberSame (s.ch c) ((settle s).ch c) :=
  have hrun := (settle_runs s).chans c
  ⟨hrun.chamber, settle_fast, hrun.holdable⟩

theorem holdChannel_others {d : Ch} (h : c ≠ d) : ChamberSame (s.ch c) ((holdChannel s d .chamber).ch c) :=
  (ChamberSame.of_port (addCause_leaves h s _)).trans (settle_chamber _ c)

theorem unholdChannel_others {d : Ch} (h : c ≠ d) (f : HoldCauses → HoldCauses) :
    ChamberSame (s.ch c) ((unholdChannel s d f).ch c) :=
  (ChamberSame.of_port ((removeCauses_acts s d f).chans c h)).trans (settle_chamber _ c)

/-- A channel that comes to be covered is HELD with CHAMBER (R148). -/
theorem holdChannel_holds (h : (s.ch c).state.holdable = true) :
    HeldFast ((holdChannel s c .chamber).ch c) ∧ ((holdChannel s c .chamber).ch c).holds.chamber = true := by
  have hadd : HeldFast ((addCause s c .chamber).ch c) ∧ ((addCause s c .chamber).ch c).holds.chamber = true := by
    have hkey : ∀ a b : Channel, SameRun a b → a.state = .held → a.holds.chamber = true → HeldFast b ∧ b.holds.chamber = true := by
      intro a b hab hs hc
      have hchamber : b.holds.chamber = true := (hab.get fun ch => ch.holds.chamber).trans hc
      exact ⟨⟨(hab.get Channel.state).trans hs, .inr (.inl hchamber)⟩, hchamber⟩
    by_cases hh : (s.ch c).state = .held
    · exact hkey _ _ ((Turned.self c s).addCause_held .chamber hh).chan hh rfl
    · exact hkey _ _ ((Turned.self c s).addCause_free .chamber h hh).chan rfl rfl
  exact ⟨settle_fast hadd.1, (settle_chamber _ c).chamber.trans hadd.2⟩

/-- A channel that is covered no longer loses CHAMBER (R148). -/
theorem unholdChannel_drops : ((unholdChannel s c fun h => h.drop .chamber).ch c).holds.chamber = false := by
  refine (settle_chamber _ c).chamber.trans (((removeCauses_runs s c fun h => h.drop .chamber).chans c).chamber.trans ?_)
  rw [State.ch_modCh_self]
  rfl

/-! ### The cover is followed (R148) -/

/-- One channel's turn. -/
def followOne (before : Ch → Bool) (s : State) (d : Ch) : State :=
  if covered s d && !before d then holdChannel s d .chamber
  else if !covered s d && (s.ch d).holds.chamber then unholdChannel s d fun h => h.drop .chamber
  else s

theorem followCover_cons (before : Ch → Bool) (s : State) (d : Ch) (l : List Ch) :
    followCover before s (d :: l) = followCover before (followOne before s d) l := rfl

theorem followOne_keeps (before : Ch → Bool) (s : State) (d : Ch) : Keeps s (followOne before s d) :=
  iteInduction (motive := Keeps s) (fun _ => holdChannel_keeps s d _) fun _ =>
    iteInduction (motive := Keeps s) (fun _ => unholdChannel_keeps s d _) fun _ => .refl s

theorem followOne_others (before : Ch → Bool) {d : Ch} (h : c ≠ d) : ChamberSame (s.ch c) ((followOne before s d).ch c) :=
  iteInduction (motive := fun t : State => ChamberSame (s.ch c) (t.ch c)) (fun _ => holdChannel_others h) fun _ =>
    iteInduction (motive := fun t : State => ChamberSame (s.ch c) (t.ch c)) (fun _ => unholdChannel_others h _) fun _ => .refl _

theorem followCover_others (before : Ch → Bool) (l : List Ch) (s : State) (h : c ∉ l) :
    ChamberSame (s.ch c) ((followCover before s l).ch c) := by
  induction l generalizing s with
  | nil => exact .refl _
  | cons d l ih => exact (followOne_others before (List.ne_of_not_mem_cons h)).trans (ih _ (List.not_mem_of_not_mem_cons h))

/-- What following the cover makes of a channel. -/
structure CoverFollowed (s : State) (before : Bool) (c : Ch) (b : Channel) : Prop where
  left    : covered s c = false → b.holds.chamber = false
  stands  : covered s c = true → before = true → b.holds.chamber = (s.ch c).holds.chamber
  entered : covered s c = true → before = false → (s.ch c).state.holdable = true → HeldFast b ∧ b.holds.chamber = true

theorem CoverFollowed.then {before : Bool} {a b : Channel} (h : CoverFollowed s before c a) (k : ChamberSame a b) :
    CoverFollowed s before c b :=
  ⟨fun x => k.chamber.trans (h.left x), fun x y => k.chamber.trans (h.stands x y), fun x y z => by
    obtain ⟨hfast, hchamber⟩ := h.entered x y z
    exact ⟨k.fast hfast, k.chamber.trans hchamber⟩⟩

theorem followOne_self (before : Ch → Bool) (s : State) (c : Ch) :
    CoverFollowed s (before c) c ((followOne before s c).ch c) := by
  unfold followOne
  cases hcov : covered s c with
  | false =>
    have hleft : ∀ b : Channel, b.holds.chamber = false → CoverFollowed s (before c) c b := fun b hb =>
      ⟨fun _ => hb, fun x => absurd (hcov.symm.trans x) (by decide), fun x => absurd (hcov.symm.trans x) (by decide)⟩
    refine hleft _ ?_
    rw [Bool.false_and, if_neg Bool.false_ne_true]
    cases hh : (s.ch c).holds.chamber with
    | false => exact hh
    | true => exact unholdChannel_drops
  | true =>
    have hout : covered s c ≠ false := by rw [hcov]; decide
    cases before c with
    | false => exact ⟨fun x => absurd x hout, fun _ => nofun, fun _ _ x => holdChannel_holds x⟩
    | true => exact ⟨fun x => absurd x hout, fun _ _ => rfl, fun _ => nofun⟩

theorem CoverFollowed.of {before : Bool} {s t : State} {b : Channel} (hc : covered t c = covered s c)
    (k : ChamberSame (s.ch c) (t.ch c)) (h : CoverFollowed t before c b) : CoverFollowed s before c b :=
  ⟨fun x => h.left (hc.trans x), fun x y => (h.stands (hc.trans x) y).trans k.chamber,
    fun x y z => h.entered (hc.trans x) y (k.holdable.trans z)⟩

/-- Each channel of the list has its turn once. -/
theorem followCover_followed (before : Ch → Bool) {l : List Ch} (hl : l.Nodup) (s : State) (h : c ∈ l) :
    CoverFollowed s (before c) c ((followCover before s l).ch c) := by
  induction l generalizing s with
  | nil => cases h
  | cons d l ih =>
    obtain ⟨hd, hl⟩ := List.nodup_cons.1 hl
    rw [followCover_cons]
    by_cases e : c = d
    · subst e
      exact (followOne_self before s c).then (followCover_others before l _ hd)
    · exact (ih hl _ ((List.mem_cons.1 h).resolve_left e)).of ((followOne_keeps before s d).covered c) (followOne_others before e)

theorem followCover_all (before : Ch → Bool) (s : State) (c : Ch) :
    CoverFollowed s (before c) c ((followCover before s allCh).ch c) :=
  followCover_followed before (by decide) s (mem_allCh c)

/-- With no channel to hold and none to let go nothing changes. -/
theorem followCover_none (before : Ch → Bool) (l : List Ch) (s : State) (hb : ∀ c, covered s c = true → before c = true)
    (hc : ∀ c, (s.ch c).holds.chamber = true → covered s c = true) : followCover before s l = s := by
  induction l with
  | nil => rfl
  | cons d l ih =>
    have hone : followOne before s d = s := by
      unfold followOne
      cases hcov : covered s d with
      | false =>
        cases hh : (s.ch d).holds.chamber with
        | false => rfl
        | true => cases hcov.symm.trans (hc d hh)
      | true =>
        rw [hb d hcov]
        rfl
    rw [followCover_cons, hone, ih]

theorem followCover_grows (before : Ch → Bool) (l : List Ch) (s : State) : Grows s (followCover before s l) := by
  induction l generalizing s with
  | nil => exact .refl s
  | cons d l ih =>
    have hhold : Grows s (holdChannel s d .chamber) := Grows.trans (.of_link (addCause_link s d _)) (settle_grows _)
    have hlet : Grows s (unholdChannel s d fun h => h.drop .chamber) :=
      Grows.trans (.of_link (removeCauses_link s d _)) (settle_grows _)
    exact Grows.trans (iteInduction (motive := Grows s) (fun _ => hhold) fun _ =>
      iteInduction (motive := Grows s) (fun _ => hlet) fun _ => .refl s) (ih _)

/-! ### CHAMBER_ALARM offered by a DIRECT line (R150) -/

/-- CHAMBER is held no more than before. -/
def ChamberAtMost (a b : Channel) : Prop := b.holds.chamber = true → a.holds.chamber = true

theorem respond_chamber (s : State) (c d : Ch) : ChamberAtMost (s.ch d) ((respond s c).ch d) := by
  intro h
  by_cases hd : d = c
  · subst hd
    unfold respond at h
    split at h
    · exact h
    · rw [State.ch_modPort, if_pos rfl] at h; exact h
    · rw [faultChannel_ch] at h; cases h
  · rw [← ((respond_acts s c).run hd).chamber]; exact h

/-- An offer gives CHAMBER to no channel. -/
theorem offerOne_chamber (s : State) (c d : Ch) (k : FaultKind) (value : Int) :
    ChamberAtMost (s.ch d) ((offerOne s c k value).ch d) := by
  by_cases hd : d = c
  · subst hd
    refine iteInduction (motive := fun t : State => ChamberAtMost (s.ch d) (t.ch d)) (fun _ => ?_) fun _ =>
      iteInduction (motive := fun t : State => ChamberAtMost (s.ch d) (t.ch d)) (fun _ => id) fun _ h => ?_
    · unfold warnKind
      refine iteInduction (motive := fun t : State => ChamberAtMost (s.ch d) (t.ch d)) (fun _ => id) fun _ h => ?_
      rw [reportFault, reportCh, State.ch_modLink, State.ch_modCh_self] at h
      cases k <;> exact h
    · rw [latchKind_ch] at h
      have hbefore := respond_chamber _ d d h
      rw [State.ch_modCh_self] at hbefore
      exact hbefore
  · intro h
    rw [← (offerOne_run s hd k value).chamber]; exact h

theorem offer_chamber (s : State) (c d : Ch) (k : FaultKind) (value : Int) :
    ChamberAtMost (s.ch d) ((offer s c k value).ch d) := by
  intro h
  rw [offer_eq, (settle_chamber _ d).chamber] at h
  revert h
  exact iteInduction (motive := fun t : State => ChamberAtMost (s.ch d) (t.ch d))
    (fun _ h => offerOne_chamber s c d k value (offerOne_chamber _ _ d _ _ h)) fun _ => offerOne_chamber s c d k value

theorem offerAlarm_chamber (line : LineNo) (p : Ch → Bool) (l : List Ch) (s : State) (d : Ch) :
    ChamberAtMost (s.ch d) ((offerAlarm line p s l).ch d) := by
  induction l generalizing s with
  | nil => exact id
  | cons c l ih =>
    exact fun h => iteInduction (motive := fun t : State => ChamberAtMost (s.ch d) (t.ch d))
      (fun _ => offer_chamber s c d _ _) (fun _ => id) (ih _ h)

theorem offerAlarm_none (line : LineNo) {p : Ch → Bool} (hp : ∀ c, p c = false) (l : List Ch) (s : State) :
    offerAlarm line p s l = s := by
  induction l generalizing s with
  | nil => rfl
  | cons c l ih =>
    unfold offerAlarm
    rw [hp c, if_neg Bool.false_ne_true]
    exact ih s

theorem offerAlarm_hasKind (line : LineNo) {p : Ch → Bool} (hp : p c = true) {l : List Ch} (s : State) (h : c ∈ l) :
    hasKind ((offerAlarm line p s l).ch c).latched .chamberAlarm = true := by
  induction l generalizing s with
  | nil => cases h
  | cons d l ih =>
    unfold offerAlarm
    rcases List.mem_cons.1 h with rfl | h
    · rw [if_pos hp]
      exact (offerAlarm_faults line p l _).grows _ _ (offer_hasKind _ rfl)
    · exact ih _ h

/-- A channel outside FOLLOWER in which CHAMBER_ALARM is latched is FAULTED. -/
def AlarmFaulted (a : Channel) : Prop := a.state ≠ .follower → hasKind a.latched .chamberAlarm = true → a.state = .faulted

theorem AlarmFaulted.of_same {a b : Channel} (ha : AlarmFaulted a) (h : FaultSame a b) : AlarmFaulted b := by
  intro hs hk
  rw [h.latched] at hk
  exact h.faulted.2 (ha (fun e => hs (h.follower.2 e)) hk)

theorem AlarmFaulted.offerOne {d : Ch} (h : AlarmFaulted (s.ch d)) (c : Ch) (k : FaultKind) (value : Int) :
    AlarmFaulted ((offerOne s c k value).ch d) := by
  rcases offerOne_cases s c k value with ⟨-, hkept⟩ | ⟨-, hl, ho⟩
  · exact h.of_same (hkept.chans d)
  · by_cases hd : d = c
    · subst hd; exact fun hs _ => hl.faulted fun e => hs (hl.follower.2 e)
    · exact h.of_same (ho d hd)

theorem AlarmFaulted.offer {d : Ch} (h : AlarmFaulted (s.ch d)) (c : Ch) (k : FaultKind) (value : Int) :
    AlarmFaulted ((offer s c k value).ch d) := by
  rw [offer_eq]
  refine AlarmFaulted.of_same ?_ ((settle_faultsKept _).chans d)
  exact iteInduction (motive := fun t : State => AlarmFaulted (t.ch d)) (fun _ => (h.offerOne c k value).offerOne _ _ _)
    fun _ => h.offerOne c k value

theorem AlarmFaulted.offerAlarm {d : Ch} (h : AlarmFaulted (s.ch d)) (line : LineNo) (p : Ch → Bool) (l : List Ch) :
    AlarmFaulted ((offerAlarm line p s l).ch d) := by
  induction l generalizing s with
  | nil => exact h
  | cons c l ih =>
    exact ih (iteInduction (motive := fun t : State => AlarmFaulted (t.ch d)) (fun _ => h.offer c _ _) fun _ => h)

/-- A DIRECT line offers CHAMBER_ALARM to a channel outside a pair: the kind is latched and the channel FAULTED (R150). -/
theorem offerAlarm_faulted (line : LineNo) {p : Ch → Bool} (hp : p c = true) (hf : paired s c = false)
    (hk : hasKind (s.ch c).latched .chamberAlarm = false) :
    hasKind ((offerAlarm line p s allCh).ch c).latched .chamberAlarm = true ∧
      ((offerAlarm line p s allCh).ch c).state = .faulted := by
  have hhas := offerAlarm_hasKind line hp s (mem_allCh c)
  have hbefore : AlarmFaulted (s.ch c) := fun _ x => absurd (hk.symm.trans x) (by decide)
  exact ⟨hhas, hbefore.offerAlarm line p allCh
    (fun e => (paired_false hf).2 (((offerAlarm_keeps line p allCh s).chans c).follower.1 e)) hhas⟩

/-! ### A line's debounce timer expires (R147, R148) -/

/-- The filtered level of a line takes the raw level. -/
def debounced (s : State) (line : LineNo) : State := s.modLine line fun l => { l with filtered := l.raw, timer := none }

/-- The ALARM report of a line's filtered level. -/
def alarmTold (s : State) (line : LineNo) : State :=
  (debounced s line).modLink fun l =>
    l.make s.hall.partTime 0xFF (.alarm line (s.line line).raw (s.line line).settings.route (s.line line).settings.mask)

theorem alarmDebounceExpires_eq {line : LineNo} (h : (s.line line).timer ≠ none) :
    alarmDebounceExpires s line = followCover (covered s) (alarmTold s line) allCh := by
  unfold alarmDebounceExpires
  rw [if_neg (by rw [Option.isNone_iff_eq_none]; exact h)]
  unfold reportPart alarmTold debounced
  dsimp only
  rw [State.line_modLine_self]
  rfl

theorem alarmTold_keeps (s : State) (line : LineNo) : Keeps (debounced s line) (alarmTold s line) := reportPart_keeps _ _

/-! ### The level of a line changes (R147, R150) -/

/-- A line at its new level. -/
def levelled (s : State) (line : LineNo) (level : Bool) : State := s.modLine line fun l => l.setRaw level

theorem alarmRawChange_same {line : LineNo} {level : Bool} (h : (s.line line).raw = level) : alarmRawChange s line level = s :=
  if_pos h

theorem alarmRawChange_plain {line : LineNo} {level : Bool} (h : (s.line line).raw ≠ level)
    (hd : (s.line line).settings.route ≠ .direct ∨ level = false) : alarmRawChange s line level = levelled s line level := by
  refine (if_neg h).trans (if_neg ?_)
  rintro ⟨hl, hr⟩
  rw [State.line_modLine_self] at hr
  rcases hd with hd | hd
  · exact hd hr
  · rw [hl] at hd; cases hd

theorem alarmRawChange_direct {line : LineNo} (h : (s.line line).raw = false) (hd : (s.line line).settings.route = .direct) :
    alarmRawChange s line true =
      offerAlarm line (fun c => (s.line line).settings.mask.getLsbD c.val) (levelled s line true) allCh := by
  have hline : ((levelled s line true).line line).settings = (s.line line).settings := by
    rw [levelled, State.line_modLine_self]; rfl
  have hdirect : (true = true) ∧ ((levelled s line true).line line).settings.route = .direct := ⟨rfl, by rw [hline]; exact hd⟩
  calc alarmRawChange s line true
      = offerAlarm line (fun c => ((levelled s line true).line line).settings.mask.getLsbD c.val) (levelled s line true) allCh :=
        (if_neg (by rw [h]; decide)).trans (if_pos hdirect)
    _ = _ := by rw [hline]

theorem setRaw_true (l : AlarmLine) : l.setRaw true =
    { l with raw := true, timer := if l.filtered then none else some l.settings.debounce } := by
  unfold AlarmLine.setRaw
  cases l.filtered <;> rfl

theorem modLine_self {line : LineNo} {f : AlarmLine → AlarmLine} (h : f (s.line line) = s.line line) : s.modLine line f = s := by
  have hlines : s.prot.lines.set line.val (f s.prot.lines[line]) line.isLt = s.prot.lines := by
    rw [show f s.prot.lines[line] = s.prot.lines[line] from h]
    simp
  exact congrArg (fun x => { s with prot := { s.prot with lines := x } }) hlines

end

/-- Settles O48. -/
theorem chamberAlarmLine : Obligations.ChamberAlarmLine := by
  unfold Obligations.ChamberAlarmLine
  refine ⟨⟨fun s line level hp hdue hraw hd => ?_, fun s line level hdue hraw => ?_, fun s line level hp => ⟨?_, ?_⟩,
    fun s line hp hraw hd => ?_⟩, fun s line hdue ht => ?_, fun s line hp ht => ?_⟩
  · refine next_congr ((if_pos hp).trans ?_)
    rw [alarmRawChange_plain hraw hd]
    have hcalm : finish s (levelled s line level) = pump (levelled s line level) :=
      finish_calm (fun _ => rfl) (fun _ => rfl) rfl
    exact hcalm.trans (pump_noFrameDue hdue)
  · refine next_congr ?_
    split
    · rw [alarmRawChange_same hraw, finish_of_link rfl]; exact pump_noFrameDue hdue
    · exact modLine_self (by rw [← hraw])
  · exact next_congr (if_neg hp)
  · exact next_congr (if_neg hp)
  · have hacts := alarmRawChange_direct hraw hd
    have hkeeps := offerAlarm_keeps line (fun c => (s.line line).settings.mask.getLsbD c.val) allCh (levelled s line true)
    have hends := finish_ends s (alarmRawChange s line true)
    rw [hacts] at hends
    have hline : ∀ l, (finish s (alarmRawChange s line true)).line l = (levelled s line true).line l := fun l => by
      rw [hacts, hends.line, State.line, hkeeps.prot]; rfl
    refine ⟨_, next_congr (if_pos hp), ?_, fun l hl => ?_, fun c hm hpair hs hk => ?_, ?_⟩
    · rw [hline, levelled, State.line_modLine_self, setRaw_true]
    · rw [hline, levelled, State.line_modLine, if_neg hl]
    · have hfaulted := offerAlarm_faulted (s := levelled s line true) (p := fun c => (s.line line).settings.mask.getLsbD c.val)
        line hm hpair hk
      rw [hacts]
      exact ⟨(hends.get c Channel.state).trans hfaulted.2,
        (congrArg (hasKind · .chamberAlarm) (hends.get c Channel.latched)).trans hfaulted.1⟩
    · have hframe := hends.frame hkeeps.frame
      rw [hacts]
      have hstate : levelled s line true = s.modLine line fun l =>
          { l with raw := true, timer := if l.filtered then none else some l.settings.debounce } :=
        congrArg (s.modLine line) (funext setRaw_true)
      rw [← hstate]
      exact hframe
  · exact next_congr (event_same hdue (if_pos (Option.isNone_iff_eq_none.2 ht)))
  · intro raw set report taken
    obtain ⟨t, htold⟩ : ∃ t, t = alarmTold s line := ⟨_, rfl⟩
    have hkeeps : Keeps (debounced s line) t := htold ▸ alarmTold_keeps s line
    have hchan : ∀ c, t.ch c = s.ch c := fun c => by rw [htold]; rfl
    have hacts : alarmDebounceExpires s line = followCover (covered s) t allCh := htold ▸ alarmDebounceExpires_eq ht
    have hends : Ends (followCover (covered s) t allCh) (whenReady s fun s => alarmDebounceExpires s line) :=
      hacts ▸ event_ends (f := fun s => alarmDebounceExpires s line) hp
    obtain ⟨u, hu⟩ : ∃ u, u = whenReady s fun s => alarmDebounceExpires s line := ⟨_, rfl⟩
    rw [← hu] at hends
    have hfollow := followCover_all (covered s) t
    have hcover : ∀ c, covered u c = covered t c := fun c =>
      (covered_congr hends.prot (fun d => by rw [hends.get d Channel.state]) c).trans
        ((followCover_keeps (covered s) allCh t).covered c)
    refine ⟨u, next_congr hu.symm, hends.frame (hkeeps.trans (followCover_keeps _ _ _)).frame, fun hsend hroom => ?_,
      fun hr hsend hcov => ?_, fun hr hl c hm hc hs => ?_, fun c hc => ?_, fun c hs hc => ?_⟩
    · have hlink : t.link = s.link.make s.hall.partTime 0xFF (.alarm line raw set.route set.mask) := by rw [htold]; rfl
      have hmade : t.link.reports = s.link.reports ++ [report] := by
        exact congrArg Link.reports (hlink.trans (make_room _ _ _ hroom))
      have hsending : t.link.sending = s.link.sending := by rw [hlink]; exact (Link.make_keeps _ _ _ _).sending
      obtain ⟨rest, hrest⟩ := followCover_grows (covered s) allCh t
      refine ⟨rest, (hends.reports ?_).trans ?_⟩
      · rw [(followCover_keeps (covered s) allCh t).link.sending, hsending]; exact hsend
      · rw [hrest, hmade, List.append_assoc]; rfl
    · have hsame : followCover (covered s) t allCh = t := by
        have hcovered : ∀ c, covered t c = covered s c := fun c =>
          (hkeeps.covered c).trans (covered_modLine hr hr c)
        refine followCover_none (covered s) allCh t (fun c h => (hcovered c).symm.trans h) fun c h => ?_
        rw [hcovered]
        exact hcov c (by rw [← hchan]; exact h)
      have hsending : t.link.sending = s.link.sending := by rw [htold]; exact (Link.make_keeps _ _ _ _).sending
      obtain ⟨f, hf⟩ := Option.ne_none_iff_exists'.1 hsend
      have hcalm : finish s t = pump t :=
        finish_calm (fun c => by rw [hchan]) (fun c => by rw [hchan]) (by rw [htold]; rfl)
      have hwhole : u = t := by
        rw [hu, whenReady, if_pos hp, hacts, hsame, hcalm]
        exact pump_busy (hsending.trans hf)
      exact hwhole.trans htold
    · have hin : covered t c = true :=
        (hkeeps.covered c).trans (covered_of_mask (line := line) (by rw [debounced, State.line_modLine_self]; exact hr)
          (by rw [debounced, State.line_modLine_self]; exact hl) (by rw [debounced, State.line_modLine_self]; exact hm)
          (fun e => by rw [show ((debounced s line).ch c).state = (s.ch c).state from rfl] at e; rw [e] at hs; revert hs; decide))
      obtain ⟨hfast, hchamber⟩ := (hfollow c).entered hin hc (by rw [hchan]; exact (holdable_iff _).2 hs)
      exact ⟨(hends.get c Channel.state).trans hfast.1, (hends.get c fun ch => ch.holds.chamber).trans hchamber⟩
    · exact (hends.get c fun ch => ch.holds.chamber).trans ((hfollow c).left ((hcover c).symm.trans hc))
    · refine (hends.get c fun ch => ch.holds.chamber).trans (((hfollow c).stands ((hcover c).symm.trans hc) hs).trans ?_)
      rw [hchan]


section
variable {s t : State} {c : Ch}

/-! ### SET_ALARM_ROUTE (R146, R151) -/

/-- A line with its settings set. -/
def routed (s : State) (line : LineNo) (x : AlarmSettings) : State := s.modLine line fun l => { l with settings := x }

/-- Whether a line that is now DIRECT masks a channel it did not mask as a DIRECT line before. -/
def newlyMasked (old : AlarmSettings) (mask : BitVec 8) (c : Ch) : Bool :=
  mask.getLsbD c.val && (decide (old.route ≠ .direct) || !old.mask.getLsbD c.val)

/-- The cover that follows new settings of a line. -/
def recovered (s : State) (line : LineNo) (x : AlarmSettings) : State :=
  if x.route ≠ (s.line line).settings.route ∨ x.mask ≠ (s.line line).settings.mask then
    followCover (covered s) (routed s line x) allCh
  else routed s line x

/-- The offers of a line that is now DIRECT. -/
def reofferedAlarm (s : State) (line : LineNo) (x : AlarmSettings) (u : State) : State :=
  if x.route = .direct ∧ (u.line line).raw then offerAlarm line (newlyMasked (s.line line).settings x.mask) u allCh else u

theorem takeSetAlarmRoute_sets {r : Request} {line : LineNo} {route : Route} (hto : ToPart s r 7)
    (hn : field r.body 0 1 = line.val) (hr : routeOf (field r.body 1 1) = some route) :
    ∀ x : AlarmSettings, x = ⟨route, BitVec.ofNat 8 (field r.body 2 1), clampNat 10 5000 (field r.body 3 4)⟩ →
      takeKind .setAlarmRoute r s =
        (reofferedAlarm s line x (recovered s line x),
          .ok (.alarmLines (alarmLinesView (reofferedAlarm s line x (recovered s line x))))) := by
  rintro x rfl
  have htake : takeKind .setAlarmRoute r s = _ := takeSetAlarmRoute.eq_def r s
  rw [takePart_of hto rfl _] at htake
  have hline : field r.body 0 1 < 4 := by rw [hn]; exact line.isLt
  rw [htake]
  dsimp only
  rw [dif_pos hline, hr]
  have hl : (⟨field r.body 0 1, hline⟩ : LineNo) = line := Fin.ext hn
  dsimp only
  rw [hl]
  rfl

theorem recovered_keeps (s : State) (line : LineNo) (x : AlarmSettings) : Keeps (routed s line x) (recovered s line x) :=
  iteInduction (motive := Keeps (routed s line x)) (fun _ => followCover_keeps _ _ _) fun _ => .refl _

theorem reofferedAlarm_keeps (line : LineNo) (x : AlarmSettings) (u : State) : Keeps u (reofferedAlarm s line x u) :=
  iteInduction (motive := Keeps u) (fun _ => offerAlarm_keeps _ _ _ _) fun _ => .refl _

theorem reofferedAlarm_chamber (line : LineNo) (x : AlarmSettings) (u : State) (d : Ch) :
    ChamberAtMost (u.ch d) ((reofferedAlarm s line x u).ch d) :=
  iteInduction (motive := fun t : State => ChamberAtMost (u.ch d) (t.ch d)) (fun _ => offerAlarm_chamber _ _ _ _ d) fun _ => id

theorem recovered_followed (line : LineNo) (x : AlarmSettings)
    (h : x.route ≠ (s.line line).settings.route ∨ x.mask ≠ (s.line line).settings.mask) (c : Ch) :
    CoverFollowed (routed s line x) (covered s c) c ((recovered s line x).ch c) := by
  unfold recovered
  rw [if_pos h]
  exact followCover_all _ _ c

/-- Where route and mask are as they were, nothing follows and nothing is offered (R151). -/
theorem reofferedAlarm_same {line : LineNo} {x : AlarmSettings} (hr : x.route = (s.line line).settings.route)
    (hm : x.mask = (s.line line).settings.mask) : reofferedAlarm s line x (recovered s line x) = routed s line x := by
  have hcover : recovered s line x = routed s line x := if_neg (by rw [hr, hm]; exact fun h => h.elim (· rfl) (· rfl))
  rw [hcover]
  unfold reofferedAlarm
  split
  · rename_i h
    refine offerAlarm_none line (fun c => ?_) allCh _
    unfold newlyMasked
    rw [decide_eq_false (by rw [← hr, h.1]; decide), hm, Bool.false_or, Bool.and_not_self]
  · rfl

end

/-- Settles O18. -/
theorem setAlarmRoute : Obligations.SetAlarmRoute := by
  unfold Obligations.SetAlarmRoute
  intro r s hto n route mask debounce refused
  have hb : r.body.length ≤ 1024 := by rw [hto.length]; decide
  refine ⟨fun hn => ?_, fun hn hr => ?_, fun line x hn hr => ?_⟩
  · have htake : takeKind .setAlarmRoute r s = _ := takeSetAlarmRoute.eq_def r s
    rw [takePart_of hto rfl _] at htake
    exact next_congr (arrive_same hto.free hb (htake.trans (dif_neg (Nat.not_lt.2 hn))))
  · have htake : takeKind .setAlarmRoute r s = _ := takeSetAlarmRoute.eq_def r s
    rw [takePart_of hto rfl _] at htake
    refine next_congr (arrive_same hto.free hb (htake.trans ?_))
    dsimp only
    rw [dif_pos hn, show routeOf (field r.body 1 1) = none from hr]
    rfl
  · obtain ⟨a, ha⟩ : ∃ a : AlarmSettings, a = ⟨x, mask, debounce⟩ := ⟨_, rfl⟩
    have hclamp : clampNat 10 5000 (field r.body 3 4) = debounce := rfl
    have htaken := takeSetAlarmRoute_sets (s := s) hto hn hr a (by rw [hclamp]; exact ha)
    obtain ⟨u, hu⟩ : ∃ u, u = reofferedAlarm s line a (recovered s line a) := ⟨_, rfl⟩
    rw [← hu] at htaken
    obtain ⟨hanswered, hends⟩ := request_ends hto.free hb htaken
    have hkeeps : Keeps (routed s line a) u := hu ▸ (recovered_keeps s line a).trans (reofferedAlarm_keeps line a _)
    have hroute : a.route = x := by rw [ha]
    have hmask : a.mask = mask := by rw [ha]
    obtain ⟨t, ht⟩ : ∃ t, t = arrive (ReqKind.setAlarmRoute.frame r) s := ⟨_, rfl⟩
    have htakenat : t = replied (bringForwardAll s u allCh) (replyTo .setAlarmRoute r (.ok (.alarmLines (alarmLinesView u)))) := by
      rw [ht, arrive_request .setAlarmRoute r hto.free hb, htaken]
    rw [← ht] at hanswered hends
    have hlines : ∀ l, t.line l = (routed s line a).line l := fun l => by rw [hends.line, State.line, State.line, hkeeps.prot]
    have hself : (routed s line a).line line = { s.line line with settings := a } := State.line_modLine_self _ _ _
    have hcovered : ∀ c, covered t c = covered (routed s line a) c := fun c =>
      (covered_congr hends.prot (fun d => by rw [hends.get d Channel.state]) c).trans (hkeeps.covered c)
    have hchamber : ∀ c, (t.ch c).holds.chamber = (u.ch c).holds.chamber := fun c => hends.get c fun ch => ch.holds.chamber
    refine ⟨t, next_congr ht.symm, ?_, ?_, fun l hl => ?_, ?_, fun hr0 hm0 => ?_, fun hl hf c hm hc hs => ?_, fun hne c hc => ?_,
      fun hd hraw c hm hnew hpair hk => ?_⟩
    · have hview : alarmLinesView u = [0, 1, 2, 3].map fun l => ((t.line l).settings, (t.line l).raw, (t.line l).filtered) := by
        simp only [hends.line]
        rfl
      rw [← hview]
      exact hanswered
    · rw [hlines, hself, ha]
    · rw [hlines]
      exact (State.line_modLine _ _ _ _).trans (if_neg hl)
    · rw [← ha]
      exact hends.frame hkeeps.frame
    · have hsame : u = routed s line a := hu.trans (reofferedAlarm_same (hroute.trans hr0) (hmask.trans hm0))
      have hcalm : bringForwardAll s (routed s line a) allCh = routed s line a :=
        bringForwardAll_same allCh (fun _ => rfl) (fun _ => rfl) rfl
      rw [htakenat, hsame, hcalm]
      exact ⟨rfl, rfl, rfl⟩
    · have hnofollow : (s.ch c).state ≠ .follower := fun e => by rw [e] at hs; revert hs; decide
      have hin : covered (routed s line a) c = true :=
        covered_of_mask (line := line) (by rw [hself]; exact hroute.trans hl) (by rw [hself]; exact hf)
          (by rw [hself]; exact (congrArg (BitVec.getLsbD · c.val) hmask).trans hm) hnofollow
      have hchanged : a.route ≠ (s.line line).settings.route ∨ a.mask ≠ (s.line line).settings.mask := by
        by_contra hno
        obtain ⟨hr0, hm0⟩ := not_or.1 hno
        have := covered_of_mask (s := s) (line := line) ((not_not.1 hr0).symm.trans (hroute.trans hl)) hf
          (by rw [← not_not.1 hm0, hmask]; exact hm) hnofollow
        rw [hc] at this
        cases this
      obtain ⟨hfast, hch⟩ := (recovered_followed line a hchanged c).entered hin hc ((holdable_iff _).2 hs)
      have hu2 : u = recovered s line a :=
        hu.trans (if_neg fun h => by rw [hroute, hl] at h; exact absurd h.1 (by decide))
      rw [← hu2] at hfast hch
      exact ⟨(hends.get c Channel.state).trans hfast.1, (hchamber c).trans hch⟩
    · have hchanged : a.route ≠ (s.line line).settings.route ∨ a.mask ≠ (s.line line).settings.mask := by
        rw [hroute, hmask]; exact hne
      have hleft := (recovered_followed line a hchanged c).left ((hcovered c).symm.trans hc)
      rw [hchamber, hu, Bool.eq_false_iff]
      exact fun h => absurd (hleft.symm.trans (reofferedAlarm_chamber line a _ c h)) (by decide)
    · have hrec := recovered_keeps s line a
      have hoffers : u = offerAlarm line (newlyMasked (s.line line).settings a.mask) (recovered s line a) allCh := by
        refine hu.trans (if_pos ⟨hroute.trans hd, ?_⟩)
        rw [State.line, hrec.prot]
        exact (congrArg AlarmLine.raw hself).trans hraw
      have hfk : FaultsKept (routed s line a) (recovered s line a) :=
        iteInduction (motive := FaultsKept (routed s line a)) (fun _ => followCover_faultsKept _ _ _) fun _ => .refl _
      have hfaulted := offerAlarm_faulted (s := recovered s line a) (c := c) line
        (p := newlyMasked (s.line line).settings a.mask) (by
          unfold newlyMasked
          rw [hmask, show mask.getLsbD c.val = true from hm, Bool.true_and, Bool.or_eq_true, decide_eq_true_eq, Bool.not_eq_true']
          exact hnew)
        ((hrec.paired c).trans hpair) (by rw [(hfk.chans c).latched]; exact hk)
      rw [← hoffers] at hfaulted
      exact ⟨(congrArg (hasKind · .chamberAlarm) (hends.get c Channel.latched)).trans hfaulted.1,
        (hends.get c Channel.state).trans hfaulted.2⟩

end Sys2Proof.Machine
end

section
/-! PROOF. The period in force and the open period (R50, R51). -/
namespace Sys2Proof.Machine
open Sys2Proof.Safety

/-! ### What leaves the open periods -/

/-- The open period of a channel goes on as it was. -/
structure SamePeriod (a b : Channel) : Prop where
  elapsed : b.periodElapsed = a.periodElapsed
  length  : b.periodLength = a.periodLength

theorem SamePeriod.refl (a : Channel) : SamePeriod a a := ⟨rfl, rfl⟩

theorem SamePeriod.trans {a b c : Channel} (h : SamePeriod a b) (k : SamePeriod b c) : SamePeriod a c :=
  ⟨k.elapsed.trans h.elapsed, k.length.trans h.length⟩

/-- Every open period goes on as it was, with or without its reading, and no channel enters or leaves FOLLOWER. -/
structure Clocked (s t : State) : Prop where
  period   : ∀ c, SamePeriod (s.ch c) (t.ch c)
  taken    : ∀ c, (t.ch c).taken = (s.ch c).taken
  follower : ∀ c, (t.ch c).state = .follower ↔ (s.ch c).state = .follower

section
variable {s t u : State} {c : Ch}

theorem Clocked.refl (s : State) : Clocked s s := ⟨fun _ => .refl _, fun _ => rfl, fun _ => Iff.rfl⟩

theorem Clocked.trans (h : Clocked s t) (k : Clocked t u) : Clocked s u :=
  ⟨fun c => (h.period c).trans (k.period c), fun c => (k.taken c).trans (h.taken c),
    fun c => (k.follower c).trans (h.follower c)⟩

theorem Clocked.ite (p : Prop) [Decidable p] (h : Clocked s t) (k : Clocked s u) : Clocked s (if p then t else u) :=
  iteInduction (motive := Clocked s) (fun _ => h) fun _ => k

theorem Clocked.of_chans (h : t.chans = s.chans) : Clocked s t :=
  ⟨fun c => by rw [State.ch, State.ch, h]; exact .refl _, fun c => by rw [State.ch, State.ch, h],
    fun c => by rw [State.ch, State.ch, h]⟩

theorem Keeps.clocked (h : Keeps s t) : Clocked s t :=
  ⟨fun c => ⟨(h.chans c).elapsed, (h.chans c).length⟩, fun c => (h.chans c).taken, fun c => (h.chans c).follower⟩

theorem Clocked.modCh (c : Ch) (f : Channel → Channel) (hp : SamePeriod (s.ch c) (f (s.ch c)))
    (ht : (f (s.ch c)).taken = (s.ch c).taken) (hs : (f (s.ch c)).state = (s.ch c).state) : Clocked s (s.modCh c f) := by
  refine ⟨fun d => ?_, ch_modCh_eq s c f Channel.taken ht, fun d => by rw [ch_modCh_eq s c f Channel.state hs d]⟩
  rw [State.ch_modCh]
  split
  · rename_i e; subst e; exact hp
  · exact .refl _

/-- A channel changes outside its open period. -/
theorem Clocked.modCh_same (s : State) (c : Ch) (f : Channel → Channel)
    (h : ∀ ch, (f ch).periodElapsed = ch.periodElapsed ∧ (f ch).periodLength = ch.periodLength ∧ (f ch).taken = ch.taken ∧
      (f ch).state = ch.state) : Clocked s (s.modCh c f) :=
  .modCh c f ⟨(h _).1, (h _).2.1⟩ (h _).2.2.1 (h _).2.2.2

theorem Clocked.modPort (s : State) (c : Ch) (f : Port → Port) : Clocked s (s.modPort c f) :=
  .modCh_same s c _ fun _ => ⟨rfl, rfl, rfl, rfl⟩

theorem Works.clocked (h : Works c s t) : Clocked s t := by
  obtain ⟨q, hkeeps⟩ := h.keeps
  have hqueue : Clocked s (s.modCh c fun ch => { ch with queue := q }) := .modCh_same s c _ fun _ => ⟨rfl, rfl, rfl, rfl⟩
  exact hqueue.trans hkeeps.clocked

theorem Clocked.isLeader (h : Clocked s t) (c : Ch) : isLeader t c = isLeader s c := by
  rw [Bool.eq_iff_iff, isLeader_iff, isLeader_iff, h.follower]

/-! ### The checks of a reading, and the stages of a period event -/

theorem setWarned_clocked (s : State) (c : Ch) (k : FaultKind) (w : Bool) : Clocked s (s.modCh c fun ch => setWarned ch k w) :=
  .modCh_same s c _ fun ch => by cases k <;> exact ⟨rfl, rfl, rfl, rfl⟩

theorem offer_clocked (s : State) (c : Ch) (k : FaultKind) (value : Int) : Clocked s (offer s c k value) :=
  (offer_keeps s c k value).clocked

theorem limitCheck_clocked (s : State) (c : Ch) (v : Nat) (i t : Int) (k : FaultKind) (value : Int) :
    Clocked s (limitCheck s c v i t k value) := .ite _ (offer_clocked s c k value) (setWarned_clocked s c k false)

theorem voltageChecks_clocked (s : State) (c : Ch) (v : Nat) (i t : Int) : Clocked s (voltageChecks s c v i t) :=
  (limitCheck_clocked s c v i t _ _).trans (limitCheck_clocked _ c v i t _ _)

theorem temperatureChecks_clocked (s : State) (c : Ch) (v : Nat) (i t : Int) : Clocked s (temperatureChecks s c v i t) :=
  (limitCheck_clocked s c v i t _ _).trans (limitCheck_clocked _ c v i t _ _)

theorem readingChecks_clocked (s : State) (c : Ch) (rd : Reading) : Clocked s (readingChecks s c rd) :=
  .ite _ (limitCheck_clocked s c _ _ _ _ _)
    (((voltageChecks_clocked s c _ _ _).trans (limitCheck_clocked _ c _ _ _ _ _)).trans (temperatureChecks_clocked _ c _ _ _))

theorem stageFlags_clocked (s : State) (c : Ch) (rd : Reading) : Clocked s (stageFlags s c rd) := by
  have hoffers : Clocked s (if rd.fault || rd.interlock then
      offer s c .stageReported ((if rd.fault then 1 else 0) + (if rd.interlock then 2 else 0)) else s) :=
    .ite _ (offer_clocked s c _ _) (.refl s)
  have hderate : ∀ u, Clocked u (u.modCh c fun ch => { ch with derateSeen := rd.derate }) := fun u =>
    .modCh_same u c _ fun _ => ⟨rfl, rfl, rfl, rfl⟩
  unfold stageFlags
  exact (hoffers.trans (.ite _ (reportCh_keeps _ c _).clocked (.refl _))).trans (hderate _)

/-- The pack reading taken and, with a reading of the period, checked (R128, R130). -/
def packChecked (s : State) (c : Ch) (checked : Bool) : State :=
  let p := packOf (s.ch c) (s.ch (partner c))
  let u := s.modCh c fun ch => { ch with pack := p }
  if checked then temperatureChecks (voltageChecks u c p.v p.i p.t) c p.v p.i p.t else u

/-- The difference of the members' voltages is checked against the leader's tolerance (R129). -/
def mismatchChecked (s : State) (c : Ch) (difference : Nat) : State :=
  if (s.ch c).settings.pairTolerance < difference then offer s c .pairMismatch difference
  else s.modCh c fun ch => setWarned ch .pairMismatch false

theorem completePack_eq (s : State) (c : Ch) (takenL takenF : Bool) : completePack s c takenL takenF =
    let p := packOf (s.ch c) (s.ch (partner c))
    if takenL && takenF && !p.held && decide ((s.port c).presence = .present) then
      mismatchChecked (packChecked s c (takenL || takenF)) c ((p.v : Int) - (s.ch (partner c)).last.v).natAbs
    else packChecked s c (takenL || takenF) := rfl

theorem packChecked_clocked (s : State) (c : Ch) (checked : Bool) : Clocked s (packChecked s c checked) := by
  unfold packChecked
  have hpack : Clocked s (s.modCh c fun ch => { ch with pack := packOf (s.ch c) (s.ch (partner c)) }) :=
    .modCh_same s c _ fun _ => ⟨rfl, rfl, rfl, rfl⟩
  exact .ite _ ((hpack.trans (voltageChecks_clocked _ c _ _ _)).trans (temperatureChecks_clocked _ c _ _ _)) hpack

theorem mismatchChecked_clocked (s : State) (c : Ch) (difference : Nat) : Clocked s (mismatchChecked s c difference) :=
  .ite _ (offer_clocked s c _ _) (setWarned_clocked s c _ false)

theorem completePack_clocked (s : State) (c : Ch) (takenL takenF : Bool) : Clocked s (completePack s c takenL takenF) := by
  rw [completePack_eq]
  exact .ite _ ((packChecked_clocked s c _).trans (mismatchChecked_clocked _ c _)) (packChecked_clocked s c _)

theorem missPeriod_clocked (s : State) (c : Ch) : Clocked s (missPeriod s c) := by
  rw [missPeriod_eq]
  have hmiss : Clocked s (s.modCh c Channel.misses) := .modCh_same s c _ fun _ => ⟨rfl, rfl, rfl, rfl⟩
  exact .ite _ (hmiss.trans (offer_clocked _ c _ _)) hmiss

theorem stageSettle_clocked (s : State) (c : Ch) (taken partnerTaken packDone : Bool) :
    Clocked s (stageSettle s c taken partnerTaken packDone) := by
  have hown : Clocked s (if taken then s else missPeriod s c) := .ite _ (.refl s) (missPeriod_clocked s c)
  refine .ite _ ?_ hown
  have hpartner := hown.trans (.ite (partnerTaken = true) (.refl _) (missPeriod_clocked _ (partner c)))
  exact .ite _ hpartner (hpartner.trans (completePack_clocked _ c _ _))

theorem integratePeriod_clocked (s : State) (c : Ch) (n : Nat) : Clocked s (integratePeriod s c n) :=
  .ite _ (.modCh_same s c _ fun ch => by rw [Channel.integrate_eq]; exact ⟨rfl, rfl, rfl, rfl⟩) (.refl s)

theorem stageTime_clocked (s : State) (c : Ch) (n : Nat) : Clocked s (stageTime s c n) :=
  .ite _ (.modCh_same s c _ fun _ => ⟨rfl, rfl, rfl, rfl⟩) (.refl s)

/-- The stages of a period event leave the periods that have just been opened. -/
theorem stages_clocked (s : State) (c : Ch) (taken counted : Bool) :
    Clocked (openedOf s c) (stagesLater (closedOf s c) c taken counted) := by
  have hsettled : Clocked (openedOf s c) (settledOf s c) := stageSettle_clocked _ c _ _ _
  have hclosed : Clocked (settledOf s c) (closedOf s c) :=
    (Clocked.ite _ (.refl _) (stageTime_clocked _ c _)).trans (integratePeriod_clocked _ c _)
  exact (hsettled.trans hclosed).trans (stagesLater_works _ c taken counted).clocked

/-- A change to a channel, and to its follower where it leads. -/
def onPorts (leads : Bool) (s : State) (c : Ch) (f : Channel → Channel) : State :=
  if leads then (s.modCh c f).modCh (partner c) f else s.modCh c f

theorem onPorts_others {leads : Bool} {d : Ch} (hd : d ≠ c) (hp : d = partner c → leads = false) (f : Channel → Channel) :
    (onPorts leads s c f).ch d = s.ch d := by
  unfold onPorts
  split
  · rename_i hl
    rw [State.ch_modCh_ne _ fun e => absurd (hl.symm.trans (hp e)) (by decide), State.ch_modCh_ne _ hd]
  · exact State.ch_modCh_ne _ hd _

theorem onPorts_ch {leads : Bool} {d : Ch} (hd : d = c ∨ leads = true ∧ d = partner c) (f : Channel → Channel) :
    (onPorts leads s c f).ch d = f (s.ch d) := by
  unfold onPorts
  rcases hd with rfl | ⟨hl, rfl⟩
  · split
    · rw [State.ch_modCh_ne _ (partner_ne d).symm, State.ch_modCh_self]
    · exact State.ch_modCh_self _ _ _
  · rw [if_pos hl, State.ch_modCh_self, State.ch_modCh_ne _ (partner_ne c)]

theorem onPorts_state {f : Channel → Channel} (hf : ∀ ch, (f ch).state = ch.state) (leads : Bool) (d : Ch) :
    ((onPorts leads s c f).ch d).state = (s.ch d).state := by
  unfold onPorts
  split
  · rw [ch_modCh_eq _ _ _ Channel.state (hf _), ch_modCh_eq _ _ _ Channel.state (hf _)]
  · exact ch_modCh_eq _ _ _ Channel.state (hf _) d

theorem openedOf_eq (s : State) (c : Ch) :
    openedOf s c = onPorts (isLeader s c) s c fun ch => ch.opens (periodInForce s c) := rfl

theorem restartPeriod_eq (s : State) (c : Ch) : restartPeriod s c =
    onPorts (isLeader s c) s c fun ch => { ch with periodLength := periodInForce s c } := by
  unfold restartPeriod portsOf onPorts
  split <;> rfl

/-- The state before a period event opens the next periods with the period in force (R51). -/
def workedOf (s : State) (c : Ch) : State :=
  stagesLater (closedOf s c) c (periodTaken s c) (isRunning (settledOf s c) c)

theorem workedOf_clocked (s : State) (c : Ch) : Clocked (openedOf s c) (workedOf s c) := stages_clocked s c _ _

theorem openedOf_state (s : State) (c d : Ch) : ((openedOf s c).ch d).state = (s.ch d).state :=
  onPorts_state (f := fun ch => ch.opens (periodInForce s c)) (fun _ => rfl) _ d

theorem workedOf_follower (s : State) (c d : Ch) :
    ((workedOf s c).ch d).state = .follower ↔ (s.ch d).state = .follower := by
  rw [(workedOf_clocked s c).follower, openedOf_state]

theorem workedOf_isLeader (s : State) (c d : Ch) : isLeader (workedOf s c) d = isLeader s d := by
  rw [Bool.eq_iff_iff, isLeader_iff, isLeader_iff, workedOf_follower]

theorem periodExpires_worked (hf : (s.ch c).state ≠ .follower) : periodExpires s c =
    onPorts (isLeader s c) (workedOf s c) c fun ch => { ch with periodLength := periodInForce (workedOf s c) c } := by
  rw [periodExpires_eq hf, ← workedOf_isLeader s c c]
  exact restartPeriod_eq _ c

/-- A period event changes no open period but those of its channel and a leader's follower. -/
theorem periodExpires_others {d : Ch} (hd : d ≠ c) (hp : d = partner c → isLeader s c = false) :
    SamePeriod (s.ch d) ((periodExpires s c).ch d) := by
  by_cases hf : (s.ch c).state = .follower
  · unfold periodExpires
    rw [if_pos ((isFollower_iff s c).2 hf)]
    exact .refl _
  · have hopened : (openedOf s c).ch d = s.ch d := onPorts_others hd hp _
    have hclock := (workedOf_clocked s c).period d
    rw [hopened] at hclock
    rw [periodExpires_worked hf, onPorts_others hd hp]
    exact hclock

end

/-! ### The events -/

section
variable {s t u : State} {c : Ch}

/-- Every open period goes on as it was. -/
def Paced (s t : State) : Prop := ∀ c, SamePeriod (s.ch c) (t.ch c)

theorem Clocked.paced (h : Clocked s t) : Paced s t := h.period

theorem Paced.refl (s : State) : Paced s s := fun _ => .refl _

theorem Paced.trans (h : Paced s t) (k : Paced t u) : Paced s u := fun c => (h c).trans (k c)

theorem Paced.ite (p : Prop) [Decidable p] (h : Paced s t) (k : Paced s u) : Paced s (if p then t else u) :=
  iteInduction (motive := Paced s) (fun _ => h) fun _ => k

theorem Paced.of_chans (h : t.chans = s.chans) : Paced s t := (Clocked.of_chans h).paced

theorem Paced.modCh (s : State) (c : Ch) (f : Channel → Channel)
    (h : ∀ ch, (f ch).periodElapsed = ch.periodElapsed ∧ (f ch).periodLength = ch.periodLength) : Paced s (s.modCh c f) := by
  intro d
  rw [State.ch_modCh]
  split
  · rename_i e; subst e; exact ⟨(h _).1, (h _).2⟩
  · exact .refl _

theorem makePresent_clocked (s : State) (c : Ch) : Clocked s (makePresent s c) := by
  have hp : Clocked s (s.modPort c Port.becomePresent) := .modPort s c _
  exact .ite _ (.refl s) (.ite _ (hp.trans (portSettled_keeps _ c).clocked) hp)

/-- A channel whose reading has been taken (R53). -/
def Channel.reads (ch : Channel) (rd : Reading) : Channel :=
  { ch with
    last := rd
    held := false
    missed := 0
    taken := true
    unsafeFlag := if rd.reg = .off then false else ch.unsafeFlag }

/-- The state once a reading has been checked and counted for presence (R53, R135, R136, R164). -/
def readOf (s : State) (c : Ch) (raw : RawReading) : State :=
  let rd := takeRaw (s.ch c).cal raw s.hall.partTime
  makePresent (stageFlags (readingChecks (s.modCh c fun ch => ch.reads rd) c rd) c rd) c

theorem takeReading_eq (s : State) (c : Ch) (raw : RawReading) : takeReading s c raw =
    let u := readOf s c raw
    let l := leaderOf u c
    if isLeader u l ∧ (u.ch l).taken ∧ (u.ch (partner l)).taken ∧ !(u.ch l).packDone then
      completePack (u.modCh l fun ch => { ch with packDone := true }) l true true
    else u := rfl

theorem readOf_paced (s : State) (c : Ch) (raw : RawReading) : Paced s (readOf s c raw) := by
  obtain ⟨rd, hrd⟩ : ∃ rd, rd = takeRaw (s.ch c).cal raw s.hall.partTime := ⟨_, rfl⟩
  have hread : Paced s (s.modCh c fun ch => ch.reads rd) := .modCh s c _ fun _ => ⟨rfl, rfl⟩
  unfold readOf
  rw [← hrd]
  exact hread.trans (((readingChecks_clocked _ c _).trans (stageFlags_clocked _ c _)).trans (makePresent_clocked _ c)).paced

theorem takeReading_paced (s : State) (c : Ch) (raw : RawReading) : Paced s (takeReading s c raw) := by
  rw [takeReading_eq]
  refine (readOf_paced s c raw).trans (.ite _ ?_ (.refl _))
  have hdone : ∀ (u : State) (l : Ch), Paced u (u.modCh l fun ch => { ch with packDone := true }) := fun u l =>
    .modCh u l _ fun _ => ⟨rfl, rfl⟩
  exact (hdone _ _).trans (completePack_clocked _ _ _ _).paced

theorem readingArrives_paced (s : State) (c : Ch) (after : Bool) (raw : RawReading) : Paced s (readingArrives s c after raw) :=
  .ite _ (Paced.trans (Clocked.modPort s c _).paced (takeReading_paced _ c raw)) (Clocked.modPort s c _).paced

theorem confirmArrives_clocked (s : State) (c : Ch) (tag : Byte) : Clocked s (confirmArrives s c tag) := by
  unfold confirmArrives
  split
  · exact .modPort s c _
  · have hp : ∀ f, Clocked s (s.modPort c f) := fun f => .modPort s c f
    exact .ite _ (.ite _ ((hp _).trans (portSettled_keeps _ c).clocked) (hp _)) (hp _)

theorem offerUnsafe_clocked (s : State) (c : Ch) (tag : BitVec 4) : Clocked s (offerUnsafe s c tag) := by
  have hflag : Clocked s (s.modCh c fun ch => { ch with unsafeFlag := true }) := .modCh_same s c _ fun _ => ⟨rfl, rfl, rfl, rfl⟩
  exact hflag.trans (offer_clocked _ c _ _)

theorem confirmationExpires_clocked (s : State) (c : Ch) : Clocked s (confirmationExpires s c) := by
  unfold confirmationExpires
  split
  · have hstop : Clocked s (s.modPort c fun p => { p with confTimer := none }) := .modPort s c _
    have hoffer := fun n => hstop.trans (offer_clocked _ c .stageNoAck n)
    exact ((hoffer _).trans (.ite _ (offerUnsafe_clocked _ c _) (.refl _))).trans (.modPort _ c _)
  · exact .refl s

theorem waitTimerExpires_clocked (s : State) (c : Ch) : Clocked s (waitTimerExpires s c) := by
  unfold waitTimerExpires
  split
  · split
    · exact .of_chans rfl
    · exact offer_clocked s c _ _
  · exact .refl s

theorem appendAll_clocked (l : List PauseEntry) (s : State) : Clocked s (appendAll s l) := by
  induction l generalizing s with
  | nil => exact .refl s
  | cons e l ih => exact (appendResume_keeps s _ _ _).clocked.trans (ih _)

theorem unpauseAll_clocked (l : List Ch) (s : State) : Clocked s (unpauseAll s l) := by
  induction l generalizing s with
  | nil => exact .refl s
  | cons c l ih => exact (removeCauses_keeps s c _).clocked.trans (ih _)

theorem wakeHall_clocked (s : State) (cause : HallCause) : Clocked s (wakeHall s cause) := by
  have hhall : ∀ f, Clocked s (s.modHall f) := fun _ => .of_chans rfl
  exact ((((hhall _).trans (appendAll_clocked _ _)).trans (unpauseAll_clocked _ _)).trans (settleEvaluating_keeps _).clocked).trans
    (reportPart_keeps _ _).clocked

theorem curtailChanges_clocked (s : State) : Clocked s (curtailChanges s) := by
  have hhall : ∀ f, Clocked s (s.modHall f) := fun _ => .of_chans rfl
  unfold curtailChanges
  exact (((hhall _).trans (reportPart_keeps _ _).clocked).trans (.ite _ (settleEvaluating_keeps _).clocked
    (.ite _ (settle_keeps _).clocked (.refl _)))).trans (.ite _ (wakeHall_clocked _ _) (.refl _))

theorem curtailFollows_clocked (s : State) : Clocked s (curtailFollows s) :=
  .ite _ (.of_chans rfl) (.ite _ (curtailChanges_clocked s) (.of_chans rfl))

theorem wakeTimerExpires_clocked (s : State) : Clocked s (wakeTimerExpires s) := by
  have hhall : ∀ f, Clocked s (s.modHall f) := fun _ => .of_chans rfl
  exact .ite _ (.refl s) (.ite _ ((hhall _).trans (wakeHall_clocked _ _)) (hhall _))

theorem alarmRawChange_clocked (s : State) (line : LineNo) (level : Bool) : Clocked s (alarmRawChange s line level) := by
  have hline : ∀ f, Clocked s (s.modLine line f) := fun _ => .of_chans rfl
  exact .ite _ (.refl s) (.ite _ ((hline _).trans (offerAlarm_keeps line _ allCh _).clocked) (hline _))

theorem alarmDebounceExpires_clocked (s : State) (line : LineNo) : Clocked s (alarmDebounceExpires s line) := by
  by_cases h : (s.line line).timer = none
  · rw [alarmDebounceExpires, if_pos (by rw [h]; rfl)]
    exact .refl s
  · rw [alarmDebounceExpires_eq h]
    have hline : Clocked s (debounced s line) := .of_chans rfl
    exact (hline.trans (alarmTold_keeps s line).clocked).trans (followCover_keeps _ _ _).clocked

theorem gapTimerExpires_clocked (s : State) (c : Ch) : Clocked s (gapTimerExpires s c) := by
  unfold gapTimerExpires
  split
  · rename_i h
    have hgap := gapExpires_keeps s c (by rw [h.1]; decide)
    exact .ite _ (hgap.trans (settle_keeps _)).clocked hgap.clocked
  · exact .refl s

theorem grantHoldExpires_clocked (s : State) (c : Ch) : Clocked s (grantHoldExpires s c) := by
  unfold grantHoldExpires
  split
  · exact .refl s
  · exact .ite _ ((releaseGrant_keeps s c).trans (settle_keeps _)).clocked (.refl s)

theorem startTimerExpires_paced (s : State) (c : Ch) : Paced s (startTimerExpires s c) := by
  have hstop : Paced s (s.modCh c fun ch => { ch with startTimer := none }) := .modCh s c _ fun _ => ⟨rfl, rfl⟩
  exact .ite _ (hstop.trans (offer_clocked _ c _ _).paced) (.refl s)

theorem underrunExpires_paced (s : State) (c : Ch) : Paced s (underrunExpires s c) := by
  have hstop : Paced s (s.modCh c fun ch => { ch with play := { ch.play with underrunTimer := none } }) :=
    .modCh s c _ fun _ => ⟨rfl, rfl⟩
  exact .ite _ (hstop.trans (offer_clocked _ c _ _).paced) (.refl s)

theorem hallStopAsserts_paced (s : State) : Paced s (hallStopAsserts s) := by
  have hlevel : Paced s (s.modProt fun p => { p with hallStop := true }) := .of_chans rfl
  exact .ite _ (.refl s) (hlevel.trans (hallStopActs_keeps _).clocked.paced)

theorem hallStopDeasserts_paced (s : State) : Paced s (hallStopDeasserts s) := by
  have hlevel : Paced s (s.modProt fun p => { p with hallStop := false }) := .of_chans rfl
  exact .ite _ (hlevel.trans (reportPart_keeps _ _).clocked.paced) (.refl s)

theorem curtailRawChange_paced (s : State) (level : Bool) : Paced s (curtailRawChange s level) := by
  have hhall : Paced s (s.modHall fun h => { h with curtRaw := level }) := .of_chans rfl
  exact .ite _ (.refl s) (hhall.trans (curtailFollows_clocked _).paced)

/-- An event of the hall or of another channel leaves a channel's open period, where it is not a leader's for its follower. -/
theorem eventAct_paced {i : Instr} {f : State → State} (hf : eventAct i = some f) (hc : (s.ch c).state ≠ .follower)
    (hi : i ≠ .periodEvent c) : SamePeriod (s.ch c) ((f s).ch c) := by
  have hmod : ∀ (d : Ch) (g : Channel → Channel), (∀ ch, (g ch).periodElapsed = ch.periodElapsed ∧
      (g ch).periodLength = ch.periodLength) → SamePeriod (s.ch c) ((s.modCh d g).ch c) := fun d g h => Paced.modCh s d g h c
  cases i with
  | lineBreakEnd d => cases hf; exact Paced.ite _ (Clocked.modPort s d _).paced (.refl s) c
  | stageFrameWhollySent d => cases hf; exact hmod d _ fun _ => ⟨rfl, rfl⟩
  | confirm d tag => cases hf; exact (confirmArrives_clocked s d tag).period c
  | reading d after raw => cases hf; exact readingArrives_paced s d after raw c
  | stageBadFrame d _ => cases hf; exact (Clocked.modPort s d _).period c
  | stageByteGapTimeout d => cases hf; exact (Clocked.modPort s d _).period c
  | confirmationTimerExpiry d => cases hf; exact (confirmationExpires_clocked s d).period c
  | periodEvent d =>
    cases hf
    refine periodExpires_others (fun e => hi (by rw [e])) fun e => ?_
    cases hl : isLeader s d with
    | false => rfl
    | true => exact absurd (e ▸ ((isLeader_iff s d).1 hl).2) hc
  | gapTimerExpiry d => cases hf; exact (gapTimerExpires_clocked s d).period c
  | startTimerExpiry d => cases hf; exact startTimerExpires_paced s d c
  | grantHoldExpiry d => cases hf; exact (grantHoldExpires_clocked s d).period c
  | waitTimerExpiry d => cases hf; exact (waitTimerExpires_clocked s d).period c
  | underrunTimerExpiry d => cases hf; exact underrunExpires_paced s d c
  | hallStopAssert => cases hf; exact hallStopAsserts_paced s c
  | hallStopDeassert => cases hf; exact hallStopDeasserts_paced s c
  | chamberAlarmLineChange line level => cases hf; exact (alarmRawChange_clocked s line level).period c
  | alarmDebounceExpiry line => cases hf; exact (alarmDebounceExpires_clocked s line).period c
  | curtailmentLineChange level => cases hf; exact curtailRawChange_paced s level c
  | curtailDebounceExpiry => cases hf; exact Paced.ite _ (.refl s) (curtailChanges_clocked s).paced c
  | wakeTimerExpiry => cases hf; exact (wakeTimerExpires_clocked s).period c
  | _ => cases hf

/-! ### The requests -/

theorem takePart_paced {k : ReqKind} {r : Request} {f : State → State × ReplyBody} (h : Paced s (f s).1) :
    Paced s (takePart k r s f).1 := takePart_ind (P := Paced s) k r s f (.refl s) h

theorem takeCh_paced {k : ReqKind} {r : Request} {f : Ch → State → State × ReplyBody} (h : ∀ c, Paced s (f c s).1) :
    Paced s (takeCh k r s f).1 := takeCh_ind (P := Paced s) k r s f (.refl s) h

theorem pauseHall_paced (s : State) : Paced s (pauseHall s) := by
  have horder : Paced s (s.modHall fun h => { h with pauseOrder := pauseOrderOf s }) := .of_chans rfl
  unfold pauseHall
  exact horder.trans ((((((emptyCollections_keeps _).trans (enterHall_keeps _ _ _ _ _)).trans (pauseAll_keeps _ _)).trans
    (settle_keeps _)).trans (settlingTest_keeps _)).clocked.paced)

theorem startBegin_paced (h : (s.ch c).state ≠ .follower) : Paced s (startBegin s c) := by
  have hrun : Paced s (s.modCh c Channel.beginRun) := .modCh s c _ fun _ => ⟨rfl, rfl⟩
  exact hrun.trans ((takeUp_keeps (s.modCh c Channel.beginRun) c 0 (by rw [State.ch_modCh_self]; exact h)).trans
    (settle_keeps _)).clocked.paced

theorem startResume_paced (p : ResumePoint) (h : (s.ch c).state ≠ .follower) : Paced s (startResume s c p) := by
  have hrun : Clocked s (s.modCh c fun ch => ch.restore p) := .modCh_same s c _ fun _ => ⟨rfl, rfl, rfl, rfl⟩
  have hplay : ∀ (u : State) (x : StepRecord), Clocked u (u.modCh c fun ch => setUpPlayback ch x) := fun u x =>
    .modCh_same u c _ fun ch => ⟨rfl, rfl, rfl, rfl⟩
  unfold startResume
  dsimp only
  obtain ⟨u, hu⟩ : ∃ u, u = s.modCh c fun ch => ch.restore p := ⟨_, rfl⟩
  rw [← hu] at hrun ⊢
  have hset : Clocked s (match currentStep u c with
      | some r => if r.kind = .profile then u.modCh c fun ch => setUpPlayback ch r else u
      | none => u) := by
    split
    · exact hrun.trans (.ite _ (hplay u _) (.refl u))
    · exact hrun
  refine hset.paced.trans ((beginResumed_keeps _ c ?_).trans (settle_keeps _)).clocked.paced
  exact fun e => h ((hset.follower c).1 e)

theorem stopChannel_paced (h : (s.ch c).state ≠ .follower) : Paced s (stopChannel s c) := by
  have hleave : Clocked s (withdrawEntries (releaseGrant s c) c) := ((releaseGrant_keeps s c).trans (withdrawEntries_keeps _ c)).clocked
  have hstop := hleave.trans (.modCh_same _ c (fun ch => { ch.stopTimers with holds := HoldCauses.empty, heldBefore := false })
    fun _ => ⟨rfl, rfl, rfl, rfl⟩)
  exact hstop.paced.trans ((enterStopping_keeps _ c _ _ fun e => h ((hstop.follower c).1 e)).trans (settle_keeps _)).clocked.paced

theorem enterStopping_paced (s : State) (c : Ch) (dest : StopDest) (absentCounts : Bool) :
    Paced s (enterStopping s c dest absentCounts) := by
  have henter : Paced s (s.modCh c fun ch => { ch with state := .stopping, stopDest := dest }) := .modCh s c _ fun _ => ⟨rfl, rfl⟩
  have hissued := henter.trans (issue_keeps _ c).clocked.paced
  exact .ite _ (hissued.trans (.modCh _ c _ fun _ => ⟨rfl, rfl⟩)) hissued

theorem reoffer_clocked (s : State) (c : Ch) : Clocked s (reoffer s c) := by
  have hcount : Clocked s { s with freeCount := s.freeCount + 1 } := .of_chans rfl
  have hunsafe : Clocked s (if (s.ch c).unsafeFlag then offerUnsafe { s with freeCount := s.freeCount + 1 } c (reofferTag s c)
      else s) := .ite _ (hcount.trans (offerUnsafe_clocked _ c _)) (.refl s)
  have hline : ∀ u : State, Clocked u (match directLine u c with
      | some line => offer u c .chamberAlarm line.val
      | none => u) := fun u => by
    split
    · exact offer_clocked _ c _ _
    · exact .refl u
  unfold reoffer
  exact (hunsafe.trans (hline _)).trans (.ite _ (offer_clocked _ c _ _) (.refl _))

theorem resetChannel_paced (s : State) (c : Ch) : Paced s (resetChannel s c) := by
  have hleave : Paced s (withdrawEntries (releaseGrant s c) c) :=
    ((releaseGrant_keeps s c).trans (withdrawEntries_keeps _ c)).clocked.paced
  have hclear : ∀ u : State, Paced u (if isLeader u c then u.modCh (partner c) Channel.clearFollower else u) := fun u =>
    .ite _ (.modCh u _ _ fun _ => ⟨rfl, rfl⟩) (.refl u)
  have hrun : ∀ u : State, Paced u (u.modCh c Channel.clearRun) := fun u => .modCh u c _ fun _ => ⟨rfl, rfl⟩
  have hfold : ∀ (l : List Ch) (u : State), Paced u (l.foldl reoffer u) := fun l => by
    induction l with
    | nil => exact fun u => .refl u
    | cons d l ih => exact fun u => (reoffer_clocked u d).paced.trans (ih _)
  unfold resetChannel
  exact ((((hleave.trans (hclear _)).trans (hrun _)).trans (enterStopping_paced _ c _ _)).trans
    (settle_keeps _).clocked.paced).trans (hfold _ _)

theorem setSettings_paced (s : State) (c : Ch) (x : ChanSettings) : Paced s (setSettings s c x) := by
  have hset : Paced s (s.modCh c fun ch => ch.takeSettings x) := .modCh s c _ fun _ => ⟨rfl, rfl⟩
  exact .ite _ (hset.trans (resetPointers_keeps _).clocked.paced) hset

theorem clearKinds_paced (s : State) (c : Ch) (cleared : BitVec 16) : Paced s (clearKinds s c cleared) := by
  have hclear : ∀ f : Channel → Channel, (∀ ch, (f ch).periodElapsed = ch.periodElapsed ∧ (f ch).periodLength = ch.periodLength) →
      Paced s (s.modCh c f) := fun f h => .modCh s c f h
  have hdrop : ∀ u : State, Paced u (u.modCh (partner c) dropPartner) := fun u => .modCh u _ _ fun _ => ⟨rfl, rfl⟩
  unfold clearKinds
  dsimp only
  split
  · refine Paced.trans ?_ (hdrop _)
    exact hclear _ fun _ => ⟨rfl, rfl⟩
  · exact hclear _ fun _ => ⟨rfl, rfl⟩

theorem takeSetAlarmRoute_paced (r : Request) (s : State) : Paced s (takeSetAlarmRoute r s).1 := by
  refine takePart_paced ?_
  dsimp only
  have hline : ∀ line f, Paced s (s.modLine line f) := fun _ _ => .of_chans rfl
  split
  · split
    · exact .refl s
    · exact Paced.trans (Paced.trans (hline _ _) (.ite _ (followCover_keeps _ _ _).clocked.paced (.refl _)))
        (.ite _ (offerAlarm_keeps _ _ _ _).clocked.paced (.refl _))
  · exact .refl s

theorem takeStart_paced (r : Request) (s : State) : Paced s (takeStart r s).1 := by
  refine takeCh_paced fun c => ?_
  dsimp only
  split
  · exact .refl s
  rename_i hcheck
  split
  · exact .refl s
  split
  · exact .refl s
  obtain ⟨hfollower, -⟩ := startRefusal_none hcheck
  dsimp only
  split
  · exact (startResume_paced _ hfollower).trans (coverStarted_keeps _ c).clocked.paced
  · exact (startBegin_paced hfollower).trans (coverStarted_keeps _ c).clocked.paced

/-- A request other than SET_PAIR and UNPAIR leaves every open period. -/
theorem takeKind_paced (k : ReqKind) (r : Request) (s : State) (hk : k ≠ .setPair) (hu : k ≠ .unpair) :
    Paced s (takeKind k r s).1 := by
  have hstill : ∀ t : State, t.chans = s.chans → Paced s t := fun t h => .of_chans h
  have hsame : ∀ (c : Ch) (f : Channel → Channel), (∀ ch, (f ch).periodElapsed = ch.periodElapsed ∧
      (f ch).periodLength = ch.periodLength) → Paced s (s.modCh c f) := fun c f h => .modCh s c f h
  cases k <;> unfold takeKind <;> dsimp only
  case identify => exact takePart_paced (.refl s)
  case getStatus =>
    refine takePart_paced ?_
    dsimp only
    split
    · exact hstill _ rfl
    · exact .refl s
  case getBudget => exact takePart_paced (.refl s)
  case setBudget =>
    have harb : ∀ f, Paced s (s.modArb f) := fun _ => hstill _ rfl
    exact takePart_paced ((harb _).trans (settleEvaluating_keeps _).clocked.paced)
  case setAlarmRoute => exact takeSetAlarmRoute_paced r s
  case pauseHall =>
    refine takePart_paced ?_
    dsimp only
    split
    · exact pauseHall_paced s
    · exact .refl s
  case resumeHall =>
    refine takePart_paced ?_
    dsimp only
    split
    · exact .refl s
    · exact (wakeHall_clocked s _).paced
  case setWake => exact takePart_paced (hstill _ rfl)
  case holdReports => exact takePart_paced (hstill _ rfl)
  case saveSettings =>
    refine takePart_paced ?_
    dsimp only
    repeat' split
    · exact .refl s
    · exact .refl s
    all_goals exact hstill _ rfl
  case resetPart => exact takePart_paced (hstill _ rfl)
  case writeSteps =>
    refine takePart_paced ?_
    dsimp only
    repeat' split
    · exact .refl s
    · exact .refl s
    · exact .refl s
    · exact hstill _ rfl
  case readSteps =>
    refine takePart_paced ?_
    dsimp only
    split <;> exact .refl s
  case setWindow =>
    refine takeCh_paced fun c => ?_
    dsimp only
    repeat' split
    all_goals first | exact .refl s | (dsimp only; exact hsame c _ fun _ => ⟨rfl, rfl⟩)
  case getChannel =>
    refine takeCh_paced fun c => ?_
    split <;> exact .refl s
  case setChannel =>
    refine takeCh_paced fun c => ?_
    dsimp only
    repeat' split
    · exact .refl s
    · exact .refl s
    · exact .refl s
    · exact setSettings_paced s c _
  case setCalibration =>
    refine takeCh_paced fun c => ?_
    dsimp only
    exact hsame c _ fun _ => ⟨rfl, rfl⟩
  case start => exact takeStart_paced r s
  case stop =>
    refine takeCh_paced fun c => ?_
    split
    · exact .refl s
    · exact .refl s
    · exact .refl s
    · exact .refl s
    · exact .refl s
    · rename_i hfollower _ _ _ _
      exact stopChannel_paced hfollower
  case hold =>
    refine takeCh_paced fun c => ?_
    split
    · exact .refl s
    · exact Paced.ite _ (.refl s) (holdChannel_keeps s c .host).clocked.paced
  case release =>
    refine takeCh_paced fun c => ?_
    split
    · exact .refl s
    · exact (unholdChannel_keeps s c _).clocked.paced
  case swap =>
    refine takeCh_paced fun c => ?_
    dsimp only
    repeat' split
    all_goals first | exact .refl s | (dsimp only; exact hsame c _ fun _ => ⟨rfl, rfl⟩)
  case cancelSwap =>
    refine takeCh_paced fun c => ?_
    split
    · exact .refl s
    · dsimp only
      exact hsame c _ fun _ => ⟨rfl, rfl⟩
  case profileAppend =>
    have happend : ∀ (c : Ch) points, Paced s (s.modCh c fun ch => ch.append points) := fun c points =>
      hsame c _ fun ch => by unfold Channel.append; split <;> exact ⟨rfl, rfl⟩
    refine takeCh_paced fun c => ?_
    dsimp only
    repeat' split
    · exact .refl s
    · exact .refl s
    · exact .refl s
    · exact happend c _
    · exact happend c _
  case profileFlush =>
    refine takeCh_paced fun c => ?_
    dsimp only
    repeat' split
    · exact .refl s
    · exact .refl s
    · dsimp only
      exact hsame c _ fun _ => ⟨rfl, rfl⟩
  case clearFaults => exact takeCh_paced fun c => clearKinds_paced s c _
  case readAccounts => exact takeCh_paced fun c => .refl s
  case clearLifetime =>
    refine takeCh_paced fun c => ?_
    repeat' split
    · exact .refl s
    · exact .refl s
    · dsimp only
      exact hsame c _ fun _ => ⟨rfl, rfl⟩
  case setPair => exact absurd rfl hk
  case unpair => exact absurd rfl hu
  case resetChannel => exact takeCh_paced fun c => resetChannel_paced s _
  case resetStageLine =>
    refine takeCh_paced fun c => ?_
    dsimp only
    split
    · exact .refl s
    · refine Paced.trans ?_ (settlingTest_keeps _).clocked.paced
      exact hsame c _ fun _ => ⟨rfl, rfl⟩

/-- A request leaves the open period of a channel outside FOLLOWER before and after it. -/
theorem takeKind_samePeriod (k : ReqKind) (r : Request) (hs : (s.ch c).state ≠ .follower)
    (ht : ((takeKind k r s).1.ch c).state ≠ .follower) : SamePeriod (s.ch c) ((takeKind k r s).1.ch c) := by
  by_cases hk : k = .setPair
  · subst hk
    revert ht
    unfold takeKind takeSetPair
    refine takeCh_ind (P := fun t => (t.ch c).state ≠ .follower → SamePeriod (s.ch c) (t.ch c)) _ _ _ _ (fun _ => .refl _) fun d => ?_
    dsimp only
    refine iteInduction (motive := fun x : State × ReplyBody => (x.1.ch c).state ≠ .follower → SamePeriod (s.ch c) (x.1.ch c))
      (fun _ _ => .refl _) fun _ => iteInduction (motive := fun x : State × ReplyBody => (x.1.ch c).state ≠ .follower →
        SamePeriod (s.ch c) (x.1.ch c)) (fun _ _ => .refl _) fun _ _ => ?_
    have hpaced : Paced s (formPair s (evenMember d)) := by
      have hfirst : Paced s (s.modCh (evenMember d) fun ch => { ch with resume := none, packDone := false }) :=
        .modCh s _ _ fun _ => ⟨rfl, rfl⟩
      exact hfirst.trans (.modCh _ _ _ fun _ => ⟨rfl, rfl⟩)
    exact hpaced c
  · by_cases hu : k = .unpair
    · subst hu
      revert ht
      unfold takeKind takeUnpair
      refine takeCh_ind (P := fun t => (t.ch c).state ≠ .follower → SamePeriod (s.ch c) (t.ch c)) _ _ _ _ (fun _ => .refl _) fun d => ?_
      dsimp only
      split
      · exact fun _ => .refl _
      · rename_i hlead
        refine iteInduction (motive := fun x : State × ReplyBody => (x.1.ch c).state ≠ .follower →
          SamePeriod (s.ch c) (x.1.ch c)) (fun _ _ => .refl _) fun _ _ => ?_
        have hfollower := ((isLeader_iff s (evenMember d)).1 (by simpa using hlead)).2
        have hne : c ≠ partner (evenMember d) := fun e => hs (by rw [e]; exact hfollower)
        have hfirst : Paced s (s.modCh (evenMember d) fun ch => { ch with resume := none }) := .modCh s _ _ fun _ => ⟨rfl, rfl⟩
        have hsame : (partPair s (evenMember d)).ch c = (s.modCh (evenMember d) fun ch => { ch with resume := none }).ch c := by
          unfold partPair openPeriod
          rw [State.ch_modCh_ne _ hne, State.ch_modCh_ne _ hne]
        rw [hsame]
        exact hfirst c
    · exact takeKind_paced k r s hk hu c

/-! ### The open periods at the end of an event (R51) -/

theorem bringForward_others {d : Ch} (h : c ≠ d) (before after : State) : (bringForward before after d).ch c = after.ch c := by
  unfold bringForward
  split
  · rfl
  · split
    · exact State.ch_modCh_ne _ h _
    · rfl

theorem PeriodKeeps.inForce (h : PeriodKeeps s t) (c : Ch) : periodInForce t c = periodInForce s c := by
  unfold periodInForce
  rw [h.chans c, h.hall]

theorem bringForward_congr (before : State) {after u : State} (h : u.ch c = after.ch c)
    (hp : periodInForce u c = periodInForce after c) : (bringForward before u c).ch c = (bringForward before after c).ch c := by
  have hf : isFollower u c = isFollower after c := by unfold isFollower; rw [h]
  unfold bringForward
  rw [hf, hp]
  split
  · exact h
  · split
    · rw [State.ch_modCh_self, State.ch_modCh_self, h]
    · exact h

theorem bringForwardAll_ch (before : State) (l : List Ch) (hl : l.Nodup) (after : State) (hc : c ∈ l) :
    (bringForwardAll before after l).ch c = (bringForward before after c).ch c := by
  have hout : ∀ (l : List Ch) (u : State), c ∉ l → (bringForwardAll before u l).ch c = u.ch c := fun l => by
    induction l with
    | nil => exact fun _ _ => rfl
    | cons d l ih =>
      exact fun u h => (ih _ (List.not_mem_of_not_mem_cons h)).trans (bringForward_others (List.ne_of_not_mem_cons h) _ _)
  induction l generalizing after with
  | nil => cases hc
  | cons d l ih =>
    obtain ⟨hd, hl⟩ := List.nodup_cons.1 hl
    by_cases e : c = d
    · subst e
      exact hout l _ hd
    · exact (ih hl _ ((List.mem_cons.1 hc).resolve_left e)).trans
        (bringForward_congr before (bringForward_others e _ _) ((bringForward_period before after d).inForce c))

/-- An open period at the end of an event. -/
theorem finish_ch (hs : s.part = .ready) (ht : t.part = .ready) (c : Ch) :
    (finish s t).ch c = (bringForward s t c).ch c ∧ periodInForce (finish s t) c = periodInForce t c := by
  unfold finish
  rw [if_pos ⟨hs, ht⟩]
  have hperiod := bringForwardAll_period s t allCh
  refine ⟨(pump_ch _ c).trans (bringForwardAll_ch s allCh (by decide) t (mem_allCh c)), ?_⟩
  rw [← hperiod.inForce c]
  unfold periodInForce
  rw [pump_ch, pump_eq]

theorem bringForward_plain (hs : (s.ch c).state ≠ .follower) (ht : (t.ch c).state ≠ .follower) :
    ((bringForward s t c).ch c).periodElapsed = (t.ch c).periodElapsed ∧
      ((bringForward s t c).ch c).taken = (t.ch c).taken ∧
      ((bringForward s t c).ch c).periodLength = if periodInForce t c < periodInForce s c then
        min (t.ch c).periodLength ((t.ch c).periodElapsed + periodInForce t c) else (t.ch c).periodLength := by
  unfold bringForward
  rw [isFollower_false hs, isFollower_false ht, Bool.or_self, if_neg Bool.false_ne_true]
  split
  · rw [State.ch_modCh_self]
    exact ⟨rfl, rfl, rfl⟩
  · exact ⟨rfl, rfl, rfl⟩

theorem periodInForce_eq (s : State) (c : Ch) : periodInForce s c =
    if (s.ch c).state ∈ [.gap, .deferred, .starting, .running, .held, .stopping] ∧ s.hall.state ≠ .paused then
      10 * 2 ^ (s.ch c).settings.periodExp
    else 1000 := by
  unfold periodInForce
  exact if_congr (and_congr_left fun _ => by cases (s.ch c).state <;> decide) rfl rfl

end

/-- The law of R51, whatever the command. -/
theorem exec_brings_forward {i : Instr} {s t : State} {c : Ch} (hi : exec i s = .next t) (hp : s.part = .ready)
    (htp : t.part = .ready) (hs : (s.ch c).state ≠ .follower) (ht : (t.ch c).state ≠ .follower) (hc : i ≠ .periodEvent c) :
    (t.ch c).periodElapsed = (s.ch c).periodElapsed ∧ (t.ch c).periodLength =
      if periodInForce t c < periodInForce s c then min (s.ch c).periodLength ((s.ch c).periodElapsed + periodInForce t c)
      else (s.ch c).periodLength := by
  have hsame : ∀ u : State, u.chans = s.chans → u.hall.state = s.hall.state →
      (u.ch c).periodElapsed = (s.ch c).periodElapsed ∧ (u.ch c).periodLength =
        if periodInForce u c < periodInForce s c then min (s.ch c).periodLength ((s.ch c).periodElapsed + periodInForce u c)
        else (s.ch c).periodLength := fun u hch hh => by
    have hu : u.ch c = s.ch c := by rw [State.ch, State.ch, hch]
    have hforce : periodInForce u c = periodInForce s c := by unfold periodInForce; rw [hu, hh]
    rw [hu, hforce, if_neg (Nat.lt_irrefl _)]
    exact ⟨rfl, rfl⟩
  have hfinish : ∀ u : State, t = finish s u → u.part = .ready → ((u.ch c).state ≠ .follower → SamePeriod (s.ch c) (u.ch c)) →
      (t.ch c).periodElapsed = (s.ch c).periodElapsed ∧ (t.ch c).periodLength =
        if periodInForce t c < periodInForce s c then min (s.ch c).periodLength ((s.ch c).periodElapsed + periodInForce t c)
        else (s.ch c).periodLength := fun u hu hup hkeep => by
    have hends : Ends u t := hu ▸ finish_ends s u
    have hfollow : (u.ch c).state ≠ .follower := by rw [← hends.get c Channel.state]; exact ht
    obtain ⟨hch, hforce⟩ := finish_ch (s := s) (t := u) hp hup c
    obtain ⟨helapsed, -, hlength⟩ := bringForward_plain hs hfollow
    have hperiod := hkeep hfollow
    rw [← hu] at hch hforce
    rw [hch, hforce, helapsed, hlength, hperiod.elapsed, hperiod.length]
    exact ⟨rfl, rfl⟩
  cases happens_of_exec hi with
  | link l => exact hsame _ rfl rfl
  | event f hf hp =>
    exact hfinish _ rfl ((finish_ends s (f s)).part.symm.trans htp) fun _ => eventAct_paced hf hs hc
  | request g k l reply hp hk hg =>
    refine hfinish _ rfl ((finish_ends s _).part.symm.trans htp) fun h => ?_
    exact takeKind_samePeriod (s := { s with link := l }) k (Frame.request g) hs h
  | hallStopLevel hn x => exact absurd hp hn
  | alarmLevel hn line x => exact absurd hp hn
  | curtailLevel hn x => exact absurd hp hn
  | saved image l => exact hsame _ rfl rfl
  | startUp u cause => cases htp
  | startUpEnd hn => rw [hp] at hn; cases hn
  | halt l => cases htp
  | off => cases htp

/-- What a PERIOD_EVENT opens, on the channel and on a leader's follower (R51). -/
theorem periodEvent_opens {s : State} {c : Ch} (hp : s.part = .ready) (hs : (s.ch c).state ≠ .follower) :
    ∃ t, exec (.periodEvent c) s = .next t ∧ ∀ d, d = c ∨ isLeader s c = true ∧ d = partner c →
      (t.ch d).periodElapsed = 0 ∧ (t.ch d).taken = false ∧ (t.ch d).periodLength = periodInForce t c := by
  obtain ⟨u, hu⟩ : ∃ u, u = workedOf s c := ⟨_, rfl⟩
  have hclock : Clocked (openedOf s c) u := hu ▸ workedOf_clocked s c
  obtain ⟨v, hv⟩ : ∃ v, v = periodExpires s c := ⟨_, rfl⟩
  have hrestart : v = onPorts (isLeader s c) u c fun ch => { ch with periodLength := periodInForce u c } := by
    rw [hv, hu]; exact periodExpires_worked hs
  have hstate : ∀ d, (v.ch d).state = (u.ch d).state := fun d => by
    rw [hrestart]
    exact onPorts_state (f := fun ch => { ch with periodLength := periodInForce u c }) (fun _ => rfl) _ d
  have hfollower : ∀ d, (v.ch d).state = .follower ↔ (s.ch d).state = .follower := fun d => by
    rw [hstate, hu]; exact workedOf_follower s c d
  have hopen : ∀ d, d = c ∨ isLeader s c = true ∧ d = partner c →
      (v.ch d).periodElapsed = 0 ∧ (v.ch d).taken = false ∧ (v.ch d).periodLength = periodInForce v c := fun d hd => by
    have hopened : (openedOf s c).ch d = (s.ch d).opens (periodInForce s c) := onPorts_ch hd _
    have hch : ∀ e, e = c ∨ isLeader s c = true ∧ e = partner c →
        v.ch e = { u.ch e with periodLength := periodInForce u c } := fun e he => by rw [hrestart]; exact onPorts_ch he _
    have hforce : periodInForce v c = periodInForce u c := by
      have hhall : v.hall = u.hall := by
        rw [hrestart]
        exact iteInduction (motive := fun t : State => t.hall = u.hall) (fun _ => rfl) fun _ => rfl
      unfold periodInForce
      rw [hhall, hch c (.inl rfl)]
    rw [hforce, hch d hd]
    refine ⟨(hclock.period d).elapsed.trans ?_, (hclock.taken d).trans ?_, rfl⟩ <;> rw [hopened]
    · rfl
    · rfl
  have hready : v.part = .ready := by rw [hv, (periodExpires_faults s c).part]; exact hp
  obtain ⟨t, ht⟩ : ∃ t, t = finish s v := ⟨_, rfl⟩
  refine ⟨t, next_congr ((if_pos hp).trans ?_), fun d hd => ?_⟩
  · rw [ht, hv]
  · obtain ⟨hch, -⟩ := finish_ch (s := s) hp hready d
    obtain ⟨-, hforce⟩ := finish_ch (s := s) hp hready c
    rw [← ht] at hch hforce
    obtain ⟨h0, h1, h2⟩ := hopen d hd
    by_cases hf : (s.ch d).state = .follower
    · have hsame : (bringForward s v d).ch d = v.ch d := by
        unfold bringForward
        rw [if_pos (by rw [(isFollower_iff s d).2 hf, Bool.or_true])]
      rw [hch, hsame, hforce]
      exact ⟨h0, h1, h2⟩
    · have hdc : d = c := hd.resolve_right fun ⟨hl, e⟩ => hf (by rw [e]; exact ((isLeader_iff s c).1 hl).2)
      subst hdc
      obtain ⟨b0, b1, b2⟩ := bringForward_plain (t := v) hf fun e => hf ((hfollower d).1 e)
      rw [hch, b0, b1, b2, hforce, h0, h1, h2]
      refine ⟨rfl, rfl, ?_⟩
      rw [Nat.zero_add, Nat.min_self, ite_self]

end Sys2Proof.Machine

namespace Sys2Proof.Safety
open Sys2Proof.Machine

/-- Settles O37. -/
theorem periodInForce : Obligations.PeriodInForce := by
  unfold Obligations.PeriodInForce
  intro inForce
  have hforce : ∀ s c, Machine.periodInForce s c = inForce s c := periodInForce_eq
  refine ⟨?_, fun s c hp hs => ?_⟩
  · intro i s t c hi hp htp hs ht hc a
    rw [← hforce, ← hforce]
    exact exec_brings_forward hi hp htp hs ht hc
  · obtain ⟨t, ht, hopen⟩ := periodEvent_opens hp hs
    obtain ⟨h0, h1, h2⟩ := hopen c (.inl rfl)
    rw [hforce] at h2
    refine ⟨t, ht, h0, h1, h2, fun hl => ?_⟩
    obtain ⟨k0, k1, k2⟩ := hopen (partner c) (.inr ⟨hl, rfl⟩)
    rw [hforce] at k2
    exact ⟨k0, k1, k2⟩

end Sys2Proof.Safety
end

section
/-! PROOF. A kind that latches, exactly: the channel that latches it, its partner, and the arbiter's handling after it
(R42, R131, R138). -/
namespace Sys2Proof.Machine
open Sys2Proof.Safety

section
variable {s t u : State} {c d l : Ch}

/-! ### The arbiter leaves a channel at rest -/

/-- Neither a channel nor, for a follower, its leader has a grant or an entry to act on. -/
structure AtRest (s : State) (c : Ch) : Prop where
  own  : (s.ch c).state.holdable = false
  lead : ∀ d, isLeader s d = true → c = partner d → (s.ch d).state.holdable = false

theorem AtRest.runs (h : AtRest s c) (k : Runs s t) : AtRest t c := by
  refine ⟨(k.chans c).holdable.trans h.own, fun d hd e => (k.chans d).holdable.trans (h.lead d ?_ e)⟩
  rw [← k.keeps.isLeader]
  exact hd

theorem addCause_rests (h : (s.ch d).state.holdable = false) (cause : HoldCause) : addCause s d cause = s := by
  unfold addCause
  split
  all_goals first
    | rfl
    | (rename_i e; rw [e] at h; cases h)

theorem handOver_rests (h : (s.ch d).state.holdable = false) : handOver s d = s := by
  unfold handOver
  split
  · rfl
  · split
    all_goals first
      | rfl
      | (rename_i e; rw [e] at h; cases h)

/-- An act of the arbiter on a channel leaves one at rest. -/
theorem AtRest.acts (h : AtRest s c) (ha : ActsOn d s t) (hd : (s.ch d).state.holdable = false → t = s) : t.ch c = s.ch c := by
  by_cases e : c = d
  · subst e; rw [hd h.own]
  · by_cases hl : isLeader s d = true ∧ c = partner d
    · rw [hd (h.lead d hl.1 hl.2)]
    · exact ha.others c e hl

theorem shedOne_atRest (h : AtRest s c) (g : Grant) (test : BudgetTest) : (shedOne s g test).ch c = s.ch c := by
  have happend : AtRest (appendResume s g.ch g.dir g.amount) c := ⟨h.own, h.lead⟩
  have hadd : (addCause (appendResume s g.ch g.dir g.amount) g.ch .curtailed).ch c = (appendResume s g.ch g.dir g.amount).ch c :=
    happend.acts (addCause_acts _ g.ch .curtailed) fun hs => addCause_rests hs _
  exact hadd

theorem shedAll_atRest (l : List (Grant × BudgetTest)) (h : AtRest s c) : (shedAll s l).ch c = s.ch c := by
  induction l generalizing s with
  | nil => rfl
  | cons x l ih =>
    obtain ⟨g, test⟩ := x
    exact (ih (h.runs (shedOne_runs s g test))).trans (shedOne_atRest h g test)

theorem shed_atRest (h : AtRest s c) : (shed s).ch c = s.ch c := by
  rcases shed_eq s with ⟨hs, -⟩ | hs
  · rw [hs]
  · rw [hs]
    exact shedAll_atRest (s := s.modArb _) _ ⟨h.own, h.lead⟩

theorem handOverAll_atRest (l : List Ch) (h : AtRest s c) : (handOverAll s l).ch c = s.ch c := by
  induction l generalizing s with
  | nil => rfl
  | cons d l ih =>
    exact (ih (h.runs (handOver_runs s d))).trans (h.acts (handOver_acts s d) handOver_rests)

theorem evaluateDue_atRest (fuel : Nat) (h : AtRest s c) : (evaluateDue fuel s).ch c = s.ch c := by
  induction fuel generalizing s with
  | zero => rfl
  | succ n ih =>
    unfold evaluateDue
    split
    · have hruns := (Runs.modArb s (fun a => { a with evalDue := false }) rfl).trans (evaluate_runs _)
      have hch : (evaluate (s.modArb fun a => { a with evalDue := false })).1.ch c = s.ch c := by
        obtain ⟨-, -, -, -, -, -, -, -, -, -, hrest, -, -⟩ := evaluate_spec (s.modArb fun a => { a with evalDue := false })
        rw [hrest]; rfl
      have hafter := h.runs hruns
      exact (ih (hafter.runs (handOverAll_runs _ _))).trans ((handOverAll_atRest _ hafter).trans hch)
    · rfl

/-- The arbiter's handling of an event leaves a channel at rest as it is, its port too. -/
theorem settle_atRest (h : AtRest s c) : (settle s).ch c = s.ch c :=
  (evaluateDue_atRest _ (h.runs (shed_runs s))).trans (shed_atRest h)

/-! ### A kind that latches -/

/-- A channel in which a kind has latched (R42, R131, R138, R140). -/
def Channel.latchOne (ch : Channel) (k : FaultKind) (value : Int) (now : Nat) : Channel :=
  if ch.state = .faulted then
    { ch with
      latched := addKind ch.latched k
      firstFault := if ch.latched = 0 then some ⟨k, ch.stepIndex, ch.stepTime, value, now⟩ else ch.firstFault }
  else if ch.state = .follower then
    { ch with
      latched := addKind ch.latched k
      firstFault := if ch.latched = 0 then some ⟨k, ch.stepIndex, ch.stepTime, value, now⟩ else ch.firstFault
      port := ch.port.handNew offDemand }
  else { ch.faulted k value now with port := ch.port.handNew offDemand }

theorem Channel.latchOne_faulted {ch : Channel} (h : ch.state = .faulted) (k : FaultKind) (value : Int) (now : Nat) :
    ch.latchOne k value now =
      { ch with
        latched := addKind ch.latched k
        firstFault := if ch.latched = 0 then some ⟨k, ch.stepIndex, ch.stepTime, value, now⟩ else ch.firstFault } := if_pos h

theorem Channel.latchOne_follower {ch : Channel} (h : ch.state = .follower) (k : FaultKind) (value : Int) (now : Nat) :
    ch.latchOne k value now =
      { ch with
        latched := addKind ch.latched k
        firstFault := if ch.latched = 0 then some ⟨k, ch.stepIndex, ch.stepTime, value, now⟩ else ch.firstFault
        port := ch.port.handNew offDemand } := (if_neg (by rw [h]; decide)).trans (if_pos h)

theorem Channel.latchOne_free {ch : Channel} (h1 : ch.state ≠ .faulted) (h2 : ch.state ≠ .follower) (k : FaultKind) (value : Int)
    (now : Nat) : ch.latchOne k value now = { ch.faulted k value now with port := ch.port.handNew offDemand } :=
  (if_neg h1).trans (if_neg h2)

theorem latchKind_self (s : State) (c : Ch) (k : FaultKind) (value : Int) :
    (latchKind s c k value).ch c = (s.ch c).latchOne k value s.hall.partTime := by
  rw [latchKind_ch, responded, respond, State.ch_modCh_self]
  split
  · rename_i e
    rw [State.ch_modCh_self, Channel.latchOne_faulted (ch := s.ch c) e]
  · rename_i e
    rw [State.ch_modPort, if_pos rfl, State.ch_modCh_self, Channel.latchOne_follower (ch := s.ch c) e]
  · rename_i h1 h2
    rw [faultChannel_ch, State.ch_modCh_self, Channel.latchOne_free (ch := s.ch c) h1 h2]
    rfl

/-- The partner of a channel in which a kind latches, handed OFF where its leader faults. -/
theorem latchKind_partner (s : State) (k : FaultKind) (value : Int) (hd : d ≠ c) :
    (latchKind s c k value).ch d = s.ch d ∨ isLeader s c = true ∧ d = partner c ∧
      (latchKind s c k value).ch d = { s.ch d with port := (s.ch d).port.handNew offDemand } := by
  rw [latchKind_ch, responded]
  obtain ⟨v, hv⟩ : ∃ v, v = s.modCh c fun ch =>
    { ch with
      latched := addKind ch.latched k
      firstFault := if ch.latched = 0 then some ⟨k, (s.ch c).stepIndex, (s.ch c).stepTime, value, s.hall.partTime⟩
        else ch.firstFault } := ⟨_, rfl⟩
  have hvd : v.ch d = s.ch d := by rw [hv]; exact State.ch_modCh_ne _ hd _
  have hvl : isLeader v c = isLeader s c := by rw [hv]; exact isLeader_modCh_same _
  rw [← hv, ← hvd, ← hvl]
  by_cases hl : isLeader v c = true ∧ d = partner c
  · obtain ⟨hlead, rfl⟩ := hl
    unfold respond
    split
    · exact .inl rfl
    · exact .inl (by rw [State.ch_modPort, if_neg hd])
    · exact .inr ⟨hlead, rfl, faultChannel_follower hlead⟩
  · exact .inl ((respond_acts v c).others d hd hl)

/-- An offer of a kind that is latched already, or of one that latches. -/
theorem offerOne_eq {k : FaultKind} (hw : warns (s.ch c).settings k = false) (value : Int) :
    offerOne s c k value = if hasKind (s.ch c).latched k then s else latchKind s c k value := by
  unfold offerOne
  rw [hw, if_neg Bool.false_ne_true]

theorem latchKind_follower (s : State) (c d : Ch) (k : FaultKind) (value : Int) :
    ((latchKind s c k value).ch d).state = .follower ↔ (s.ch d).state = .follower :=
  ((latchKind_keeps s c k value).chans d).follower

end
end Sys2Proof.Machine
end

section
/-! PROOF. RESET_CHANNEL (R44, R132). -/
namespace Sys2Proof.Machine
open Sys2Proof.Safety

section
variable {s t u : State} {l d a : Ch} {leads : Bool} {base : Ch → Channel} {k : FaultKind}

/-! ### What a reset leaves of the board -/

/-- A channel that is reset with another: that channel, and its follower where it leads. -/
def Member (l : Ch) (leads : Bool) (d : Ch) : Prop := d = l ∨ leads = true ∧ d = partner l

/-- The board's figures, and every channel that is not reset. -/
structure RestKept (l : Ch) (leads : Bool) (s t : State) : Prop where
  pool   : t.pool = s.pool
  prot   : t.prot = s.prot
  budget : t.arb.budget = s.arb.budget
  image  : t.image = s.image
  chans  : ∀ d, ¬Member l leads d → ChKeeps (s.ch d) (t.ch d) ∧ RunFrame (s.ch d) (t.ch d)

theorem RestKept.refl (s : State) : RestKept l leads s s := ⟨rfl, rfl, rfl, rfl, fun _ _ => ⟨.refl _, RunKeeps.refl _⟩⟩

theorem RestKept.trans (h : RestKept l leads s t) (k : RestKept l leads t u) : RestKept l leads s u :=
  ⟨k.pool.trans h.pool, k.prot.trans h.prot, k.budget.trans h.budget, k.image.trans h.image,
    fun d hd => ⟨(h.chans d hd).1.trans (k.chans d hd).1, RunKeeps.trans (h.chans d hd).2 (k.chans d hd).2⟩⟩

theorem RestKept.of_keeps (h : Keeps s t) (hr : ∀ d, ¬Member l leads d → RunFrame (s.ch d) (t.ch d)) : RestKept l leads s t :=
  ⟨h.pool, h.prot, h.budget, h.image, fun d hd => ⟨h.chans d, hr d hd⟩⟩

theorem RestKept.modCh (ha : Member l leads a) (f : Channel → Channel) : RestKept l leads s (s.modCh a f) := by
  refine ⟨rfl, rfl, rfl, rfl, fun d hd => ?_⟩
  rw [State.ch_modCh_ne _ fun e => hd (by rw [e]; exact ha)]
  exact ⟨.refl _, RunKeeps.refl _⟩

theorem RestKept.settle (s : State) : RestKept l leads s (settle s) :=
  .of_keeps (settle_keeps s) fun d _ => (settle_runs s).chans d

theorem RestKept.acts (h : Keeps s t) (k : ActsOn l s t) : RestKept l leads s t :=
  .of_keeps h fun _ hd => k.run fun e => hd (.inl e)

/-! ### The channel and its follower as the reset clears them -/

/-- The state before a reset channel stops. -/
def resetCleared (s : State) (l : Ch) : State :=
  let u := withdrawEntries (releaseGrant s l) l
  (if isLeader u l then u.modCh (partner l) Channel.clearFollower else u).modCh l Channel.clearRun

/-- The state before the kinds that still hold are offered again. -/
def resetStopped (s : State) (l : Ch) : State := settle (enterStopping (resetCleared s l) l .idle true)

theorem resetChannel_reoffers (s : State) (l : Ch) : resetChannel s l = (portsOf s l).foldl reoffer (resetStopped s l) := rfl

theorem withdrawn_ch (s : State) (l d : Ch) : (withdrawEntries (releaseGrant s l) l).ch d = s.ch d := by
  rw [withdrawEntries_ch, releaseGrant_ch]

theorem withdrawn_isLeader (s : State) (l d : Ch) : isLeader (withdrawEntries (releaseGrant s l) l) d = isLeader s d := by
  unfold isLeader isFollower
  rw [withdrawn_ch]

theorem resetCleared_eq (s : State) (l : Ch) : resetCleared s l =
    (if isLeader s l then (withdrawEntries (releaseGrant s l) l).modCh (partner l) Channel.clearFollower
      else withdrawEntries (releaseGrant s l) l).modCh l Channel.clearRun := by
  unfold resetCleared
  dsimp only
  rw [withdrawn_isLeader]

theorem resetCleared_self (s : State) (l : Ch) : (resetCleared s l).ch l = (s.ch l).clearRun := by
  rw [resetCleared_eq, State.ch_modCh_self]
  split
  · rw [State.ch_modCh_ne _ (partner_ne l).symm, withdrawn_ch]
  · rw [withdrawn_ch]

theorem resetCleared_follower (hl : isLeader s l = true) : (resetCleared s l).ch (partner l) = (s.ch (partner l)).clearFollower := by
  rw [resetCleared_eq, if_pos hl, State.ch_modCh_ne _ (partner_ne l), State.ch_modCh_self, withdrawn_ch]

theorem resetCleared_kept (s : State) (l : Ch) : RestKept l (isLeader s l) s (resetCleared s l) := by
  have hwithdraw : RestKept l (isLeader s l) s (withdrawEntries (releaseGrant s l) l) :=
    .acts ((releaseGrant_keeps s l).trans (withdrawEntries_keeps _ l)) ((releaseGrant_acts s l).trans (withdrawEntries_acts _ l))
  rw [resetCleared_eq]
  refine RestKept.trans ?_ (.modCh (.inl rfl) _)
  split
  · rename_i h
    exact hwithdraw.trans (.modCh (.inr ⟨h, rfl⟩) _)
  · exact hwithdraw

theorem resetCleared_isLeader (s : State) (l : Ch) : isLeader (resetCleared s l) l = isLeader s l := by
  cases hl : isLeader s l with
  | true =>
    rw [isLeader_iff] at hl ⊢
    rw [resetCleared_follower ((isLeader_iff s l).2 hl)]
    exact hl
  | false =>
    rw [resetCleared_eq, isLeader_modCh_same, hl, if_neg Bool.false_ne_true, withdrawn_isLeader]
    exact hl

theorem resetCleared_places (s : State) (l : Ch) : places (resetCleared s l) l = 0 := by
  have harb : (resetCleared s l).arb = (withdrawEntries (releaseGrant s l) l).arb := by
    rw [resetCleared_eq]
    exact iteInduction (motive := fun t : State => (t.modCh l Channel.clearRun).arb = _) (fun _ => rfl) fun _ => rfl
  rw [places_congr harb]
  exact places_withdraw

/-- What the end of the reset's stop makes of the channels: OFF is handed to the ports (R44). -/
theorem resetStopped_ch (hs : (s.ch l).state ≠ .follower) :
    ∃ q, (resetStopped s l).ch l = { (s.ch l).clearRun with
        state := if q then .idle else .stopping, stopDest := .idle, port := (s.ch l).port.handNew offDemand } ∧
      (isLeader s l = true → (resetStopped s l).ch (partner l) =
        { (s.ch (partner l)).clearFollower with port := (s.ch (partner l)).port.handNew offDemand }) ∧
      ((s.ch l).port.presence = .absent → (isLeader s l = true → (s.ch (partner l)).port.presence = .absent) → q = true) ∧
      RestKept l (isLeader s l) s (resetStopped s l) ∧ places (resetStopped s l) l = 0 := by
  obtain ⟨w, hw⟩ : ∃ w, w = (resetCleared s l).modCh l fun ch => { ch with state := .stopping, stopDest := .idle } := ⟨_, rfl⟩
  have hwl : w.ch l = { (s.ch l).clearRun with state := .stopping, stopDest := .idle } := by
    rw [hw, State.ch_modCh_self, resetCleared_self]
  have hwlead : isLeader w l = isLeader s l := by rw [hw, isLeader_modCh_same, resetCleared_isLeader]
  have hcalled : calledFor w l = (offDemand, false) := by
    unfold calledFor
    rw [hwl]
  obtain ⟨v, hv⟩ : ∃ v, v = issue w l := ⟨_, rfl⟩
  have hvl : v.ch l = { (s.ch l).clearRun with
      state := .stopping, stopDest := .idle, port := (s.ch l).port.handNew offDemand } := by
    rw [hv]
    cases hl : isLeader w l with
    | false =>
      rw [issue_single hl, State.ch_modCh_self, hcalled, hwl]
      rfl
    | true =>
      rw [issue_leader hl, State.ch_modPort, if_neg (partner_ne l).symm, State.ch_modCh_self, hcalled, hwl, leaderShare_off]
      rfl
  have hvf : isLeader s l = true → v.ch (partner l) =
      { (s.ch (partner l)).clearFollower with port := (s.ch (partner l)).port.handNew offDemand } := fun hl => by
    have hwf : w.ch (partner l) = (s.ch (partner l)).clearFollower := by
      rw [hw, State.ch_modCh_ne _ (partner_ne l), resetCleared_follower hl]
    rw [hv, issue_leader (hwlead.trans hl), State.ch_modPort, if_pos rfl, State.ch_modCh_ne _ (partner_ne l), hcalled,
      followerDemand_off, hwf]
    rfl
  obtain ⟨q, hq⟩ : ∃ q, q = restsAtOnce v l true := ⟨_, rfl⟩
  obtain ⟨x, hx⟩ : ∃ x, x = enterStopping (resetCleared s l) l .idle true := ⟨_, rfl⟩
  have hxv : x = if q then finishStop v l else v := by rw [hx, hq, hv, hw]; rfl
  have hxl : x.ch l = { (s.ch l).clearRun with
      state := if q then .idle else .stopping, stopDest := .idle, port := (s.ch l).port.handNew offDemand } := by
    rw [hxv]
    cases q with
    | false => exact hvl
    | true =>
      rw [if_pos rfl, finishStop, State.ch_modCh_self, hvl]
      rfl
  have hxf : x.ch (partner l) = v.ch (partner l) := by
    rw [hxv]
    exact iteInduction (motive := fun t : State => t.ch (partner l) = _) (fun _ => State.ch_modCh_ne _ (partner_ne l) _) fun _ => rfl
  have hxs : (x.ch l).state.holdable = false ∧ (x.ch l).state ≠ .follower := by
    rw [hxl]
    cases q <;> exact ⟨rfl, nofun⟩
  have hxlead : isLeader x l = isLeader s l := by
    rw [Bool.eq_iff_iff, isLeader_iff, isLeader_iff, hxf]
    have hvlead : isLeader v l = isLeader w l := by rw [hv]; exact (issue_keeps w l).isLeader l
    rw [← isLeader_iff, ← isLeader_iff, hvlead, hwlead]
  have hrest : AtRest x l :=
    ⟨hxs.1, fun d hd e => absurd (by rw [e]; exact ((isLeader_iff x d).1 hd).2) hxs.2⟩
  have hplaces : places x l = 0 := by
    rw [hx, places_congr (enterStopping_arb _ l _ _)]
    exact resetCleared_places s l
  refine ⟨q, (settle_atRest (by rw [← hx]; exact hrest)).trans (by rw [← hx]; exact hxl), fun hl => ?_, fun hp hpf => ?_, ?_, ?_⟩
  · have hfollower : ((x.ch (partner l))).state = .follower := ((isLeader_iff x l).1 (hxlead.trans hl)).2
    have hrestf : AtRest x (partner l) := ⟨by rw [hfollower]; rfl, fun d hd e => by
      have hdl : d = l := by rw [← partner_partner d, ← e, partner_partner]
      rw [hdl]; exact hxs.1⟩
    exact (settle_atRest (by rw [← hx]; exact hrestf)).trans (by rw [← hx, hxf]; exact hvf hl)
  · rw [hq]
    unfold restsAtOnce
    rw [List.all_eq_true]
    intro d hd
    have habsent : (v.port d).presence = .absent := by
      have hkeeps := ((issue_keeps w l).chans d).presence
      rw [← hv] at hkeeps
      have hwp : (w.ch d).port = (s.ch d).port := by
        rcases (mem_portsOf v l d).1 hd with rfl | ⟨hl, rfl⟩
        · rw [hwl]; rfl
        · rw [hw, State.ch_modCh_ne _ (partner_ne l), resetCleared_follower]
          · rfl
          · rw [← hwlead, ← hl, hv]; exact ((issue_keeps w l).isLeader l).symm
      refine hkeeps.trans ?_
      rw [hwp]
      rcases (mem_portsOf v l d).1 hd with rfl | ⟨hl, rfl⟩
      · exact hp
      · exact hpf (by rw [← hwlead, ← hl, hv]; exact ((issue_keeps w l).isLeader l).symm)
    rw [habsent]
    simp
  · have hkeeps : RestKept l (isLeader s l) (resetCleared s l) x := by
      have hw' : RestKept l (isLeader s l) (resetCleared s l) w := hw ▸ .modCh (.inl rfl) _
      have hv' : RestKept l (isLeader s l) w v := hv ▸ .acts (issue_keeps w l) (issue_acts w l)
      rw [hxv]
      exact (hw'.trans hv').trans (iteInduction (motive := RestKept l (isLeader s l) v) (fun _ => .modCh (.inl rfl) _) fun _ => .refl v)
    unfold resetStopped
    rw [← hx]
    exact ((resetCleared_kept s l).trans hkeeps).trans (.settle x)
  · unfold resetStopped
    rw [← hx]
    exact (settle_unlisted hplaces).places.trans hplaces

/-! ### The kinds that are offered again -/

/-- A reset channel, as the kinds offered again leave it: they latch, and it is FAULTED outside FOLLOWER once one has. -/
structure Cleared (a b : Channel) : Prop where
  rest     : b = { a with state := b.state, resume := b.resume, latched := b.latched, firstFault := b.firstFault }
  empty    : b.latched = 0 → b.state = a.state ∧ b.resume = a.resume ∧ b.firstFault = a.firstFault
  faulted  : b.latched ≠ 0 → a.state ≠ .follower → b.state = .faulted
  follower : b.state = .follower ↔ a.state = .follower

/-- A channel a reset has cleared: nothing runs, nothing is held and OFF stands at its port. -/
structure Blank (a : Channel) : Prop where
  timers   : a.state ≠ .follower → a.stopTimers = a
  run      : a.state ≠ .follower → a.swapPending = none ∧ a.holds = HoldCauses.empty ∧ a.heldBefore = false
  standing : a.port.standing = some offDemand
  holdable : a.state.holdable = false

theorem Cleared.refl {x : Channel} (h : x.latched = 0) : Cleared x x :=
  ⟨rfl, fun _ => ⟨rfl, rfl, rfl⟩, fun e => absurd h e, Iff.rfl⟩

theorem Cleared.holdable {x b : Channel} (h : Cleared x b) (hx : Blank x) : b.state.holdable = false := by
  by_cases hl : b.latched = 0
  · rw [(h.empty hl).1]; exact hx.holdable
  · by_cases hs : x.state = .follower
    · rw [h.follower.2 hs]; rfl
    · rw [h.faulted hl hs]; rfl

/-- A further kind that latches in a reset channel. -/
theorem Cleared.latchOne {x b : Channel} (h : Cleared x b) (hx : Blank x) (k : FaultKind) (value : Int) (now : Nat) :
    Cleared x (b.latchOne k value now) ∧ (b.latchOne k value now).latched = addKind b.latched k := by
  have hoff : b.port.handNew offDemand = b.port := by
    rw [congrArg Channel.port h.rest]
    exact if_pos hx.standing
  by_cases h1 : b.state = .faulted
  · rw [Channel.latchOne_faulted h1]
    refine ⟨⟨?_, fun e => absurd e (addKind_ne_zero _ k), fun _ _ => h1, h.follower⟩, rfl⟩
    rw [h.rest]
  · by_cases h2 : b.state = .follower
    · rw [Channel.latchOne_follower h2, hoff]
      refine ⟨⟨?_, fun e => absurd e (addKind_ne_zero _ k), fun _ hs => absurd (h.follower.1 h2) hs, h.follower⟩, rfl⟩
      rw [h.rest]
    · rw [Channel.latchOne_free h1 h2, hoff]
      have hs : x.state ≠ .follower := fun e => h2 (h.follower.2 e)
      obtain ⟨hswap, hholds, hbefore⟩ := hx.run hs
      have htimers := hx.timers hs
      refine ⟨⟨?_, fun e => absurd e (addKind_ne_zero _ k), fun _ _ => rfl, iff_of_false nofun hs⟩, rfl⟩
      obtain ⟨st, r, lt, ff, hb⟩ : ∃ st r lt ff, b = { x with state := st, resume := r, latched := lt, firstFault := ff } :=
        ⟨_, _, _, _, h.rest⟩
      rw [hb]
      unfold Channel.faulted
      dsimp only
      have hgap := congrArg Channel.gapTimer htimers
      have hstart := congrArg Channel.startTimer htimers
      have hplay := congrArg Channel.play htimers
      unfold Channel.stopTimers at hgap hstart hplay ⊢
      dsimp only at hgap hstart hplay ⊢
      rw [hswap, hholds, hbefore, ← hgap, ← hstart, hplay]

/-! ### An offer to a reset channel -/

/-- A board on which a channel has been reset, as the offers leave it. -/
structure Reset (s : State) (l : Ch) (leads : Bool) (base : Ch → Channel) (u : State) : Prop where
  kept    : RestKept l leads s u
  lead    : isLeader u l = leads
  cleared : ∀ d, Member l leads d → Cleared (base d) (u.ch d)
  places  : places u l = 0

/-- The channels a reset has cleared. -/
structure Bases (l : Ch) (leads : Bool) (base : Ch → Channel) : Prop where
  blank    : ∀ d, Member l leads d → Blank (base d)
  own      : (base l).state ≠ .follower
  follower : leads = true → (base (partner l)).state = .follower

theorem Reset.paired (h : Reset s l leads base u) (hb : Bases l leads base) (ha : Member l leads a) : paired u a = leads := by
  unfold Machine.paired
  rcases ha with rfl | ⟨hl, rfl⟩
  · rw [h.lead, isFollower_false fun e => hb.own ((h.cleared a (.inl rfl)).follower.1 e), Bool.or_false]
  · have hf : (u.ch (partner l)).state = .follower := (h.cleared _ (.inr ⟨hl, rfl⟩)).follower.2 (hb.follower hl)
    rw [(isFollower_iff u _).2 hf, Bool.or_true, hl]

theorem Reset.atRest (h : Reset s l leads base u) (hb : Bases l leads base) (hd : Member l leads d) : AtRest u d := by
  refine ⟨(h.cleared d hd).holdable (hb.blank d hd), fun e he hde => ?_⟩
  rcases hd with rfl | ⟨hl, rfl⟩
  · exact absurd ((h.cleared d (.inl rfl)).follower.1 (by rw [hde]; exact ((isLeader_iff u e).1 he).2)) hb.own
  · have hel : e = l := by rw [← partner_partner e, ← hde, partner_partner]
    rw [hel]
    exact (h.cleared l (.inl rfl)).holdable (hb.blank l (.inl rfl))

theorem Reset.settle (h : Reset s l leads base u) (hb : Bases l leads base) :
    Reset s l leads base (settle u) ∧ ∀ d, Member l leads d → (Machine.settle u).ch d = u.ch d := by
  have hch : ∀ d, Member l leads d → (Machine.settle u).ch d = u.ch d := fun d hd => settle_atRest (h.atRest hb hd)
  refine ⟨⟨h.kept.trans (.settle u), ((settle_keeps u).isLeader l).trans h.lead, fun d hd => ?_, ?_⟩, hch⟩
  · rw [hch d hd]; exact h.cleared d hd
  · exact (settle_unlisted h.places).places.trans h.places

/-- The kinds latched in a channel. -/
def has (u : State) (d : Ch) (k : FaultKind) : Bool := hasKind (u.ch d).latched k

theorem member_ne_partner (ha : Member l leads a) (hd : Member l leads d) (h : d ≠ a) : leads = true ∧ d = partner a := by
  rcases ha with rfl | ⟨hl, rfl⟩ <;> rcases hd with rfl | ⟨hl', rfl⟩
  · exact absurd rfl h
  · exact ⟨hl', rfl⟩
  · exact ⟨hl, (partner_partner d).symm⟩
  · exact absurd rfl h

/-- A kind offered to a reset channel, PAIR_PARTNER not passed on. -/
theorem Reset.offerOne (h : Reset s l leads base u) (hb : Bases l leads base) (ha : Member l leads a)
    (hw : ∀ set, warns set k = false) (value : Int) :
    Reset s l leads base (offerOne u a k value) ∧
      ∀ d, Member l leads d → ∀ j, has (Machine.offerOne u a k value) d j = (has u d j || (decide (d = a) && decide (j = k))) := by
  rw [offerOne_eq (hw _)]
  split
  · rename_i hk
    refine ⟨h, fun d hd j => ?_⟩
    by_cases e : d = a ∧ j = k
    · obtain ⟨rfl, rfl⟩ := e
      unfold has
      rw [hk]; rfl
    · have : (decide (d = a) && decide (j = k)) = false := by
        rw [Bool.and_eq_false_iff, decide_eq_false_iff_not, decide_eq_false_iff_not]
        exact not_and_or.1 e
      rw [this, Bool.or_false]
  · rename_i hnew
    have hself := (h.cleared a ha).latchOne (hb.blank a ha) k value u.hall.partTime
    have hother : ∀ d, Member l leads d → d ≠ a → (latchKind u a k value).ch d = u.ch d := fun d hd hne => by
      rcases latchKind_partner u k value hne with hsame | ⟨-, -, hsame⟩
      · exact hsame
      · rw [hsame]
        have hoff : (u.ch d).port.handNew offDemand = (u.ch d).port := by
          rw [congrArg Channel.port (h.cleared d hd).rest]
          exact if_pos (hb.blank d hd).standing
        rw [hoff]
    have hacts : ∀ d, ¬Member l leads d → RunFrame (u.ch d) ((latchKind u a k value).ch d) := fun d hd => by
      rcases latchKind_partner u k value (d := d) (fun e => hd (by rw [e]; exact ha)) with hsame | ⟨hlead, hp, -⟩
      · rw [hsame]; exact RunKeeps.refl _
      · exfalso
        rcases ha with rfl | ⟨hl, rfl⟩
        · exact hd (.inr ⟨h.lead.symm.trans hlead, hp⟩)
        · exact hd (.inl (by rw [hp, partner_partner]))
    have hplaces : Machine.places (latchKind u a k value) l = 0 := by
      have := offerOne_places (s := u) a l k value h.places
      rwa [offerOne_eq (hw _), if_neg hnew] at this
    refine ⟨⟨h.kept.trans (.of_keeps (latchKind_keeps u a k value) hacts), ((latchKind_keeps u a k value).isLeader l).trans h.lead,
      fun d hd => ?_, hplaces⟩, fun d hd j => ?_⟩
    · by_cases e : d = a
      · subst e; rw [latchKind_self]; exact hself.1
      · rw [hother d hd e]; exact h.cleared d hd
    · unfold has
      by_cases e : d = a
      · subst e
        rw [latchKind_self, hself.2, hasKind_addKind, decide_eq_true rfl, Bool.true_and]
      · rw [hother d hd e, decide_eq_false e, Bool.false_and, Bool.or_false]

/-- A kind offered to a reset channel, PAIR_PARTNER passed on and the arbiter at rest. -/
theorem Reset.offer (h : Reset s l leads base u) (hb : Bases l leads base) (ha : Member l leads a)
    (hw : ∀ set, warns set k = false) (hk : k ≠ .pairPartner) (value : Int) :
    Reset s l leads base (offer u a k value) ∧ ∀ d, Member l leads d → ∀ j, has (Machine.offer u a k value) d j =
      (has u d j || (decide (d = a) && decide (j = k)) ||
        (decide (d = partner a) && leads && decide (j = .pairPartner) && !has u a k)) := by
  have hnewly : latchesNewly u a k = !has u a k := by
    unfold latchesNewly has
    rw [hw]; rfl
  have hpaired := h.paired hb ha
  obtain ⟨hone, honeKinds⟩ := h.offerOne hb ha hw value
  have hpair : Reset s l leads base (offerPair u a k value) ∧ ∀ d, Member l leads d → ∀ j, has (offerPair u a k value) d j =
      (has u d j || (decide (d = a) && decide (j = k)) ||
        (decide (d = partner a) && leads && decide (j = .pairPartner) && !has u a k)) := by
    unfold offerPair
    rw [hnewly, hpaired]
    split
    · rename_i hcond
      obtain ⟨hn, -, hl⟩ := hcond
      have hmember : Member l leads (partner a) := by
        rcases ha with rfl | ⟨-, rfl⟩
        · exact .inr ⟨hl, rfl⟩
        · exact .inl (partner_partner l)
      obtain ⟨htwo, htwoKinds⟩ := hone.offerOne (k := .pairPartner) hb hmember (fun _ => rfl) k.code
      refine ⟨htwo, fun d hd j => ?_⟩
      rw [htwoKinds d hd j, honeKinds d hd j, hn, hl, Bool.and_true, Bool.and_true]
    · rename_i hcond
      refine ⟨hone, fun d hd j => ?_⟩
      have hnone : (decide (d = partner a) && leads && decide (j = .pairPartner) && !has u a k) = false := by
        cases hn : has u a k
        · cases hl : leads
          · simp
          · exact absurd ⟨by rw [hn]; rfl, hk, hl⟩ hcond
        · simp
      rw [honeKinds d hd j, hnone, Bool.or_false]
  obtain ⟨hsettled, hch⟩ := hpair.1.settle hb
  rw [offer_eq]
  refine ⟨hsettled, fun d hd j => ?_⟩
  rw [← hpair.2 d hd j]
  unfold has
  rw [hch d hd]

/-! ### The kinds that still hold (R145, R150, R153) -/

/-- The kinds a channel is offered again, in that order. -/
def again (s : State) (d : Ch) (k : FaultKind) : Bool :=
  (s.ch d).unsafeFlag && decide (k = .stageUnsafe) || (directLine s d).isSome && decide (k = .chamberAlarm) ||
    s.prot.hallStop && decide (k = .hallStop)

/-- Whether some kind is offered again. -/
def againAny (s : State) (d : Ch) : Bool := (s.ch d).unsafeFlag || (directLine s d).isSome || s.prot.hallStop

theorem againAny_iff (s : State) (d : Ch) : againAny s d = true ↔ ∃ k, again s d k = true := by
  unfold againAny again
  constructor
  · intro h
    rw [Bool.or_eq_true, Bool.or_eq_true] at h
    rcases h with (h | h) | h
    · exact ⟨.stageUnsafe, by simp [h]⟩
    · exact ⟨.chamberAlarm, by simp [h]⟩
    · exact ⟨.hallStop, by simp [h]⟩
  · rintro ⟨k, hk⟩
    rw [Bool.or_eq_true, Bool.or_eq_true, Bool.and_eq_true, Bool.and_eq_true, Bool.and_eq_true] at hk
    rcases hk with (⟨h, -⟩ | ⟨h, -⟩) | ⟨h, -⟩ <;> rw [h] <;> simp

theorem again_directLine (h : u.prot = s.prot) (d : Ch) : directLine u d = directLine s d := by
  unfold directLine State.line
  rw [h]

/-- A kind offered where a condition holds. -/
theorem Reset.offerIf (h : Reset s l leads base u) (hb : Bases l leads base) (ha : Member l leads a)
    (hw : ∀ set, warns set k = false) (hk : k ≠ .pairPartner) (p : Bool) (value : Int) (hnew : has u a k = false) :
    Reset s l leads base (if p then Machine.offer u a k value else u) ∧ ∀ d, Member l leads d → ∀ j,
      has (if p then Machine.offer u a k value else u) d j =
        (has u d j || (p && decide (d = a) && decide (j = k)) ||
          (p && decide (d = partner a) && leads && decide (j = .pairPartner))) := by
  cases p with
  | false => exact ⟨h, fun d hd j => by simp⟩
  | true =>
    obtain ⟨hoffer, hkinds⟩ := h.offer hb ha hw hk value
    refine ⟨hoffer, fun d hd j => ?_⟩
    rw [if_pos rfl, hkinds d hd j, hnew]
    simp

/-- The kinds that still hold are offered to a reset channel. -/
theorem Reset.reoffer (h : Reset s l leads base u) (hb : Bases l leads base) (ha : Member l leads a)
    (hflag : (base a).unsafeFlag = (s.ch a).unsafeFlag)
    (hnew : has u a .stageUnsafe = false ∧ has u a .chamberAlarm = false ∧ has u a .hallStop = false) :
    Reset s l leads base (reoffer u a) ∧ ∀ d, Member l leads d → ∀ j, has (Machine.reoffer u a) d j =
      (has u d j || (decide (d = a) && again s a j) ||
        (decide (d = partner a) && leads && decide (j = .pairPartner) && againAny s a)) := by
  have hprot : ∀ {v}, Reset s l leads base v → v.prot = s.prot := fun hv => hv.kept.prot
  obtain ⟨hn1, hn2, hn3⟩ := hnew
  have hflagu : (u.ch a).unsafeFlag = (s.ch a).unsafeFlag :=
    (congrArg Channel.unsafeFlag (h.cleared a ha).rest).trans hflag
  obtain ⟨v, hv⟩ : ∃ v, v = if (u.ch a).unsafeFlag then offerUnsafe { u with freeCount := u.freeCount + 1 } a (reofferTag u a) else u :=
    ⟨_, rfl⟩
  have hfirst : Reset s l leads base v ∧ ∀ d, Member l leads d → ∀ j, has v d j =
      (has u d j || ((u.ch a).unsafeFlag && decide (d = a) && decide (j = .stageUnsafe)) ||
        ((u.ch a).unsafeFlag && decide (d = partner a) && leads && decide (j = .pairPartner))) := by
    cases hf : (u.ch a).unsafeFlag with
    | false =>
      rw [hf, if_neg Bool.false_ne_true] at hv
      rw [hv]
      exact ⟨h, fun d hd j => by simp⟩
    | true =>
      have hcount : Reset s l leads base { u with freeCount := u.freeCount + 1 } :=
        ⟨⟨h.kept.pool, h.kept.prot, h.kept.budget, h.kept.image, h.kept.chans⟩, h.lead, h.cleared, h.places⟩
      have hsame : offerUnsafe { u with freeCount := u.freeCount + 1 } a (reofferTag u a) =
          Machine.offer { u with freeCount := u.freeCount + 1 } a .stageUnsafe (reofferTag u a).toNat := by
        unfold offerUnsafe
        rw [modCh_self (s := { u with freeCount := u.freeCount + 1 }) (c := a) (f := fun ch => { ch with unsafeFlag := true })]
        exact congrArg (fun x => { u.ch a with unsafeFlag := x }) hf.symm
      rw [hf, if_pos rfl, hsame] at hv
      have := hcount.offerIf hb ha (k := .stageUnsafe) (fun _ => rfl) (by decide) true (reofferTag u a).toNat hn1
      rw [hv]
      exact this
  obtain ⟨hv1, hk1⟩ := hfirst
  have hne : ∀ d, d = partner d → False := fun d e => partner_ne d e.symm
  obtain ⟨w, hw⟩ : ∃ w, w = match directLine v a with
      | some line => Machine.offer v a .chamberAlarm line.val
      | none => v := ⟨_, rfl⟩
  have hv2 : has v a .chamberAlarm = false := by rw [hk1 a ha, hn2]; simp
  have hsecond : Reset s l leads base w ∧ ∀ d, Member l leads d → ∀ j, has w d j =
      (has v d j || ((directLine s a).isSome && decide (d = a) && decide (j = .chamberAlarm)) ||
        ((directLine s a).isSome && decide (d = partner a) && leads && decide (j = .pairPartner))) := by
    rw [← again_directLine (hprot hv1) a]
    cases hline : directLine v a with
    | none =>
      rw [hline] at hw
      rw [hw]
      exact ⟨hv1, fun d hd j => by simp⟩
    | some line =>
      rw [hline] at hw
      rw [hw]
      exact hv1.offerIf hb ha (k := .chamberAlarm) (fun _ => rfl) (by decide) true line.val hv2
  obtain ⟨hw1, hk2⟩ := hsecond
  have hw3 : has w a .hallStop = false := by rw [hk2 a ha, hk1 a ha, hn3]; simp
  have hthird := hw1.offerIf hb ha (k := .hallStop) (fun _ => rfl) (by decide) w.prot.hallStop 0 hw3
  have hstop : w.prot.hallStop = s.prot.hallStop := by rw [hprot hw1]
  have hall : Machine.reoffer u a = if w.prot.hallStop then Machine.offer w a .hallStop 0 else w := by
    rw [hw, hv]; rfl
  rw [hall]
  refine ⟨hthird.1, fun d hd j => ?_⟩
  rw [hthird.2 d hd j, hk2 d hd j, hk1 d hd j, hstop, hflagu]
  unfold again againAny
  grind

end

section
variable {s t : State} {l : Ch} {leads : Bool} {base : Ch → Channel}

/-- All the offers after a reset. -/
theorem reoffered (h : Reset s l leads base t) (hb : Bases l leads base) (hnone : ∀ d, Member l leads d → (t.ch d).latched = 0)
    (hflag : ∀ d, Member l leads d → (base d).unsafeFlag = (s.ch d).unsafeFlag) (hleads : leads = isLeader s l) :
    Reset s l leads base ((portsOf s l).foldl reoffer t) ∧
      (∀ k, has ((portsOf s l).foldl reoffer t) l k =
        (again s l k || leads && decide (k = .pairPartner) && againAny s (partner l))) ∧
      (leads = true → ∀ k, has ((portsOf s l).foldl reoffer t) (partner l) k =
        (again s (partner l) k || decide (k = .pairPartner) && againAny s l)) := by
  have hno : ∀ d, Member l leads d → ∀ k, has t d k = false := fun d hd k => by
    unfold has
    rw [hnone d hd, hasKind_zero]
  have hl : Member l leads l := .inl rfl
  obtain ⟨hown, hownKinds⟩ := h.reoffer hb hl (hflag l hl) ⟨hno l hl _, hno l hl _, hno l hl _⟩
  unfold portsOf
  cases hlead : leads with
  | false =>
    rw [← hleads, hlead, if_neg Bool.false_ne_true, List.foldl_cons, List.foldl_nil]
    rw [hlead] at hown
    refine ⟨hown, fun k => ?_, nofun⟩
    rw [hownKinds l hl k, hno l hl, hlead]
    simp
  | true =>
    have hf : Member l leads (partner l) := .inr ⟨hlead, rfl⟩
    have hfresh : ∀ k, k ≠ .pairPartner → has (reoffer t l) (partner l) k = false := fun k hk => by
      rw [hownKinds _ hf k, hno _ hf, decide_eq_false (partner_ne l), decide_eq_false hk]
      simp
    obtain ⟨hboth, hbothKinds⟩ := hown.reoffer hb hf (hflag _ hf)
      ⟨hfresh _ (by decide), hfresh _ (by decide), hfresh _ (by decide)⟩
    rw [← hleads, hlead, if_pos rfl, List.foldl_cons, List.foldl_cons, List.foldl_nil]
    rw [hlead] at hboth
    refine ⟨hboth, fun k => ?_, fun _ k => ?_⟩
    · rw [hbothKinds l hl k, hownKinds l hl k, hno l hl, decide_eq_false (partner_ne l).symm, partner_partner, hlead]
      simp
    · rw [hbothKinds _ hf k, hownKinds _ hf k, hno _ hf, decide_eq_false (partner_ne l), partner_partner, hlead]
      simp [partner_ne l, Bool.or_comm]

end
end Sys2Proof.Machine
end

section
/-! PROOF. O29: RESET_CHANNEL, put together (R44, R132). -/
namespace Sys2Proof.Machine
open Sys2Proof.Safety

section
variable {s : State} {l : Ch}

/-- The channels of a reset, as they are before the kinds that still hold are offered. -/
def resetBase (s : State) (l : Ch) (d : Ch) : Channel := (resetStopped s l).ch d

theorem clearRun_latched (ch : Channel) : ch.clearRun.latched = 0 := rfl

theorem resetBase_bases (hs : (s.ch l).state ≠ .follower) : Bases l (isLeader s l) (resetBase s l) := by
  obtain ⟨q, hl, hf, -⟩ := resetStopped_ch hs
  have hfollower : isLeader s l = true → (resetBase s l (partner l)).state = .follower := fun h => by
    unfold resetBase
    rw [hf h]
    exact ((isLeader_iff s l).1 h).2
  refine ⟨fun d hd => ?_, ?_, hfollower⟩
  · rcases hd with rfl | ⟨h, rfl⟩
    · unfold resetBase
      rw [hl]
      exact ⟨fun _ => rfl, fun _ => ⟨rfl, rfl, rfl⟩, handNew_standing _ _, by cases q <;> rfl⟩
    · have hstate := hfollower h
      refine ⟨fun e => absurd hstate e, fun e => absurd hstate e, ?_, by rw [hstate]; rfl⟩
      unfold resetBase
      rw [hf h]
      exact handNew_standing _ _
  · unfold resetBase
    rw [hl]
    cases q <;> exact nofun

theorem resetBase_latched (hs : (s.ch l).state ≠ .follower) {d : Ch} (hd : Member l (isLeader s l) d) :
    ((resetStopped s l).ch d).latched = 0 ∧ (resetBase s l d).unsafeFlag = (s.ch d).unsafeFlag := by
  obtain ⟨q, hl, hf, -⟩ := resetStopped_ch hs
  unfold resetBase
  rcases hd with rfl | ⟨h, rfl⟩
  · rw [hl]; exact ⟨rfl, rfl⟩
  · rw [hf h]; exact ⟨rfl, rfl⟩

theorem resetStopped_reset (hs : (s.ch l).state ≠ .follower) :
    Reset s l (isLeader s l) (resetBase s l) (resetStopped s l) := by
  obtain ⟨q, hl, hf, -, hkept, hplaces⟩ := resetStopped_ch hs
  have hbases := resetBase_bases hs
  refine ⟨hkept, ?_, fun d hd => .refl (resetBase_latched hs hd).1, hplaces⟩
  cases hlead : isLeader s l with
  | true =>
    rw [isLeader_iff] at hlead ⊢
    exact ⟨hlead.1, hbases.follower ((isLeader_iff s l).2 hlead)⟩
  | false =>
    rw [Bool.eq_false_iff, ne_eq, isLeader_iff] at hlead ⊢
    rintro ⟨heven, hfollower⟩
    refine hlead ⟨heven, ?_⟩
    have hpartner : ¬Member l (isLeader s l) (partner l) := by
      rintro (e | ⟨e, -⟩)
      · exact partner_ne l e
      · exact hlead ((isLeader_iff s l).1 e)
    exact (hkept.chans _ hpartner).1.follower.1 hfollower

theorem again_iff (s : State) (d : Ch) (k : FaultKind) : again s d k = true ↔
    k = .stageUnsafe ∧ (s.ch d).unsafeFlag = true ∨
    k = .chamberAlarm ∧ (∃ line, (s.line line).raw = true ∧ (s.line line).settings.route = .direct ∧
      (s.line line).settings.mask.getLsbD d.val = true) ∨
    k = .hallStop ∧ s.prot.hallStop = true := by
  unfold again
  rw [Bool.or_eq_true, Bool.or_eq_true, Bool.and_eq_true, Bool.and_eq_true, Bool.and_eq_true, directLine_isSome,
    decide_eq_true_eq, decide_eq_true_eq, decide_eq_true_eq, or_assoc]
  exact or_congr and_comm (or_congr and_comm and_comm)

end

end Sys2Proof.Machine

namespace Sys2Proof.Safety
open Sys2Proof.Machine

/-- Settles O29. -/
theorem resetChannel : Obligations.ResetChannel := by
  unfold Obligations.ResetChannel
  intro r s c l hto hodd hl f leads blankPlay again'
  have hb : r.body.length ≤ 1024 := by rw [hto.length]; decide
  have hleader : leaderOf s c = l := by
    rw [hl]
    split
    · exact leaderOf_follower ‹_›
    · exact leaderOf_self ‹_›
  have hs : (s.ch l).state ≠ .follower := by
    rw [hl]
    split
    · rename_i hc
      intro e
      have h1 := hodd _ e
      have h2 := hodd _ hc
      rw [partner_parity] at h1
      omega
    · assumption
  obtain ⟨u, hu⟩ : ∃ u, u = Machine.resetChannel s l := ⟨_, rfl⟩
  have htaken : takeKind .resetChannel r s = (u, .ok (.stateEntered (u.ch c).state)) := by
    have htake : takeKind .resetChannel r s = _ := takeResetChannel.eq_def r s
    rw [takeCh_of hto rfl] at htake
    rw [htake, hu, ← hleader]
  obtain ⟨hanswered, hends⟩ := request_ends hto.free hb htaken
  have hagain : ∀ d k, again' d k ↔ again s d k = true := fun d k => (again_iff s d k).symm
  obtain ⟨q, hbl, hbf, hq, -⟩ := resetStopped_ch hs
  have hbases := resetBase_bases hs
  obtain ⟨hreset, hkindsL, hkindsF⟩ := reoffered (resetStopped_reset hs) hbases (fun d hd => (resetBase_latched hs hd).1)
    (fun d hd => (resetBase_latched hs hd).2) rfl
  rw [← resetChannel_reoffers, ← hu] at hreset hkindsL hkindsF
  have hcl := hreset.cleared l (.inl rfl)
  obtain ⟨st, x, lt, ff, hul⟩ : ∃ st x lt ff, u.ch l = { (s.ch l).clearRun with
      state := st, stopDest := .idle, port := (s.ch l).port.handNew offDemand, resume := x, latched := lt, firstFault := ff } := by
    refine ⟨(u.ch l).state, (u.ch l).resume, (u.ch l).latched, (u.ch l).firstFault, hcl.rest.trans ?_⟩
    rw [show resetBase s l l = _ from hbl]
  obtain ⟨n, hfinal⟩ := hends.ch hul
  have hlatched : ∀ d, ((arrive (ReqKind.resetChannel.frame r) s).ch d).latched = (u.ch d).latched := fun d =>
    hends.get d Channel.latched
  have hstate : ∀ d, ((arrive (ReqKind.resetChannel.frame r) s).ch d).state = (u.ch d).state := fun d =>
    hends.get d Channel.state
  have hget : ∀ {α : Type} (g : Channel → α), g ((arrive (ReqKind.resetChannel.frame r) s).ch l) = g { { (s.ch l).clearRun with
      state := st, stopDest := .idle, port := (s.ch l).port.handNew offDemand, resume := x, latched := lt, firstFault := ff } with
        periodLength := n } := fun g => congrArg g hfinal
  refine ⟨_, rfl, ?_, fun k => ?_, fun hz => ?_, fun hz => ?_, hget Channel.swapPending, hget Channel.holds, hget Channel.heldBefore,
    hget Channel.queue, hget Channel.stepIndex, hget Channel.stepTime, hget Channel.qStep, hget Channel.eStep, hget Channel.vPeak,
    hget Channel.play, hget Channel.confirms, hget Channel.cycleNumber, hget Channel.cycle, hget Channel.loops,
    hget Channel.lastDir, hget Channel.clamped, hget Channel.stopDest, hget Channel.gapTimer, hget Channel.startTimer,
    hget Channel.unsafeFlag, hget Channel.life, hget Channel.active, hget Channel.staged, hget Channel.settings, hget Channel.cal,
    (hget fun ch => ch.port.standing).trans (handNew_standing _ _), hends.unlisted ((unlisted_iff u l).2 hreset.places),
    fun hlead => ?_, hends.pool.trans hreset.kept.pool, hends.prot.trans hreset.kept.prot,
    (congrArg Arbiter.budget hends.arb).trans hreset.kept.budget, hends.image.trans hreset.kept.image, fun d hd hdf => ?_⟩
  · rw [hstate]
    exact hanswered
  · rw [hlatched]
    have := hkindsL k
    unfold has at this
    rw [this, Bool.or_eq_true, Bool.and_eq_true, Bool.and_eq_true, decide_eq_true_eq, ← hagain, againAny_iff]
    simp only [hagain]
    exact or_congr Iff.rfl ⟨fun ⟨⟨a, b⟩, c⟩ => ⟨b, a, c⟩, fun ⟨b, a, c⟩ => ⟨⟨a, b⟩, c⟩⟩
  · rw [hlatched] at hz
    obtain ⟨hst, hres, hff⟩ := hcl.empty hz
    have hbase : resetBase s l l = _ := hbl
    rw [hstate, hst, hends.get l Channel.firstFault, hff, hends.get l Channel.resume, hres, hbase]
    refine ⟨?_, rfl, rfl, fun hp hpf => ?_⟩
    · cases q
      · exact .inl rfl
      · exact .inr rfl
    · rw [hq hp hpf]; rfl
  · rw [hlatched] at hz
    rw [hstate]
    exact hcl.faulted hz hbases.own
  · have hcf := hreset.cleared f (.inr ⟨hlead, rfl⟩)
    have hbase : resetBase s l f = _ := hbf hlead
    obtain ⟨st, x, lt, ff, huf⟩ : ∃ st x lt ff, u.ch f = { (s.ch f).clearFollower with
        port := (s.ch f).port.handNew offDemand, state := st, resume := x, latched := lt, firstFault := ff } := by
      refine ⟨(u.ch f).state, (u.ch f).resume, (u.ch f).latched, (u.ch f).firstFault, hcf.rest.trans ?_⟩
      rw [hbase]
    obtain ⟨n, hfinal⟩ := hends.ch huf
    have hget : ∀ {α : Type} (g : Channel → α), g ((arrive (ReqKind.resetChannel.frame r) s).ch f) =
        g { { (s.ch f).clearFollower with
          port := (s.ch f).port.handNew offDemand, state := st, resume := x, latched := lt, firstFault := ff } with
            periodLength := n } := fun g => congrArg g hfinal
    refine ⟨(hstate f).trans (hcf.follower.2 (hbases.follower hlead)), fun k => ?_, fun hz => ?_, hget Channel.qStep,
      hget Channel.eStep, hget Channel.vPeak, hget Channel.confirms, hget Channel.play, hget Channel.cycle, hget Channel.loops,
      hget Channel.queue, (hget fun ch => ch.port.standing).trans (handNew_standing _ _), hget Channel.unsafeFlag,
      hget Channel.life, hget Channel.settings, hget Channel.cal⟩
    · rw [hlatched]
      have := hkindsF hlead k
      unfold has at this
      rw [this, Bool.or_eq_true, Bool.and_eq_true, decide_eq_true_eq, ← hagain, againAny_iff]
      simp only [hagain]
      exact Iff.rfl
    · rw [hlatched] at hz
      obtain ⟨-, -, hff⟩ := hcf.empty hz
      rw [hends.get f Channel.firstFault, hff, hbase]
      rfl
  · have hout : ¬Member l leads d := by
      rintro (e | ⟨h1, h2⟩)
      · exact hd e
      · exact hdf.elim (fun h => h h2) fun h => absurd (h1.symm.trans h) (by decide)
    obtain ⟨hkeep, hrun⟩ := hreset.kept.chans d hout
    refine ⟨?_, hends.run hrun⟩
    rw [hends.chans d]
    exact ⟨hkeep.settings, hkeep.cal, hkeep.life, hkeep.lifeSaturated, hkeep.queue, hkeep.last, hkeep.held, hkeep.missed,
      hkeep.taken, hkeep.pack, hkeep.elapsed, hkeep.presence, hkeep.lastConfirmed, hkeep.lineErr, hkeep.lineErrCount,
      hkeep.breaking⟩

end Sys2Proof.Safety
end

section
/-! PROOF. A kind that latches in a member of a pair (R42, R131). -/
namespace Sys2Proof.Machine
open Sys2Proof.Safety

section
variable {s t u : State} {a b c d l : Ch} {k : FaultKind} {value : Int}

/-! ### The link port -/

theorem responded_hall (s : State) (c : Ch) (k : FaultKind) (value : Int) : (responded s c k value).hall = s.hall := by
  unfold responded respond
  split
  · rfl
  · rfl
  · exact (faultChannel_acts _ c).hall

/-- With the hall out of PAUSING the FAULT report is the only one. -/
theorem latchKind_link (hh : s.hall.state ≠ .pausing) :
    (latchKind s c k value).link = s.link.make s.hall.partTime (chByte c) (faultBody s c k value) ∧
      (latchKind s c k value).hall = s.hall := by
  have hreported : (reportCh (responded s c k value) c (faultBody s c k value)).link =
      s.link.make s.hall.partTime (chByte c) (faultBody s c k value) := by
    show (responded s c k value).link.make (responded s c k value).hall.partTime (chByte c) _ = _
    rw [responded_link, responded_hall]
  have hhall : (reportCh (responded s c k value) c (faultBody s c k value)).hall = s.hall := responded_hall s c k value
  have htest : settlingTest (reportCh (responded s c k value) c (faultBody s c k value)) =
      reportCh (responded s c k value) c (faultBody s c k value) := if_neg fun h => hh (hhall ▸ h.1)
  rw [latchKind_eq, htest, ite_self]
  exact ⟨hreported, hhall⟩

theorem latchKind_partTime : (latchKind s c k value).hall.partTime = s.hall.partTime := by
  rw [(latchKind_keeps s c k value).hall]

theorem faultBody_eq (s : State) (c : Ch) (k : FaultKind) (value : Int) : faultBody s c k value =
    .fault k value false (s.ch c).stepIndex (s.ch c).stepTime ((latchKind s c k value).ch c).latched
      ((latchKind s c k value).ch c).state := by
  unfold faultBody
  rw [latchKind_ch]

/-! ### The two members -/

/-- A leader whose pair latches a kind: FAULTED, OFF standing at its port. -/
theorem latchOne_standing {ch : Channel} (hs : ch.state ≠ .faulted) (k : FaultKind) (value : Int) (now : Nat) :
    (ch.latchOne k value now).port.standing = some offDemand := by
  by_cases h : ch.state = .follower
  · rw [Channel.latchOne_follower h]; exact handNew_standing _ _
  · rw [Channel.latchOne_free hs h]; exact handNew_standing _ _

/-- A channel that differs from another in its port at most, OFF standing where it stood. -/
theorem latchKind_other (hd : d ≠ c) : OnlyPort (s.ch d) ((latchKind s c k value).ch d) ∧
    ((s.ch d).port.standing = some offDemand → ((latchKind s c k value).ch d).port.standing = some offDemand) := by
  rcases latchKind_partner s k value hd with h | ⟨-, -, h⟩
  · rw [h]; exact ⟨.refl _, id⟩
  · rw [h]; exact ⟨rfl, fun _ => handNew_standing _ _⟩

/-- The state after a kind has latched in one member and PAIR_PARTNER in the other. -/
def passed (s : State) (a b : Ch) (k : FaultKind) (value : Int) : State :=
  latchKind (latchKind s a k value) b .pairPartner k.code

theorem offer_passed (hw : ∀ set, warns set k = false) (hk : k ≠ .pairPartner) (hp : paired s a = true) (hb : b = partner a)
    (ha0 : (s.ch a).latched = 0) (hb0 : (s.ch b).latched = 0) : offer s a k value = settle (passed s a b k value) := by
  have hnewly : latchesNewly s a k = true := by
    unfold latchesNewly
    rw [hw, ha0, hasKind_zero]; rfl
  have hone : offerOne s a k value = latchKind s a k value := offerOne_latches (hw _) (by rw [ha0, hasKind_zero])
  have hother : ((latchKind s a k value).ch b).latched = 0 := by
    rw [(latchKind_other (by rw [hb]; exact partner_ne a)).1.runFrame.latched]
    exact hb0
  have htwo : offerOne (latchKind s a k value) b .pairPartner k.code = passed s a b k value :=
    offerOne_latches rfl (by rw [hother, hasKind_zero])
  rw [offer_eq, offerPair, if_pos ⟨hnewly, hk, hp⟩, hone, ← hb, htwo]

/-- A member of a pair in which a kind has latched, OFF standing at its port. -/
structure MemberLatched (x y : Channel) (k : FaultKind) (value : Int) (now : Nat) : Prop where
  latched  : ∃ p q, y = { { x with port := p }.latchOne k value now with port := q }
  standing : y.port.standing = some offDemand

theorem OnlyPort.memberLatched {x y z w : Channel} {now : Nat} (h : OnlyPort x y) (hz : z = y.latchOne k value now)
    (hw : OnlyPort z w) (hs : w.port.standing = some offDemand) : MemberLatched x w k value now := by
  refine ⟨⟨y.port, w.port, ?_⟩, hs⟩
  unfold OnlyPort at h hw
  rw [← h, ← hz]
  exact hw

/-- The two members once a kind has latched in one of them: the other has PAIR_PARTNER with its code. -/
theorem passed_members (hb : b = partner a) (hs : (s.ch a).state ≠ .faulted) (hsb : (s.ch b).state ≠ .faulted) :
    MemberLatched (s.ch a) ((passed s a b k value).ch a) k value s.hall.partTime ∧
      MemberLatched (s.ch b) ((passed s a b k value).ch b) .pairPartner k.code s.hall.partTime := by
  have hba : b ≠ a := by rw [hb]; exact partner_ne a
  obtain ⟨x, hx⟩ : ∃ x, x = latchKind s a k value := ⟨_, rfl⟩
  have hxa : x.ch a = (s.ch a).latchOne k value s.hall.partTime := hx ▸ latchKind_self s a k value
  have hxb : OnlyPort (s.ch b) (x.ch b) := hx ▸ (latchKind_other hba).1
  have hnow : x.hall.partTime = s.hall.partTime := hx ▸ latchKind_partTime
  have hfirst := latchKind_other (s := x) (k := .pairPartner) (value := k.code) hba.symm
  unfold passed
  rw [← hx]
  refine ⟨OnlyPort.memberLatched (.refl _) hxa hfirst.1 (hfirst.2 ?_), ?_⟩
  · rw [hxa]; exact latchOne_standing hs _ _ _
  · have hself : (latchKind x b .pairPartner k.code).ch b = (x.ch b).latchOne .pairPartner k.code s.hall.partTime := by
      rw [latchKind_self, hnow]
    refine OnlyPort.memberLatched hxb rfl (by rw [hself]; exact .refl _) ?_
    rw [hself]
    exact latchOne_standing (by rw [OnlyPort.state hxb]; exact hsb) _ _ _

theorem latchKind_places_self (h1 : (s.ch c).state ≠ .faulted) (h2 : (s.ch c).state ≠ .follower) :
    places (latchKind s c k value) c = 0 := by
  rw [places_congr (latchKind_arb s c k value)]
  exact (responded_faulted h1 h2).2.1

theorem latchKind_places_other (hd : d ≠ c) : places (latchKind s c k value) d = places s d := by
  rw [places_congr (latchKind_arb s c k value)]
  exact ((ActsOn.modCh c s _).trans (respond_acts _ c)).places_other hd

theorem latchKind_run (hd : d ≠ c) : RunFrame (s.ch d) ((latchKind s c k value).ch d) := (latchKind_other hd).1.runFrame

/-- The leader's place in the arbiter's collections is empty. -/
theorem passed_places (hb : b = partner a) (hl : l = a ∨ l = b) (h1 : (s.ch l).state ≠ .faulted) (h2 : (s.ch l).state ≠ .follower) :
    places (passed s a b k value) l = 0 := by
  have hba : b ≠ a := by rw [hb]; exact partner_ne a
  rcases hl with rfl | rfl
  · exact (latchKind_places_other hba.symm).trans (latchKind_places_self h1 h2)
  · have hstate := OnlyPort.state (latchKind_other (s := s) (k := k) (value := value) hba).1
    exact latchKind_places_self (by rw [hstate]; exact h1) (by rw [hstate]; exact h2)

theorem passed_keeps : Keeps s (passed s a b k value) := (latchKind_keeps s a k value).trans (latchKind_keeps _ b _ _)

/-- The two FAULT reports, the member's own first (R131). -/
theorem passed_reports (hb : b = partner a) (hh : s.hall.state ≠ .pausing) (hroom : s.link.reports.length ≤ 32) :
    (passed s a b k value).link.reports = s.link.reports ++
      [⟨s.link.nextSeq, s.hall.partTime, chByte a, .fault k value false (s.ch a).stepIndex (s.ch a).stepTime
          ((passed s a b k value).ch a).latched ((passed s a b k value).ch a).state⟩,
        ⟨s.link.nextSeq + 1, s.hall.partTime, chByte b, .fault .pairPartner k.code false (s.ch b).stepIndex (s.ch b).stepTime
          ((passed s a b k value).ch b).latched ((passed s a b k value).ch b).state⟩] := by
  have hba : b ≠ a := by rw [hb]; exact partner_ne a
  obtain ⟨x, hx⟩ : ∃ x, x = latchKind s a k value := ⟨_, rfl⟩
  obtain ⟨hlink, hhall⟩ := latchKind_link (s := s) (c := a) (k := k) (value := value) hh
  rw [← hx] at hlink hhall
  rw [make_room _ _ _ (by omega)] at hlink
  have hroom' : x.link.reports.length < 64 := by rw [hlink, List.length_append, List.length_singleton]; omega
  obtain ⟨hlink2, -⟩ := latchKind_link (s := x) (c := b) (k := .pairPartner) (value := k.code) (by rw [hhall]; exact hh)
  rw [make_room _ _ _ hroom'] at hlink2
  have hsame : OnlyPort (x.ch a) ((passed s a b k value).ch a) := by
    unfold passed
    rw [← hx]
    exact (latchKind_other hba.symm).1
  have hother : OnlyPort (s.ch b) (x.ch b) := hx ▸ (latchKind_other hba).1
  have hbody : faultBody s a k value = .fault k value false (s.ch a).stepIndex (s.ch a).stepTime
      ((passed s a b k value).ch a).latched ((passed s a b k value).ch a).state := by
    rw [faultBody_eq, ← hx, hsame.runFrame.latched, OnlyPort.state hsame]
  have hbody2 : faultBody x b .pairPartner k.code = .fault .pairPartner k.code false (s.ch b).stepIndex (s.ch b).stepTime
      ((passed s a b k value).ch b).latched ((passed s a b k value).ch b).state := by
    rw [faultBody_eq, hother.runFrame.stepIndex, hother.runFrame.stepTime]
    unfold passed
    rw [← hx]
  have hreports : (passed s a b k value).link.reports =
      x.link.reports ++ [⟨x.link.nextSeq, x.hall.partTime, chByte b, faultBody x b .pairPartner k.code⟩] := by
    unfold passed
    rw [← hx]
    exact congrArg Link.reports hlink2
  rw [hreports, hbody2, hhall, hlink, hbody, List.append_assoc]
  rfl

theorem MemberLatched.faulted {x y : Channel} {now : Nat} (h : MemberLatched x y k value now) (h1 : x.state ≠ .faulted)
    (h2 : x.state ≠ .follower) : ∃ p, y = { x.faulted k value now with port := p } := by
  obtain ⟨p, q, hy⟩ := h.latched
  rw [Channel.latchOne_free (by exact h1) (by exact h2)] at hy
  exact ⟨q, hy⟩

theorem MemberLatched.follower {x y : Channel} {now : Nat} (h : MemberLatched x y k value now) (h2 : x.state = .follower) :
    ∃ p, y = { x with
      latched := addKind x.latched k
      firstFault := if x.latched = 0 then some ⟨k, x.stepIndex, x.stepTime, value, now⟩ else x.firstFault
      port := p } := by
  obtain ⟨p, q, hy⟩ := h.latched
  rw [Channel.latchOne_follower (by exact h2)] at hy
  exact ⟨q, hy⟩

/-- The record of a kind that latches in an empty set. -/
theorem MemberLatched.record {x y : Channel} {now : Nat} (h : MemberLatched x y k value now) (hs : x.state ≠ .faulted)
    (h0 : x.latched = 0) :
    y.latched = addKind 0 k ∧ y.firstFault = some ⟨k, x.stepIndex, x.stepTime, value, now⟩ := by
  by_cases hf : x.state = .follower
  · obtain ⟨p, hy⟩ := h.follower hf
    rw [hy, ← h0]
    exact ⟨rfl, if_pos rfl⟩
  · obtain ⟨p, hy⟩ := h.faulted hs hf
    have hfirst : (x.faulted k value now).firstFault = some ⟨k, x.stepIndex, x.stepTime, value, now⟩ := if_pos h0
    rw [hy, ← h0]
    exact ⟨rfl, hfirst⟩

/-- What an offer of a kind to a member of a pair leaves, both latched sets having been empty (R131). -/
structure PairLatches (s t : State) (l a b : Ch) (k : FaultKind) (value : Int) : Prop where
  keeps   : Keeps s t
  own     : MemberLatched (s.ch a) (t.ch a) k value s.hall.partTime
  other   : MemberLatched (s.ch b) (t.ch b) .pairPartner k.code s.hall.partTime
  places  : places t l = 0
  others  : ∀ d, d ≠ a → d ≠ b → RunFrame (s.ch d) (t.ch d)
  reports : s.hall.state ≠ .pausing → s.link.reports.length ≤ 32 → ∃ rest, t.link.reports = s.link.reports ++
    ⟨s.link.nextSeq, s.hall.partTime, chByte a, .fault k value false (s.ch a).stepIndex (s.ch a).stepTime
        (t.ch a).latched (t.ch a).state⟩ ::
      ⟨s.link.nextSeq + 1, s.hall.partTime, chByte b, .fault .pairPartner k.code false (s.ch b).stepIndex (s.ch b).stepTime
        (t.ch b).latched (t.ch b).state⟩ :: rest

/-- The members of a pair: one the leader, the other its follower. -/
structure PairOf (s : State) (l a b : Ch) : Prop where
  lead    : isLeader s l = true
  members : (a = l ∧ b = partner l) ∨ (a = partner l ∧ b = l)

theorem PairOf.partner (h : PairOf s l a b) : b = Machine.partner a := by
  rcases h.members with ⟨rfl, rfl⟩ | ⟨rfl, rfl⟩
  · rfl
  · exact (partner_partner b).symm

theorem PairOf.follower (h : PairOf s l a b) : (s.ch (Machine.partner l)).state = .follower := ((isLeader_iff s l).1 h.lead).2

theorem PairOf.leader (h : PairOf s l a b) : l = a ∨ l = b := h.members.imp (fun e => e.1.symm) fun e => e.2.symm

theorem PairOf.paired (h : PairOf s l a b) : paired s a = true := by
  unfold Machine.paired
  rcases h.members with ⟨rfl, -⟩ | ⟨rfl, -⟩
  · rw [h.lead, Bool.true_or]
  · rw [(isFollower_iff s _).2 h.follower, Bool.or_true]

theorem PairOf.ne_faulted (h : PairOf s l a b) (hl : (s.ch l).state ≠ .faulted) :
    (s.ch a).state ≠ .faulted ∧ (s.ch b).state ≠ .faulted := by
  have hf : (s.ch (Machine.partner l)).state ≠ .faulted := by rw [h.follower]; decide
  rcases h.members with ⟨rfl, rfl⟩ | ⟨rfl, rfl⟩
  · exact ⟨hl, hf⟩
  · exact ⟨hf, hl⟩

/-- Both members are at rest once the leader is FAULTED. -/
theorem faulted_atRest (hl : (s.ch l).state = .faulted) (hf : (s.ch (partner l)).state = .follower) (hd : d = l ∨ d = partner l) :
    AtRest s d := by
  rcases hd with rfl | rfl
  · refine ⟨by rw [hl]; rfl, fun e he hde => ?_⟩
    have := ((isLeader_iff s e).1 he).2
    rw [← hde, hl] at this
    cases this
  · refine ⟨by rw [hf]; rfl, fun e he hde => ?_⟩
    have : e = l := by rw [← partner_partner e, ← hde, partner_partner]
    rw [this, hl]; rfl

theorem offer_pairLatches (h : PairOf s l a b) (hw : ∀ set, warns set k = false) (hk : k ≠ .pairPartner)
    (h1 : (s.ch l).state ≠ .faulted) (h2 : (s.ch l).state ≠ .follower) (ha0 : (s.ch a).latched = 0) (hb0 : (s.ch b).latched = 0) :
    PairLatches s (offer s a k value) l a b k value := by
  obtain ⟨hsa, hsb⟩ := h.ne_faulted h1
  obtain ⟨u, hu⟩ : ∃ u, u = passed s a b k value := ⟨_, rfl⟩
  obtain ⟨hown, hother⟩ := passed_members (k := k) (value := value) h.partner hsa hsb
  have hplaces := passed_places (s := s) (k := k) (value := value) h.partner h.leader h1 h2
  rw [offer_passed hw hk h.paired h.partner ha0 hb0, ← hu]
  rw [← hu] at hown hother hplaces
  have hlead : (u.ch l).state = .faulted := by
    rcases h.leader with rfl | rfl
    · obtain ⟨p, hy⟩ := hown.faulted h1 h2
      rw [hy]; rfl
    · obtain ⟨p, hy⟩ := hother.faulted h1 h2
      rw [hy]; rfl
  have hkeeps : Keeps s u := hu ▸ passed_keeps
  have hfollower : (u.ch (Machine.partner l)).state = .follower := (hkeeps.chans _).follower.2 h.follower
  have hsame : ∀ d, d = a ∨ d = b → (settle u).ch d = u.ch d := fun d hd => by
    refine settle_atRest (faulted_atRest hlead hfollower ?_)
    rcases h.members with ⟨rfl, rfl⟩ | ⟨rfl, rfl⟩
    · exact hd
    · exact hd.symm
  refine ⟨hkeeps.trans (settle_keeps u), ?_, ?_, (settle_unlisted hplaces).places.trans hplaces, fun d hda hdb => ?_,
    fun hh hroom => ?_⟩
  · rw [hsame a (.inl rfl)]; exact hown
  · rw [hsame b (.inr rfl)]; exact hother
  · have hfirst := latchKind_run (s := s) (k := k) (value := value) hda
    have hsecond := latchKind_run (s := latchKind s a k value) (k := .pairPartner) (value := k.code) hdb
    have hboth : RunFrame (s.ch d) (u.ch d) := hu ▸ RunKeeps.trans hfirst hsecond
    exact RunKeeps.trans hboth ((settle_runs u).chans d)
  · obtain ⟨rest, hrest⟩ := settle_grows u
    have hreports := passed_reports (k := k) (value := value) h.partner hh hroom
    rw [← hu] at hreports
    refine ⟨rest, ?_⟩
    rw [hrest, hreports, hsame a (.inl rfl), hsame b (.inr rfl), List.append_assoc]
    rfl

/-- The end of an event, in which a port may have gone on with its demands. -/
structure EndsOn (s t : State) : Prop where
  chans   : ∀ d, ∃ n p, t.ch d = { s.ch d with periodLength := n, port := p } ∧ p.standing = (s.ch d).port.standing
  arb     : t.arb = s.arb
  reports : s.link.sending ≠ none → t.link.reports = s.link.reports

theorem Ends.endsOn (h : Ends s t) : EndsOn s t :=
  ⟨fun d => ⟨_, _, h.chans d, rfl⟩, h.arb, h.reports⟩

theorem EndsOn.get {α : Type} (h : EndsOn s t) (c : Ch) (g : Channel → α)
    (hg : ∀ ch n p, g { ch with periodLength := n, port := p } = g ch := by intros; rfl) : g (t.ch c) = g (s.ch c) := by
  obtain ⟨n, p, e, -⟩ := h.chans c
  rw [e, hg]

theorem EndsOn.standing (h : EndsOn s t) (c : Ch) : (t.ch c).port.standing = (s.ch c).port.standing := by
  obtain ⟨n, p, e, hp⟩ := h.chans c
  rw [e]; exact hp

theorem EndsOn.unlisted (h : EndsOn s t) (hc : Unlisted s c) : Unlisted t c := by
  unfold Unlisted
  rw [h.arb]
  exact hc

/-- A figure of a port that its demand on the way and its transmitter are no part of. -/
theorem pressOn_get {α : Type} (p : Port) (g : Port → α)
    (hg : ∀ (p : Port) a b n x d, g { p with outstanding := a, pending := b, nextTag := n, sending := x, due := d } = g p := by
      intros; rfl) : g p.pressOn = g p := by
  have henqueue : ∀ (q : Port) f, g (q.enqueue f) = g q := fun q f => by
    unfold Port.enqueue
    split
    · exact hg q q.outstanding q.pending q.nextTag _ q.due
    · exact hg q q.outstanding q.pending q.nextTag q.sending _
  unfold Port.pressOn
  split
  · exact (henqueue _ _).trans (hg p _ none _ p.sending p.due)
  · exact henqueue p _
  · rfl

theorem EndsOn.of_pressOn {v : State} (h : Ends (v.modPort a Port.pressOn) t) : EndsOn v t := by
  refine ⟨fun d => ?_, h.arb, h.reports⟩
  by_cases hd : d = a
  · subst hd
    have hch := h.chans d
    rw [State.ch_modPort_self] at hch
    exact ⟨_, _, hch, pressOn_get _ Port.standing⟩
  · have hch := h.chans d
    rw [State.ch_modPort, if_neg hd] at hch
    exact ⟨_, _, hch, rfl⟩

theorem pressOn_frame {r v : State} (h : BoardFrame r v) (a : Ch) : BoardFrame r (v.modPort a Port.pressOn) where
  part := h.part
  image := h.image
  saveInFlight := h.saveInFlight
  pool := h.pool
  budget := h.budget
  prot := h.prot
  hall := h.hall
  chans c := by
    have hc := h.chans c
    rw [State.ch_modPort]
    split
    · rename_i e
      subst e
      exact ⟨hc.settings, hc.cal, hc.life, hc.lifeSaturated, hc.queue, hc.last, hc.held, hc.missed, hc.taken, hc.pack,
        hc.elapsed, (pressOn_get _ Port.presence).trans hc.presence, (pressOn_get _ Port.lastConfirmed).trans hc.lastConfirmed,
        (pressOn_get _ Port.lineErr).trans hc.lineErr, (pressOn_get _ Port.lineErrCount).trans hc.lineErrCount,
        (pressOn_get _ Port.breaking).trans hc.breaking⟩
    · exact hc
  requests := h.requests
  counters := h.counters
  holdTimer := h.holdTimer
  pending := h.pending

/-- A channel that differs from another in its timers and its port. -/
def TimersSet (x y : Channel) : Prop := ∃ m n p, y = { x.timers m n with port := p }

/-- The same in the words of the claims, at the end of the event. -/
theorem PairLatches.taken {z v : State} (h : PairLatches z v l a b k value) (hp : PairOf s l a b)
    (h1 : (s.ch l).state ≠ .faulted) (h2 : (s.ch l).state ≠ .follower) (ha0 : (s.ch a).latched = 0) (hb0 : (s.ch b).latched = 0)
    (hz : ∀ d, TimersSet (s.ch d) (z.ch d)) (hh : z.hall = s.hall) (hlink : z.link = s.link) (he : EndsOn v t) :
    PairFaultTaken s t l a b k value := by
  have hget : ∀ {α : Type} (g : Channel → α), (∀ (x : Channel) m n p, g { x.timers m n with port := p } = g x) →
      ∀ d, g (z.ch d) = g (s.ch d) := fun g hg d => by
    obtain ⟨m, n, p, e⟩ := hz d
    rw [e, hg]
  have hstate : ∀ d, (z.ch d).state = (s.ch d).state := hget Channel.state fun _ _ _ _ => rfl
  have hlatched : ∀ d, (z.ch d).latched = (s.ch d).latched := hget Channel.latched fun _ _ _ _ => rfl
  have hindex : ∀ d, (z.ch d).stepIndex = (s.ch d).stepIndex := hget Channel.stepIndex fun _ _ _ _ => rfl
  have htime : ∀ d, (z.ch d).stepTime = (s.ch d).stepTime := hget Channel.stepTime fun _ _ _ _ => rfl
  have hnow : z.hall.partTime = s.hall.partTime := by rw [hh]
  obtain ⟨hsa, hsb⟩ := hp.ne_faulted h1
  obtain ⟨hla, hfa⟩ := h.own.record (by rw [hstate]; exact hsa) ((hlatched a).trans ha0)
  obtain ⟨hlb, hfb⟩ := h.other.record (by rw [hstate]; exact hsb) ((hlatched b).trans hb0)
  rw [hindex, htime, hnow] at hfa hfb
  have hzl : (z.ch l).state ≠ .faulted ∧ (z.ch l).state ≠ .follower := by rw [hstate]; exact ⟨h1, h2⟩
  have hmember : ∃ k' value', MemberLatched (z.ch l) (v.ch l) k' value' z.hall.partTime := by
    rcases hp.leader with rfl | rfl
    · exact ⟨k, value, h.own⟩
    · exact ⟨.pairPartner, k.code, h.other⟩
  obtain ⟨k', value', hmember⟩ := hmember
  obtain ⟨p, hvl⟩ := hmember.faulted hzl.1 hzl.2
  obtain ⟨n, q, htl, -⟩ := he.chans l
  rw [hvl] at htl
  have hfollower : (v.ch (partner l)).state = .follower := (h.keeps.chans _).follower.2 ((hstate _).trans hp.follower)
  have hstanding : ∀ d, d = l ∨ d = partner l → (v.ch d).port.standing = some offDemand := fun d hd => by
    rcases hp.members with ⟨rfl, rfl⟩ | ⟨rfl, rfl⟩
    · rcases hd with rfl | rfl
      · exact h.own.standing
      · exact h.other.standing
    · rcases hd with rfl | rfl
      · exact h.other.standing
      · exact h.own.standing
  have hfield : ∀ {α : Type} (g : Channel → α), g (t.ch l) = g { { (z.ch l).faulted k' value' z.hall.partTime with port := p } with
      periodLength := n, port := q } := fun g => congrArg g htl
  have hresume : (t.ch l).resume = if (z.ch l).state.engaged then some (resumePointOf (z.ch l)) else (z.ch l).resume :=
    hfield Channel.resume
  have hpoint : resumePointOf (z.ch l) = resumePointOf (s.ch l) := hget resumePointOf (fun _ _ _ _ => rfl) l
  refine ⟨⟨(he.get a Channel.latched).trans hla, (he.get a Channel.firstFault).trans hfa⟩,
    ⟨(he.get b Channel.latched).trans hlb, (he.get b Channel.firstFault).trans hfb⟩,
    ⟨hfield Channel.state, (he.get _ Channel.state).trans hfollower⟩, ?_,
    ⟨hfield Channel.holds, hfield Channel.heldBefore, hfield Channel.swapPending, hfield Channel.gapTimer,
      hfield Channel.startTimer, hfield fun ch => ch.play.underrunTimer⟩, he.unlisted ((unlisted_iff v l).2 h.places),
    fun d hd => (he.standing d).trans (hstanding d hd), fun hhall hs hroom => ?_⟩
  · rw [hresume, hpoint, hstate, hget Channel.resume (fun _ _ _ _ => rfl) l]
    exact if_congr (engaged_iff _) rfl rfl
  · obtain ⟨rest, hrest⟩ := h.reports (by rw [hh]; exact hhall) (by rw [hlink]; exact hroom)
    refine ⟨rest, (he.reports ?_).trans ?_⟩
    · rw [h.keeps.link.sending, hlink]; exact hs
    · rw [hrest, hlink, hnow, hindex, htime, hindex, htime, he.get a Channel.latched, he.get a Channel.state,
        he.get b Channel.latched, he.get b Channel.state]

/-! ### The timers of a pair -/

/-- What a fault of a pair leaves of the rest of the board. -/
def PairFaultsIn (s t : State) (l a b : Ch) (k : FaultKind) (value : Int) : Prop :=
  PairFaultTaken s t l a b k value ∧ BoardFrame s t ∧ ∀ d, d ≠ a → d ≠ b → RunFrame (s.ch d) (t.ch d)

/-- A pair in which nothing is latched, its leader neither FAULTED nor a follower. -/
structure Faultless (s : State) (l a b : Ch) : Prop where
  pair     : PairOf s l a b
  faulted  : (s.ch l).state ≠ .faulted
  follower : (s.ch l).state ≠ .follower
  own      : (s.ch a).latched = 0
  other    : (s.ch b).latched = 0

/-- A change of timers and ports alone. -/
theorem Faultless.offers {z : State} (h : Faultless s l a b) (hz : ∀ d, TimersSet (s.ch d) (z.ch d))
    (hw : ∀ set, warns set k = false) (hk : k ≠ .pairPartner) : PairLatches z (offer z a k value) l a b k value := by
  have hstate : ∀ d, (z.ch d).state = (s.ch d).state := fun d => by obtain ⟨m, n, p, e⟩ := hz d; rw [e]; rfl
  have hlatched : ∀ d, (z.ch d).latched = (s.ch d).latched := fun d => by obtain ⟨m, n, p, e⟩ := hz d; rw [e]; rfl
  refine offer_pairLatches ⟨?_, h.pair.members⟩ hw hk (by rw [hstate]; exact h.faulted) (by rw [hstate]; exact h.follower)
    ((hlatched a).trans h.own) ((hlatched b).trans h.other)
  rw [isLeader_iff, hstate, ← isLeader_iff]
  exact h.pair.lead

theorem TimersSet.refl (x : Channel) : TimersSet x x := ⟨x.startTimer, x.play.underrunTimer, x.port, rfl⟩

theorem TimersSet.modCh {f : Channel → Channel} (h : TimersSet (s.ch c) (f (s.ch c))) (d : Ch) :
    TimersSet (s.ch d) ((s.modCh c f).ch d) := by
  rw [State.ch_modCh]
  split
  · rename_i e; subst e; exact h
  · exact .refl _

/-- A fault of a pair that a timer's expiry brings. -/
theorem Faultless.timer {f : Channel → Channel} (h : Faultless s l a b) (hf : TimersSet (s.ch c) (f (s.ch c)))
    (hkeeps : Keeps s (s.modCh c f)) (hr : ∀ d, RunFrame (s.ch d) ((s.modCh c f).ch d))
    (hw : ∀ set, warns set k = false) (hk : k ≠ .pairPartner) (he : Ends (offer (s.modCh c f) a k value) t) :
    PairFaultsIn s t l a b k value := by
  have hlatches := h.offers (z := s.modCh c f) (value := value) (TimersSet.modCh hf) hw hk
  exact ⟨hlatches.taken h.pair h.faulted h.follower h.own h.other (TimersSet.modCh hf) rfl rfl he.endsOn,
    he.frame (hkeeps.trans hlatches.keeps).frame,
    fun d ha hb => he.run (RunKeeps.trans (hr d) (hlatches.others d ha hb))⟩

/-- A timer of the run that has stopped. -/
theorem timers_keeps {f : Channel → Channel} {m n : Option Nat} (hf : f (s.ch c) = (s.ch c).timers m n) :
    TimersSet (s.ch c) (f (s.ch c)) ∧ Keeps s (s.modCh c f) ∧ ∀ d, RunFrame (s.ch d) ((s.modCh c f).ch d) := by
  refine ⟨⟨m, n, (s.ch c).port, hf⟩,
    Keeps.modCh s c f (by rw [hf]; constructor <;> first | rfl | exact Iff.rfl | exact id), fun d => ?_⟩
  rw [State.ch_modCh]
  split
  · rename_i e
    subst e
    rw [hf]
    constructor <;> first | rfl | exact fun _ => rfl
  · exact RunKeeps.refl _

theorem startTimer_pair (h : Faultless s l l b) (hp : s.part = .ready) (hs : (s.ch l).state = .starting)
    (ht : (s.ch l).startTimer ≠ none) :
    ∃ t, exec (.startTimerExpiry l) s = .next t ∧ PairFaultsIn s t l l b .stageStartTimeout (s.ch l).settings.startTimeout := by
  obtain ⟨hf, hkeeps, hr⟩ := timers_keeps (s := s) (c := l) (f := fun ch => { ch with startTimer := none }) (m := none)
    (n := (s.ch l).play.underrunTimer) rfl
  have hends := event_ends (f := fun s => startTimerExpires s l) hp
  have hact : startTimerExpires s l =
      offer (s.modCh l fun ch => { ch with startTimer := none }) l .stageStartTimeout (s.ch l).settings.startTimeout :=
    if_pos ⟨hs, Option.isSome_iff_ne_none.2 ht⟩
  rw [hact] at hends
  exact ⟨_, rfl, h.timer hf hkeeps hr (fun _ => rfl) (by decide) hends⟩

theorem underrunTimer_pair (h : Faultless s l l b) (hp : s.part = .ready) (ht : (s.ch l).play.underrunTimer ≠ none) :
    ∃ t, exec (.underrunTimerExpiry l) s = .next t ∧ PairFaultsIn s t l l b .profileUnderrun (s.ch l).settings.underrunLimit := by
  obtain ⟨hf, hkeeps, hr⟩ := timers_keeps (s := s) (c := l) (f := fun ch => { ch with play := { ch.play with underrunTimer := none } })
    (m := (s.ch l).startTimer) (n := none) rfl
  have hends := event_ends (f := fun s => underrunExpires s l) hp
  have hact : underrunExpires s l = offer (s.modCh l fun ch => { ch with play := { ch.play with underrunTimer := none } }) l
      .profileUnderrun (s.ch l).settings.underrunLimit := if_pos (Option.isSome_iff_ne_none.2 ht)
  rw [hact] at hends
  exact ⟨_, rfl, h.timer hf hkeeps hr (fun _ => rfl) (by decide) hends⟩

theorem waitTimer_pair (h : Faultless s l l b) (hp : s.part = .ready) {e : Entry} (he : e ∈ s.arb.waiting ++ s.arb.resume)
    (hc : e.ch = l) (ht : e.timer ≠ none) (hm : (s.ch l).settings.excessMode = .abort) :
    ∃ t, exec (.waitTimerExpiry l) s = .next t ∧ PairFaultsIn s t l l b .deferLimit (s.ch l).settings.deferralLimit := by
  obtain ⟨hf, hkeeps, hr⟩ := timers_keeps (s := s) (c := l) (f := fun ch => ch) (m := (s.ch l).startTimer)
    (n := (s.ch l).play.underrunTimer) rfl
  have hends := event_ends (f := fun s => waitTimerExpires s l) hp
  have htimed : (s.arb.waiting.any (Entry.timed l) || s.arb.resume.any (Entry.timed l)) = true :=
    timed_iff.2 ⟨e, he, hc, ht⟩
  have hact : waitTimerExpires s l = offer (s.modCh l fun ch => ch) l .deferLimit (s.ch l).settings.deferralLimit := by
    rw [modCh_self rfl, waitTimerExpires, if_pos htimed, hm]
  rw [hact] at hends
  exact ⟨_, rfl, h.timer hf hkeeps hr (fun _ => rfl) (by decide) hends⟩

theorem confirmationTimer_pair (h : Faultless s l a b) (hp : s.part = .ready) (ht : (s.ch a).port.confTimer ≠ none) {x : Tagged}
    (hx : (s.ch a).port.outstanding = some x) (hm : x.demand.mode ≠ .off) :
    ∃ t, exec (.confirmationTimerExpiry a) s = .next t ∧ PairFaultsIn s t l a b .stageNoAck x.tag.toNat := by
  obtain ⟨n, hn⟩ := Option.ne_none_iff_exists'.1 ht
  obtain ⟨z, hz⟩ : ∃ z, z = s.modPort a fun p => { p with confTimer := none } := ⟨_, rfl⟩
  have hkeeps : Keeps s z := by
    rw [hz]
    exact Keeps.modPort s a _ ⟨rfl, rfl, rfl, rfl, rfl, rfl, fun h => ⟨h.absent, fun e => absurd rfl e⟩⟩
  have htimers : ∀ d, TimersSet (s.ch d) (z.ch d) := hz ▸ TimersSet.modCh (s := s) (c := a)
    ⟨(s.ch a).startTimer, (s.ch a).play.underrunTimer, { (s.ch a).port with confTimer := none }, rfl⟩
  have hrun : ∀ d, RunFrame (s.ch d) (z.ch d) := fun d => by
    obtain ⟨m, n, p, e⟩ := htimers d
    rw [e]
    constructor <;> first | rfl | exact fun _ => rfl
  have hlatches := h.offers (value := x.tag.toNat) htimers (k := .stageNoAck) (fun _ => rfl) (by decide)
  have hact : confirmationExpires s a = (offer z a .stageNoAck x.tag.toNat).modPort a Port.pressOn := by
    unfold confirmationExpires State.port
    rw [hn, hx, hz]
    dsimp only
    rw [if_neg hm]
  have hends := event_ends (f := fun s => confirmationExpires s a) hp
  rw [hact] at hends
  refine ⟨_, rfl, hlatches.taken h.pair h.faulted h.follower h.own h.other htimers (by rw [hz]; rfl) (by rw [hz]; rfl)
    (.of_pressOn hends), hends.frame (pressOn_frame (hkeeps.trans hlatches.keeps).frame a), fun d hda hdb => hends.run ?_⟩
  rw [State.ch_modPort, if_neg hda]
  exact RunKeeps.trans (hrun d) (hlatches.others d hda hdb)

end
end Sys2Proof.Machine
end

section
/-! PROOF. A kind that latches in a member of a pair is passed on to the other, and OFF is handed to its ports, whatever the
act that offers the kind (R131, R42). -/
namespace Sys2Proof.Machine
open Sys2Proof.Safety

section
variable {s t u : State} {a b x : Channel} {c d l : Ch} {k j : FaultKind} {value : Int}

/-! ### The relation -/

/-- A follower's latched set and standing demand stand, or its set is empty, or it has been handed OFF. -/
def HandedOff (a b : Channel) : Prop :=
  (b.latched = a.latched ∧ b.port.standing = a.port.standing) ∨ b.latched = 0 ∨ b.port.standing = some offDemand

theorem HandedOff.refl (a : Channel) : HandedOff a a := .inl ⟨rfl, rfl⟩

theorem HandedOff.trans (h : HandedOff a b) (g : HandedOff b x) : HandedOff a x := by
  rcases g with ⟨hl, hs⟩ | g
  · rcases h with ⟨hl', hs'⟩ | h | h
    · exact .inl ⟨hl.trans hl', hs.trans hs'⟩
    · exact .inr (.inl (hl.trans h))
    · exact .inr (.inr (hs.trans h))
  · exact .inr g

/-- What a pair's leader has newly latched is passed to its follower, and the follower is dealt with. -/
structure PassedOn (s t : State) (l : Ch) : Prop where
  told : ∀ k, k ≠ .pairPartner → hasKind (t.ch l).latched k = true →
    hasKind (s.ch l).latched k = true ∨ hasKind (t.ch (partner l)).latched .pairPartner = true
  off  : HandedOff (s.ch (partner l)) (t.ch (partner l))

/-- An act that clears no kind passes on, in every pair, what it latches. -/
structure Passes (s t : State) : Prop where
  holds    : FaultsHold s t
  follower : ∀ c, (t.ch c).state = .follower ↔ (s.ch c).state = .follower
  passed   : FaultCore s → ∀ l, isLeader s l = true → PassedOn s t l

theorem isLeader_of_follower (h : ∀ c, (t.ch c).state = .follower ↔ (s.ch c).state = .follower) (l : Ch) :
    isLeader t l = isLeader s l := by
  rw [Bool.eq_iff_iff, isLeader_iff, isLeader_iff, h]

theorem PassedOn.trans (h : PassedOn s t l) (g : PassedOn t u l) (hg : FaultsHold t u) : PassedOn s u l := by
  refine ⟨fun k hk hu => ?_, h.off.trans g.off⟩
  rcases g.told k hk hu with ht | hp
  · exact (h.told k hk ht).imp_right fun hp => hg.grows _ _ hp
  · exact .inr hp

theorem Passes.refl (s : State) : Passes s s := ⟨.refl s, fun _ => Iff.rfl, fun _ _ _ => ⟨fun _ _ => .inl, .refl _⟩⟩

theorem Passes.trans (h : Passes s t) (g : Passes t u) : Passes s u :=
  ⟨h.holds.trans g.holds, fun c => (g.follower c).trans (h.follower c), fun hs l hl =>
    (h.passed hs l hl).trans (g.passed (h.holds.core hs) l ((isLeader_of_follower h.follower l).trans hl)) g.holds⟩

theorem Passes.ite (p : Prop) [Decidable p] (ht : Passes s t) (hu : Passes s u) : Passes s (if p then t else u) :=
  iteInduction (motive := Passes s) (fun _ => ht) fun _ => hu

/-! ### Acts that latch nothing -/

/-- An act that leaves the fault records, and the standing demand of a follower whose leader is FAULTED. -/
structure Quietly (s t : State) : Prop where
  kept     : FaultsKept s t
  standing : ∀ l, isLeader s l = true → (s.ch l).state = .faulted →
    (t.ch (partner l)).port.standing = (s.ch (partner l)).port.standing

theorem Quietly.refl (s : State) : Quietly s s := ⟨.refl s, fun _ _ _ => rfl⟩

theorem Quietly.trans (h : Quietly s t) (g : Quietly t u) : Quietly s u :=
  ⟨h.kept.trans g.kept, fun l hl hf =>
    (g.standing l ((isLeader_of_follower (fun c => (h.kept.chans c).follower) l).trans hl) ((h.kept.chans l).faulted.2 hf)).trans
      (h.standing l hl hf)⟩

theorem Quietly.ite (p : Prop) [Decidable p] (ht : Quietly s t) (hu : Quietly s u) : Quietly s (if p then t else u) :=
  iteInduction (motive := Quietly s) (fun _ => ht) fun _ => hu

theorem Quietly.passes (h : Quietly s t) : Passes s t := by
  refine ⟨h.kept.holds, fun c => (h.kept.chans c).follower, fun hs l hl => ⟨fun k _ hk => ?_, ?_⟩⟩
  · rw [(h.kept.chans l).latched] at hk
    exact .inl hk
  · have hlatched := (h.kept.chans (partner l)).latched
    by_cases hf : (s.ch l).state = .faulted
    · exact .inl ⟨hlatched, h.standing l hl hf⟩
    · have hclear := (hs.pair (partner l) ((isLeader_iff s l).1 hl).2).clear
      rw [partner_partner] at hclear
      exact .inr (.inl (hlatched.trans (hclear hf)))

theorem Quietly.of_chans (h : t.chans = s.chans) (hs : t.prot.hallStop = s.prot.hallStop) (hp : t.part = s.part) : Quietly s t :=
  ⟨.of_chans h hs hp, fun l _ _ => by rw [State.ch, State.ch, h]⟩

theorem Quietly.modCh (s : State) (c : Ch) (f : Channel → Channel) (h : FaultSame (s.ch c) (f (s.ch c)))
    (hp : (f (s.ch c)).port.standing = (s.ch c).port.standing) : Quietly s (s.modCh c f) := by
  refine ⟨.modCh s c f h, fun l _ _ => ?_⟩
  by_cases e : partner l = c
  · rw [e, State.ch_modCh_self]; exact hp
  · rw [State.ch_modCh_ne _ e]

/-- A channel changes outside its fault record, its state and its standing demand. -/
theorem Quietly.same (s : State) (c : Ch) (f : Channel → Channel) (hl : (f (s.ch c)).latched = (s.ch c).latched)
    (hf : (f (s.ch c)).firstFault = (s.ch c).firstFault) (hs : (f (s.ch c)).state = (s.ch c).state)
    (hp : (f (s.ch c)).port.standing = (s.ch c).port.standing) : Quietly s (s.modCh c f) :=
  .modCh s c f ⟨hl, hf, by rw [hs], by rw [hs]⟩ hp

/-- The arbiter and the demands of a channel that is neither FAULTED nor FOLLOWER leave the other pairs' ports. -/
theorem Quietly.acts (hc : Unfaulted (s.ch c)) (hk : FaultsKept s t) (ha : ActsOn c s t) : Quietly s t := by
  refine ⟨hk, fun l hl hf => ?_⟩
  have hpl := ((isLeader_iff s l).1 hl).2
  rw [ha.others (partner l) (fun e => hc.2 (e ▸ hpl)) fun h => hc.1 ?_]
  rw [← partner_partner c, ← h.2, partner_partner]
  exact hf

theorem Quietly.settle (s : State) : Quietly s (settle s) := by
  refine ⟨settle_faultsKept s, fun l hl hf => ?_⟩
  rw [settle_atRest (faulted_atRest hf ((isLeader_iff s l).1 hl).2 (.inr rfl))]

theorem Quietly.report (s : State) (c : Ch) (body : ReportBody) : Quietly s (reportCh s c body) :=
  .of_chans rfl rfl rfl

theorem Quietly.unfaulted (h : Quietly s t) (hc : Unfaulted (s.ch c)) : Unfaulted (t.ch c) := h.kept.unfaulted hc

/-! ### A kind offered to one channel -/

theorem offerOne_latchedIn (h : hasKind ((offerOne s c k value).ch d).latched j = true) :
    hasKind (s.ch d).latched j = true ∨ d = c ∧ j = k ∧ latchesNewly s c k = true := by
  rcases offerOne_cases s c k value with ⟨-, hkept⟩ | ⟨hn, hl, ho⟩
  · rw [(hkept.chans d).latched] at h
    exact .inl h
  · by_cases hd : d = c
    · subst hd
      rw [hl.latched, hasKind_addKind, Bool.or_eq_true] at h
      exact h.imp_right fun e => ⟨rfl, of_decide_eq_true e, hn⟩
    · rw [(ho d hd).latched] at h
      exact .inl h

/-- What an offer makes of a follower's set and standing demand. -/
theorem offerOne_handedOff (hd : (s.ch d).state = .follower) : HandedOff (s.ch d) ((offerOne s c k value).ch d) := by
  have hquiet : ∀ t : State, Quietly s t → (∀ e : Ch, (t.ch e).port.standing = (s.ch e).port.standing) →
      HandedOff (s.ch d) (t.ch d) := fun t h hs => .inl ⟨(h.kept.chans d).latched, hs d⟩
  unfold offerOne
  split
  · unfold warnKind
    split
    · exact .refl _
    · refine hquiet _ ((Quietly.same s c (fun ch => setWarned ch k true) ?_ ?_ ?_ ?_).trans (.report _ c _)) fun e => ?_
      iterate 4 cases k <;> rfl
      show ((s.modCh c fun ch => setWarned ch k true).ch e).port.standing = _
      by_cases he : e = c
      · subst he; rw [State.ch_modCh_self]; cases k <;> rfl
      · rw [State.ch_modCh_ne _ he]
  · split
    · exact .refl _
    · by_cases hdc : d = c
      · subst hdc
        rw [latchKind_self, Channel.latchOne_follower hd]
        exact .inr (.inr (handNew_standing _ _))
      · rcases latchKind_partner s k value hdc with h | ⟨-, -, h⟩
        · rw [h]; exact .refl _
        · rw [h]; exact .inr (.inr (handNew_standing _ _))

/-! ### A kind offered to a channel and passed on -/

theorem offerPair_handedOff (hd : (s.ch d).state = .follower) : HandedOff (s.ch d) ((offerPair s c k value).ch d) := by
  have h1 : HandedOff (s.ch d) ((offerOne s c k value).ch d) := offerOne_handedOff hd
  have h2 : ((offerOne s c k value).ch d).state = .follower := (offerOne_follower s c d k value).2 hd
  exact iteInduction (motive := fun t : State => HandedOff (s.ch d) (t.ch d)) (fun _ => h1.trans (offerOne_handedOff h2)) fun _ => h1

theorem offerPair_told (hl : isLeader s l = true) (hj : j ≠ .pairPartner)
    (h : hasKind ((offerPair s c k value).ch l).latched j = true) :
    hasKind (s.ch l).latched j = true ∨ hasKind ((offerPair s c k value).ch (partner l)).latched .pairPartner = true := by
  have hfirst : hasKind ((offerOne s c k value).ch l).latched j = true → hasKind (s.ch l).latched j = true ∨
      l = c ∧ j = k ∧ latchesNewly s c k = true := offerOne_latchedIn
  unfold offerPair at h ⊢
  split
  · rename_i hcond
    rw [if_pos hcond] at h
    rcases offerOne_latchedIn h with h | ⟨-, e, -⟩
    · refine (hfirst h).imp_right fun ⟨hlc, _, _⟩ => ?_
      rw [hlc]
      exact offerOne_hasKind _ rfl
    · exact absurd e hj
  · rename_i hcond
    rw [if_neg hcond] at h
    refine (hfirst h).imp_right fun ⟨hlc, hjk, hn⟩ => absurd ⟨hn, hjk ▸ hj, ?_⟩ hcond
    rw [← hlc, paired_iff]
    exact .inl ((isLeader_iff s l).1 hl)

theorem Passes.offer (s : State) (c : Ch) (value : Int) (hk : k ≠ .pairPartner) : Passes s (offer s c k value) := by
  have hquiet := Quietly.settle (offerPair s c k value)
  refine ⟨offer_faults s c value hk, fun d => (hquiet.kept.chans d).follower.trans (offerPair_follower s c d k value), fun hs l hl => ?_⟩
  have hlead : isLeader (offerPair s c k value) l = true :=
    (isLeader_of_follower (offerPair_follower s c · k value) l).trans hl
  have hpair : PassedOn s (offerPair s c k value) l :=
    ⟨fun j hj h => offerPair_told hl hj h, offerPair_handedOff ((isLeader_iff s l).1 hl).2⟩
  exact hpair.trans (hquiet.passes.passed (offerPair_core value hk hs) l hlead) hquiet.kept.holds

/-! ### The hall stop line -/

theorem offerHallStop_handedOff (cs : List Ch) (hd : (s.ch d).state = .follower) :
    HandedOff (s.ch d) ((offerHallStop s cs).1.ch d) := by
  induction cs generalizing s with
  | nil => exact .refl _
  | cons c cs ih => exact (offerOne_handedOff hd).trans (ih ((offerOne_follower s c d .hallStop 0).2 hd))

theorem passHallStop_handedOff (newly cs : List Ch) (hd : (s.ch d).state = .follower) :
    HandedOff (s.ch d) ((passHallStop newly s cs).ch d) := by
  induction cs generalizing s with
  | nil => exact .refl _
  | cons c cs ih =>
    refine iteInduction (motive := fun v : State => HandedOff (s.ch d) ((passHallStop newly v cs).ch d))
      (fun _ => (offerOne_handedOff hd).trans (ih ((offerOne_follower s _ d _ _).2 hd))) fun _ => ih hd

theorem offerHallStop_latchedIn (cs : List Ch) (h : hasKind ((offerHallStop s cs).1.ch d).latched j = true) :
    hasKind (s.ch d).latched j = true ∨ j = .hallStop ∧ d ∈ (offerHallStop s cs).2 := by
  induction cs generalizing s with
  | nil => exact .inl h
  | cons c cs ih =>
    have hlist : ∀ e, e ∈ (offerHallStop (offerOne s c .hallStop 0) cs).2 → e ∈ (offerHallStop s (c :: cs)).2 := fun e he =>
      iteInduction (motive := fun l : List Ch => e ∈ l) (fun _ => List.mem_cons_of_mem _ he) fun _ => he
    rcases ih h with h | ⟨hj, hd⟩
    · refine (offerOne_latchedIn h).imp_right fun ⟨hdc, hjk, hn⟩ => ⟨hjk, ?_⟩
      show d ∈ if latchesNewly s c .hallStop then c :: _ else _
      rw [if_pos hn, hdc]
      exact List.mem_cons_self
    · exact .inr ⟨hj, hlist d hd⟩

theorem passHallStop_latchedIn (newly cs : List Ch) (hj : j ≠ .pairPartner)
    (h : hasKind ((passHallStop newly s cs).ch d).latched j = true) : hasKind (s.ch d).latched j = true := by
  induction cs generalizing s with
  | nil => exact h
  | cons c cs ih =>
    have h' := ih h
    split at h'
    · exact (offerOne_latchedIn h').resolve_right fun e => hj e.2.1
    · exact h'

/-- The partner of a member in which HALL_STOP latched newly is passed PAIR_PARTNER. -/
theorem passHallStop_partner {newly cs : List Ch} (hc : c ∈ cs) (hn : c ∈ newly) (hp : paired s c = true) :
    hasKind ((passHallStop newly s cs).ch (partner c)).latched .pairPartner = true := by
  induction cs generalizing s with
  | nil => cases hc
  | cons d cs ih =>
    rcases List.mem_cons.1 hc with rfl | hc
    · refine passHallStop_grows newly cs _ _ _ ?_
      rw [if_pos (by simp [hn, hp])]
      exact offerOne_hasKind _ rfl
    · refine ih hc ?_
      split
      · rw [(offerOne_keeps _ _ _ _).paired]; exact hp
      · exact hp

/-- The assertion of the hall stop line passes on, in every pair, what it latches. -/
theorem hallStopActs_passedOn (hl : isLeader s l = true) (h : FaultCore s) : PassedOn s (hallStopActs s) l := by
  obtain ⟨z, hz⟩ : ∃ z, z = reportPart (emptyCollections s) (.hallStopAlarm true) := ⟨_, rfl⟩
  have hzch : ∀ d, z.ch d = s.ch d := fun d => by rw [hz]; rfl
  have hzl : isLeader z l = true := (isLeader_of_follower (fun c => by rw [hzch]) l).trans hl
  have hzf : (z.ch (partner l)).state = .follower := ((isLeader_iff z l).1 hzl).2
  obtain ⟨newly, hnewly⟩ : ∃ n, n = (offerHallStop z allCh).2 := ⟨_, rfl⟩
  obtain ⟨v, hv⟩ : ∃ v, v = (offerHallStop z allCh).1 := ⟨_, rfl⟩
  obtain ⟨w, hw⟩ : ∃ w, w = passHallStop newly v allCh := ⟨_, rfl⟩
  have hvkeeps : Keeps z v := hv ▸ offerHallStop_keeps allCh z
  have hwkeeps : Keeps v w := hw ▸ passHallStop_keeps newly allCh v
  have hvf : (v.ch (partner l)).state = .follower := (hvkeeps.chans _).follower.2 hzf
  have hvl : isLeader v l = true := (hvkeeps.isLeader l).trans hzl
  have hwl : isLeader w l = true := (hwkeeps.isLeader l).trans hvl
  have hfault : hasKind (w.ch l).latched .hallStop = true := by
    rw [hw]
    refine passHallStop_grows _ _ _ l _ ?_
    rw [hv]
    exact offerHallStop_hasKind (mem_allCh l) z
  have hwpassed : PassedOn s w l := by
    refine ⟨fun k hk hkw => ?_, ?_⟩
    · rw [hw] at hkw
      have hkv := passHallStop_latchedIn newly allCh hk hkw
      rw [hv] at hkv
      rw [← hzch l]
      refine (offerHallStop_latchedIn allCh hkv).imp_right fun ⟨_, hin⟩ => ?_
      rw [hw]
      exact passHallStop_partner (mem_allCh l) (hnewly ▸ hin) ((paired_iff v l).2 (.inl ((isLeader_iff v l).1 hvl)))
    · rw [← hzch (partner l)]
      have h1 : HandedOff (z.ch (partner l)) (v.ch (partner l)) := hv ▸ offerHallStop_handedOff allCh hzf
      exact h1.trans (hw ▸ passHallStop_handedOff newly allCh hvf)
  have hquiet := Quietly.settle w
  have hlsettle : hallStopActs s = settle w := by rw [hw, hnewly, hv, hz]; rfl
  rw [hlsettle]
  have hown : FaultOwn (w.ch l) := by
    rw [hw]
    refine passHallStop_own _ _ (fun d => ?_) l
    rw [hv]
    exact offerHallStop_own allCh (fun d => by rw [hzch]; exact h.own d) d
  have hlf : (w.ch l).state = .faulted := hasKind_faulted hown (fun e => absurd ((isLeader_iff s l).1 hl).1 ?_) hfault
  · refine ⟨fun k hk hkt => ?_, ?_⟩
    · rw [(hquiet.kept.chans l).latched] at hkt
      rw [(hquiet.kept.chans (partner l)).latched]
      exact hwpassed.told k hk hkt
    · exact hwpassed.off.trans (.inl ⟨(hquiet.kept.chans _).latched, hquiet.standing l hwl hlf⟩)
  · have hsl : (s.ch l).state = .follower := by
      rw [← hzch l]
      exact (hvkeeps.chans l).follower.1 ((hwkeeps.chans l).follower.1 e)
    have := h.odd l hsl
    omega

end
end Sys2Proof.Machine
end

section
/-! PROOF. The events that offer kinds pass on, in every pair, what they latch (R131). -/
namespace Sys2Proof.Machine
open Sys2Proof.Safety

section
variable {s t u : State} {c d l : Ch} {k : FaultKind}

/-! ### Readings and periods -/

theorem Quietly.ports (s : State) (c : Ch) (f : Port → Port) (h : (f (s.ch c).port).standing = (s.ch c).port.standing) :
    Quietly s (s.modPort c f) := .same s c _ rfl rfl rfl h

theorem Quietly.settlingTest (s : State) : Quietly s (settlingTest s) := by
  unfold Machine.settlingTest
  exact .ite _ (.of_chans rfl rfl rfl) (.refl s)

theorem Quietly.setWarned (s : State) (c : Ch) (k : FaultKind) (w : Bool) : Quietly s (s.modCh c fun ch => setWarned ch k w) := by
  refine .same s c _ ?_ ?_ ?_ ?_ <;> cases k <;> rfl

theorem limitCheck_passes (s : State) (c : Ch) (v : Nat) (i t : Int) (value : Int) (hk : k ≠ .pairPartner) :
    Passes s (limitCheck s c v i t k value) := by
  unfold limitCheck
  exact .ite _ (.offer s c value hk) (Quietly.setWarned s c k false).passes

theorem voltageChecks_passes (s : State) (c : Ch) (v : Nat) (i t : Int) : Passes s (voltageChecks s c v i t) :=
  (limitCheck_passes s c v i t _ (by decide)).trans (limitCheck_passes _ c v i t _ (by decide))

theorem temperatureChecks_passes (s : State) (c : Ch) (v : Nat) (i t : Int) : Passes s (temperatureChecks s c v i t) :=
  (limitCheck_passes s c v i t _ (by decide)).trans (limitCheck_passes _ c v i t _ (by decide))

theorem readingChecks_passes (s : State) (c : Ch) (rd : Reading) : Passes s (readingChecks s c rd) := by
  unfold readingChecks
  have hlimit : ∀ t, Passes t (limitCheck t c rd.v rd.i rd.t .limitI rd.i) := fun t =>
    limitCheck_passes t c rd.v rd.i rd.t rd.i (by decide)
  exact .ite _ (hlimit s) (((voltageChecks_passes s c _ _ _).trans (hlimit _)).trans (temperatureChecks_passes _ c _ _ _))

theorem stageFlags_passes (s : State) (c : Ch) (rd : Reading) : Passes s (stageFlags s c rd) := by
  have hflags := Passes.ite (s := s) ((rd.fault || rd.interlock) = true)
    (.offer s c ((if rd.fault then 1 else 0) + (if rd.interlock then 2 else 0)) (k := .stageReported) (by decide)) (.refl s)
  unfold stageFlags
  dsimp only
  exact (hflags.trans (.ite _ (Quietly.report _ c _).passes (.refl _))).trans (Quietly.same _ c _ rfl rfl rfl rfl).passes

theorem completePack_passes (s : State) (c : Ch) (takenL takenF : Bool) : Passes s (completePack s c takenL takenF) := by
  unfold completePack
  dsimp only
  have hpack : ∀ p, Passes s (s.modCh c fun ch => { ch with pack := p }) := fun p => (Quietly.same s c _ rfl rfl rfl rfl).passes
  have hchecks := fun p => (hpack p).trans (Passes.ite ((takenL || takenF) = true)
    ((voltageChecks_passes (s.modCh c fun ch => { ch with pack := p }) c p.v p.i p.t).trans
      (temperatureChecks_passes _ c p.v p.i p.t)) (.refl _))
  refine .ite _ (.ite _ ((hchecks _).trans (.offer _ c _ (by decide)))
    ((hchecks _).trans (Quietly.setWarned _ c _ _).passes)) (hchecks _)

theorem portSettled_quietly (s : State) (c : Ch) : Quietly s (portSettled s c) := by
  unfold portSettled
  dsimp only
  split
  · rename_i h
    have hc : Unfaulted (s.ch (leaderOf s c)) := ⟨by rw [h.1]; decide, by rw [h.1]; decide⟩
    exact (Quietly.acts hc (finishStop_faultsKept hc) (.modCh _ s _)).trans (.settlingTest _)
  · exact .settlingTest s

theorem send_standing (p : Port) (d : Demand) : (p.send d).standing = p.standing := by
  unfold Port.send Port.enqueue
  dsimp only
  split <;> rfl

theorem becomePresent_standing (p : Port) : p.becomePresent.standing = p.standing := by
  unfold Port.becomePresent
  dsimp only
  split
  · rfl
  · split
    · rfl
    · exact send_standing _ _

theorem makePresent_quietly (s : State) (c : Ch) : Quietly s (makePresent s c) := by
  unfold makePresent
  have hport := Quietly.ports s c Port.becomePresent (becomePresent_standing _)
  exact .ite _ (.refl s) (.ite _ (hport.trans (portSettled_quietly _ c)) hport)

theorem takeReading_passes (s : State) (c : Ch) (raw : RawReading) : Passes s (takeReading s c raw) := by
  have hkeep : ∀ rd : Reading, Passes s (makePresent (stageFlags (readingChecks (s.modCh c fun ch =>
      { ch with last := rd, held := false, missed := 0, taken := true,
                unsafeFlag := if rd.reg = .off then false else ch.unsafeFlag }) c rd) c rd) c) := fun rd =>
    ((Quietly.same s c _ rfl rfl rfl rfl).passes.trans ((readingChecks_passes _ c rd).trans (stageFlags_passes _ c rd))).trans
      (makePresent_quietly _ c).passes
  unfold takeReading
  exact .ite _ (((hkeep _).trans (Quietly.same _ _ _ rfl rfl rfl rfl).passes).trans (completePack_passes _ _ _ _)) (hkeep _)

theorem readingArrives_passes (s : State) (c : Ch) (after : Bool) (raw : RawReading) : Passes s (readingArrives s c after raw) := by
  unfold readingArrives
  exact .ite _ ((Quietly.ports s c _ rfl).passes.trans (takeReading_passes _ c raw)) (Quietly.ports s c _ rfl).passes

theorem missPeriod_passes (s : State) (c : Ch) : Passes s (missPeriod s c) := by
  unfold missPeriod
  dsimp only
  have hmiss : ∀ n : Channel → Nat, Passes s (s.modCh c fun ch => { ch with held := true, missed := n ch }) := fun n =>
    (Quietly.same s c _ rfl rfl rfl rfl).passes
  exact .ite _ ((hmiss _).trans (.offer _ c _ (by decide))) (hmiss _)

theorem stageSettle_passes (s : State) (c : Ch) (taken partnerTaken packDone : Bool) :
    Passes s (stageSettle s c taken partnerTaken packDone) := by
  unfold stageSettle
  have h0 := Passes.ite (taken = true) (Passes.refl s) (missPeriod_passes s c)
  have h1 := h0.trans (Passes.ite (partnerTaken = true) (Passes.refl _) (missPeriod_passes _ (partner c)))
  exact .ite _ (.ite _ h1 (h1.trans (completePack_passes _ c _ _))) h0

/-! ### Playback -/

theorem goIntoUnderrun_passes (s : State) (c : Ch) : Passes s (goIntoUnderrun s c) := by
  unfold goIntoUnderrun
  exact .ite _ ((Quietly.same s c _ rfl rfl rfl rfl).passes.trans (.offer _ c _ (by decide)))
    (Quietly.same s c _ rfl rfl rfl rfl).passes

theorem restartUnderrun_passes (s : State) (c : Ch) : Passes s (restartUnderrun s c) := by
  unfold restartUnderrun
  split
  · exact .ite _ (goIntoUnderrun_passes s c) (.refl s)
  · exact .refl s

theorem advancePlayback_passes (s : State) (c : Ch) (counted : Bool) : Passes s (advancePlayback s c counted) := by
  obtain ⟨q, p, hpoint⟩ := advancePoint_eq (s.ch c) counted
  have hlow : ∀ t, Passes t (lowWaterTest t c) := fun t => by
    unfold lowWaterTest
    exact .ite _ ((Quietly.same t c _ rfl rfl rfl rfl).trans (.report _ c _)).passes (.refl t)
  have h0 : Passes s (s.modCh c fun _ => (advancePoint (s.ch c) counted).1) := by
    rw [hpoint]; exact (Quietly.same s c _ rfl rfl rfl rfl).passes
  have h1 := h0.trans (Passes.ite ((advancePoint (s.ch c) counted).2 = true) (hlow _) (.refl _))
  exact .ite _ (h1.trans (goIntoUnderrun_passes _ c)) h1

/-! ### The stages of a period event -/

theorem stageTime_quietly (s : State) (c : Ch) (n : Nat) : Quietly s (stageTime s c n) := by
  unfold stageTime
  exact .ite _ (.same s c _ rfl rfl rfl rfl) (.refl s)

theorem integratePeriod_quietly (s : State) (c : Ch) (n : Nat) : Quietly s (integratePeriod s c n) := by
  unfold integratePeriod
  refine .ite _ (.same s c _ ?_ ?_ ?_ ?_) (.refl s) <;> unfold Channel.integrate <;> dsimp only <;>
    repeat' first | rfl | split

theorem stagePeak_quietly (s : State) (c : Ch) (taken : Bool) : Quietly s (stagePeak s c taken) := by
  unfold stagePeak
  exact .ite _ (.same s c _ rfl rfl rfl rfl) (.refl s)

theorem grantLive_acts (s : State) (c : Ch) : ActsOn c s (grantLive s c) :=
  (modGrant_acts s c (fun g => { g with live := true }) fun _ => rfl).trans (.evalDue c _ true)

theorem stageStart_passes (s : State) (c : Ch) (taken : Bool) : Passes s (stageStart s c taken) := by
  unfold stageStart
  split
  · rename_i h
    have hc : Unfaulted (s.ch c) := ⟨by rw [h.1]; decide, by rw [h.1]; decide⟩
    have hrun : FaultsKept s (s.modCh c fun ch => { ch with state := .running, startTimer := none }) :=
      .enter hc _ ⟨by simp, by simp⟩ rfl rfl
    have hlive := Quietly.acts hc (hrun.trans (grantLive_faultsKept _ c)) ((ActsOn.modCh c s _).trans (grantLive_acts _ c))
    exact (hlive.trans (.settle _)).passes.trans (restartUnderrun_passes _ c)
  · exact .refl s

theorem stagePlay_passes (s : State) (c : Ch) (counted : Bool) : Passes s (stagePlay s c counted) := by
  unfold stagePlay
  split
  · exact .ite _ (advancePlayback_passes s c counted) (.refl s)
  · exact .refl s

theorem endStep_quietly (hc : Unfaulted (s.ch c)) (r : StepRecord) (reason : EndReason) (action : Action) :
    Quietly s (endStep s c r reason action) := by
  refine ⟨endStep_faultsKept hc r reason action, fun l hl hf => ?_⟩
  have hpl := ((isLeader_iff s l).1 hl).2
  have hlc : l ≠ c := fun e => hc.1 (e ▸ hf)
  have hsame : ∀ d, d = l ∨ d = partner l → (stepEnded s c r reason action).ch d = s.ch d := fun d hd => by
    refine (stepEnded_acts s c r reason action).others d ?_ fun h => ?_
    · rcases hd with rfl | rfl
      · exact hlc
      · exact fun e => hc.2 (e ▸ hpl)
    · have hdf := ((isLeader_iff s c).1 h.1).2
      rw [← h.2] at hdf
      rcases hd with rfl | rfl
      · rw [hf] at hdf; cases hdf
      · exact hlc (by rw [← partner_partner l, h.2, partner_partner])
  have hrest : AtRest (stepEnded s c r reason action) (partner l) :=
    faulted_atRest (l := l) (by rw [hsame l (.inl rfl)]; exact hf) (by rw [hsame _ (.inr rfl)]; exact hpl) (.inr rfl)
  rw [endStep_eq, settle_atRest hrest, hsame _ (.inr rfl)]

theorem stageTests_quietly (s : State) (c : Ch) (taken : Bool) : Quietly s (stageTests s c taken) := by
  unfold stageTests
  split
  · rename_i h
    have hc := isRunning_unfaulted h
    unfold endTests
    split
    · exact .refl s
    · rename_i r _
      dsimp only
      have h0 : ∀ x, Quietly s (s.modCh c fun ch => { ch with confirms := x }) := fun x => .same s c _ rfl rfl rfl rfl
      split
      · exact (h0 _).trans (endStep_quietly ((h0 _).unfaulted hc) r _ _)
      · exact .ite _ ((h0 _).trans (endStep_quietly ((h0 _).unfaulted hc) r _ _)) (h0 _)
  · exact .refl s

theorem stageRefresh_quietly (s : State) (c : Ch) : Quietly s (stageRefresh s c) := by
  unfold stageRefresh
  split
  · rename_i h
    exact .acts ⟨by rcases h with h | h <;> rw [h] <;> decide, by rcases h with h | h <;> rw [h] <;> decide⟩
      (issue_faultsKept s c) (issue_acts s c)
  · exact .refl s

theorem stagesLater_passes (s : State) (c : Ch) (taken counted : Bool) : Passes s (stagesLater s c taken counted) := by
  unfold stagesLater
  exact .ite _ (.refl s) ((((stagePeak_quietly s c taken).passes.trans (stageStart_passes _ c taken)).trans
    (stagePlay_passes _ c counted)).trans
      ((stageTests_quietly _ c taken).trans (stageRefresh_quietly _ c)).passes)

theorem restartPeriod_quietly (s : State) (c : Ch) : Quietly s (restartPeriod s c) := by
  have hfold : ∀ (l : List Ch) (t : State), Quietly s t →
      Quietly s (l.foldl (fun t d => t.modCh d fun ch => { ch with periodLength := periodInForce s c }) t) := by
    intro l
    induction l with
    | nil => exact fun t h => h
    | cons d l ih => exact fun t h => ih _ (h.trans (.same t d _ rfl rfl rfl rfl))
  exact hfold _ _ (.refl s)

theorem openPeriod_quietly (s : State) (c : Ch) (n : Nat) : Quietly s (openPeriod s c n) := by
  exact .same s c _ rfl rfl rfl (openPeriod_get _ Port.standing)

theorem periodExpires_passes (s : State) (c : Ch) : Passes s (periodExpires s c) := by
  have hopen : ∀ n, Quietly s (if isLeader s c then openPeriod (openPeriod s c n) (partner c) n else openPeriod s c n) :=
    fun n => .ite _ ((openPeriod_quietly s c n).trans (openPeriod_quietly _ _ n)) (openPeriod_quietly s c n)
  unfold periodExpires
  refine .ite _ (.refl s) ?_
  unfold periodEventOf
  dsimp only
  have hsettle := (hopen (periodInForce s c)).passes.trans (stageSettle_passes _ c (s.ch c).taken (s.ch (partner c)).taken
    (s.ch c).packDone)
  refine Passes.trans (Passes.trans (Passes.trans (hsettle.trans (Quietly.passes ?_))
    (integratePeriod_quietly _ c _).passes) (stagesLater_passes _ c _ _)) (restartPeriod_quietly _ c).passes
  exact .ite _ (.refl _) (stageTime_quietly _ c _)

/-! ### Timers and lines -/

theorem pressOn_quietly (s : State) (c : Ch) : Quietly s (s.modPort c Port.pressOn) :=
  .ports s c _ (pressOn_get _ Port.standing)

theorem offerUnsafe_passes (s : State) (c : Ch) (tag : BitVec 4) : Passes s (offerUnsafe s c tag) :=
  (Quietly.same s c _ rfl rfl rfl rfl).passes.trans (.offer _ c _ (by decide))

theorem confirmationExpires_passes (s : State) (c : Ch) : Passes s (confirmationExpires s c) := by
  unfold confirmationExpires
  split
  · rename_i t _ _
    have h0 := (Quietly.ports s c (fun p => { p with confTimer := none }) rfl).passes.trans
      (.offer _ c (k := .stageNoAck) t.tag.toNat (by decide))
    exact (h0.trans (.ite _ (offerUnsafe_passes _ c t.tag) (.refl _))).trans (pressOn_quietly _ c).passes
  · exact .refl s

theorem startTimerExpires_passes (s : State) (c : Ch) : Passes s (startTimerExpires s c) := by
  unfold startTimerExpires
  exact .ite _ ((Quietly.same s c _ rfl rfl rfl rfl).passes.trans (.offer _ c _ (by decide))) (.refl s)

theorem waitTimerExpires_passes (s : State) (c : Ch) : Passes s (waitTimerExpires s c) := by
  unfold waitTimerExpires
  split
  · split
    · have hmod : ∀ f : Arbiter → Arbiter, Quietly s (s.modArb f) := fun f => .of_chans rfl rfl rfl
      exact (hmod _).passes
    · exact .offer s c _ (by decide)
  · exact .refl s

theorem underrunExpires_passes (s : State) (c : Ch) : Passes s (underrunExpires s c) := by
  unfold underrunExpires
  exact .ite _ ((Quietly.same s c _ rfl rfl rfl rfl).passes.trans (.offer _ c _ (by decide))) (.refl s)

theorem offerAlarm_passes (line : LineNo) (p : Ch → Bool) (cs : List Ch) (s : State) : Passes s (offerAlarm line p s cs) := by
  induction cs generalizing s with
  | nil => exact .refl s
  | cons c cs ih => exact Passes.trans (.ite _ (.offer s c _ (by decide)) (.refl s)) (ih _)

theorem modLine_quietly (s : State) (line : LineNo) (f : AlarmLine → AlarmLine) : Quietly s (s.modLine line f) :=
  .of_chans rfl rfl rfl

theorem alarmRawChange_passes (s : State) (line : LineNo) (level : Bool) : Passes s (alarmRawChange s line level) := by
  unfold alarmRawChange
  have h0 : Passes s (s.modLine line fun l => l.setRaw level) := (modLine_quietly s line _).passes
  exact .ite _ (.refl s) (.ite _ (h0.trans (offerAlarm_passes line _ allCh _)) h0)

/-! ### Every event -/

/-- No kind latches newly. -/
def Unlatched (s t : State) : Prop := ∀ c k, hasKind (t.ch c).latched k = true → hasKind (s.ch c).latched k = true

theorem FaultsKept.unlatched (h : FaultsKept s t) : Unlatched s t := fun c k hk => by rwa [(h.chans c).latched] at hk

/-- What an event or a request does in every pair: nothing latches newly, or what latches is passed on. -/
def PassesOn (s t : State) : Prop := Unlatched s t ∨ (FaultCore s → ∀ l, isLeader s l = true → PassedOn s t l)

theorem FaultsKept.passesOn (h : FaultsKept s t) : PassesOn s t := .inl h.unlatched

theorem Passes.passesOn (h : Passes s t) : PassesOn s t := .inr h.passed

/-- Every event that acts only in READY passes on, in every pair, what it latches. -/
theorem eventAct_passesOn {i : Instr} {f : State → State} (hf : eventAct i = some f) (s : State) : PassesOn s (f s) := by
  cases i with
  | lineBreakEnd c => cases hf; exact (FaultsKept.ite _ (FaultsKept.modPort s c _) (.refl s)).passesOn
  | stageFrameWhollySent c => cases hf; exact (FaultsKept.modCh_same s c _ rfl rfl rfl).passesOn
  | confirm c tag => cases hf; exact (confirmArrives_faultsKept s c tag).passesOn
  | reading c after raw => cases hf; exact (readingArrives_passes s c after raw).passesOn
  | stageBadFrame c _ => cases hf; exact (FaultsKept.modPort s c _).passesOn
  | stageByteGapTimeout c => cases hf; exact (FaultsKept.modPort s c _).passesOn
  | confirmationTimerExpiry c => cases hf; exact (confirmationExpires_passes s c).passesOn
  | periodEvent c => cases hf; exact (periodExpires_passes s c).passesOn
  | gapTimerExpiry c => cases hf; exact (gapTimerExpires_faultsKept s c).passesOn
  | startTimerExpiry c => cases hf; exact (startTimerExpires_passes s c).passesOn
  | grantHoldExpiry c => cases hf; exact (grantHoldExpires_faultsKept s c).passesOn
  | waitTimerExpiry c => cases hf; exact (waitTimerExpires_passes s c).passesOn
  | underrunTimerExpiry c => cases hf; exact (underrunExpires_passes s c).passesOn
  | hallStopAssert =>
    cases hf
    unfold hallStopAsserts
    split
    · exact (FaultsKept.refl s).passesOn
    · obtain ⟨z, hz⟩ : ∃ z, z = s.modProt fun p => { p with hallStop := true } := ⟨_, rfl⟩
      have hch : ∀ d, z.ch d = s.ch d := fun d => by rw [hz]; rfl
      have hcore : FaultCore s → FaultCore z := fun h => by rw [hz]; exact ⟨h.own, h.odd, h.pair⟩
      rw [← hz]
      refine .inr fun h l hl => ?_
      have hpassed := hallStopActs_passedOn ((isLeader_of_follower (fun c => by rw [hch]) l).trans hl) (hcore h)
      exact ⟨by rw [← hch l]; exact hpassed.told, by rw [← hch (partner l)]; exact hpassed.off⟩
  | hallStopDeassert =>
    cases hf
    unfold hallStopDeasserts
    split
    · exact .inl fun _ _ => id
    · exact (FaultsKept.refl s).passesOn
  | chamberAlarmLineChange line level => cases hf; exact (alarmRawChange_passes s line level).passesOn
  | alarmDebounceExpiry line => cases hf; exact (alarmDebounceExpires_faultsKept s line).passesOn
  | curtailmentLineChange level =>
    cases hf
    exact (FaultsKept.ite _ (.refl s) ((FaultsKept.modHall s _).trans (curtailFollows_faultsKept _))).passesOn
  | curtailDebounceExpiry => cases hf; exact (FaultsKept.ite _ (.refl s) (curtailChanges_faultsKept s)).passesOn
  | wakeTimerExpiry => cases hf; exact (wakeTimerExpires_faultsKept s).passesOn
  | _ => cases hf

end
end Sys2Proof.Machine
end

section
/-! PROOF. The requests pass on, in every pair, what they latch (R131, R132). -/
namespace Sys2Proof.Machine
open Sys2Proof.Safety

section
variable {s t u : State} {c d l : Ch} {k : FaultKind}

/-! ### Reset of a channel -/

theorem reoffer_passes (s : State) (c : Ch) : Passes s (reoffer s c) := by
  have hquiet : ∀ n, Quietly s { s with freeCount := n } := fun n => .of_chans rfl rfl rfl
  have hfree : ∀ n, Passes s { s with freeCount := n } := fun n => (hquiet n).passes
  unfold reoffer
  dsimp only
  have h0 : Passes s (if (s.ch c).unsafeFlag = true then
      offerUnsafe { s with freeCount := s.freeCount + 1 } c (reofferTag s c) else s) :=
    .ite _ ((hfree _).trans (offerUnsafe_passes _ c _)) (.refl s)
  split
  · have h1 := h0.trans (.offer _ c (k := .chamberAlarm) (‹LineNo›.val : Int) (by decide))
    exact .ite _ (h1.trans (.offer _ c _ (by decide))) h1
  · exact .ite _ (h0.trans (.offer _ c _ (by decide))) h0

theorem reofferAll_passes (cs : List Ch) (s : State) : Passes s (cs.foldl reoffer s) := by
  induction cs generalizing s with
  | nil => exact .refl s
  | cons c cs ih => exact (reoffer_passes s c).trans (ih _)

/-- What a reset has cleared and stopped, before the kinds that still hold are offered again. -/
theorem resetStopped_emptied (hs : (s.ch l).state ≠ .follower) :
    (∀ d ∈ portsOf s l, Emptied (s.ch d) ((resetStopped s l).ch d)) ∧
      ∀ d, d ∉ portsOf s l → FaultSame (s.ch d) ((resetStopped s l).ch d) := by
  obtain ⟨q, hl, hf, -, hkept, -⟩ := resetStopped_ch hs
  refine ⟨fun d hd => ?_, fun d hd => .of_run (hkept.chans d fun hm => hd ((mem_portsOf s l d).2 hm)).2⟩
  rcases (mem_portsOf s l d).1 hd with rfl | ⟨hlead, rfl⟩
  · rw [hl]
    refine ⟨rfl, rfl, fun _ => ?_, fun e => absurd e hs⟩
    show Unfaulted { (s.ch d).clearRun with state := _, stopDest := _, port := _ }
    cases q <;> exact ⟨nofun, nofun⟩
  · rw [hf hlead]
    have hfollower := ((isLeader_iff s l).1 hlead).2
    exact ⟨rfl, rfl, fun e => absurd hfollower e, fun _ => hfollower⟩

/-- A pair whose leader is FAULTED keeps its follower's standing demand through the reset of another channel. -/
theorem resetStopped_standing (hs : (s.ch l).state ≠ .follower) {a : Ch} (ha : isLeader s a = true) (hal : a ≠ l)
    (hf : (s.ch a).state = .faulted) : ((resetStopped s l).ch (partner a)).port.standing = (s.ch (partner a)).port.standing := by
  have hfollower := ((isLeader_iff s a).1 ha).2
  have hpl : partner a ≠ l := fun e => hs (by rw [← e]; exact hfollower)
  have hpp : ∀ d, d = a ∨ d = partner a → d ≠ l ∧ ¬(isLeader s l = true ∧ d = partner l) := fun d hd => by
    rcases hd with rfl | rfl
    · refine ⟨hal, fun h => ?_⟩
      have := ((isLeader_iff s l).1 h.1).2
      rw [← h.2, hf] at this
      cases this
    · exact ⟨hpl, fun h => hal (by rw [← partner_partner a, h.2, partner_partner])⟩
  have hsame : ∀ d, d = a ∨ d = partner a → (enterStopping (resetCleared s l) l .idle true).ch d = s.ch d := fun d hd => by
    obtain ⟨h1, h2⟩ := hpp d hd
    have hlead : isLeader (resetCleared s l) l = isLeader s l := resetCleared_isLeader s l
    rw [(enterStopping_acts (resetCleared s l) l .idle true).others d h1 (by rw [hlead]; exact h2), resetCleared_eq,
      State.ch_modCh_ne _ h1]
    split
    · rename_i e
      rw [State.ch_modCh_ne _ fun e' => h2 ⟨e, e'⟩, withdrawn_ch]
    · exact withdrawn_ch s l d
  unfold resetStopped
  rw [settle_atRest (faulted_atRest (l := a) (by rw [hsame a (.inl rfl)]; exact hf)
    (by rw [hsame _ (.inr rfl)]; exact hfollower) (.inr rfl)), hsame _ (.inr rfl)]

theorem resetChannel_passedOn (hs : (s.ch l).state ≠ .follower) (h : FaultCore s) {a : Ch} (ha : isLeader s a = true) :
    PassedOn s (resetChannel s l) a := by
  obtain ⟨hin, hout⟩ := resetStopped_emptied hs
  have hcore := h.emptied hin hout
  have hfollower : ∀ d, ((resetStopped s l).ch d).state = .follower ↔ (s.ch d).state = .follower := fun d => by
    by_cases hd : d ∈ portsOf s l
    · exact ⟨fun e => by_contra fun e' => ((hin d hd).unfaulted e').2 e, (hin d hd).follower⟩
    · exact (hout d hd).follower
  have hfirst : PassedOn s (resetStopped s l) a := by
    refine ⟨fun k _ hk => .inl ?_, ?_⟩
    · by_cases hd : a ∈ portsOf s l
      · rw [(hin a hd).latched, hasKind_zero] at hk; cases hk
      · rwa [(hout a hd).latched] at hk
    · by_cases hd : partner a ∈ portsOf s l
      · exact .inr (.inl (hin _ hd).latched)
      · have hal : a ≠ l := fun e => hd ((mem_portsOf s l _).2 (.inr ⟨e ▸ ha, by rw [e]⟩))
        by_cases hf : (s.ch a).state = .faulted
        · exact .inl ⟨(hout _ hd).latched, resetStopped_standing hs ha hal hf⟩
        · have hclear := (h.pair (partner a) ((isLeader_iff s a).1 ha).2).clear
          rw [partner_partner] at hclear
          exact .inr (.inl ((hout _ hd).latched.trans (hclear hf)))
  have hpasses := reofferAll_passes (portsOf s l) (resetStopped s l)
  rw [resetChannel_reoffers]
  exact hfirst.trans (hpasses.passed hcore a ((isLeader_of_follower hfollower a).trans ha)) hpasses.holds

/-! ### The other requests -/

theorem PassesOn.refl (s : State) : PassesOn s s := .inl fun _ _ => id

theorem PassesOn.of_chans (h : t.chans = s.chans) : PassesOn s t := .inl fun c k hk => by
  rwa [State.ch, h] at hk

theorem PassesOn.modCh (f : Channel → Channel) (h : (f (s.ch c)).latched = (s.ch c).latched) : PassesOn s (s.modCh c f) := by
  refine .inl fun d k hk => ?_
  by_cases e : d = c
  · subst e
    rw [State.ch_modCh_self, h] at hk
    exact hk
  · rwa [State.ch_modCh_ne _ e] at hk

theorem clearKinds_unlatched (s : State) (c : Ch) (kinds : BitVec 16) : Unlatched s (clearKinds s c kinds) := by
  intro d k hk
  by_cases hd : d = c
  · subst hd
    rw [clearKinds_ch, hasKind_and, Bool.and_eq_true] at hk
    exact hk.1
  · rw [clearKinds_other _ _ _ _ hd] at hk
    split at hk
    · rw [dropPartner_latched, hasKind_dropKind, Bool.and_eq_true] at hk
      exact hk.1
    · exact hk

theorem addCause_quietly (s : State) (c : Ch) (cause : HoldCause) : Quietly s (addCause s c cause) := by
  cases h : (s.ch c).state.holdable with
  | false => rw [addCause_rests h]; exact .refl s
  | true =>
    refine .acts ⟨fun e => ?_, fun e => ?_⟩ (addCause_faultsKept s c cause) (addCause_acts s c cause) <;>
      rw [e] at h <;> cases h

theorem removeCauses_quietly (s : State) (c : Ch) (f : HoldCauses → HoldCauses) : Quietly s (removeCauses s c f) := by
  unfold removeCauses
  have h0 : Quietly s (s.modCh c fun ch => { ch with holds := f ch.holds }) := .same s c _ rfl rfl rfl rfl
  dsimp only
  split
  · rename_i h
    have hc : Unfaulted ((s.modCh c fun ch => { ch with holds := f ch.holds }).ch c) := ⟨by rw [h.1]; decide, by rw [h.1]; decide⟩
    exact h0.trans (.acts hc (leaveHeld_faultsKept hc) (leaveHeld_acts _ c))
  · exact h0

theorem followCover_quietly (before : Ch → Bool) (cs : List Ch) (s : State) : Quietly s (followCover before s cs) := by
  induction cs generalizing s with
  | nil => exact .refl s
  | cons c cs ih =>
    refine Quietly.trans ?_ (ih _)
    exact .ite _ ((addCause_quietly s c .chamber).trans (.settle _))
      (.ite _ ((removeCauses_quietly s c _).trans (.settle _)) (.refl s))

theorem takeSetAlarmRoute_passes (r : Request) (s : State) : Passes s (takeSetAlarmRoute r s).1 := by
  refine takePart_ind (P := Passes s) _ _ _ _ (.refl s) ?_
  dsimp only
  split
  · split
    · exact .refl s
    · rename_i line _ route _
      dsimp only
      have h0 : ∀ x, Passes s (s.modLine ⟨field r.body 0 1, line⟩ fun l => { l with settings := x }) := fun x =>
        (modLine_quietly s _ _).passes
      have h1 : ∀ (t : State) (p : Prop) [Decidable p] (b : Ch → Bool), Passes s t →
          Passes s (if p then followCover b t allCh else t) := fun t p _ b ht =>
        .ite p (ht.trans (followCover_quietly b allCh t).passes) ht
      have h2 : ∀ (t : State) (p : Prop) [Decidable p] (l : LineNo) (b : Ch → Bool), Passes s t →
          Passes s (if p then offerAlarm l b t allCh else t) := fun t p _ l b ht =>
        .ite p (ht.trans (offerAlarm_passes l b allCh t)) ht
      exact h2 _ _ _ _ (h1 _ _ _ (h0 _))
  · exact .refl s

theorem takeStart_passesOn (r : Request) (s : State) : PassesOn s (takeStart r s).1 := by
  refine takeCh_ind (P := PassesOn s) _ _ _ _ (.refl s) fun c => ?_
  dsimp only
  split
  · exact .refl s
  rename_i hcheck
  split
  · exact .refl s
  split
  · exact .refl s
  obtain ⟨hfollower, -, -, -, hstate, -⟩ := startRefusal_none hcheck
  have hc : Unfaulted (s.ch c) := ⟨by rcases hstate with h | ⟨-, h⟩ <;> rw [h] <;> decide, hfollower⟩
  dsimp only
  split
  · exact ((startResume_faultsKept hc _).trans (coverStarted_faultsKept _ c)).passesOn
  · exact ((startBegin_faultsKept hc).trans (coverStarted_faultsKept _ c)).passesOn

theorem takeStop_passesOn (r : Request) (s : State) : PassesOn s (takeStop r s).1 := by
  refine takeCh_ind (P := PassesOn s) _ _ _ _ (.refl s) fun c => ?_
  split
  · exact .refl s
  · exact .refl s
  · exact .refl s
  · exact .refl s
  · exact .refl s
  · rename_i hfollower _ _ hfaulted _
    exact (stopChannel_faultsKept ⟨hfaulted, hfollower⟩).passesOn

theorem formPair_passesOn (s : State) (l : Ch) : PassesOn s (formPair s l) := by
  refine .inl fun d k hk => ?_
  unfold formPair at hk
  rw [State.ch_modCh] at hk
  split at hk <;> rw [State.ch_modCh] at hk <;> split at hk <;> simp_all

theorem partPair_passesOn (s : State) (l : Ch) : PassesOn s (partPair s l) := by
  have h : ∀ d, ((partPair s l).ch d).latched = (s.ch d).latched := fun d => by
    unfold partPair openPeriod
    by_cases h1 : d = partner l
    · subst h1
      rw [State.ch_modCh_self, State.ch_modCh_self, State.ch_modCh_ne _ (partner_ne l)]
    · rw [State.ch_modCh_ne _ h1, State.ch_modCh_ne _ h1]
      by_cases h2 : d = l
      · subst h2; rw [State.ch_modCh_self]
      · rw [State.ch_modCh_ne _ h2]
  exact .inl fun d k hk => by rwa [h] at hk

/-- What the taking of a request of any kind does in every pair. -/
theorem takeKind_passesOn (k : ReqKind) (r : Request) (s : State) : PassesOn s (takeKind k r s).1 := by
  have hpart : ∀ {k : ReqKind} {f : State → State × ReplyBody}, PassesOn s (f s).1 → PassesOn s (takePart k r s f).1 :=
    fun h => takePart_ind (P := PassesOn s) _ _ _ _ (.refl s) h
  have hchan : ∀ {k : ReqKind} {f : Ch → State → State × ReplyBody}, (∀ c, PassesOn s (f c s).1) → PassesOn s (takeCh k r s f).1 :=
    fun h => takeCh_ind (P := PassesOn s) _ _ _ _ (.refl s) h
  cases k <;> unfold takeKind <;> dsimp only
  case identify => exact hpart (.refl s)
  case getStatus =>
    refine hpart ?_
    dsimp only
    split
    · exact .of_chans rfl
    · exact .refl s
  case getBudget => exact hpart (.refl s)
  case setBudget => exact hpart ((FaultsKept.modArb s _).trans (.of_runs (settleEvaluating_runs _))).passesOn
  case setAlarmRoute => exact (takeSetAlarmRoute_passes r s).passesOn
  case pauseHall =>
    refine hpart ?_
    dsimp only
    split
    · exact (pauseHall_faultsKept s).passesOn
    · exact .refl s
  case resumeHall =>
    refine hpart ?_
    dsimp only
    split
    · exact .refl s
    · exact (wakeHall_faultsKept s _).passesOn
  case setWake => exact hpart (.of_chans rfl)
  case holdReports => exact hpart (.of_chans rfl)
  case saveSettings =>
    refine hpart ?_
    dsimp only
    repeat' split
    · exact .refl s
    · exact .refl s
    all_goals exact .of_chans rfl
  case resetPart => exact hpart (.of_chans rfl)
  case writeSteps =>
    refine hpart ?_
    dsimp only
    repeat' split
    · exact .refl s
    · exact .refl s
    · exact .refl s
    · exact .of_chans rfl
  case readSteps =>
    refine hpart ?_
    dsimp only
    split <;> exact .refl s
  case setWindow =>
    refine hchan fun c => ?_
    dsimp only
    repeat' split
    all_goals first | exact .refl s | (dsimp only; exact .modCh _ rfl)
  case getChannel =>
    refine hchan fun c => ?_
    split <;> exact .refl s
  case setChannel =>
    refine hchan fun c => ?_
    dsimp only
    repeat' split
    · exact .refl s
    · exact .refl s
    · exact .refl s
    · exact (setSettings_faultsKept s c _).passesOn
  case setCalibration =>
    refine hchan fun c => ?_
    dsimp only
    exact .modCh _ rfl
  case start => exact takeStart_passesOn r s
  case stop => exact takeStop_passesOn r s
  case hold =>
    refine hchan fun c => ?_
    split
    · exact .refl s
    · exact (FaultsKept.ite _ (.refl s) (holdChannel_faultsKept s c .host)).passesOn
  case release =>
    refine hchan fun c => ?_
    split
    · exact .refl s
    · exact (unholdChannel_faultsKept s c _).passesOn
  case swap =>
    refine hchan fun c => ?_
    dsimp only
    repeat' split
    all_goals first | exact .refl s | (dsimp only; exact .modCh _ rfl)
  case cancelSwap =>
    refine hchan fun c => ?_
    split
    · exact .refl s
    · dsimp only
      exact .modCh _ rfl
  case profileAppend =>
    have happend : ∀ (c : Ch) points, PassesOn s (s.modCh c fun ch => ch.append points) := fun c points =>
      .modCh _ (by unfold Channel.append; split <;> rfl)
    refine hchan fun c => ?_
    dsimp only
    repeat' split
    · exact .refl s
    · exact .refl s
    · exact .refl s
    · exact happend c _
    · exact happend c _
  case profileFlush =>
    refine hchan fun c => ?_
    dsimp only
    repeat' split
    · exact .refl s
    · exact .refl s
    · dsimp only
      exact .modCh _ rfl
  case clearFaults => exact hchan fun c => .inl (clearKinds_unlatched s c _)
  case readAccounts => exact hchan fun c => .refl s
  case clearLifetime =>
    refine hchan fun c => ?_
    repeat' split
    · exact .refl s
    · exact .refl s
    · dsimp only
      exact .modCh _ rfl
  case setPair =>
    refine hchan fun c => ?_
    dsimp only
    split
    · exact .refl s
    · split
      · exact .refl s
      · exact formPair_passesOn s _
  case unpair =>
    refine hchan fun c => ?_
    dsimp only
    split
    · exact .refl s
    · split
      · exact .refl s
      · exact partPair_passesOn s _
  case resetChannel => exact hchan fun c => .inr fun h a ha => resetChannel_passedOn (h.leaderOf_ne c) h ha
  case resetStageLine =>
    refine hchan fun c => ?_
    dsimp only
    split
    · exact .refl s
    · exact ((FaultsKept.modCh_same s c _ rfl rfl rfl).trans (settlingTest_faultsKept _)).passesOn

end
end Sys2Proof.Machine
end

section
/-! PROOF. O28: a kind that latches in one member of a pair (R131, R42, R138, R150, R151). -/
namespace Sys2Proof.Machine
open Sys2Proof.Safety

section
variable {s t u : State} {c d l f : Ch} {k : FaultKind} {i : Instr}

/-! ### The law of the kinds that latch newly -/

/-- Whether a kind has latched in a channel between two states. -/
def Newly (s t : State) (c : Ch) (k : FaultKind) : Prop :=
  hasKind (t.ch c).latched k = true ∧ hasKind (s.ch c).latched k = false

/-- What has latched newly in a pair's leader is passed to the follower, and what has in the follower leaves OFF demanded of it. -/
structure NewlyPassed (s t : State) (l : Ch) : Prop where
  told : ∀ k, k ≠ .pairPartner → Newly s t l k → hasKind (t.ch (partner l)).latched .pairPartner = true
  off  : ∀ k, Newly s t (partner l) k → (t.ch (partner l)).port.standing = some offDemand

theorem NewlyPassed.of_unlatched (h : Unlatched s t) (l : Ch) : NewlyPassed s t l := by
  have hnone : ∀ c k, ¬Newly s t c k := fun c k hn => by
    have := h c k hn.1
    rw [hn.2] at this
    cases this
  exact ⟨fun k _ hn => absurd hn (hnone l k), fun k hn => absurd hn (hnone _ k)⟩

theorem NewlyPassed.of_passedOn (h : PassedOn s t l) : NewlyPassed s t l := by
  refine ⟨fun k hk hn => (h.told k hk hn.1).resolve_left fun e => ?_, fun k hn => ?_⟩
  · rw [hn.2] at e; cases e
  obtain ⟨hnew, hold⟩ := hn
  rcases h.off with ⟨hl, -⟩ | hz | hoff
  · rw [hl, hold] at hnew; cases hnew
  · rw [hz, hasKind_zero] at hnew; cases hnew
  · exact hoff

theorem PassesOn.newly (h : PassesOn s t) (hs : FaultCore s) (hl : isLeader s l = true) : NewlyPassed s t l :=
  h.elim (fun h => .of_unlatched h l) fun h => .of_passedOn (h hs l hl)

theorem NewlyPassed.ends (h : NewlyPassed s t l) (he : Ends t u) : NewlyPassed s u l := by
  have hlatched : ∀ c, (u.ch c).latched = (t.ch c).latched := fun c => he.get c Channel.latched
  have hport : (u.ch (partner l)).port.standing = (t.ch (partner l)).port.standing := he.get (partner l) fun ch => ch.port.standing
  refine ⟨fun k hk hn => ?_, fun k hn => ?_⟩
  · rw [hlatched]
    exact h.told k hk ⟨by rw [← hlatched]; exact hn.1, hn.2⟩
  · rw [hport]
    exact h.off k ⟨by rw [← hlatched]; exact hn.1, hn.2⟩

/-- The law of R131, whatever the command. -/
theorem exec_newlyPassed (hi : exec i s = .next t) (hp : s.part = .ready) (htp : t.part = .ready) (hs : FaultsSound s)
    (hl : isLeader s l = true) : NewlyPassed s t l := by
  have hcore := faultCore_of_sound hs
  have hsame : ∀ u : State, u.chans = s.chans → NewlyPassed s u l := fun u h =>
    .of_unlatched (fun c k hk => by rwa [State.ch, h] at hk) l
  cases happens_of_exec hi with
  | link x => exact hsame _ rfl
  | event f hf hp => exact ((eventAct_passesOn hf s).newly hcore hl).ends (finish_ends s (f s))
  | request g k x reply hp hk hg =>
    have h := (takeKind_passesOn k (Frame.request g) { s with link := x }).newly (l := l) ⟨hcore.own, hcore.odd, hcore.pair⟩ hl
    have hlink : NewlyPassed s ((takeKind k (Frame.request g) { s with link := x }).1.modLink fun m =>
        { m with reply := some reply }) l := ⟨h.told, h.off⟩
    exact hlink.ends (finish_ends s _)
  | hallStopLevel hn x => exact absurd hp hn
  | alarmLevel hn line x => exact absurd hp hn
  | curtailLevel hn x => exact absurd hp hn
  | saved image x => exact hsame _ rfl
  | startUp u cause => cases htp
  | startUpEnd hn => rw [hp] at hn; cases hn
  | halt x => cases htp
  | off => cases htp

theorem newly_leader (ht : FaultsSound t) (hl : isLeader t l = true) (hn : Newly s t l k) : (t.ch l).state = .faulted := by
  have hcore := faultCore_of_sound ht
  refine hasKind_faulted (hcore.own l) (fun e => ?_) hn.1
  have h1 := hcore.odd l e
  have h2 := ((isLeader_iff t l).1 hl).1
  omega

/-- A kind that latches newly in a pair's follower is passed to the leader. -/
theorem newly_follower (ht : FaultsSound t) (hl : isLeader t l = true) (hk : k ≠ .pairPartner) (hn : Newly s t (partner l) k) :
    hasKind (t.ch l).latched .pairPartner = true := by
  have htold := ((faultCore_of_sound ht).pair (partner l) ((isLeader_iff t l).1 hl).2).told
  rw [partner_partner] at htold
  exact htold ((dropKind_ne_zero_iff _ _).2 ⟨k, hk, hn.1⟩)

theorem unlisted_of_faulted (ha : ArbiterSound t) (hf : (t.ch c).state = .faulted) : Unlisted t c := by
  obtain ⟨⟨hplaced, -⟩, -⟩ := (arbiterSound_iff t).1 ha
  rw [unlisted_iff]
  by_contra h
  have := (hplaced c).states h
  rw [hf] at this
  cases this

/-! ### DIRECT lines -/

/-- A DIRECT line that asserts latches CHAMBER_ALARM in every channel it masks (R150). -/
theorem direct_latches {line : LineNo} (hp : s.part = .ready) (hr : (s.line line).raw = false)
    (hd : (s.line line).settings.route = .direct) :
    ∃ t, exec (.chamberAlarmLineChange line true) s = .next t ∧ ∀ c,
      (s.line line).settings.mask.getLsbD c.val = true → hasKind (t.ch c).latched .chamberAlarm = true := by
  have hlatched : ∀ c, (s.line line).settings.mask.getLsbD c.val = true →
      hasKind ((alarmRawChange s line true).ch c).latched .chamberAlarm = true := fun c hc => by
    rw [alarmRawChange_direct hr hd]
    exact offerAlarm_hasKind line hc _ (mem_allCh c)
  have hends : Ends (alarmRawChange s line true) (finish s (alarmRawChange s line true)) := finish_ends _ _
  refine ⟨_, next_congr (if_pos hp), fun c hc => ?_⟩
  rw [hends.get c Channel.latched]
  exact hlatched c hc

/-- A line made DIRECT while its raw level is asserted latches CHAMBER_ALARM in every channel it masks newly (R151). -/
theorem rerouted_latches {r : Request} {line : LineNo} (hto : ToPart s r 7) (hn : field r.body 0 1 = line.val)
    (hr : field r.body 1 1 = 3) (hraw : (s.line line).raw = true) :
    ∃ t, exec (.setAlarmRoute r) s = .next t ∧ ∀ c, (BitVec.ofNat 8 (field r.body 2 1)).getLsbD c.val = true →
      ((s.line line).settings.route ≠ .direct ∨ (s.line line).settings.mask.getLsbD c.val = false) →
      hasKind (t.ch c).latched .chamberAlarm = true := by
  obtain ⟨x, hx⟩ : ∃ x : AlarmSettings, x = ⟨.direct, BitVec.ofNat 8 (field r.body 2 1), clampNat 10 5000 (field r.body 3 4)⟩ :=
    ⟨_, rfl⟩
  have htaken := takeSetAlarmRoute_sets (s := s) hto hn (route := .direct) (by rw [hr]; rfl) x hx
  have hb : r.body.length ≤ 1024 := by rw [hto.length]; decide
  obtain ⟨u, hu⟩ : ∃ u, u = reofferedAlarm s line x (recovered s line x) := ⟨_, rfl⟩
  rw [← hu] at htaken
  obtain ⟨-, hends⟩ := request_ends hto.free hb htaken
  refine ⟨_, rfl, fun c hm hnew => ?_⟩
  have hkept : ((recovered s line x).line line).raw = true := by
    rw [State.line, (recovered_keeps s line x).prot, ← State.line, routed, State.line_modLine_self]
    exact hraw
  have hoffer : u = offerAlarm line (newlyMasked (s.line line).settings x.mask) (recovered s line x) allCh := by
    rw [hu]
    exact if_pos ⟨by rw [hx], hkept⟩
  have hmask : newlyMasked (s.line line).settings x.mask c = true := by
    unfold newlyMasked
    rw [hx]
    simpa [hm] using hnew
  rw [hends.get c Channel.latched, hoffer]
  exact offerAlarm_hasKind line hmask _ (mem_allCh c)

end

/-- Settles O28. -/
theorem pairFaults : Obligations.PairFaults := by
  unfold Obligations.PairFaults
  refine ⟨fun s l f hp hl hf h1 h2 h3 h4 => ?_, fun i s t hi hp htp hs l f hl hlt hf => ?_, fun s line hp hr hd => ?_,
    fun r s line hto hn hr hraw => ?_⟩
  · intro faults set
    have hpair : PairOf s l l f := ⟨hl, .inl ⟨rfl, hf⟩⟩
    have hown : Faultless s l l f := ⟨hpair, h3, h4, h1, h2⟩
    refine ⟨fun h5 h6 => ?_, fun h5 => ?_, fun e he hc ht hm => ?_, fun a b x hab ht hx hm => ?_⟩
    · exact startTimer_pair hown hp h5 h6
    · exact underrunTimer_pair hown hp h5
    · exact waitTimer_pair hown hp he hc ht hm
    · rcases hab with ⟨rfl, rfl⟩ | ⟨rfl, rfl⟩
      · exact confirmationTimer_pair hown hp ht hx hm
      · have hother : Faultless s b a b := ⟨⟨hl, .inr ⟨hf, rfl⟩⟩, h3, h4, h2, h1⟩
        obtain ⟨t, hnext, htaken, hframe, hrest⟩ := confirmationTimer_pair hother hp ht hx hm
        exact ⟨t, hnext, htaken, hframe, fun d h1 h2 => hrest d h2 h1⟩
  · subst hf
    have hnew := exec_newlyPassed hi hp htp hs hl
    have ht := exec_faultsSound hs hi
    refine ⟨fun k hk => ⟨hnew.told k hk, newly_follower ht hlt hk⟩, fun k hn ha => ?_, fun k hn =>
      ⟨((isLeader_iff t l).1 hlt).2, hnew.off k hn⟩⟩
    have hfaulted := newly_leader ht hlt hn
    exact ⟨hfaulted, unlisted_of_faulted ((arbiterSound_iff t).2 (exec_steady hs ((arbiterSound_iff s).1 ha) hi)) hfaulted⟩
  · obtain ⟨t, ht, h⟩ := direct_latches hp hr hd
    exact ⟨t, ht, fun c _ hm => h c hm⟩
  · obtain ⟨t, ht, h⟩ := rerouted_latches hto hn hr hraw
    exact ⟨t, ht, fun c _ hm hnew => h c hm hnew⟩

end Sys2Proof.Machine
end

section
/-! PROOF. What landing on a step makes of a channel and its grant (R22, R31, R97). -/
namespace Sys2Proof.Machine
open Sys2Proof.Safety

section
variable {s t u v z : State} {c : Ch} {ch b : Channel} {gs : List Grant} {ws rs : List Entry} {x y : StepRecord} {k n : Nat}

/-! ### The preparing of a step -/

/-- A channel at a step index, the figures of its step at zero (R22). -/
def Channel.moved (k : Nat) (ch : Channel) : Channel :=
  { ch with stepIndex := k, stepTime := 0, qStep := 0, eStep := 0, vPeak := 0, confirms := [0, 0, 0, 0], clamped := false }

/-- A channel with a step prepared (R22). -/
def Channel.prepares (ch : Channel) (k : Nat) (y : StepRecord) : Channel := setUpPlayback (ch.moved k) y

theorem Turned.modRun (h : Turned c s t ch gs ws rs) (f : Channel → Channel) (hf : ∀ a b, SameRun a b → SameRun (f a) (f b))
    (hset : (f ch).settings = ch.settings) : Turned c s (t.modCh c f) (f ch) gs ws rs := by
  refine ⟨h.acts.trans (.modCh c t f), ?_, hset.trans h.settings, h.pool, h.grants, h.waits, h.resumes⟩
  rw [State.ch_modCh_self]
  exact hf _ _ h.chan

/-- The amount of a grant brought to a claim. -/
def Grant.lowered (n : Nat) (g : Grant) : Grant := { g with amount := n }

/-- A channel's grants once the arbiter has settled them for a prepared step (R97). -/
def offered (s : State) (c : Ch) (y : StepRecord) (toHeld : Bool) (gs : List Grant) : List Grant :=
  match gs.head? with
  | none => gs
  | some g =>
    if y.moves ∧ y.dir = g.dir ∧ g.dir ≠ .both ∧ claimOf s c y ≤ g.amount then
      if toHeld then idled (s.ch c).settings.grantHold (gs.map (Grant.lowered (claimOf s c y)))
      else (gs.map (Grant.lowered (claimOf s c y))).map Grant.unidle
    else if y.kind = .rest ∨ toHeld then idled (s.ch c).settings.grantHold gs
    else []

theorem Turned.evalDue (h : Turned c s t ch gs ws rs) : Turned c s (t.modArb fun a => { a with evalDue := true }) ch gs ws rs :=
  ⟨h.acts.trans (.evalDue c t true), h.chan, h.settings, h.pool, h.grants, h.waits, h.resumes⟩

theorem Turned.lowered (h : Turned c s t ch gs ws rs) (n : Nat) :
    Turned c s (Machine.modGrant t c (Grant.lowered n)) ch (gs.map (Grant.lowered n)) ws rs := h.modGrant (Grant.lowered n) fun _ => rfl

theorem Turned.settleOffer (h : Turned c s t ch gs ws rs) (y : StepRecord) (toHeld : Bool) :
    Turned c s (settleOffer t c y toHeld) ch (offered s c y toHeld gs) ws rs := by
  have hdue := h.evalDue
  unfold Machine.settleOffer offered
  rw [grantOf_eq_head, h.grants]
  cases gs.head? with
  | none => exact h
  | some g =>
    dsimp only
    rw [hdue.claimOf]
    split
    · split
      · exact (hdue.lowered _).idleGrant
      · exact (hdue.lowered _).unidleGrant
    · split
      · exact hdue.idleGrant
      · exact hdue.releaseGrant

theorem Turned.prepareStep (h : Turned c s t ch gs ws rs) (hy : stepOf s { ch with stepIndex := k } = some y) (toHeld : Bool) :
    Turned c s (prepareStep t c k toHeld) (ch.prepares k y) (offered s c y toHeld gs) ws rs := by
  have hmoved : Turned c s (t.modCh c (Channel.moved k)) (ch.moved k) gs ws rs :=
    h.modRun (Channel.moved k) (fun a b hab => by rw [show b = _ from hab]; exact .of) rfl
  have hstep : Machine.currentStep (t.modCh c (Channel.moved k)) c = some y := hmoved.currentStep.trans hy
  have hprepared := (hmoved.modCh (fun ch => setUpPlayback ch y) (fun _ _ _ => rfl) rfl).settleOffer y toHeld
  have heq : Machine.prepareStep t c k toHeld =
      Machine.settleOffer ((t.modCh c (Channel.moved k)).modCh c fun ch => setUpPlayback ch y) c y toHeld := by
    unfold Machine.prepareStep
    show (match Machine.currentStep (t.modCh c (Channel.moved k)) c with | none => _ | some r => _) = _
    rw [hstep]
    rfl
  rw [heq]
  exact hprepared

end
end Sys2Proof.Machine
end

section
/-! PROOF. A channel that has landed on a step, and the demand it makes, through the arbiter's handling (R31, R46). -/
namespace Sys2Proof.Machine
open Sys2Proof.Safety

section
variable {s t u v z : State} {c : Ch} {ch b : Channel} {gs : List Grant} {ws rs : List Entry} {x y : StepRecord} {k n : Nat}

/-! ### The demand of a channel that waits or rests (R46) -/

/-- Out of STARTING, IDLE is demanded and nothing clamps it. -/
def Idles (ch : Channel) : Prop := ch.state ≠ .starting → ch.clamped = false ∧ ch.port.standing = some idleDemand

theorem settleAtGap_ch (s : State) (c : Ch) (y : StepRecord) : (settleAtGap s c y).ch c = s.ch c := by
  unfold settleAtGap
  dsimp only
  have hone : (if holdsCover s c y then unidleGrant s c else releaseGrant s c).ch c = s.ch c :=
    iteInduction (motive := fun u : State => u.ch c = s.ch c) (fun _ => rfl) fun _ => releaseGrant_ch ..
  exact iteInduction (motive := fun u : State => u.ch c = s.ch c) (fun _ => hone) fun _ => hone

theorem settleOffer_ch (s : State) (c : Ch) (y : StepRecord) (toHeld : Bool) : (settleOffer s c y toHeld).ch c = s.ch c := by
  unfold settleOffer
  cases grantOf s c with
  | none => rfl
  | some g =>
    dsimp only
    split
    · split
      · exact idleGrant_ch ..
      · rfl
    · split
      · exact idleGrant_ch ..
      · exact releaseGrant_ch ..

theorem prepareStep_clamped (s : State) (c : Ch) (k : Nat) (toHeld : Bool) : ((prepareStep s c k toHeld).ch c).clamped = false := by
  unfold prepareStep
  dsimp only
  split
  · rw [State.ch_modCh_self]
  · rw [settleOffer_ch, State.ch_modCh_self, State.ch_modCh_self]
    rfl

/-- A leader's share of IDLE is IDLE. -/
theorem issue_idles (hc : (s.ch c).clamped = false)
    (h : (s.ch c).state = .starting ∨ calledFor s c = (idleDemand, false)) : Idles ((issue s c).ch c) := by
  intro hne
  obtain ⟨a, p, hch⟩ := issue_ch s c c
  have hcalled := h.resolve_left (by rw [hch] at hne; exact hne)
  cases hl : isLeader s c
  · rw [issue_single hl, State.ch_modCh_self, hcalled]
    exact ⟨by rw [hc]; rfl, handNew_standing _ _⟩
  · rw [issue_leader hl, State.modPort, State.ch_modCh_ne _ (partner_ne c).symm, State.ch_modCh_self, hcalled]
    exact ⟨by rw [hc]; rfl, handNew_standing _ _⟩

theorem calledFor_idle (h : (s.ch c).state = .gap ∨ (s.ch c).state = .deferred ∨ (s.ch c).state = .held) :
    calledFor s c = (idleDemand, false) := by
  unfold calledFor
  rcases h with h | h | h <;> rw [h]

theorem calledFor_rest (hx : currentStep s c = some x) (hr : x.kind = .rest)
    (h : (s.ch c).state = .starting ∨ (s.ch c).state = .running) : calledFor s c = (idleDemand, false) := by
  have hrest : regulateDemand s c x = (idleDemand, false) := by
    unfold regulateDemand
    cases x <;> first | rfl | cases hr
  unfold calledFor
  rw [hx]
  rcases h with h | h <;> rw [h] <;> exact hrest

theorem enterStarting_idles (s : State) (c : Ch) (y : StepRecord) : Idles ((enterStarting s c y).ch c) := by
  exact fun hne => absurd ((Turned.self c s).enterStarting y).state hne

theorem enterDeferred_idles (hc : (s.ch c).clamped = false) : Idles ((enterDeferred s c).ch c) := by
  refine issue_idles ?_ (.inr (calledFor_idle (.inr (.inl ?_)))) <;> rw [State.ch_modCh_self]
  exact hc

theorem isLeader_acts (h : ActsOn c s t) : isLeader t c = isLeader s c := (h.chans _ (partner_ne c)).isLeader

theorem gapExpires_idles (hc : (s.ch c).clamped = false) : Idles ((gapExpires s c).ch c) := by
  have hrelease : Idles ((enterDeferred (releaseGrant s c) c).ch c) :=
    enterDeferred_idles (by rw [releaseGrant_ch]; exact hc)
  unfold gapExpires
  split
  · exact hrelease
  · split
    · exact enterStarting_idles s c _
    · split
      · refine enterDeferred_idles ?_
        show ((releaseGrant s c).ch c).clamped = false
        rw [releaseGrant_ch]
        exact hc
      · exact enterDeferred_idles hc

theorem beginStep_idles (hc : (s.ch c).clamped = false) (hx : currentStep s c = some y) :
    Idles ((beginStep s c).ch c) := by
  unfold beginStep
  rw [hx]
  dsimp only
  split
  · rename_i hr
    unfold enterRest
    rw [idleGrant_ch]
    refine issue_idles (by rw [State.ch_modCh_self]; exact hc)
      (.inr (calledFor_rest ((currentStep_modCh _ rfl rfl).trans hx) hr (.inr ?_)))
    rw [State.ch_modCh_self]
  · unfold enterGap
    dsimp only
    obtain ⟨w, hw⟩ : ∃ w, w = settleAtGap (s.modCh c fun ch => { ch with state := .gap, gapTimer := some (gapFor (s.ch c) y) }) c y := ⟨_, rfl⟩
    have hwch : w.ch c = { s.ch c with state := .gap, gapTimer := some (gapFor (s.ch c) y) } := by
      rw [hw, settleAtGap_ch, State.ch_modCh_self]
    have hidles : Idles ((issue w c).ch c) :=
      issue_idles (by rw [hwch]; exact hc) (.inr (calledFor_idle (.inl (by rw [hwch]))))
    rw [← hw]
    split
    · obtain ⟨a, p, hch⟩ := issue_ch w c c
      have hstate : ((issue w c).ch c).state = .gap := by rw [hch, hwch]
      exact gapExpires_idles (hidles (by rw [hstate]; decide)).1
    · exact hidles

theorem addCause_idles (hc : (s.ch c).clamped = false) (hs : (s.ch c).state = .running) (cause : HoldCause) :
    Idles ((addCause s c cause).ch c) := by
  have hheld : Idles ((holdOf s c cause).ch c) := by
    unfold holdOf
    have hch : (grantNotLive (withdrawWaiting (s.modCh c Channel.stopTimers) c) c).ch c = (s.ch c).stopTimers := by
      show (withdrawWaiting (s.modCh c Channel.stopTimers) c).ch c = _
      rw [withdrawWaiting_ch, State.ch_modCh_self]
    refine issue_idles ?_ (.inr (calledFor_idle (.inr (.inr ?_)))) <;>
      rw [State.ch_modCh_self, hch]
    exact hc
  rw [addCause_free (by rw [hs]; rfl) (by rw [hs]; decide)]
  split
  · rw [idleGrant_ch]; exact hheld
  · exact hheld

/-- A channel lands on a step: out of STARTING it demands IDLE. -/
theorem landOn_idles {hold : Bool} (hs : ((prepareStep s c k hold).ch c).state = .running)
    (hx : currentStep (prepareStep s c k hold) c = some y) : Idles ((landOn s c k hold).ch c) := by
  have hclamped := prepareStep_clamped s c k hold
  unfold landOn
  dsimp only
  split
  · refine addCause_idles ?_ ?_ .endHold <;> rw [State.ch_modCh_self]
    · exact hclamped
    · exact hs
  · exact beginStep_idles hclamped hx

end
end Sys2Proof.Machine
end

section
/-! PROOF. A channel that has landed on a step stays as it landed while the arbiter handles the event, but for a stage start
from DEFERRED (R31, R91). -/
namespace Sys2Proof.Machine
open Sys2Proof.Safety

section
variable {s t u v z : State} {c : Ch} {ch a b : Channel} {gs : List Grant} {ws rs : List Entry} {x y : StepRecord} {k n : Nat}

/-- A channel as it landed on a step, or STARTING it where it had landed in DEFERRED. -/
structure Arrived (b : Channel) (y : StepRecord) (ch : Channel) : Prop where
  same  : ch = { b with
    state := ch.state, lastDir := ch.lastDir, startTimer := ch.startTimer, gapTimer := ch.gapTimer, holds := ch.holds,
    clamped := ch.clamped, port := ch.port }
  state : ch.state = b.state ∨ b.state = .deferred ∧ ch.state = .starting
  dir   : ch.lastDir = if ch.state = .starting then y.dir else b.lastDir
  gap   : ch.gapTimer = b.gapTimer
  held  : b.state = .held → ch.holds.endHold = true
  idles : Idles ch

/-- The states in which a channel lands on a step. -/
structure Lands (b : Channel) (y : StepRecord) : Prop where
  state : b.state = .gap ∨ b.state = .deferred ∨ b.state = .starting ∨ b.state = .running ∨ b.state = .held
  gap   : b.state = .deferred → b.gapTimer = none
  dir   : b.state = .starting → b.lastDir = y.dir
  held  : b.state = .held → b.holds.endHold = true

theorem Lands.arrived (h : Lands b y) (hs : SameRun b ch) (hi : Idles ch) : Arrived b y ch := by
  have hstate : ch.state = b.state := hs.get Channel.state
  refine ⟨?_, .inl hstate, ?_, hs.get Channel.gapTimer, fun e => (hs.get fun ch => ch.holds.endHold).trans (h.held e), hi⟩
  · rw [show ch = _ from hs]
  · rw [hstate]
    split
    · rename_i e
      exact (hs.get Channel.lastDir).trans (h.dir e)
    · exact hs.get Channel.lastDir

theorem Arrived.get {α : Type} (h : Arrived b y ch) (g : Channel → α)
    (hg : ∀ ch a d m n o x p, g { ch with state := a, lastDir := d, startTimer := m, gapTimer := n, holds := o, clamped := x, port := p } =
      g ch := by intros; rfl) : g ch = g b := by
  rw [h.same]
  exact hg b ..

/-- The handing over of a grant keeps a channel as it landed. -/
theorem handOver_arrived (hb : Lands b y) (hx : currentStep u c = some y) (h : Arrived b y (u.ch c)) :
    Arrived b y ((handOver u c).ch c) := by
  have hself := Turned.self c u
  have hstep := (stepOf_self u c).trans hx
  have hexchange : (exchangeGrant u c y).ch c = u.ch c := releaseGrant_ch ..
  rcases hb.state with e | e | e | e | e
  · have hs : (u.ch c).state = .gap := by rcases h.state with h | h; exacts [h.trans e, absurd (e.symm.trans h.1) (by decide)]
    rw [hself.handOver_gap hstep hs]
    split
    · exact h
    · rw [hexchange]; exact h
  · rcases h.state with hs | ⟨-, hs⟩
    · rw [hself.handOver_deferred hstep (hs.trans e)]
      split
      · have hstarts : SameRun ((u.ch c).starts y) ((enterStarting u c y).ch c) := (hself.enterStarting y).chan
        have hstate : ((enterStarting u c y).ch c).state = .starting := hstarts.get Channel.state
        refine ⟨?_, .inr ⟨e, hstate⟩, ?_, ?_, fun e' => absurd (e.symm.trans e') (by decide), fun hne => absurd hstate hne⟩
        · rw [show (enterStarting u c y).ch c = _ from hstarts]
          unfold Channel.starts
          rw [h.same]
        · rw [hstate, if_pos rfl]
          exact hstarts.get Channel.lastDir
        · exact (hstarts.get Channel.gapTimer).trans (hb.gap e).symm
      · rw [hexchange]; exact h
    · rw [handOver_still (.inr (.inr hs))]; exact h
  · have hs : (u.ch c).state = .starting := by rcases h.state with h | h; exacts [h.trans e, h.2]
    rw [handOver_still (.inr (.inr hs))]; exact h
  · have hs : (u.ch c).state = .running := by rcases h.state with h | h; exacts [h.trans e, absurd (e.symm.trans h.1) (by decide)]
    rw [hself.handOver_running hstep hs]
    split
    · rw [idleGrant_ch]; exact h
    · exact h
  · have hs : (u.ch c).state = .held := by rcases h.state with h | h; exacts [h.trans e, absurd (e.symm.trans h.1) (by decide)]
    have hend := h.held e
    have hdropped : Arrived b y ((u.modCh c fun ch => { ch with holds := ch.holds.drop .curtailed }).ch c) := by
      rw [State.ch_modCh_self]
      refine ⟨?_, h.state, h.dir, h.gap, fun _ => ?_, h.idles⟩
      · rw [h.same]
      · exact hend
    rw [hself.handOver_held hstep hs, if_neg fun he => ?_]
    · split
      · rw [idleGrant_ch]; exact hdropped
      · exact hdropped
    · have : (u.ch c).uncurtailed.holds.endHold = true := hend
      rw [he] at this
      cases this

/-- A condition of a channel that is no follower, kept by every handing over to it, holds once the arbiter has handled an event in
which nothing is shed. -/
theorem settle_keepsCh {P : Channel → Prop} (hf : (s.ch c).state ≠ .follower) (ht : testsHold s = true)
    (hhand : ∀ u, Runs s u → P (u.ch c) → P ((handOver u c).ch c)) (h : P (s.ch c)) : P ((settle s).ch c) := by
  have hall : ∀ (l : List Ch) (u : State), Runs s u → P (u.ch c) → P ((handOverAll u l).ch c) := by
    intro l
    induction l with
    | nil => exact fun _ _ h => h
    | cons d l ih =>
      intro u hr hu
      refine ih _ (hr.trans (handOver_runs u d)) ?_
      by_cases hd : c = d
      · subst hd
        exact hhand u hr hu
      · rw [(Own.acts (handOver_runs u d) (handOver_acts u d) hd).port fun e => hf ((hr.keeps.chans c).follower.1 e)]
        exact hu
  have hdue : ∀ (n : Nat) (u : State), Runs s u → P (u.ch c) → P ((evaluateDue n u).ch c) := by
    intro n
    induction n with
    | zero => exact fun _ _ h => h
    | succ n ih =>
      intro u hr hu
      unfold evaluateDue
      split
      · have hevaluated := (Runs.modArb u (fun a => { a with evalDue := false }) rfl).trans (evaluate_runs _)
        refine ih _ ((hr.trans hevaluated).trans (handOverAll_runs _ _)) (hall _ _ (hr.trans hevaluated) ?_)
        obtain ⟨-, -, -, -, -, -, -, -, -, -, hrest, -, -⟩ := evaluate_spec (u.modArb fun a => { a with evalDue := false })
        rw [hrest]
        exact hu
      · exact hu
  unfold settle
  rw [shed_calm ht]
  exact hdue _ _ (.refl s) h

/-- A channel that has landed on a step is as it landed once the arbiter has handled the event. -/
theorem settle_arrived (hb : Lands b y) (hx : currentStep s c = some y) (ht : testsHold s = true) (h : Arrived b y (s.ch c)) :
    Arrived b y ((settle s).ch c) := by
  refine settle_keepsCh (fun e => ?_) ht (fun u hr hu => handOver_arrived hb ((hr.currentStep c).trans hx) hu) h
  rcases h.state with hs | ⟨-, hs⟩
  · rw [hs] at e
    rcases hb.state with h | h | h | h | h <;> rw [h] at e <;> cases e
  · rw [hs] at e; cases e

end
end Sys2Proof.Machine
end

section
/-! PROOF. What a landing leaves of a channel's grant, and that it makes neither test fail (R83, R85, R97). -/
namespace Sys2Proof.Machine
open Sys2Proof.Safety

section
variable {s t u v z : State} {c : Ch} {ch a b : Channel} {gs hs ks others : List Grant} {ws rs : List Entry} {x y : StepRecord} {k n : Nat}

/-! ### Grants that are lowered -/

/-- Grants that have gone, or whose amounts and holds alone have changed, no amount upwards. -/
def Lowers (gs hs : List Grant) : Prop :=
  hs = [] ∨ ∃ f : Grant → Grant, hs = gs.map f ∧
    ∀ g ∈ gs, (f g).dir = g.dir ∧ (f g).amount ≤ g.amount ∧ (f g).live = g.live

theorem Lowers.refl (gs : List Grant) : Lowers gs gs := .inr ⟨id, (List.map_id gs).symm, fun _ _ => ⟨rfl, Nat.le_refl _, rfl⟩⟩

theorem Lowers.trans (h : Lowers gs hs) (k : Lowers hs ks) : Lowers gs ks := by
  rcases k with rfl | ⟨f, rfl, hf⟩
  · exact .inl rfl
  · rcases h with rfl | ⟨e, rfl, he⟩
    · exact .inl rfl
    · refine .inr ⟨f ∘ e, by rw [List.map_map], fun g hg => ?_⟩
      obtain ⟨h1, h2, h3⟩ := he g hg
      obtain ⟨k1, k2, k3⟩ := hf (e g) (List.mem_map_of_mem hg)
      exact ⟨k1.trans h1, k2.trans h2, k3.trans h3⟩

theorem Lowers.map (f : Grant → Grant) (h : ∀ g ∈ gs, (f g).dir = g.dir ∧ (f g).amount ≤ g.amount ∧ (f g).live = g.live) :
    Lowers gs (gs.map f) := .inr ⟨f, rfl, h⟩

theorem idled_lowers (n : Nat) (gs : List Grant) : Lowers gs (idled n gs) := by
  unfold idled
  split
  · exact .refl gs
  · split
    · exact .refl gs
    · split
      · exact .inl rfl
      · exact .map _ fun _ _ => ⟨rfl, Nat.le_refl _, rfl⟩

theorem unidle_lowers (gs : List Grant) : Lowers gs (gs.map Grant.unidle) := .map _ fun _ _ => ⟨rfl, Nat.le_refl _, rfl⟩

theorem offered_lowers (h : gs.length ≤ 1) (toHeld : Bool) : Lowers gs (offered s c y toHeld gs) := by
  unfold offered
  cases hg : gs.head? with
  | none => exact .refl gs
  | some g =>
    dsimp only
    have honly : gs = [g] := by
      match gs, h, hg with
      | [_], _, hg => rw [List.head?_cons] at hg; rw [Option.some.inj hg]
    split
    · rename_i hcarry
      have hlow : Lowers gs (gs.map (Grant.lowered (claimOf s c y))) := .map _ fun g' hg' => by
        rw [honly, List.mem_singleton] at hg'
        rw [hg']
        exact ⟨rfl, hcarry.2.2.2, rfl⟩
      split
      · exact hlow.trans (idled_lowers _ _)
      · exact hlow.trans (unidle_lowers _)
    · split
      · exact idled_lowers _ _
      · exact .inl rfl

theorem lcOf_mono {eta m n : Nat} (h : m ≤ n) : lcOf eta m ≤ lcOf eta n := by
  unfold lcOf ceilDiv
  exact Nat.div_le_div_right (by omega)

theorem ldOf_mono {eta m n : Nat} (h : m ≤ n) : ldOf eta m ≤ ldOf eta n :=
  Nat.div_le_div_right (Nat.mul_le_mul_right eta h)

/-- Lowered grants that are not live count no more than they did, and give no credit. -/
theorem Lowers.sums (h : Lowers gs hs) (hlive : ∀ g ∈ gs, g.live = false) (eta : Nat) :
    (sumsOf eta hs).chgAll ≤ (sumsOf eta gs).chgAll ∧ (sumsOf eta hs).disAll ≤ (sumsOf eta gs).disAll ∧
      (sumsOf eta hs).chgLive = 0 ∧ (sumsOf eta hs).disLive = 0 := by
  rcases h with rfl | ⟨f, rfl, hf⟩
  · exact ⟨Nat.zero_le _, Nat.zero_le _, rfl, rfl⟩
  · refine ⟨?_, ?_, ?_, ?_⟩
    · simp only [sumsOf, List.map_map]
      refine List.sum_le_sum fun g hg => ?_
      obtain ⟨hd, ha, -⟩ := hf g hg
      rw [Function.comp_apply, hd]
      split
      · exact lcOf_mono ha
      · exact Nat.le_refl 0
    · simp only [sumsOf, List.map_map]
      refine List.sum_le_sum fun g hg => ?_
      obtain ⟨hd, ha, -⟩ := hf g hg
      rw [Function.comp_apply, hd]
      split
      · exact ldOf_mono ha
      · exact Nat.le_refl 0
    · simp only [sumsOf, List.map_map, List.sum_eq_zero_iff, List.mem_map]
      rintro _ ⟨g, hg, rfl⟩
      exact if_neg (by simp [(hf g hg).2.2, hlive g hg])
    · simp only [sumsOf, List.map_map, List.sum_eq_zero_iff, List.mem_map]
      rintro _ ⟨g, hg, rfl⟩
      exact if_neg (by simp [(hf g hg).2.2, hlive g hg])

/-- An act that lowers a channel's grants, none of them live, makes neither test fail. -/
theorem ActsOn.testsHold_lowers (ha : ActsOn c s t) (hlow : Lowers (grantsOf s c) (grantsOf t c))
    (hlive : ∀ g ∈ grantsOf s c, g.live = false) (h : Machine.testsHold s = true) : Machine.testsHold t = true := by
  have hceff : cEffOf t = cEffOf s := by rw [cEffOf, cEffOf, ha.hall, ha.budget]
  unfold Machine.testsHold at h ⊢
  rw [← withinCeilings_perm (grants_perm s c), withinCeilings_iff, intakeOk_iff, returnOk_iff] at h
  rw [← withinCeilings_perm (grants_perm t c), hceff, ha.budget, ha.grants, withinCeilings_iff, intakeOk_iff, returnOk_iff]
  obtain ⟨h1, h2, h3, h4⟩ := sumsOf_append s.arb.budget.eta (s.arb.grants.filter fun g => g.ch ≠ c) (grantsOf s c)
  obtain ⟨k1, k2, k3, k4⟩ := sumsOf_append s.arb.budget.eta (s.arb.grants.filter fun g => g.ch ≠ c) (grantsOf t c)
  obtain ⟨l1, l2, l3, l4⟩ := hlow.sums hlive s.arb.budget.eta
  obtain ⟨-, -, m3, m4⟩ := (Lowers.refl (grantsOf s c)).sums hlive s.arb.budget.eta
  rw [h1, h2, h3, h4, m3, m4] at h
  rw [k1, k2, k3, k4, l3, l4]
  omega

/-! ### The landing -/

section
variable (hy : stepOf z { z.ch c with stepIndex := k } = some y)
include hy

theorem landOn_prepared (hold : Bool) : Turned c z (prepareStep z c k hold) ((z.ch c).prepares k y)
    (offered z c y hold (grantsOf z c)) (waitsOf z c) (resumesOf z c) := (Turned.self c z).prepareStep hy hold

theorem prepares_step : stepOf z ((z.ch c).prepares k y) = some y := hy

/-- A channel HELD before the step it lands on (R31). -/
theorem landOn_hold (hs : (z.ch c).state = .running) :
    Turned c z (landOn z c k true) (({ (z.ch c).prepares k y with heldBefore := true } : Channel).holdsBy .endHold)
      (idled (z.ch c).settings.grantHold ((offered z c y true (grantsOf z c)).map fun g => { g with live := false })) []
      (resumesOf z c) := by
  have hbefore : Turned c z ((prepareStep z c k true).modCh c fun ch => { ch with heldBefore := true })
      { (z.ch c).prepares k y with heldBefore := true } (offered z c y true (grantsOf z c)) (waitsOf z c) (resumesOf z c) :=
    (landOn_prepared hy true).modCh (fun ch => { ch with heldBefore := true }) (fun _ _ _ => rfl) rfl
  have hstate : ((z.ch c).prepares k y).state = .running := hs
  have hheld := hbefore.addCause_free .endHold (by show ((z.ch c).prepares k y).state.holdable = true; rw [hstate]; rfl)
    (by show ((z.ch c).prepares k y).state ≠ .held; rw [hstate]; decide)
  rw [if_pos (by simp [HoldCauses.add, HoldCauses.keepsIdle])] at hheld
  exact hheld

theorem landOn_rest (hr : y.kind = .rest) : Turned c z (landOn z c k false) ((z.ch c).prepares k y).rests
    (idled (z.ch c).settings.grantHold (offered z c y false (grantsOf z c))) (waitsOf z c) (resumesOf z c) :=
  (landOn_prepared hy false).beginStep_rest (prepares_step hy) hr

theorem landOn_cover (hr : y.kind ≠ .rest) (hc : coversStep z c y (offered z c y false (grantsOf z c)) = true) :
    Turned c z (landOn z c k false)
      (if gapFor (z.ch c) y = 0 then ((z.ch c).prepares k y).starts y else ((z.ch c).prepares k y).gaps (gapFor (z.ch c) y))
      ((offered z c y false (grantsOf z c)).map Grant.unidle) (waitsOf z c) (resumesOf z c) :=
  (landOn_prepared hy false).beginStep_cover (prepares_step hy) hr hc

theorem landOn_wait (hr : y.kind ≠ .rest) (hc : coversStep z c y (offered z c y false (grantsOf z c)) = false) :
    Turned c z (landOn z c k false)
      (if gapFor (z.ch c) y = 0 then ((z.ch c).prepares k y).defers else ((z.ch c).prepares k y).gaps (gapFor (z.ch c) y))
      [] (asks z c y (waitsOf z c) (resumesOf z c)) (resumesOf z c) :=
  (landOn_prepared hy false).beginStep_wait (prepares_step hy) hr hc

/-- A landing lowers a channel's grants, where none of them is live. -/
theorem landOn_lowers (hs : (z.ch c).state = .running) (hone : (grantsOf z c).length ≤ 1)
    (hlive : ∀ g ∈ grantsOf z c, g.live = false) (hold : Bool) : Lowers (grantsOf z c) (grantsOf (landOn z c k hold) c) := by
  have hoffer : ∀ b : Bool, Lowers (grantsOf z c) (offered z c y b (grantsOf z c)) := fun b => offered_lowers hone b
  cases hold
  · by_cases hr : y.kind = .rest
    · rw [(landOn_rest hy hr).grants]
      exact (hoffer false).trans (idled_lowers _ _)
    · cases hc : coversStep z c y (offered z c y false (grantsOf z c))
      · rw [(landOn_wait hy hr hc).grants]
        exact .inl rfl
      · rw [(landOn_cover hy hr hc).grants]
        exact (hoffer false).trans (unidle_lowers _)
  · rw [(landOn_hold hy hs).grants]
    refine ((hoffer true).trans (.map (fun g => { g with live := false }) fun g hg => ⟨rfl, Nat.le_refl _, ?_⟩)).trans (idled_lowers _ _)
    show false = g.live
    rcases hoffer true with h | ⟨f, h, hf⟩
    · rw [h] at hg; cases hg
    · rw [h] at hg
      obtain ⟨g', hg', rfl⟩ := List.mem_map.1 hg
      rw [(hf g' hg').2.2, hlive g' hg']

theorem landOn_testsHold (hs : (z.ch c).state = .running) (hone : (grantsOf z c).length ≤ 1)
    (hlive : ∀ g ∈ grantsOf z c, g.live = false) (ht : testsHold z = true) (hold : Bool) : testsHold (landOn z c k hold) = true :=
  (landOn_acts z c k hold).testsHold_lowers (landOn_lowers hy hs hone hlive hold) hlive ht

end

end
end Sys2Proof.Machine
end

section
/-! PROOF. A landing once the arbiter has handled it: the channel, its demand, and its grant or entry (R22, R31, R97). -/
namespace Sys2Proof.Machine
open Sys2Proof.Safety

section
variable {s t u v w z : State} {c : Ch} {ch a b : Channel} {gs hs ks others : List Grant} {ws rs : List Entry}
  {x y : StepRecord} {k n : Nat} {g : Grant} {hold : Bool}

/-! ### The channel -/

/-- A channel whose step has ended, as the walk of the step end is about to land on a step: its grant is not live,
and both tests hold without its credit. -/
structure Walked (z : State) (c : Ch) (k : Nat) (y : StepRecord) : Prop where
  running : (z.ch c).state = .running
  step    : stepOf z { z.ch c with stepIndex := k } = some y
  place   : AtPlace z c
  live    : ∀ g ∈ grantsOf z c, g.live = false
  tests   : testsHold z = true

/-- A channel that has landed on a step (R22, R31). -/
structure Landing (a b : Channel) (k : Nat) (y : StepRecord) (hold : Bool) : Prop where
  same   : b = { a.prepares k y with
    state := b.state, lastDir := b.lastDir, startTimer := b.startTimer, gapTimer := b.gapTimer, holds := b.holds,
    heldBefore := b.heldBefore, play := b.play }
  lands  : Lands b y
  dir    : b.state ≠ .starting → b.lastDir = a.lastDir
  before : b.heldBefore = (hold || a.heldBefore)
  held   : hold = true → b.state = .held
  rest   : hold = false → y.kind = .rest → b.state = .running
  runs   : b.state = .running → y.kind = .rest
  gap    : hold = false → y.kind ≠ .rest → gapFor a y ≠ 0 → b.state = .gap ∧ b.gapTimer = some (gapFor a y)
  noGap  : hold = false → y.kind ≠ .rest → gapFor a y = 0 → b.gapTimer = none

theorem Landing.of_hold (a : Channel) (k : Nat) (y : StepRecord) :
    Landing a (({ a.prepares k y with heldBefore := true } : Channel).holdsBy .endHold) k y true where
  same := rfl
  lands := ⟨.inr (.inr (.inr (.inr rfl))), nofun, nofun, fun _ => rfl⟩
  dir _ := rfl
  before := rfl
  held _ := rfl
  rest := nofun
  runs := nofun
  gap := nofun
  noGap := nofun

theorem Landing.of_rest (hs : y.kind = .rest) (a : Channel) (k : Nat) : Landing a (a.prepares k y).rests k y false where
  same := rfl
  lands := ⟨.inr (.inr (.inr (.inl rfl))), nofun, nofun, nofun⟩
  dir _ := rfl
  before := rfl
  held := nofun
  rest _ _ := rfl
  runs _ := hs
  gap _ h := absurd hs h
  noGap _ h := absurd hs h

theorem Landing.of_gap (hs : y.kind ≠ .rest) (hg : gapFor a y ≠ 0) (k : Nat) :
    Landing a ((a.prepares k y).gaps (gapFor a y)) k y false where
  same := rfl
  lands := ⟨.inl rfl, nofun, nofun, nofun⟩
  dir _ := rfl
  before := rfl
  held := nofun
  rest _ h := absurd h hs
  runs := nofun
  gap _ _ _ := ⟨rfl, rfl⟩
  noGap _ _ h := absurd h hg

theorem Landing.of_starts (hs : y.kind ≠ .rest) (hg : gapFor a y = 0) (k : Nat) : Landing a ((a.prepares k y).starts y) k y false where
  same := rfl
  lands := ⟨.inr (.inr (.inl rfl)), nofun, fun _ => rfl, nofun⟩
  dir h := absurd rfl h
  before := rfl
  held := nofun
  rest _ h := absurd h hs
  runs := nofun
  gap _ _ h := absurd hg h
  noGap _ _ _ := rfl

theorem Landing.of_defers (hs : y.kind ≠ .rest) (hg : gapFor a y = 0) (k : Nat) : Landing a (a.prepares k y).defers k y false where
  same := rfl
  lands := ⟨.inr (.inl rfl), fun _ => rfl, nofun, nofun⟩
  dir _ := rfl
  before := rfl
  held := nofun
  rest _ h := absurd h hs
  runs := nofun
  gap _ _ h := absurd hg h
  noGap _ _ _ := rfl

theorem Walked.grantsOne (h : Walked z c k y) : (grantsOf z c).length ≤ 1 := by
  have := h.place.once
  unfold places at this
  omega

theorem Walked.unwaiting (h : Walked z c k y) : waitsOf z c = [] :=
  h.place.unwaiting (by rw [h.running]; decide) (by rw [h.running]; decide)

theorem Walked.testsHold (h : Walked z c k y) (hold : Bool) : Machine.testsHold (landOn z c k hold) = true :=
  landOn_testsHold h.step h.running h.grantsOne h.live h.tests hold

/-- The channel as it has landed, before the arbiter handles it. -/
theorem Walked.landing (h : Walked z c k y) (hold : Bool) :
    ∃ b, Landing (z.ch c) b k y hold ∧ SameRun b ((landOn z c k hold).ch c) := by
  cases hold
  · by_cases hr : y.kind = .rest
    · exact ⟨_, .of_rest hr _ k, (landOn_rest h.step hr).chan⟩
    · by_cases hg : gapFor (z.ch c) y = 0
      · cases hc : coversStep z c y (offered z c y false (grantsOf z c))
        · have := (landOn_wait h.step hr hc).chan
          rw [if_pos hg] at this
          exact ⟨_, .of_defers hr hg k, this⟩
        · have := (landOn_cover h.step hr hc).chan
          rw [if_pos hg] at this
          exact ⟨_, .of_starts hr hg k, this⟩
      · cases hc : coversStep z c y (offered z c y false (grantsOf z c))
        · have := (landOn_wait h.step hr hc).chan
          rw [if_neg hg] at this
          exact ⟨_, .of_gap hr hg k, this⟩
        · have := (landOn_cover h.step hr hc).chan
          rw [if_neg hg] at this
          exact ⟨_, .of_gap hr hg k, this⟩
  · exact ⟨_, .of_hold _ k y, (landOn_hold h.step h.running).chan⟩

theorem Walked.currentStep (h : Walked z c k y) (hold : Bool) : Machine.currentStep (landOn z c k hold) c = some y := by
  obtain ⟨b, hb, hsame⟩ := h.landing hold
  have hpool : (landOn z c k hold).pool = z.pool := by
    cases hold
    · by_cases hr : y.kind = .rest
      · exact (landOn_rest h.step hr).pool
      · cases hc : coversStep z c y (offered z c y false (grantsOf z c))
        · exact (landOn_wait h.step hr hc).pool
        · exact (landOn_cover h.step hr hc).pool
    · exact (landOn_hold h.step h.running).pool
  have hactive : ((landOn z c k hold).ch c).active = (z.ch c).active := by
    rw [hsame.get Channel.active, hb.same]; rfl
  have hindex : ((landOn z c k hold).ch c).stepIndex = k := by
    rw [hsame.get Channel.stepIndex, hb.same]; rfl
  have hstep := h.step
  unfold Machine.currentStep windowRead
  unfold stepOf windowRead at hstep
  rw [hactive, hindex, hpool]
  cases hw : (z.ch c).active with
  | none => rw [hw] at hstep; cases hstep
  | some w => rw [hw] at hstep; exact hstep

theorem Walked.idles (h : Walked z c k y) (hold : Bool) : Idles ((landOn z c k hold).ch c) := by
  have hturned := landOn_prepared h.step hold
  exact landOn_idles (hturned.state.trans h.running) (hturned.currentStep.trans (prepares_step h.step))

/-- The channel at the end of the arbiter's handling. -/
theorem Walked.arrives (h : Walked z c k y) (hold : Bool) :
    ∃ b, Landing (z.ch c) b k y hold ∧ Arrived b y ((settle (landOn z c k hold)).ch c) := by
  obtain ⟨b, hb, hsame⟩ := h.landing hold
  exact ⟨b, hb, settle_arrived hb.lands (h.currentStep hold) (h.testsHold hold) (hb.lands.arrived hsame (h.idles hold))⟩

/-! ### The grant and the entries -/

/-- A channel that has come to DEFERRED with one entry, once the arbiter has handled it. -/
theorem settle_deferring (hchan : SameRun ch (w.ch c)) (hs : ch.state = .deferred) (hx : stepOf w ch = some x)
    (hg : grantsOf w c = [])
    (he : (waitsOf w c).length = 1 ∧ resumesOf w c = [] ∨ waitsOf w c = [] ∧ (resumesOf w c).length = 1) :
    ((settle w).ch c).state = .starting ∧ holdsCover (settle w) c x = true ∨
      ((settle w).ch c).state = .deferred ∧ ∃ e ∈ (settle w).arb.waiting ++ (settle w).arb.resume, e.ch = c := by
  have hstart : Deferring w c ch x True w := ⟨.refl _, .inl ⟨hchan, hg, he.imp_right fun h => ⟨trivial, h⟩⟩⟩
  obtain ⟨-, ⟨hch, -, hentry⟩ | ⟨hch, hcovers, -⟩⟩ := settle_carried (deferring_carried True hs hx) (.inl hg) hstart
  · refine .inr ⟨(hch.get Channel.state).trans hs, ?_⟩
    rcases hentry with ⟨h, -⟩ | ⟨-, -, h⟩
    · obtain ⟨e, he⟩ := List.length_eq_one_iff.1 h
      obtain ⟨hm, hc⟩ := mem_waitsOf.1 (he ▸ List.mem_singleton_self e)
      exact ⟨e, List.mem_append_left _ hm, hc⟩
    · obtain ⟨e, he⟩ := List.length_eq_one_iff.1 h
      obtain ⟨hm, hc⟩ := mem_resumesOf.1 (he ▸ List.mem_singleton_self e)
      exact ⟨e, List.mem_append_right _ hm, hc⟩
  · exact .inl ⟨hch.get Channel.state, hcovers⟩

/-- A landing whose gap is 0 ends in STARTING on a covering grant, or in DEFERRED with an entry (R26). -/
theorem Walked.noGap (h : Walked z c k y) (hr : y.kind ≠ .rest) (hg : gapFor (z.ch c) y = 0) :
    ((settle (landOn z c k false)).ch c).state = .starting ∧ holdsCover (settle (landOn z c k false)) c y = true ∨
      ((settle (landOn z c k false)).ch c).state = .deferred ∧
        ∃ e ∈ (settle (landOn z c k false)).arb.waiting ++ (settle (landOn z c k false)).arb.resume, e.ch = c := by
  have honce := h.place.once
  unfold places at honce
  have hw := h.unwaiting
  cases hc : coversStep z c y (offered z c y false (grantsOf z c))
  · have hland := landOn_wait h.step hr hc
    rw [if_pos hg, hw] at hland
    refine settle_deferring hland.chan rfl ?_ hland.grants ?_
    · have := prepares_step h.step
      unfold stepOf windowRead at this ⊢
      rw [hland.pool]
      exact this
    · rw [hland.waits, hland.resumes]
      unfold asks
      by_cases hrs : resumesOf z c = []
      · rw [if_pos ⟨rfl, hrs⟩]; exact .inl ⟨rfl, hrs⟩
      · rw [if_neg fun e => hrs e.2]
        have := List.length_pos_iff.2 hrs
        exact .inr ⟨rfl, by omega⟩
  · have hland := landOn_cover h.step hr hc
    rw [if_pos hg] at hland
    have hne : grantsOf (landOn z c k false) c ≠ [] := fun e => by
      rw [hland.grants] at e
      have : coversStep z c y ((offered z c y false (grantsOf z c)).map Grant.unidle) = true := by rw [coversStep_unidle]; exact hc
      rw [e] at this
      cases this
    have hplaces : places (landOn z c k false) c ≤ 1 := by
      unfold places
      rw [hland.waits, hland.resumes, hw]
      have hlen : (grantsOf (landOn z c k false) c).length ≤ (grantsOf z c).length := by
        rcases landOn_lowers h.step h.running h.grantsOne h.live false with e | ⟨f, e, -⟩ <;> rw [e] <;> simp
      rw [hw] at honce
      simp only [List.length_nil] at honce ⊢
      omega
    have hown := settle_granted hplaces hne (h.testsHold false)
    refine .inl ⟨hown.state.trans (hland.chan.get Channel.state), ?_⟩
    rw [hown.holdsCover, hland.holdsCover, ← coversStep, coversStep_unidle]
    exact hc

end
end Sys2Proof.Machine
end

section
/-! PROOF. The grant of a channel that lands on a step: carried, kept idle, or released for a request (R97). -/
namespace Sys2Proof.Machine
open Sys2Proof.Safety

section
variable {s t u v w z : State} {c : Ch} {ch a b : Channel} {gs hs ks others : List Grant} {ws rs : List Entry}
  {x y : StepRecord} {k n : Nat} {g : Grant} {e : Entry} {hold : Bool}

/-! ### A grant that stays -/

/-- A channel's grants before the arbiter handles an event in which it lodges nothing and has nothing to ask for are its grants
afterwards. -/
theorem settle_grantsOf (hw : waitsOf w c = []) (hr : resumesOf w c = []) (hg : (grantsOf w c).length ≤ 1)
    (ht : testsHold w = true) : grantsOf (settle w) c = grantsOf w c := by
  by_cases hnone : grantsOf w c = []
  · exact (settle_unlisted (by unfold places; rw [hnone, hw, hr]; rfl)).grants
  · exact (settle_granted (by unfold places; rw [hw, hr]; simpa using hg) hnone ht).grants

/-- A channel's idle grant, or none where the grant hold is 0 (R98). -/
def idleOne (n : Nat) (g : Grant) : List Grant := if n = 0 then [] else [{ g with hold := some n }]

theorem idled_one (h : g.hold = none) (n : Nat) : idled n [g] = idleOne n g := by
  unfold idled idleOne
  rw [List.head?_cons]
  dsimp only
  rw [h]
  rfl

theorem idled_idleOne (n : Nat) (g : Grant) : idled n (idleOne n g) = idleOne n g := by
  unfold idled idleOne
  by_cases hn : n = 0
  · rw [if_pos hn]; rfl
  · rw [if_neg hn]; rfl

theorem idleOne_head (n : Nat) (g : Grant) :
    (idleOne n g).head? = (if n = 0 then none else some n).map fun m => { g with hold := some m } := by
  unfold idleOne
  split <;> rfl

theorem idleOne_live (n : Nat) (h : g.live = false) : (idleOne n g).map (fun g => { g with live := false }) = idleOne n g := by
  unfold idleOne
  split
  · rfl
  · rw [List.map_cons, List.map_nil, ← h]

/-- A channel about to land with a grant, not idle, in its one place. -/
structure Granting (z : State) (c : Ch) (k : Nat) (y : StepRecord) (g : Grant) : Prop where
  walked  : Walked z c k y
  grant   : grantOf z c = some g
  notIdle : g.hold = none

theorem Granting.grants (h : Granting z c k y g) : grantsOf z c = [g] := by
  have hg := h.grant
  have hone := h.walked.grantsOne
  rw [grantOf_eq_head] at hg
  match hgs : grantsOf z c, hone, hg with
  | [g'], _, hg => rw [List.head?_cons] at hg; rw [Option.some.inj hg]

theorem Granting.resumes (h : Granting z c k y g) : resumesOf z c = [] := by
  have := h.walked.place.once
  unfold places at this
  rw [h.grants, h.walked.unwaiting] at this
  simp only [List.length_singleton, List.length_nil] at this
  exact List.length_eq_zero_iff.1 (by omega)

theorem Granting.live (h : Granting z c k y g) : g.live = false := h.walked.live g (by rw [h.grants]; exact List.mem_singleton_self g)

theorem Granting.ofCh (h : Granting z c k y g) : g.ch = c := by
  have : g ∈ grantsOf z c := by rw [h.grants]; exact List.mem_singleton_self g
  unfold grantsOf at this
  exact of_decide_eq_true (List.mem_filter.1 this).2

/-- The grant once a landing has been handled, where the landing lodges nothing. -/
theorem Granting.settled (h : Granting z c k y g) (hw : waitsOf (landOn z c k hold) c = [])
    (hr : resumesOf (landOn z c k hold) c = []) : grantOf (settle (landOn z c k hold)) c = (grantsOf (landOn z c k hold) c).head? := by
  have hlen : (grantsOf (landOn z c k hold) c).length ≤ 1 := by
    have hone := h.walked.grantsOne
    rcases landOn_lowers h.walked.step h.walked.running h.walked.grantsOne h.walked.live hold with e | ⟨f, e, -⟩
    · rw [e]; exact Nat.zero_le _
    · rw [e, List.length_map]; exact hone
  rw [grantOf_eq_head, settle_grantsOf hw hr hlen (h.walked.testsHold hold)]

/-- A grant is carried to the step landed on (R97). -/
def Carries (z : State) (c : Ch) (y : StepRecord) (g : Grant) : Prop :=
  y.moves = true ∧ y.dir = g.dir ∧ g.dir ≠ .both ∧ claimOf z c y ≤ g.amount

theorem offered_carried (hc : Carries z c y g) (hh : g.hold = none) (hold : Bool) : offered z c y hold [g] =
    if hold then idleOne (z.ch c).settings.grantHold (g.lowered (claimOf z c y)) else [g.lowered (claimOf z c y)] := by
  unfold offered
  rw [List.head?_cons]
  dsimp only
  rw [if_pos (c := y.moves = true ∧ y.dir = g.dir ∧ g.dir ≠ .both ∧ claimOf z c y ≤ g.amount) hc]
  cases hold
  · rw [if_neg Bool.false_ne_true, if_neg Bool.false_ne_true, List.map_singleton, List.map_singleton]
    unfold Grant.unidle Grant.lowered
    rw [← hh]
  · rw [if_pos rfl, if_pos rfl, List.map_singleton]
    exact idled_one (g := g.lowered (claimOf z c y)) hh _

theorem offered_kept (hc : ¬Carries z c y g) (hh : g.hold = none) (hk : y.kind = .rest ∨ hold = true) :
    offered z c y hold [g] = idleOne (z.ch c).settings.grantHold g := by
  unfold offered
  rw [List.head?_cons]
  dsimp only
  rw [if_neg (c := y.moves = true ∧ y.dir = g.dir ∧ g.dir ≠ .both ∧ claimOf z c y ≤ g.amount) hc, if_pos hk]
  exact idled_one hh _

theorem offered_released (hc : ¬Carries z c y g) (hk : ¬(y.kind = .rest ∨ hold = true)) : offered z c y hold [g] = [] := by
  unfold offered
  rw [List.head?_cons]
  dsimp only
  rw [if_neg (c := y.moves = true ∧ y.dir = g.dir ∧ g.dir ≠ .both ∧ claimOf z c y ≤ g.amount) hc, if_neg hk]

theorem Carries.ne_rest (h : Carries z c y g) : y.kind ≠ .rest := by
  intro hk
  have hdir : y.dir = .none := by cases y <;> first | rfl | cases hk
  have hmoves := h.1
  simp [StepRecord.moves, hdir] at hmoves

/-- A carried grant is the channel's at the end, with the claim of the step. -/
theorem Granting.carried (h : Granting z c k y g) (hc : Carries z c y g) :
    grantOf (settle (landOn z c k false)) c = some ⟨c, g.dir, claimOf z c y, false, none⟩ := by
  have hoffer := offered_carried hc h.notIdle false
  rw [if_neg Bool.false_ne_true] at hoffer
  have hcover : coversStep z c y (offered z c y false (grantsOf z c)) = true := by
    rw [h.grants, hoffer]
    simp [coversStep, covers, Grant.lowered, hc.2.1]
  have hland := landOn_cover h.walked.step hc.ne_rest hcover
  rw [h.settled (hland.waits.trans h.walked.unwaiting) (hland.resumes.trans h.resumes), hland.grants, h.grants, hoffer]
  show some (g.lowered (claimOf z c y)).unidle = _
  unfold Grant.lowered Grant.unidle
  rw [h.ofCh, h.live, h.notIdle]

/-- A grant kept by a channel that is HELD before the step, with its new amount. -/
theorem Granting.held (h : Granting z c k y g) {g' : Grant} (hg : g'.live = false)
    (hoffer : offered z c y true [g] = idleOne (z.ch c).settings.grantHold g') :
    grantOf (settle (landOn z c k true)) c =
      (if (z.ch c).settings.grantHold = 0 then none else some (z.ch c).settings.grantHold).map fun m => { g' with hold := some m } := by
  have hland := landOn_hold h.walked.step h.walked.running
  rw [h.settled hland.waits (hland.resumes.trans h.resumes), hland.grants, h.grants, hoffer, idleOne_live _ hg, idled_idleOne,
    idleOne_head]

/-- A grant kept by a channel that lands on a REST step. -/
theorem Granting.rested (h : Granting z c k y g) (hr : y.kind = .rest) :
    grantOf (settle (landOn z c k false)) c =
      (if (z.ch c).settings.grantHold = 0 then none else some (z.ch c).settings.grantHold).map fun m => { g with hold := some m } := by
  have hnot : ¬Carries z c y g := fun hc => hc.ne_rest hr
  have hland := landOn_rest h.walked.step hr
  rw [h.settled (hland.waits.trans h.walked.unwaiting) (hland.resumes.trans h.resumes), hland.grants, h.grants,
    offered_kept hnot h.notIdle (.inl hr), idled_idleOne, idleOne_head]

/-! ### A request -/

/-- A channel's request for a step waits, or has been granted, the channel in GAP, in DEFERRED, or STARTING once granted. -/
def Requested (w : State) (c : Ch) (e : Entry) (u : State) : Prop :=
  Runs w u ∧ resumesOf u c = [] ∧
    (waitsOf u c = [e] ∧ grantsOf u c = [] ∧ ((u.ch c).state = .gap ∨ (u.ch c).state = .deferred) ∨
      waitsOf u c = [] ∧ grantsOf u c = [e.grant] ∧ ((u.ch c).state = .gap ∨ (u.ch c).state = .starting))

theorem requested_carried (hx : currentStep w c = some y) (he : e = requestOf w c y) : Carried c (Requested w c e) where
  own u v k h := by
    obtain ⟨hruns, h⟩ := h
    refine ⟨hruns.trans k.runs, ?_⟩
    rw [k.grants, k.waits, k.resumes, k.state]
    exact h
  once u h := by
    obtain ⟨-, hr, ⟨hw, hg, -⟩ | ⟨hw, hg, -⟩⟩ := h <;> unfold places <;> rw [hw, hg, hr] <;> simp
  grant u v e' hg h := by
    obtain ⟨hruns, hr, ⟨hw, -, hs⟩ | ⟨-, hgs, -⟩⟩ := h
    · have hentry : e' = e := by
        rcases hg.entry with ⟨h1, -⟩ | ⟨-, h2⟩
        · rw [hw] at h1; exact (List.singleton_injective h1).symm
        · rw [hr] at h2; cases h2
      subst hentry
      have hall := hruns.trans hg.runs
      have hvstate : (v.ch c).state = (u.ch c).state := OnlyPort.state hg.chan
      have hself := Turned.self c v
      rw [hg.grants, hg.waits, hg.resumes] at hself
      have hstep : stepOf v (v.ch c) = some y := (stepOf_self v c).trans ((hall.currentStep c).trans hx)
      have hcover : coversStep v c y [e'.grant] = true := by
        rw [he, ← hall.requestOf]
        exact coversStep_request v c y
      refine ⟨hall.trans (handOver_runs v c), ?_⟩
      rcases hs with hs | hs
      · have hgap : (v.ch c).state = .gap := hvstate.trans hs
        rw [hself.handOver_gap hstep hgap, hcover, if_pos rfl]
        exact ⟨hself.resumes, .inr ⟨hself.waits, hself.grants, .inl hgap⟩⟩
      · have hdef : (v.ch c).state = .deferred := hvstate.trans hs
        rw [hself.handOver_deferred hstep hdef, hcover, if_pos rfl]
        have hstarts := hself.enterStarting y
        exact ⟨hstarts.resumes, .inr ⟨hstarts.waits, hstarts.grants, .inr hstarts.state⟩⟩
    · rw [hg.before] at hgs
      cases hgs

/-- A landing that lodges a request: it waits at the end, or it has been granted (R22, R97). -/
theorem Walked.requests (h : Walked z c k y) (hr : y.kind ≠ .rest)
    (hoffer : offered z c y false (grantsOf z c) = []) (hrs : resumesOf z c = []) :
    requestOf z c y ∈ (settle (landOn z c k false)).arb.waiting ∨
      grantOf (settle (landOn z c k false)) c = some (requestOf z c y).grant := by
  have hland := landOn_wait h.step hr (by rw [hoffer]; rfl)
  have hwaits : waitsOf (landOn z c k false) c = [requestOf z c y] := by
    rw [hland.waits]
    exact if_pos ⟨h.unwaiting, hrs⟩
  have hstate : ((landOn z c k false).ch c).state = .gap ∨ ((landOn z c k false).ch c).state = .deferred := by
    rw [hland.state]
    split
    · exact .inr rfl
    · exact .inl rfl
  have hrequest : requestOf z c y = requestOf (landOn z c k false) c y := (hland.requestOf y).symm
  have hstart : Requested (landOn z c k false) c (requestOf z c y) (landOn z c k false) :=
    ⟨.refl _, hland.resumes.trans hrs, .inl ⟨hwaits, hland.grants, hstate⟩⟩
  obtain ⟨-, -, ⟨hw, -, -⟩ | ⟨-, hg, -⟩⟩ := settle_carried (requested_carried (h.currentStep false) hrequest) (.inl hland.grants) hstart
  · exact .inl (mem_waitsOf.1 (by rw [hw]; exact List.mem_singleton_self _)).1
  · exact .inr (by rw [grantOf_eq_head, hg]; rfl)

end
end Sys2Proof.Machine
end

section
/-! PROOF. The order of the grant list (R90, R97): acts take grants off it, an evaluation adds to its end. -/
namespace Sys2Proof.Machine
open Sys2Proof.Safety

/-- An act leaves the grant list but for grants it takes off. -/
def Shrinks (s t : State) : Prop := (t.arb.grants.map Grant.ch).Sublist (s.arb.grants.map Grant.ch)

section
variable {s t u : State} {c d : Ch} {l : List Ch}

theorem Shrinks.refl (s : State) : Shrinks s s := List.Sublist.refl _

theorem Shrinks.trans (h : Shrinks s t) (k : Shrinks t u) : Shrinks s u := List.Sublist.trans k h

theorem Shrinks.of_grants (h : t.arb.grants = s.arb.grants) : Shrinks s t := by
  unfold Shrinks; rw [h]

theorem Shrinks.ite (p : Prop) [Decidable p] (ht : Shrinks s t) (hu : Shrinks s u) : Shrinks s (if p then t else u) :=
  iteInduction (motive := Shrinks s) (fun _ => ht) fun _ => hu

theorem Shrinks.modCh (s : State) (c : Ch) (f : Channel → Channel) : Shrinks s (s.modCh c f) := .of_grants rfl

section
variable (s c)

theorem modGrant_shrinks (f : Grant → Grant) (hf : ∀ g, (f g).ch = g.ch) : Shrinks s (modGrant s c f) := by
  have hmap : (modGrant s c f).arb.grants.map Grant.ch = s.arb.grants.map Grant.ch := by
    show (s.arb.grants.map fun g => if g.ch = c then f g else g).map Grant.ch = _
    rw [List.map_map]
    refine List.map_congr_left fun g _ => ?_
    rw [Function.comp_apply]
    split
    · exact hf g
    · rfl
  unfold Shrinks
  rw [hmap]

theorem releaseGrant_shrinks : Shrinks s (releaseGrant s c) := by
  unfold releaseGrant
  exact .ite _ (List.filter_sublist.map _) (.refl s)

theorem idleGrant_shrinks : Shrinks s (idleGrant s c) := by
  unfold idleGrant
  split
  · exact .refl s
  · exact .ite _ (.refl s) (.ite _ (releaseGrant_shrinks s c) (modGrant_shrinks s c _ fun _ => rfl))

theorem unidleGrant_shrinks : Shrinks s (unidleGrant s c) := modGrant_shrinks s c _ fun _ => rfl

theorem issue_shrinks : Shrinks s (issue s c) := .of_grants (by rw [issue_arb])

theorem exchangeGrant_shrinks (r : StepRecord) : Shrinks s (exchangeGrant s c r) :=
  (releaseGrant_shrinks s c).trans (.of_grants rfl)

theorem settleOffer_shrinks (r : StepRecord) (toHeld : Bool) : Shrinks s (settleOffer s c r toHeld) := by
  unfold settleOffer
  cases grantOf s c with
  | none => exact .refl s
  | some g =>
    dsimp only
    have hdue : Shrinks s (s.modArb fun a => { a with evalDue := true }) := .of_grants rfl
    have hlow := fun n => hdue.trans (modGrant_shrinks _ c (fun g => { g with amount := n }) fun _ => rfl)
    exact .ite _ (.ite _ ((hlow _).trans (idleGrant_shrinks _ c)) ((hlow _).trans (unidleGrant_shrinks _ c)))
      (.ite _ (hdue.trans (idleGrant_shrinks _ c)) (hdue.trans (releaseGrant_shrinks _ c)))

theorem settleAtGap_shrinks (r : StepRecord) : Shrinks s (settleAtGap s c r) := by
  unfold settleAtGap
  have hone : Shrinks s (if holdsCover s c r then unidleGrant s c else releaseGrant s c) :=
    .ite _ (unidleGrant_shrinks s c) (releaseGrant_shrinks s c)
  exact .ite _ hone (hone.trans (.of_grants rfl))

theorem enterStarting_shrinks (r : StepRecord) : Shrinks s (enterStarting s c r) :=
  ((Shrinks.modCh s c _).trans (unidleGrant_shrinks _ c)).trans (issue_shrinks _ c)

theorem enterDeferred_shrinks : Shrinks s (enterDeferred s c) := (Shrinks.modCh s c _).trans (issue_shrinks _ c)

theorem enterRest_shrinks : Shrinks s (enterRest s c) :=
  ((Shrinks.modCh s c _).trans (issue_shrinks _ c)).trans (idleGrant_shrinks _ c)

theorem gapExpires_shrinks : Shrinks s (gapExpires s c) := by
  unfold gapExpires
  split
  · exact (releaseGrant_shrinks s c).trans (enterDeferred_shrinks _ c)
  · exact .ite _ (enterStarting_shrinks s c _)
      ((Shrinks.ite _ (exchangeGrant_shrinks s c _) (.refl s)).trans (enterDeferred_shrinks _ c))

theorem enterGap_shrinks (r : StepRecord) (gap : Nat) : Shrinks s (enterGap s c r gap) := by
  unfold enterGap
  have hgap := ((Shrinks.modCh s c fun ch => { ch with state := .gap, gapTimer := some gap }).trans
    (settleAtGap_shrinks _ c r)).trans (issue_shrinks _ c)
  exact .ite _ (hgap.trans (gapExpires_shrinks _ c)) hgap

theorem beginStep_shrinks : Shrinks s (beginStep s c) := by
  unfold beginStep
  split
  · exact .refl s
  · exact .ite _ (enterRest_shrinks s c) (enterGap_shrinks s c _ _)

theorem prepareStep_shrinks (k : Nat) (toHeld : Bool) : Shrinks s (prepareStep s c k toHeld) := by
  unfold prepareStep
  dsimp only
  split
  · exact .modCh s c _
  · exact ((Shrinks.modCh s c _).trans (.modCh _ c _)).trans (settleOffer_shrinks _ c _ _)

theorem leaveHeld_shrinks : Shrinks s (leaveHeld s c) := by
  unfold leaveHeld
  split
  · exact (Shrinks.modCh s c _).trans (beginStep_shrinks _ c)
  · split
    · exact .refl s
    · refine .ite _ (enterRest_shrinks s c) (.ite _ (enterStarting_shrinks s c _) ?_)
      have hdefer := (releaseGrant_shrinks s c).trans (enterDeferred_shrinks _ c)
      exact .ite _ hdefer (hdefer.trans (.of_grants rfl))

theorem handOver_shrinks : Shrinks s (handOver s c) := by
  unfold handOver
  split
  · exact .refl s
  · split
    · exact .ite _ (.refl s) (exchangeGrant_shrinks s c _)
    · exact .ite _ (enterStarting_shrinks s c _) (exchangeGrant_shrinks s c _)
    · have hdrop := Shrinks.modCh s c fun ch => { ch with holds := ch.holds.drop .curtailed }
      exact .ite _ (hdrop.trans (leaveHeld_shrinks _ c)) (.ite _ (hdrop.trans (idleGrant_shrinks _ c)) hdrop)
    · exact .ite _ (idleGrant_shrinks s c) (.refl s)
    · exact .refl s

end

/-! ### The front of the list -/

theorem map_filter_ch (l : List Grant) (c : Ch) :
    (l.filter fun g => g.ch ≠ c).map Grant.ch = (l.map Grant.ch).filter fun d => d ≠ c := by
  rw [List.filter_map]
  rfl

/-- A list without `d` that heads another still heads what is left of it where only places of `d` have gone. -/
theorem prefix_of_filter {a b : List Ch} (hl : d ∉ l) (h : l <+: a) (hs : b.Sublist a)
    (hf : b.filter (fun e => e ≠ d) = a.filter fun e => e ≠ d) : l <+: b := by
  obtain ⟨r, rfl⟩ := h
  obtain ⟨b1, b2, rfl, h1, h2⟩ := List.sublist_append_iff.1 hs
  have hd1 : d ∉ b1 := fun e => hl (h1.subset e)
  have hfilter : ∀ m : List Ch, d ∉ m → m.filter (fun e => e ≠ d) = m := fun m hm =>
    List.filter_eq_self.2 fun e he => decide_eq_true fun x => hm (by rw [← x]; exact he)
  rw [List.filter_append, List.filter_append, hfilter l hl, hfilter b1 hd1] at hf
  have hlen := congrArg List.length hf
  rw [List.length_append, List.length_append] at hlen
  have h2' := (h2.filter fun e => e ≠ d).length_le
  have h1' := h1.length_le
  have : b1 = l := h1.eq_of_length (by omega)
  rw [this]
  exact List.prefix_append l b2

/-- A list of channels heads the grant list. -/
def Heads (l : List Ch) (s : State) : Prop := l <+: s.arb.grants.map Grant.ch

theorem Heads.acts (h : Heads l s) (hs : Shrinks s t) (ha : ActsOn d s t) (hd : d ∉ l) : Heads l t := by
  refine prefix_of_filter hd h hs ?_
  rw [← map_filter_ch, ← map_filter_ch, ha.grants]

theorem Heads.granted (h : Heads l s) (hd : d ∈ l) : grantsOf s d ≠ [] := by
  obtain ⟨g, hg, rfl⟩ := List.mem_map.1 (h.subset hd)
  exact List.ne_nil_of_mem (mem_grantsOf.2 ⟨hg, rfl⟩)

theorem handOverAll_heads (cs : List Ch) (h : Heads l s) (hd : ∀ d ∈ cs, d ∉ l) : Heads l (handOverAll s cs) := by
  induction cs generalizing s with
  | nil => exact h
  | cons c cs ih =>
    exact ih (h.acts (handOver_shrinks s c) (handOver_acts s c) (hd c List.mem_cons_self)) fun d hd' =>
      hd d (List.mem_cons_of_mem _ hd')

/-- An evaluation grants no channel that holds a grant. -/
theorem evaluate_granted (hp : Placed s) (hd : d ∈ (evaluate s).2) : grantsOf s d = [] := by
  obtain ⟨taken, -, -, hcount, -, hlen, -⟩ := evaluate_lists s d
  have hpos := List.count_pos_iff.2 hd
  have honce := (hp d).once
  unfold places at honce
  exact List.length_eq_zero_iff.1 (by omega)

/-- The front of the grant list stands while the arbiter evaluates. -/
theorem evaluateDue_heads (fuel : Nat) (hp : Placed s) (ht : testsHold s = true) (h : Heads l s) : Heads l (evaluateDue fuel s) := by
  induction fuel generalizing s with
  | zero => exact h
  | succ n ih =>
    unfold evaluateDue
    split
    · obtain ⟨z, hz⟩ : ∃ z, z = s.modArb fun a => { a with evalDue := false } := ⟨_, rfl⟩
      have hzp : Placed z := hz ▸ hp.evalDue false
      have hzh : Heads l z := by rw [hz]; exact h
      have hzt : testsHold z = true := by rw [hz]; exact ht
      obtain ⟨hp1, hnd, hl⟩ := evaluate_placed hzp
      obtain ⟨fromResume, fromWaiting, hgs, -, -, -, -, -, -, htests, -, -, -⟩ := evaluate_spec z
      obtain ⟨hp2, ht2⟩ := handOverAll_placed hp1 (htests hzt) hnd hl
      have hheads : Heads l (evaluate z).1 := by
        unfold Heads
        rw [hgs, List.map_append]
        exact hzh.trans (List.prefix_append _ _)
      rw [← hz]
      exact ih hp2 ht2 (handOverAll_heads _ hheads fun d hd hin => hzh.granted hin (evaluate_granted hzp hd))
    · exact h

/-- The grant list stands, and is only added to, where an event's handling sheds nothing. -/
theorem settle_heads (hp : Placed s) (ht : testsHold s = true) : Heads (s.arb.grants.map Grant.ch) (settle s) := by
  unfold settle
  rw [shed_calm ht]
  exact evaluateDue_heads _ hp ht (List.prefix_refl _)

/-- An act that takes nothing off a channel's grants leaves the order of the grant list. -/
theorem Shrinks.order (h : Shrinks s t) (ha : ActsOn c s t) (hlen : (grantsOf t c).length = (grantsOf s c).length) :
    t.arb.grants.map Grant.ch = s.arb.grants.map Grant.ch := by
  refine List.Sublist.eq_of_length h ?_
  have hcount : ∀ u : State, u.arb.grants.length = (u.arb.grants.filter fun g => g.ch ≠ c).length + (grantsOf u c).length := fun u => by
    rw [← (grants_perm u c).length_eq, List.length_append]
  rw [List.length_map, List.length_map, hcount t, hcount s, ha.grants, hlen]

end
end Sys2Proof.Machine
end

section
/-! PROOF. A landing at the end of its event (R31). -/
namespace Sys2Proof.Machine
open Sys2Proof.Safety

section
variable {s t u v w z : State} {c : Ch} {ch a b : Channel} {x y : StepRecord} {k n : Nat} {g : Grant} {hold : Bool}

theorem stageRefresh_runs (v : State) (c : Ch) : Runs v (stageRefresh v c) :=
  iteInduction (motive := Runs v) (fun _ => issue_runs v c) fun _ => .refl v

theorem stageRefresh_arb (v : State) (c : Ch) : (stageRefresh v c).arb = v.arb :=
  iteInduction (motive := fun u : State => u.arb = v.arb) (fun _ => issue_arb v c) fun _ => rfl

/-- The refreshing of the setpoint at the end of a period event keeps a channel as it landed. -/
theorem stageRefresh_arrived (hx : currentStep v c = some y) (hb : b.state = .running → y.kind = .rest)
    (h : Arrived b y (v.ch c)) : Arrived b y ((stageRefresh v c).ch c) := by
  unfold stageRefresh
  split
  · rename_i hs
    have hidles : Idles ((issue v c).ch c) := by
      rcases hs with hs | hs
      · obtain ⟨q, p, hch⟩ := issue_ch v c c
        exact fun hne => absurd (by rw [hch]; exact hs) hne
      · have hrest : y.kind = .rest := by
          rcases h.state with e | ⟨-, e⟩
          · exact hb (e.symm.trans hs)
          · rw [hs] at e; cases e
        exact issue_idles (h.idles (by rw [hs]; decide)).1 (.inr (calledFor_rest hx hrest (.inr hs)))
    obtain ⟨q, p, hch⟩ := issue_ch v c c
    rw [hch] at hidles ⊢
    refine ⟨?_, h.state, h.dir, h.gap, h.held, hidles⟩
    rw [h.same]
  · exact h

/-- What a landing leaves of the channel's schedule (R30). -/
structure Walking (a b : Channel) : Prop where
  cycle       : b.cycle = a.cycle
  cycleNumber : b.cycleNumber = a.cycleNumber
  loops       : b.loops = a.loops
  active      : b.active = a.active
  staged      : b.staged = a.staged
  swapPending : b.swapPending = a.swapPending

/-- A channel that has landed, at the end of its event. -/
theorem Walked.lands (h : Walked z c k y) (hold : Bool) (he : Ends (stageRefresh (settle (landOn z c k hold)) c) t) :
    Landed (z.ch c) t c k y (hold = true) ∧ Walking (z.ch c) (t.ch c) ∧ t.arb = (settle (landOn z c k hold)).arb := by
  obtain ⟨v, hv⟩ : ∃ v, v = settle (landOn z c k hold) := ⟨_, rfl⟩
  obtain ⟨b, hb, harrived⟩ := h.arrives hold
  rw [← hv] at he harrived ⊢
  have hacts : ActsOn c z (landOn z c k hold) := landOn_acts z c k hold
  have hstep : Machine.currentStep v c = some y := by
    rw [hv, (settle_runs _).currentStep]
    exact h.currentStep hold
  have hu := stageRefresh_arrived hstep hb.runs harrived
  have harb : t.arb = v.arb := he.arb.trans (stageRefresh_arb v c)
  have hcovers : holdsCover t c y = holdsCover v c y := by
    rw [he.holdsCover, holdsCover_iff, holdsCover_iff, grantsOf_congr c (stageRefresh_arb v c)]
    simp only [covers, (stageRefresh_runs v c).claimOf]
  have hstate : (t.ch c).state = (v.ch c).state := by
    obtain ⟨q, p, hch⟩ := stageRefresh_ch v c
    rw [he.get c Channel.state, hch]
  have hfield : ∀ {α : Type} (f : Channel → α), f (t.ch c) = f ((stageRefresh v c).ch c) → f ((stageRefresh v c).ch c) = f b →
      f b = f ((z.ch c).prepares k y) → f (t.ch c) = f ((z.ch c).prepares k y) := fun f h1 h2 h3 => h1.trans (h2.trans h3)
  have hlife : (t.ch c).life = (z.ch c).life := hfield Channel.life (he.get c _) (hu.get _) (by rw [hb.same])
  refine ⟨?_, ?_, harb⟩
  · refine {
      index := hfield Channel.stepIndex (he.get c _) (hu.get _) (by rw [hb.same])
      figures := ⟨hfield Channel.stepTime (he.get c _) (hu.get _) (by rw [hb.same]),
        hfield Channel.qStep (he.get c _) (hu.get _) (by rw [hb.same]),
        hfield Channel.eStep (he.get c _) (hu.get _) (by rw [hb.same]),
        hfield Channel.vPeak (he.get c _) (hu.get _) (by rw [hb.same]),
        hfield Channel.confirms (he.get c _) (hu.get _) (by rw [hb.same])⟩
      dir := ?_
      demand := fun hne => ?_
      before := ?_
      holds := fun hh => ?_
      rest := fun hh hr => ?_
      gap := fun hh hr hg => ?_
      noGap := fun hh hr hg => ?_
      stands := ⟨hfield Channel.latched (he.get c _) (hu.get _) (by rw [hb.same]),
        hfield Channel.queue (he.get c _) (hu.get _) (by rw [hb.same]),
        hfield Channel.last (he.get c _) (hu.get _) (by rw [hb.same]), hlife,
        hfield Channel.settings (he.get c _) (hu.get _) (by rw [hb.same])⟩ }
    · rw [he.get c Channel.lastDir, he.get c Channel.state, hu.dir]
      split
      · rfl
      · rename_i hne
        refine hb.dir fun e => hne ?_
        rcases hu.state with h | ⟨h, -⟩
        · exact h.trans e
        · rw [e] at h; cases h
    · rw [he.get c Channel.clamped, he.get c fun ch => ch.port.standing]
      exact hu.idles (by rw [← he.get c Channel.state]; exact hne)
    · rw [he.get c Channel.heldBefore, hu.get Channel.heldBefore, hb.before, Bool.or_eq_true]
    · have hheld := hb.held hh
      refine ⟨?_, (he.get c fun ch => ch.holds.endHold).trans (hu.held hheld)⟩
      rw [he.get c Channel.state]
      rcases hu.state with h | ⟨h, -⟩
      · exact h.trans hheld
      · rw [hheld] at h; cases h
    · have hrun := hb.rest (by simpa using hh) hr
      rw [he.get c Channel.state]
      rcases hu.state with h | ⟨h, -⟩
      · exact h.trans hrun
      · rw [hrun] at h; cases h
    · obtain ⟨hgap, htimer⟩ := hb.gap (by simpa using hh) hr hg
      refine ⟨?_, ((he.get c Channel.gapTimer).trans hu.gap).trans htimer⟩
      rw [he.get c Channel.state]
      rcases hu.state with h | ⟨h, -⟩
      · exact h.trans hgap
      · rw [hgap] at h; cases h
    · have hfalse : hold = false := by simpa using hh
      refine ⟨((he.get c Channel.gapTimer).trans hu.gap).trans (hb.noGap hfalse hr hg), ?_⟩
      rw [hstate, hcovers, harb, hv, hfalse]
      exact h.noGap hr hg
  · exact {
      cycle := hfield Channel.cycle (he.get c _) (hu.get _) (by rw [hb.same])
      cycleNumber := hfield Channel.cycleNumber (he.get c _) (hu.get _) (by rw [hb.same])
      loops := hfield Channel.loops (he.get c _) (hu.get _) (by rw [hb.same])
      active := hfield Channel.active (he.get c _) (hu.get _) (by rw [hb.same])
      staged := hfield Channel.staged (he.get c _) (hu.get _) (by rw [hb.same])
      swapPending := hfield Channel.swapPending (he.get c _) (hu.get _) (by rw [hb.same]) }

/-- A landing speaks of the last direction, the mark before the step, and what stands of a channel. -/
theorem Landed.of_same {p : Prop} (h : Landed a t c k y p) (h1 : a.lastDir = b.lastDir) (h2 : a.heldBefore = b.heldBefore)
    (h3 : a.latched = b.latched) (h4 : a.queue = b.queue) (h5 : a.last = b.last) (h6 : a.life = b.life)
    (h7 : a.settings = b.settings) : Landed b t c k y p := by
  have hgap : gapFor b y = gapFor a y := by unfold gapFor; rw [h1, h7]
  obtain ⟨k1, k2, k3, k4, k5⟩ := h.stands
  exact {
    index := h.index
    figures := h.figures
    dir := by rw [← h1]; exact h.dir
    demand := h.demand
    before := by rw [← h2]; exact h.before
    holds := h.holds
    rest := h.rest
    gap := by rw [hgap]; exact h.gap
    noGap := by rw [hgap]; exact h.noGap
    stands := ⟨k1.trans h3, k2.trans h4, k3.trans h5, k4.trans h6, k5.trans h7⟩ }

end
end Sys2Proof.Machine
end

section
/-! PROOF. A period event in which a condition fires, up to the step end's walk (R29, R54, R73). -/
namespace Sys2Proof.Machine
open Sys2Proof.Safety

section
variable {s t u v z : State} {c d : Ch} {w : Window} {x y : StepRecord} {i k : Nat} {e : EndCond} {p : Playback} {cs : List Nat}

/-! ### The event (R54, R73) -/

/-- The state a step ends in: the period worked, its point played and its conditions counted. -/
def firedOf (s : State) (c : Ch) (p : Playback) (cs : List Nat) : State :=
  s.modCh c fun ch => { worked ch with play := p, confirms := cs }

theorem firedOf_ch (s : State) (c : Ch) (p : Playback) (cs : List Nat) :
    (firedOf s c p cs).ch c = { worked (s.ch c) with play := p, confirms := cs } := State.ch_modCh_self s c _

/-- The end tests of a channel whose condition fires, its period worked and its playback as it stands. -/
theorem stageTests_fired (hr : (s.ch c).state = .running) (hl : isLeader s c = false) (hx : currentStep s c = some x)
    (hn : firstFired 0 x.conds (stepCounters (worked (s.ch c)) (lastFigures (s.ch c)) (s.ch c).taken x.conds (s.ch c).confirms) =
      some (i, e)) (p : Playback) :
    ∃ cs, stageTests (s.modCh c fun ch => { worked ch with play := p }) c (s.ch c).taken =
      endStep (firedOf s c p cs) c x (.condition i e.kind) e.action := by
  obtain ⟨z, hz⟩ : ∃ z, z = s.modCh c fun ch => { worked ch with play := p } := ⟨_, rfl⟩
  have hch : z.ch c = { worked (s.ch c) with play := p } := by rw [hz]; exact State.ch_modCh_self s c _
  have hfigures : figuresOf z c = lastFigures (s.ch c) := by
    rw [figuresOf_single (by rw [hz, isLeader_modCh_same]; exact hl), hch]
    rfl
  have hstep : currentStep z c = some x := by rw [hz]; exact (currentStep_modCh (s := s) _ rfl rfl).trans hx
  have hcounted : stepCounters (z.ch c) (figuresOf z c) (s.ch c).taken x.conds (z.ch c).confirms =
      stepCounters (worked (s.ch c)) (lastFigures (s.ch c)) (s.ch c).taken x.conds (s.ch c).confirms := by
    have hconfirms : (z.ch c).confirms = (s.ch c).confirms := by rw [hch]; rfl
    rw [hfigures, hconfirms]
    exact stepCounters_congr (by rw [hch]) (by rw [hch]) (by rw [hch]) (by rw [hch]) _ _ _ _
  refine ⟨stepCounters (worked (s.ch c)) (lastFigures (s.ch c)) (s.ch c).taken x.conds (s.ch c).confirms, ?_⟩
  rw [← hz, stageTests_fires (by rw [hch]; exact hr) hstep hcounted.symm hn, hz, modCh_modCh]
  rfl

/-- A period event of a channel whose condition fires ends its step. -/
theorem periodExpires_fires (h : StepFires s c w x i e) : ∃ p cs, periodExpires s c =
    restartPeriod (stageRefresh (endStep (firedOf s c p cs) c x (.condition i e.kind) e.action) c) c := by
  have hs : Sampled s c := ⟨(paired_false h.single).1, h.hall, h.present, h.settled⟩
  have hrun : ((s.modCh c worked).ch c).state = .running := by rw [State.ch_modCh_self]; exact h.running
  have hstep : currentStep (s.modCh c worked) c = some x := (currentStep_modCh worked rfl rfl).trans h.step
  have hplay : ∃ p, stagePlay (s.modCh c worked) c true = s.modCh c fun ch => { worked ch with play := p } := by
    by_cases hk : x.kind = .profile
    · obtain ⟨hi, q, hq, hd⟩ := h.plays hk
      have hadvance := advancePoint_goes_on (ch := worked (s.ch c)) hi hq hd
      rw [← State.ch_modCh_self s c worked] at hadvance
      have hplayed := stagePlay_plays hrun hstep hk hadvance
      rw [playedOf_ch, if_neg Bool.false_ne_true, Channel.starves_inPlay, if_neg Bool.false_ne_true, playedOf,
        if_neg Bool.false_ne_true, modCh_modCh, State.ch_modCh_self] at hplayed
      · exact ⟨_, hplayed⟩
      · rw [State.ch_modCh_self]; exact hi
    · exact ⟨(s.ch c).play, (stagePlay_none hstep hk true).trans (modCh_congr rfl)⟩
  obtain ⟨p, hplay⟩ := hplay
  obtain ⟨cs, htests⟩ := stageTests_fired h.running hs.leads h.step h.fires p
  refine ⟨p, cs, ?_⟩
  rw [periodExpires_running hs h.running, hplay, htests]

/-- The end of the event. -/
theorem stepFires_ends (h : StepFires s c w x i e) : ∃ p cs,
    Ends (stageRefresh (endStep (firedOf s c p cs) c x (.condition i e.kind) e.action) c) (whenReady s fun s => periodExpires s c) := by
  obtain ⟨p, cs, hexpires⟩ := periodExpires_fires h
  exact ⟨p, cs, periodEvent_ends_of h.ready hexpires⟩

theorem firedOf_keeps (s : State) (c : Ch) (p : Playback) (cs : List Nat) : Keeps (s.modCh c worked) (firedOf s c p cs) := by
  have h := Keeps.modCh (s.modCh c worked) c (fun ch => { ch with play := p, confirms := cs })
    (by constructor <;> first | rfl | exact Iff.rfl | exact id)
  rwa [modCh_modCh] at h

/-- What the end of a step leaves of the board and of the other channels. -/
theorem stepFires_frame (h : StepFires s c w x i e)
    (he : Ends (stageRefresh (endStep (firedOf s c p cs) c x (.condition i e.kind) e.action) c) t) :
    BoardFrame (s.modCh c worked) t ∧ ∀ d, d ≠ c → RunFrame (s.ch d) (t.ch d) := by
  have hrun : ((firedOf s c p cs).ch c).state = .running := by rw [firedOf_ch]; exact h.running
  have hkeeps := ((firedOf_keeps s c p cs).trans (endStep_keeps _ c x (.condition i e.kind) e.action (by rw [hrun]; decide))).trans
    (stageRefresh_keeps _ c)
  refine ⟨he.frame hkeeps.frame, fun d hd => he.run ?_⟩
  have hlead : isLeader (firedOf s c p cs) c = false := by
    unfold firedOf
    rw [isLeader_modCh_same]
    exact (paired_false h.single).1
  have hother := ((Works.endStep (firedOf s c p cs) c hrun x (.condition i e.kind) e.action).trans (.stageRefresh _ c)).others d hd
    fun _ => hlead
  rwa [firedOf, State.ch_modCh_ne _ hd] at hother

/-- The reports of a step end, at the end of its event. -/
theorem stepFires_reports (h : StepFires s c w x i e)
    (he : Ends (stageRefresh (endStep (firedOf s c p cs) c x (.condition i e.kind) e.action) c) t) (hs : s.link.sending ≠ none) :
    t.link.reports = (endStep (firedOf s c p cs) c x (.condition i e.kind) e.action).link.reports := by
  have hrun : ((firedOf s c p cs).ch c).state = .running := by rw [firedOf_ch]; exact h.running
  have hkeeps := ((firedOf_keeps s c p cs).trans (endStep_keeps _ c x (.condition i e.kind) e.action (by rw [hrun]; decide))).trans
    (stageRefresh_keeps _ c)
  rw [he.reports (by rw [hkeeps.link.sending]; exact hs), stageRefresh_link]

/-! ### Between the step that has ended and the one landed on -/

/-- A channel whose step has ended and been reported: its grant is not live, and both tests hold without its
credit. -/
structure Between (z : State) (c : Ch) : Prop where
  runs  : RunsOn z c
  live  : ∀ g ∈ grantsOf z c, g.live = false
  tests : testsHold z = true

theorem Between.walked (h : Between z c) (hy : stepOf z { z.ch c with stepIndex := k } = some y) : Walked z c k y :=
  ⟨h.runs.running, hy, h.runs.inPlace.placed c, h.live, h.tests⟩

/-- The walk of a step end leaves what the arbiter sees. -/
theorem Between.neutral (h : Between z c) (hk : Neutral z t) (ha : ActsOn c z t) : Between t c :=
  ⟨h.runs.neutral hk, by rw [grantsOf_congr c hk.arb]; exact h.live,
    (testsHold_congr (by rw [hk.arb]) (by rw [hk.arb]) (by rw [cEffOf, cEffOf, ha.hall, ha.budget])).trans h.tests⟩

theorem toldOf_ch (z : State) (c : Ch) (reason : EndReason) (action : Action) :
    (toldOf z c x reason action).ch c = (z.ch c).stopTimers := State.ch_modCh_self _ c _

theorem toldOf_arb (z : State) (c : Ch) (reason : EndReason) (action : Action) :
    (toldOf z c x reason action).arb = (grantNotLive z c).arb := rfl

theorem toldOf_grantsOf (z : State) (c : Ch) (reason : EndReason) (action : Action) :
    grantsOf (toldOf z c x reason action) c = (grantsOf z c).map fun g => { g with live := false } :=
  modGrant_grantsOf z c (fun g => { g with live := false }) fun _ => rfl

/-- A step end that takes no credit away sheds nothing (R97). -/
theorem CreditSpared.between (h : StepFires s c w x i e) (hc : CreditSpared s c) (reason : EndReason) (action : Action) :
    Between (toldOf (firedOf s c p cs) c x reason action) c := by
  have hplaced := ((arbiterSound_iff s).1 h.arbiter).1
  have hruns : RunsOn (firedOf s c p cs) c :=
    ⟨hplaced.neutral (Neutral.modCh s c _ rfl rfl), h.hall, by rw [firedOf_ch]; exact h.running⟩
  have hnotLive : RunsOn (grantNotLive (firedOf s c p cs) c) c :=
    ⟨hruns.inPlace.acts_active (grantNotLive_acts _ c) ((hruns.inPlace.placed c).modGrant _ fun _ => rfl) hruns.hall, hruns.hall,
      hruns.running⟩
  refine ⟨?_, fun g hg => ?_, hc⟩
  · exact hnotLive.neutral ((reportCh_neutral _ c _).trans (Neutral.modCh _ c Channel.stopTimers rfl rfl))
  · rw [toldOf_grantsOf] at hg
    obtain ⟨g', -, rfl⟩ := List.mem_map.1 hg
    rfl

end
end Sys2Proof.Machine
end

section
/-! PROOF. A step end that lands on the chosen step (R29, R31, R97). -/
namespace Sys2Proof.Machine
open Sys2Proof.Safety

section
variable {s t u v z : State} {c d : Ch} {w : Window} {x y : StepRecord} {i k n : Nat} {e : EndCond} {p : Playback} {cs : List Nat}
  {reason : EndReason} {action : Action} {g : Grant}

/-! ### The walk from a step that is not a MARK (R30) -/

theorem walkFrom_lands (hw : (z.ch c).active = some w) (hk : k < w.length) (hy : poolRead z.pool (w.base + k) = some y)
    (hm : y.kind ≠ .mark) (n : Nat) : walkFrom (n + 1) z c k = (z, some k) := by
  unfold walkFrom
  rw [hw]
  dsimp only
  rw [if_neg (Nat.not_le.2 hk), show windowRead z w k = some y from hy]
  cases y <;> first | rfl | exact absurd rfl hm

theorem walkOn_lands (hw : (z.ch c).active = some w) (hk : k < w.length) (hy : poolRead z.pool (w.base + k) = some y)
    (hm : y.kind ≠ .mark) (hold : Bool) : walkOn z c k hold = landOn z c k hold := by
  unfold walkOn
  rw [walkFrom_lands hw hk hy hm]

theorem stepEnded_chosen (h : chosenIndex (z.ch c).stepIndex action = some k) :
    stepEnded z c x reason action = walkOn (toldOf z c x reason action) c k (action = .hold) := by
  unfold stepEnded
  rw [h]

theorem stepEnded_end (h : chosenIndex (z.ch c).stepIndex action = none) :
    stepEnded z c x reason action = scheduleEnd (toldOf z c x reason action) c .endAction (action = .hold) := by
  unfold stepEnded
  rw [h]

/-! ### The state once the step end is reported (R29) -/

/-- The state a step end walks from. -/
def endedOf (s : State) (c : Ch) (x : StepRecord) (i : Nat) (e : EndCond) (p : Playback) (cs : List Nat) : State :=
  toldOf (firedOf s c p cs) c x (.condition i e.kind) e.action

section
variable (s c x i e p cs)

theorem endedOf_ch : (endedOf s c x i e p cs).ch c = { worked (s.ch c) with
    play := { p with underrunTimer := none }, confirms := cs, gapTimer := none, startTimer := none } := by
  unfold endedOf
  rw [toldOf_ch, firedOf_ch]
  rfl

theorem endedOf_pool : (endedOf s c x i e p cs).pool = s.pool := rfl

theorem endedOf_hall : (endedOf s c x i e p cs).hall = s.hall := rfl

theorem endedOf_grantsOf : grantsOf (endedOf s c x i e p cs) c = (grantsOf s c).map fun g => { g with live := false } :=
  toldOf_grantsOf (firedOf s c p cs) c _ _

theorem endedOf_order : (endedOf s c x i e p cs).arb.grants.map Grant.ch = s.arb.grants.map Grant.ch := by
  show (s.arb.grants.map fun g => if g.ch = c then { g with live := false } else g).map Grant.ch = _
  rw [List.map_map]
  refine List.map_congr_left fun g _ => ?_
  rw [Function.comp_apply]
  split <;> rfl

theorem endedOf_claimOf (y : StepRecord) : claimOf (endedOf s c x i e p cs) c y = claimOf s c y := by
  have hlead : isLeader (endedOf s c x i e p cs) c = isLeader s c := by
    unfold endedOf
    rw [isLeader_acts (toldOf_acts _ c _ _ _)]
    exact isLeader_modCh_same _
  have hother : (endedOf s c x i e p cs).ch (partner c) = s.ch (partner c) := by
    have hfired : (firedOf s c p cs).ch (partner c) = s.ch (partner c) := State.ch_modCh_ne s (partner_ne c) _
    exact (State.ch_modCh_ne _ (partner_ne c) Channel.stopTimers).trans hfired
  unfold claimOf claimLimitOf
  rw [hlead, hother, endedOf_ch]
  rfl

theorem endedOf_requestOf (y : StepRecord) : requestOf (endedOf s c x i e p cs) c y =
    ⟨c, y.dir, claimOf s c y, .new, some (s.ch c).settings.deferralLimit, s.hall.partTime⟩ := by
  unfold requestOf
  rw [endedOf_claimOf, endedOf_hall, endedOf_ch]
  rfl

end

/-- Where the window holds a step at an index, the step end's walk finds it there. -/
theorem endedOf_step (hw : (s.ch c).active = some w) (hy : poolRead s.pool (w.base + k) = some y) :
    stepOf (endedOf s c x i e p cs) { (endedOf s c x i e p cs).ch c with stepIndex := k } = some y := by
  unfold stepOf windowRead
  rw [endedOf_ch, endedOf_pool]
  show (s.ch c).active.bind _ = _
  rw [hw]
  exact hy

theorem landed_ended {q : Prop} (h : Landed ((endedOf s c x i e p cs).ch c) t c k y q) : Landed (worked (s.ch c)) t c k y q := by
  rw [endedOf_ch] at h
  exact Landed.of_same h rfl rfl rfl rfl rfl rfl rfl

/-! ### The grant of a channel that lands (R97) -/

theorem endedOf_granting (hwalked : Walked (endedOf s c x i e p cs) c k y) (hg : grantOf s c = some g) (hn : g.hold = none) :
    Granting (endedOf s c x i e p cs) c k y { g with live := false } := by
  refine ⟨hwalked, ?_, hn⟩
  rw [grantOf_eq_head, endedOf_grantsOf, List.head?_map, ← grantOf_eq_head, hg]
  rfl

/-- The grants carried are those of R97's words. -/
theorem carries_iff (hm : y.kind ≠ .mark) :
    (y.kind ≠ .rest ∧ y.dir = g.dir ∧ g.dir ≠ .both ∧ claimOf z c y ≤ g.amount) ↔ Carries z c y g := by
  refine and_congr_left fun _ => ?_
  unfold StepRecord.moves StepRecord.dir
  generalize y.kind = q at hm
  cases q <;> first | exact absurd rfl hm | decide

/-- A grant that is not idle, at the end of a landing: carried with the step's claim, kept idle, or released for a request. -/
theorem Granting.settles (h : Granting z c k y g) (hm : y.kind ≠ .mark) (hold : Bool) :
    let claim := claimOf z c y
    let idle : Option Nat := if (z.ch c).settings.grantHold = 0 then none else some (z.ch c).settings.grantHold
    let v := settle (landOn z c k hold)
    if y.kind ≠ .rest ∧ y.dir = g.dir ∧ g.dir ≠ .both ∧ claim ≤ g.amount then
      (hold = false → grantOf v c = some ⟨c, g.dir, claim, false, none⟩) ∧
        (hold = true → grantOf v c = idle.map fun n => ⟨c, g.dir, claim, false, some n⟩)
    else if y.kind = .rest ∨ hold = true then grantOf v c = idle.map fun n => ⟨c, g.dir, g.amount, false, some n⟩
    else requestOf z c y ∈ v.arb.waiting ∨ grantOf v c = some (requestOf z c y).grant := by
  intro claim idle v
  have hcarries := carries_iff (z := z) (c := c) (g := g) hm
  split
  · rename_i hc
    refine ⟨fun hf => ?_, fun ht => ?_⟩
    · exact (congrArg (fun b => grantOf (settle (landOn z c k b)) c) hf).trans (h.carried (hcarries.1 hc))
    · refine (congrArg (fun b => grantOf (settle (landOn z c k b)) c) ht).trans ((h.held (g' := g.lowered claim) h.live
        (offered_carried (hcarries.1 hc) h.notIdle true)).trans ?_)
      unfold Grant.lowered
      rw [h.ofCh, h.live]
  · rename_i hc
    have hnot : ¬Carries z c y g := fun hyes => hc (hcarries.2 hyes)
    split
    · rename_i hk
      cases hh : hold
      · have hr : y.kind = .rest := hk.resolve_right (by rw [hh]; exact Bool.false_ne_true)
        refine (congrArg (fun b => grantOf (settle (landOn z c k b)) c) hh).trans ((h.rested hr).trans ?_)
        rw [h.ofCh, h.live]
      · refine (congrArg (fun b => grantOf (settle (landOn z c k b)) c) hh).trans
          ((h.held h.live (offered_kept hnot h.notIdle (.inr rfl))).trans ?_)
        rw [h.ofCh, h.live]
    · rename_i hk
      have hf : hold = false := by simpa using fun ht => hk (.inr ht)
      subst hf
      exact h.walked.requests (fun hr => hk (.inl hr)) (by rw [h.grants]; exact offered_released hnot hk) h.resumes

/-- A grant carried keeps its place in the list. -/
theorem Granting.keepsPlace (h : Granting z c k y g) (hr : RunsOn z c) (hc : Carries z c y g) :
    z.arb.grants.map Grant.ch <+: (settle (landOn z c k false)).arb.grants.map Grant.ch := by
  have hacts : ActsOn c z (landOn z c k false) := landOn_acts z c k false
  have hshrinks : Shrinks z (landOn z c k false) :=
    (prepareStep_shrinks z c k false).trans (by exact beginStep_shrinks (prepareStep z c k false) c)
  have hplaced : Placed (landOn z c k false) := (hr.landOn k false).placed
  have hone : (grantsOf (landOn z c k false) c).length = (grantsOf z c).length := by
    have hoffer := offered_carried hc h.notIdle false
    rw [if_neg Bool.false_ne_true] at hoffer
    have hcover : coversStep z c y (offered z c y false (grantsOf z c)) = true := by
      rw [h.grants, hoffer]
      simp [coversStep, covers, Grant.lowered, hc.2.1]
    rw [(landOn_cover h.walked.step hc.ne_rest hcover).grants, h.grants, hoffer]
    rfl
  have hheads := settle_heads hplaced (h.walked.testsHold false)
  rw [hshrinks.order hacts hone] at hheads
  exact hheads

/-! ### The obligation -/

end

end Sys2Proof.Machine

namespace Sys2Proof.Safety
open Sys2Proof.Machine

/-- Settles O44. -/
theorem stepEnds : Obligations.StepEnds := by
  unfold Obligations.StepEnds
  intro s c w x y i k e h a hold set claim hk hne hlt hy hm
  obtain ⟨p, cs, hends⟩ := stepFires_ends h
  obtain ⟨hboard, hothers⟩ := stepFires_frame h hends
  have hch : (firedOf s c p cs).ch c = { worked (s.ch c) with play := p, confirms := cs } := firedOf_ch s c p cs
  have hchosen : chosenIndex (worked (s.ch c)).stepIndex e.action = some k := by
    rw [hk]
    revert hne
    cases e.action <;> intro hne <;> first | rfl | exact absurd rfl hne
  refine ⟨_, rfl, fun hsend hroom => ?_, fun hspared => ?_, hboard, hothers⟩
  · have hreport := endStep_report (firedOf s c p cs) c x (.condition i e.kind) e.action
      (show s.link.reports.length < 64 by omega)
    rw [hch] at hreport
    rw [stepFires_reports h hends hsend, ← hchosen]
    exact hreport
  · have hbetween : Between (endedOf s c x i e p cs) c := CreditSpared.between h hspared _ _
    have hwalked : Walked (endedOf s c x i e p cs) c k y := hbetween.walked (endedOf_step h.window hy)
    have hactive : ((endedOf s c x i e p cs).ch c).active = some w := by rw [endedOf_ch]; exact h.window
    have hlanded : endStep (firedOf s c p cs) c x (.condition i e.kind) e.action =
        settle (landOn (endedOf s c x i e p cs) c k (e.action = .hold)) := by
      rw [endStep_eq, stepEnded_chosen (by rw [hch]; exact hchosen)]
      exact congrArg settle (walkOn_lands hactive hlt hy hm _)
    rw [hlanded] at hends
    obtain ⟨hland, hwalking, harb⟩ := hwalked.lands _ hends
    have hgrantOf : ∀ t : State, t.arb = (settle (landOn (endedOf s c x i e p cs) c k (e.action = .hold))).arb →
        grantOf t c = grantOf (settle (landOn (endedOf s c x i e p cs) c k (e.action = .hold))) c := fun t ht => by
      rw [grantOf, grantOf, ht]
    rw [decide_eq_true_iff] at hland
    have hclaim : claimOf (endedOf s c x i e p cs) c y = claim := endedOf_claimOf s c x i e p cs y
    have hrequest := endedOf_requestOf s c x i e p cs y
    have hhold : ((endedOf s c x i e p cs).ch c).settings.grantHold = set.grantHold := by rw [endedOf_ch]; rfl
    refine ⟨landed_ended hland, ?_, ?_, ?_, ?_, ?_, ?_, fun g hg hn => ?_, fun hg hr hh hrest => ?_⟩
    · rw [hwalking.cycle, endedOf_ch]
    · rw [hwalking.cycleNumber, endedOf_ch]
    · rw [hwalking.loops, endedOf_ch]
    · rw [hwalking.active, endedOf_ch]
    · rw [hwalking.staged, endedOf_ch]
    · rw [hwalking.swapPending, endedOf_ch]
    · intro idle
      have hgranting := endedOf_granting hwalked hg hn
      have hsettles := hgranting.settles hm (decide (e.action = .hold))
      dsimp only at hsettles
      rw [hclaim, hhold, hrequest] at hsettles
      rw [hgrantOf _ harb, harb]
      split
      · rename_i hc
        rw [if_pos hc] at hsettles
        refine ⟨fun hnot => ⟨hsettles.1 (decide_eq_false hnot), ?_⟩, fun hyes => hsettles.2 (decide_eq_true hyes)⟩
        have hcarries : Carries (endedOf s c x i e p cs) c y { g with live := false } :=
          (carries_iff (g := { g with live := false }) hm).1 (by rw [hclaim]; exact hc)
        have hplace := hgranting.keepsPlace hbetween.runs hcarries
        rw [endedOf_order] at hplace
        rw [decide_eq_false hnot]
        exact hplace
      · rename_i hc
        rw [if_neg hc] at hsettles
        simp only [decide_eq_true_eq] at hsettles
        exact hsettles
    · have hgrants : grantsOf (endedOf s c x i e p cs) c = [] := by
        rw [endedOf_grantsOf, List.map_eq_nil_iff, ← List.head?_eq_none_iff, ← grantOf_eq_head]
        exact hg
      have hresumes : resumesOf (endedOf s c x i e p cs) c = [] := by
        by_contra hsome
        exact absurd (((hasResume_iff s c).2 hsome).symm.trans hr) (by decide)
      have hasked := hwalked.requests hrest (by rw [hgrants]; rfl) hresumes
      rw [hrequest] at hasked
      rw [hgrantOf _ harb, harb, decide_eq_false hh]
      exact hasked

end Sys2Proof.Safety
end

section
/-! PROOF. The walk of a step end over a MARK (R30), and the end of a schedule (R32). -/
namespace Sys2Proof.Machine
open Sys2Proof.Safety

/-! ### The loop table (R30) -/

theorem loopCounter_setLoop (l : List LoopEntry) (j n : Nat) : loopCounter (setLoop l j n) j = n := by
  unfold setLoop
  split
  · rename_i h
    have hfind : ∀ l : List LoopEntry, (l.any fun e => e.index = j) = true →
        ((l.map fun e => if e.index = j then { e with counter := n } else e).find? fun e => e.index = j) = some ⟨j, n⟩ := by
      intro l
      induction l with
      | nil => exact nofun
      | cons e l ih =>
        intro hany
        rw [List.map_cons]
        by_cases he : e.index = j
        · rw [if_pos he]
          simp [he]
        · rw [if_neg he, List.find?_cons_of_neg (by simpa using he)]
          exact ih (by simpa [he] using hany)
    unfold loopCounter
    rw [hfind l h]
  · rename_i h
    have hnone : (l.find? fun e => decide (e.index = j)) = none := by
      rw [List.find?_eq_none]
      exact fun e he hj => h (List.any_eq_true.2 ⟨e, he, hj⟩)
    unfold loopCounter
    rw [List.find?_append, hnone]
    simp

theorem setLoop_others (l : List LoopEntry) (j n : Nat) :
    ((setLoop l j n).filter fun e => e.index ≠ j) = l.filter fun e => e.index ≠ j := by
  unfold setLoop
  split
  · clear * -
    induction l with
    | nil => rfl
    | cons e l ih =>
      rw [List.map_cons]
      by_cases he : e.index = j
      · rw [if_pos he, List.filter_cons_of_neg (by simp [he]), List.filter_cons_of_neg (by simp [he]), ih]
      · rw [if_neg he, List.filter_cons_of_pos (by simpa using he), List.filter_cons_of_pos (by simpa using he), ih]
  · simp

theorem loopAt_next (l : List LoopEntry) (j target count : Nat) : (loopAt l j target count).1 =
    if count = 0 ∨ loopCounter l j + 1 < count then target else j + 1 := by
  unfold loopAt
  dsimp only
  by_cases h : count = 0
  · rw [if_pos h, if_pos (.inl h)]
  · by_cases hlt : loopCounter l j + 1 < count
    · rw [if_neg h, if_pos hlt, if_pos (.inr hlt)]
    · rw [if_neg h, if_neg hlt, if_neg (not_or.2 ⟨h, hlt⟩)]

theorem loopAt_counter (l : List LoopEntry) (j target count : Nat) : loopCounter (loopAt l j target count).2 j =
    if count = 0 then loopCounter l j else if loopCounter l j + 1 < count then loopCounter l j + 1 else 0 := by
  unfold loopAt
  dsimp only
  split
  · exact loopCounter_setLoop l j _
  · split <;> exact loopCounter_setLoop l j _

theorem loopAt_others (l : List LoopEntry) (j target count : Nat) :
    ((loopAt l j target count).2.filter fun e => e.index ≠ j) = l.filter fun e => e.index ≠ j := by
  unfold loopAt
  dsimp only
  split
  · exact setLoop_others l j _
  · split <;> exact setLoop_others l j _

section
variable {s t u v z : State} {c d : Ch} {w : Window} {x y : StepRecord} {i j k n target count : Nat} {e : EndCond} {p : Playback}
  {cs : List Nat} {counts : Bool} {hold : Bool} {reason : EndReason} {action : Action}

/-! ### The walk over a MARK (R30) -/

/-- The state the first part of a MARK leaves. -/
def cycledOf (z : State) (c : Ch) (k : Nat) (counts : Bool) : State := if counts then closeCycle z c k else z

/-- The state a MARK leaves whose cycle end carries out no swap. -/
def loopedOf (z : State) (c : Ch) (k target count : Nat) (counts : Bool) : State :=
  (cycledOf z c k counts).modCh c fun ch => { ch with loops := (loopAt ((cycledOf z c k counts).ch c).loops k target count).2 }

theorem walkFrom_mark (hw : (z.ch c).active = some w) (hk : k < w.length)
    (hm : poolRead z.pool (w.base + k) = some (.mark target count counts)) (n : Nat) :
    walkFrom (n + 1) z c k =
      if counts = true ∧ (z.ch c).swapPending = some .atCycleEnd then walkFrom n (cycledOf z c k counts) c 0
      else walkFrom n (loopedOf z c k target count counts) c (loopAt ((cycledOf z c k counts).ch c).loops k target count).1 := by
  conv_lhs => unfold walkFrom
  rw [hw]
  dsimp only
  rw [if_neg (Nat.not_le.2 hk), show windowRead z w k = _ from hm]
  by_cases hs : counts = true ∧ (z.ch c).swapPending = some .atCycleEnd
  · rw [if_pos hs]
    exact if_pos (decide_eq_true hs)
  · rw [if_neg hs]
    exact if_neg (by simpa using hs)

theorem walkFrom_leaves (hw : (z.ch c).active = some w) (hk : w.length ≤ k) (n : Nat) : walkFrom (n + 1) z c k = (z, none) := by
  unfold walkFrom
  rw [hw]
  exact if_pos hk

theorem closeCycle_ch (z : State) (c : Ch) (k : Nat) : (closeCycle z c k).ch c =
    if (z.ch c).swapPending = some .atCycleEnd then
      { z.ch c with
        cycle := ⟨0, 0, 0, 0⟩, cycleNumber := min 4294967295 ((z.ch c).cycleNumber + 1)
        active := (z.ch c).staged, staged := (z.ch c).active, swapPending := none, loops := [] }
    else { z.ch c with cycle := ⟨0, 0, 0, 0⟩, cycleNumber := min 4294967295 ((z.ch c).cycleNumber + 1) } := by
  unfold closeCycle
  dsimp only
  rw [State.ch_modCh_self]
  by_cases h : (z.ch c).swapPending = some .atCycleEnd
  · rw [if_pos (decide_eq_true h), if_pos h]
    rfl
  · rw [if_neg (by simpa using h), if_neg h]
    rfl

end
end Sys2Proof.Machine
end

section
/-! PROOF. What the walk over a MARK and the end of a schedule leave (R30, R32, R40). -/
namespace Sys2Proof.Machine
open Sys2Proof.Safety

section
variable {s t u v z : State} {c d : Ch} {w : Window} {x y : StepRecord} {i j k n target count : Nat} {e : EndCond} {p : Playback}
  {cs : List Nat} {counts : Bool} {hold : Bool} {reason : ScheduleEnd} {action : Action}

/-! ### A MARK (R30) -/

theorem cycledOf_neutral (z : State) (c : Ch) (k : Nat) (counts : Bool) : Neutral z (cycledOf z c k counts) :=
  .ite _ (closeCycle_neutral z c k) (.refl z)

theorem cycledOf_acts (z : State) (c : Ch) (k : Nat) (counts : Bool) : ActsOn c z (cycledOf z c k counts) :=
  .ite _ (closeCycle_acts z c k) (.refl c z)

theorem cycledOf_pool (z : State) (c : Ch) (k : Nat) (counts : Bool) : (cycledOf z c k counts).pool = z.pool := by
  cases counts <;> rfl

theorem loopedOf_neutral (z : State) (c : Ch) (k target count : Nat) (counts : Bool) :
    Neutral z (loopedOf z c k target count counts) := (cycledOf_neutral z c k counts).trans (Neutral.modCh _ c _ rfl rfl)

theorem loopedOf_acts (z : State) (c : Ch) (k target count : Nat) (counts : Bool) :
    ActsOn c z (loopedOf z c k target count counts) := (cycledOf_acts z c k counts).trans (ActsOn.modCh c _ _)

theorem loopedOf_pool (z : State) (c : Ch) (k target count : Nat) (counts : Bool) :
    (loopedOf z c k target count counts).pool = z.pool := cycledOf_pool z c k counts

/-- A MARK whose cycle end carries out no swap. -/
theorem loopedOf_ch (h : ¬(counts = true ∧ (z.ch c).swapPending = some .atCycleEnd)) (k target count : Nat) :
    (loopedOf z c k target count counts).ch c = { z.ch c with
      loops := (loopAt (z.ch c).loops k target count).2
      cycle := if counts then ⟨0, 0, 0, 0⟩ else (z.ch c).cycle
      cycleNumber := if counts then min 4294967295 ((z.ch c).cycleNumber + 1) else (z.ch c).cycleNumber } := by
  unfold loopedOf
  rw [State.ch_modCh_self]
  cases counts
  · rfl
  · have hch : (cycledOf z c k true).ch c = _ := (closeCycle_ch z c k).trans (if_neg fun hs => h ⟨rfl, hs⟩)
    rw [hch]
    rfl

/-- A cycle end that carries out a swap (R40). -/
theorem cycledOf_swaps (h : (z.ch c).swapPending = some .atCycleEnd) (k : Nat) : (cycledOf z c k true).ch c = { z.ch c with
    cycle := ⟨0, 0, 0, 0⟩, cycleNumber := min 4294967295 ((z.ch c).cycleNumber + 1)
    active := (z.ch c).staged, staged := (z.ch c).active, swapPending := none, loops := [] } :=
  (closeCycle_ch z c k).trans (if_pos h)

theorem walkOn_of_walkFrom (h : walkFrom 1024 z c k = (t, some j)) (hold : Bool) : walkOn z c k hold = landOn t c j hold := by
  unfold walkOn
  rw [h]

/-- The walk past a MARK that carries out no swap, to a step that is not a MARK. -/
theorem walkOn_mark (h : ¬(counts = true ∧ (z.ch c).swapPending = some .atCycleEnd)) (hw : (z.ch c).active = some w)
    (hk : k < w.length) (hm : poolRead z.pool (w.base + k) = some (.mark target count counts))
    (hj : j = if count = 0 ∨ loopCounter (z.ch c).loops k + 1 < count then target else k + 1) (hlt : j < w.length)
    (hy : poolRead z.pool (w.base + j) = some y) (hn : y.kind ≠ .mark) (hold : Bool) :
    walkOn z c k hold = landOn (loopedOf z c k target count counts) c j hold := by
  have hloops : ((cycledOf z c k counts).ch c).loops = (z.ch c).loops := by
    cases counts
    · rfl
    · have hch := closeCycle_ch z c k
      rw [if_neg fun hs => h ⟨rfl, hs⟩] at hch
      have hloops := congrArg Channel.loops hch
      exact hloops
  have hactive : ((loopedOf z c k target count counts).ch c).active = some w := by rw [loopedOf_ch h]; exact hw
  refine walkOn_of_walkFrom ((walkFrom_mark hw hk hm 1023).trans ?_) hold
  rw [if_neg h, hloops, loopAt_next, ← hj]
  exact walkFrom_lands hactive hlt (by rw [loopedOf_pool]; exact hy) hn 1022

/-- The walk past a MARK that carries out a swap, to the first step of the new window. -/
theorem walkOn_swap (hs : (z.ch c).swapPending = some .atCycleEnd) (hw : (z.ch c).active = some w)
    (hk : k < w.length) (hm : poolRead z.pool (w.base + k) = some (.mark target count true)) {v : Window}
    (hv : (z.ch c).staged = some v) (hlt : 1 ≤ v.length) (hy : poolRead z.pool v.base = some y) (hn : y.kind ≠ .mark) (hold : Bool) :
    walkOn z c k hold = landOn (cycledOf z c k true) c 0 hold := by
  have hactive : ((cycledOf z c k true).ch c).active = some v := by rw [cycledOf_swaps hs]; exact hv
  refine walkOn_of_walkFrom ((walkFrom_mark hw hk hm 1023).trans ?_) hold
  rw [if_pos ⟨rfl, hs⟩]
  exact walkFrom_lands hactive hlt (by rw [cycledOf_pool]; exact hy) hn 1022

/-- The report of a cycle end comes before those of what follows. -/
theorem walkOn_cycle_grows (hw : (z.ch c).active = some w) (hk : k < w.length)
    (hm : poolRead z.pool (w.base + k) = some (.mark target count true)) (hold : Bool) : Grows (closeCycle z c k) (walkOn z c k hold) := by
  have hwalk : Grows (closeCycle z c k) (walkFrom 1024 z c k).1 := by
    rw [walkFrom_mark hw hk hm 1023]
    split
    · exact walkFrom_grows _ c 1023 0
    · exact Grows.trans (.of_link rfl) (walkFrom_grows (loopedOf z c k target count true) c 1023 _)
  unfold walkOn
  split
  · exact hwalk.trans (.of_link (landOn_link _ c _ _))
  · exact hwalk.trans (scheduleEnd_grows _ c _ _)

/-! ### The end of a schedule (R32) -/

theorem scheduleEnd_stops (h : (z.ch c).swapPending = none) (hold : Bool) :
    scheduleEnd z c reason hold = completeSchedule z c reason := by
  unfold scheduleEnd
  dsimp only
  rw [h]
  rfl

/-- The state a schedule end leaves that carries out a swap. -/
def swappedOf (z : State) (c : Ch) (reason : ScheduleEnd) : State :=
  (reportCh z c (.scheduleComplete .swapped (z.ch c).cycleNumber (z.ch c).cycle.reported reason)).modCh c Channel.carryOutSwap

theorem swappedOf_ch (z : State) (c : Ch) (reason : ScheduleEnd) : (swappedOf z c reason).ch c = (z.ch c).carryOutSwap :=
  State.ch_modCh_self _ c _

theorem swappedOf_neutral (z : State) (c : Ch) (reason : ScheduleEnd) : Neutral z (swappedOf z c reason) :=
  (reportCh_neutral z c _).trans (Neutral.modCh _ c Channel.carryOutSwap rfl rfl)

theorem swappedOf_acts (z : State) (c : Ch) (reason : ScheduleEnd) : ActsOn c z (swappedOf z c reason) :=
  (ActsOn.modLink c z _).trans (ActsOn.modCh c _ Channel.carryOutSwap)

theorem scheduleEnd_swaps (h : (z.ch c).swapPending ≠ none) {v : Window} (hv : (z.ch c).staged = some v) (hlt : 1 ≤ v.length)
    (hy : poolRead z.pool v.base = some y) (hn : y.kind ≠ .mark) (hold : Bool) :
    scheduleEnd z c reason hold = landOn (swappedOf z c reason) c 0 hold := by
  have hactive : ((swappedOf z c reason).ch c).active = some v := by rw [swappedOf_ch]; exact hv
  have hwalk := walkFrom_lands (z := swappedOf z c reason) (k := 0) hactive hlt hy hn 1023
  have hsome : (z.ch c).swapPending.isSome = true := Option.isSome_iff_ne_none.2 h
  unfold scheduleEnd
  dsimp only
  rw [if_pos hsome]
  unfold swappedOf at hwalk ⊢
  rw [hwalk]

/-- SCHEDULE_COMPLETE comes before the reports of what follows. -/
theorem scheduleEnd_swap_grows (h : (z.ch c).swapPending ≠ none) (hold : Bool) :
    Grows (reportCh z c (.scheduleComplete .swapped (z.ch c).cycleNumber (z.ch c).cycle.reported reason))
      (scheduleEnd z c reason hold) := by
  have hsome : (z.ch c).swapPending.isSome = true := Option.isSome_iff_ne_none.2 h
  have hwalk : Grows (reportCh z c (.scheduleComplete .swapped (z.ch c).cycleNumber (z.ch c).cycle.reported reason))
      (walkFrom 1024 (swappedOf z c reason) c 0).1 := Grows.trans (.of_link rfl) (walkFrom_grows (swappedOf z c reason) c 1024 0)
  unfold scheduleEnd
  dsimp only
  rw [if_pos hsome]
  unfold swappedOf at hwalk
  split
  · exact hwalk.trans (.of_link (landOn_link _ c _ _))
  · exact hwalk.trans (completeSchedule_grows _ c _)

theorem completeSchedule_places (z : State) (c : Ch) (reason : ScheduleEnd) : places (completeSchedule z c reason) c = 0 := by
  unfold completeSchedule
  dsimp only
  rw [places_congr (enterStopping_arb _ c _ _)]
  exact places_withdraw

/-- A channel whose schedule has ended. -/
theorem completeSchedule_ch (hl : isLeader z c = false) (hp : (z.ch c).port.presence = .present) (reason : ScheduleEnd) :
    ∃ x p q, (completeSchedule z c reason).ch c = { (z.ch c).stopTimers with
      stopDest := .complete, clamped := x, port := p
      state := if q then .complete else .stopping, swapPending := if q then none else (z.ch c).swapPending } ∧
      p.standing = some offDemand ∧ ((z.ch c).port.standing ≠ some ⟨.off, 0, 0, 0⟩ → q = false) := by
  obtain ⟨v, hv⟩ : ∃ v, v = (withdrawEntries (releaseGrant (reportCh z c
    (.scheduleComplete .stopped (z.ch c).cycleNumber (z.ch c).cycle.reported reason)) c) c).modCh c Channel.stopTimers := ⟨_, rfl⟩
  have hvch : v.ch c = (z.ch c).stopTimers := by
    rw [hv, State.ch_modCh_self, withdrawEntries_ch, releaseGrant_ch]
    rfl
  have hvlead : isLeader v c = false := by
    have hacts : ActsOn c z v := hv ▸ ((ActsOn.modLink c z _).trans (releaseGrant_acts _ c)).trans
      ((withdrawEntries_acts _ c).trans (ActsOn.modCh c _ _))
    exact (isLeader_acts hacts).trans hl
  have hcomplete : completeSchedule z c reason = enterStopping v c .complete false := by rw [hv]; rfl
  obtain ⟨x, hstopping, hentered⟩ := enterStopping_ch v c .complete false
  obtain ⟨m, hm⟩ : ∃ m, m = issue (v.modCh c fun ch => { ch with state := .stopping, stopDest := .complete }) c := ⟨_, rfl⟩
  rw [← hm] at hstopping hentered
  have hstanding : (m.ch c).port.standing = some offDemand := by
    rw [hm, issue_single (by rw [isLeader_modCh_same]; exact hvlead), State.ch_modCh_self]
    have hcalled : calledFor (v.modCh c fun ch => { ch with state := .stopping, stopDest := .complete }) c = (offDemand, false) := by
      unfold calledFor
      rw [State.ch_modCh_self]
    rw [hcalled]
    exact handNew_standing _ _
  refine ⟨x, (m.ch c).port, restsAtOnce m c false, ?_, hstanding, fun hs => ?_⟩
  · rw [hcomplete, hentered, hstopping, hvch]
    split <;> rfl
  · rw [hm]
    exact not_restsAtOnce .complete hvlead (by rw [hvch]; exact hp) (by rw [hvch]; exact hs)

/-- The channel once the arbiter has handled the end of its schedule, at the end of its event. -/
theorem completeSchedule_ends (hl : isLeader z c = false) (hp : (z.ch c).port.presence = .present)
    (he : Ends (stageRefresh (settle (completeSchedule z c reason)) c) t) :
    ∃ v, Ends v t ∧ v.ch c = (completeSchedule z c reason).ch c ∧ Unlisted t c := by
  obtain ⟨x, q, r, hch, -, -⟩ := completeSchedule_ch hl hp reason
  have hown := settle_unlisted (completeSchedule_places z c reason)
  have hstate : ((completeSchedule z c reason).ch c).state = .complete ∨ ((completeSchedule z c reason).ch c).state = .stopping := by
    rw [hch]
    cases r
    · exact .inr rfl
    · exact .inl rfl
  have hsettled : (settle (completeSchedule z c reason)).ch c = (completeSchedule z c reason).ch c :=
    hown.port (by rcases hstate with h | h <;> rw [h] <;> decide)
  have hstill : stageRefresh (settle (completeSchedule z c reason)) c = settle (completeSchedule z c reason) := by
    refine if_neg ?_
    rw [hsettled]
    rcases hstate with h | h <;> rw [h] <;> decide
  rw [hstill] at he
  exact ⟨_, he, hsettled, he.unlisted ((unlisted_iff _ c).2 (hown.places.trans (completeSchedule_places z c reason)))⟩

end
end Sys2Proof.Machine
end

section
/-! PROOF. The walk of a step end, at the end of its event (R30, R32, R40). -/
namespace Sys2Proof.Machine
open Sys2Proof.Safety

section
variable {s t u v z : State} {c d : Ch} {w : Window} {x y : StepRecord} {i j k n target count : Nat} {e : EndCond} {p : Playback}
  {cs : List Nat} {counts : Bool} {hold : Bool} {reason : ScheduleEnd} {body : ReportBody} {a : Channel}

/-! ### The landing after a walk -/

theorem Between.lands (h : Between z c) (hy : stepOf z { z.ch c with stepIndex := k } = some y) (hold : Bool)
    (he : Ends (stageRefresh (settle (landOn z c k hold)) c) t) : Landed (z.ch c) t c k y (hold = true) ∧ Walking (z.ch c) (t.ch c) := by
  obtain ⟨hland, hwalking, -⟩ := (h.walked hy).lands hold he
  exact ⟨hland, hwalking⟩

theorem stepOf_at (hw : (z.ch c).active = some w) (hy : poolRead z.pool (w.base + k) = some y) :
    stepOf z { z.ch c with stepIndex := k } = some y := by
  unfold stepOf
  rw [hw]
  exact hy

/-- A walk past a MARK that carries out no swap lands. -/
theorem Between.lands_mark (h : Between z c) (hc : ¬(counts = true ∧ (z.ch c).swapPending = some .atCycleEnd))
    (hw : (z.ch c).active = some w) (hy : poolRead z.pool (w.base + j) = some y)
    (he : Ends (stageRefresh (settle (landOn (loopedOf z c k target count counts) c j hold)) c) t) :
    Landed (z.ch c) t c j y (hold = true) ∧ Walking { z.ch c with
      loops := (loopAt (z.ch c).loops k target count).2
      cycle := if counts then ⟨0, 0, 0, 0⟩ else (z.ch c).cycle
      cycleNumber := if counts then min 4294967295 ((z.ch c).cycleNumber + 1) else (z.ch c).cycleNumber } (t.ch c) := by
  have hch := loopedOf_ch hc k target count
  have hbetween : Between (loopedOf z c k target count counts) c :=
    h.neutral (loopedOf_neutral z c k target count counts) (loopedOf_acts z c k target count counts)
  obtain ⟨hland, hwalking⟩ := hbetween.lands (stepOf_at (by rw [hch]; exact hw) (by rw [loopedOf_pool]; exact hy)) hold he
  rw [hch] at hland hwalking
  exact ⟨Landed.of_same hland rfl rfl rfl rfl rfl rfl rfl, hwalking⟩

/-- A cycle end that carries out a swap lands on the first step of the new window. -/
theorem Between.lands_swap (h : Between z c) (hs : (z.ch c).swapPending = some .atCycleEnd) (hv : (z.ch c).staged = some w)
    (hy : poolRead z.pool w.base = some y) (he : Ends (stageRefresh (settle (landOn (cycledOf z c k true) c 0 hold)) c) t) :
    Landed (z.ch c) t c 0 y (hold = true) ∧ Walking { z.ch c with
      cycle := ⟨0, 0, 0, 0⟩, cycleNumber := min 4294967295 ((z.ch c).cycleNumber + 1)
      active := (z.ch c).staged, staged := (z.ch c).active, swapPending := none, loops := [] } (t.ch c) := by
  have hch := cycledOf_swaps hs k
  have hbetween : Between (cycledOf z c k true) c := h.neutral (cycledOf_neutral z c k true) (cycledOf_acts z c k true)
  obtain ⟨hland, hwalking⟩ := hbetween.lands (stepOf_at (by rw [hch]; exact hv) (by rw [cycledOf_pool]; exact hy)) hold he
  rw [hch] at hland hwalking
  exact ⟨Landed.of_same hland rfl rfl rfl rfl rfl rfl rfl, hwalking⟩

/-- A schedule end that carries out a swap lands on the first step of the new window. -/
theorem Between.lands_end (h : Between z c) (hv : (z.ch c).staged = some w) (hy : poolRead z.pool w.base = some y)
    (he : Ends (stageRefresh (settle (landOn (swappedOf z c reason) c 0 hold)) c) t) :
    Landed (z.ch c) t c 0 y (hold = true) ∧ Walking (z.ch c).carryOutSwap (t.ch c) := by
  have hch := swappedOf_ch z c reason
  have hbetween : Between (swappedOf z c reason) c := h.neutral (swappedOf_neutral z c reason) (swappedOf_acts z c reason)
  obtain ⟨hland, hwalking⟩ := hbetween.lands (k := 0) (stepOf_at (by rw [hch]; exact hv) hy) hold he
  rw [hch] at hland hwalking
  exact ⟨Landed.of_same hland rfl rfl rfl rfl rfl rfl rfl, hwalking⟩

/-! ### The first two reports -/

/-- STEP_END and the report after it. -/
theorem endedOf_reports (hroom : s.link.reports.length ≤ 32) (hu : Grows (reportCh (endedOf s c x i e p cs) c body) u) :
    s.link.reports ++
      [⟨s.link.nextSeq, s.hall.partTime, chByte c, .stepEnd (s.ch c).stepIndex x.kind (.condition i e.kind) e.action
          (chosenIndex (s.ch c).stepIndex e.action) (worked (s.ch c)).stepTime (reported (worked (s.ch c)).qStep)
          (reported (worked (s.ch c)).eStep) (s.ch c).cycleNumber⟩,
        ⟨s.link.nextSeq + 1, s.hall.partTime, chByte c, body⟩] <+: u.link.reports := by
  have hlink := toldOf_report (firedOf s c p cs) c x (.condition i e.kind) e.action (show s.link.reports.length < 64 by omega)
  rw [firedOf_ch] at hlink
  have hreports : (endedOf s c x i e p cs).link.reports = s.link.reports ++ [_] := congrArg Link.reports hlink
  have hseq : (endedOf s c x i e p cs).link.nextSeq = s.link.nextSeq + 1 := congrArg Link.nextSeq hlink
  have hmade : (reportCh (endedOf s c x i e p cs) c body).link.reports = (endedOf s c x i e p cs).link.reports ++
      [⟨(endedOf s c x i e p cs).link.nextSeq, s.hall.partTime, chByte c, body⟩] := by
    refine congrArg Link.reports (make_room (l := (endedOf s c x i e p cs).link) _ _ _ ?_)
    rw [hreports, List.length_append, List.length_singleton]
    omega
  rw [hreports, hseq, List.append_assoc] at hmade
  have hprefix := hu.prefix
  rw [hmade] at hprefix
  exact hprefix

end

end Sys2Proof.Machine

namespace Sys2Proof.Safety
open Sys2Proof.Machine

/-- Settles O45. -/
theorem walkPasses : Obligations.WalkPasses := by
  unfold Obligations.WalkPasses
  intro s c w x i e h a hold chosen
  obtain ⟨p, cs, hends⟩ := stepFires_ends h
  obtain ⟨hboard, -⟩ := stepFires_frame h hends
  have hchosen : chosenIndex (s.ch c).stepIndex e.action = chosen := by
    show _ = (match e.action with | .goto n => some n | .endSchedule => none | _ => some ((s.ch c).stepIndex + 1))
    cases e.action <;> rfl
  refine ⟨_, rfl, hboard, ?_⟩
  intro told shown ended
  obtain ⟨z, hz⟩ : ∃ z, z = endedOf s c x i e p cs := ⟨_, rfl⟩
  have hzch : z.ch c = { worked (s.ch c) with
      play := { p with underrunTimer := none }, confirms := cs, gapTimer := none, startTimer := none } := by
    rw [hz]; exact endedOf_ch s c x i e p cs
  have hpool : z.pool = s.pool := by rw [hz]; rfl
  have hactive : (z.ch c).active = some w := by rw [hzch]; exact h.window
  have hindex : ((firedOf s c p cs).ch c).stepIndex = (s.ch c).stepIndex := by rw [firedOf_ch]; rfl
  have hbetween : CreditSpared s c → Between z c := fun hspared => by rw [hz]; exact CreditSpared.between h hspared _ _
  have hlanded : ∀ {t k y q}, Landed (z.ch c) t c k y q → Landed a t c k y q := fun hland => by
    rw [hz] at hland
    exact landed_ended hland
  have htold : ∀ body, Grows (reportCh z c body) (endStep (firedOf s c p cs) c x (.condition i e.kind) e.action) → told body :=
    fun body hgrows hsend hroom => by
      rw [stepFires_reports h hends hsend, ← hchosen]
      rw [hz] at hgrows
      exact endedOf_reports hroom hgrows
  refine ⟨fun k target count counts hk hlt hm => ?_, fun hend => ?_⟩
  · intro n next swaps
    rw [← hpool] at hm
    have hwalk : endStep (firedOf s c p cs) c x (.condition i e.kind) e.action = settle (walkOn z c k (e.action = .hold)) := by
      rw [endStep_eq, stepEnded_chosen (by rw [hindex, hchosen, hk]), hz]
      rfl
    rw [hwalk] at htold hends
    refine ⟨fun hcounts => htold _ ?_, fun y hno hnext hy hn hspared => ?_, fun v y hswap hv hlen hy hn hspared => ?_⟩
    · subst hcounts
      have hcycle := Grows.trans (walkOn_cycle_grows hactive hlt hm (e.action = .hold)) (settle_grows _)
      have hswaps : swaps = decide ((z.ch c).swapPending = some .atCycleEnd) := by
        rw [hzch]
        exact decide_eq_decide.2 (and_iff_right rfl)
      refine Grows.trans (.of_link ?_) hcycle
      rw [hswaps, show a.cycleNumber = (z.ch c).cycleNumber by rw [hzch], show shown = (z.ch c).cycle.reported by rw [hzch]; rfl]
      rfl
    · have hnot : ¬(counts = true ∧ (z.ch c).swapPending = some .atCycleEnd) := by
        rw [hzch]
        exact of_decide_eq_false hno
      rw [← hpool] at hy
      have hnextz : next = if count = 0 ∨ loopCounter (z.ch c).loops k + 1 < count then target else k + 1 := by rw [hzch]
      rw [walkOn_mark hnot hactive hlt hm hnextz hnext hy hn] at hends
      obtain ⟨hland, hwalking⟩ := (hbetween hspared).lands_mark hnot hactive hy hends
      rw [decide_eq_true_iff] at hland
      rw [hzch] at hwalking
      refine ⟨hlanded hland, hwalking.active, hwalking.staged, hwalking.swapPending, ?_, ?_, hwalking.cycle, hwalking.cycleNumber⟩
      · rw [hwalking.loops]
        exact loopAt_counter _ k target count
      · rw [hwalking.loops]
        exact loopAt_others _ k target count
    · obtain ⟨hcounts, hs⟩ := of_decide_eq_true hswap
      subst hcounts
      rw [← hpool] at hy
      rw [walkOn_swap (by rw [hzch]; exact hs) hactive hlt hm (by rw [hzch]; exact hv) hlen hy hn] at hends
      obtain ⟨hland, hwalking⟩ := (hbetween hspared).lands_swap (by rw [hzch]; exact hs) (by rw [hzch]; exact hv) hy hends
      rw [decide_eq_true_iff] at hland
      rw [hzch] at hwalking
      exact ⟨hlanded hland, hwalking.active, hwalking.staged, hwalking.swapPending, hwalking.loops, hwalking.cycle,
        hwalking.cycleNumber⟩
  · have hwalk : endStep (firedOf s c p cs) c x (.condition i e.kind) e.action =
        settle (scheduleEnd z c ended (e.action = .hold)) := by
      rcases hend with hnone | ⟨k, hk, hle⟩
      · rw [endStep_eq, stepEnded_end (by rw [hindex, hchosen, hnone]), hz]
        rw [show ended = .endAction from if_pos hnone]
        rfl
      · rw [endStep_eq, stepEnded_chosen (by rw [hindex, hchosen, hk])]
        rw [show ended = .windowEnd from if_neg (by rw [hk]; exact nofun), hz]
        rw [hz] at hactive
        unfold walkOn
        rw [show walkFrom 1024 (toldOf (firedOf s c p cs) c x (.condition i e.kind) e.action) c k = _ from
          walkFrom_leaves hactive hle 1023]
    rw [hwalk] at htold hends
    have hcycle : shown = (z.ch c).cycle.reported := by rw [hzch]; rfl
    have hnumber : a.cycleNumber = (z.ch c).cycleNumber := by rw [hzch]
    refine ⟨fun hs => ?_, fun hs => ⟨htold _ ?_, fun v y hv hlen hy hn hspared => ?_⟩⟩
    · have hswap : (z.ch c).swapPending = none := by rw [hzch]; exact hs
      rw [scheduleEnd_stops hswap] at htold hends
      have hlead : isLeader z c = false := by
        rw [hz]
        exact (isLeader_acts (toldOf_acts _ c _ _ _)).trans ((isLeader_modCh_same _).trans (paired_false h.single).1)
      have hpresent : (z.ch c).port.presence = .present := by rw [hzch]; exact (openPeriod_presence _).trans h.present
      obtain ⟨v, hv, hvch, hunlisted⟩ := completeSchedule_ends hlead hpresent hends
      obtain ⟨b, q, r, hch, hoff, hstays⟩ := completeSchedule_ch hlead hpresent ended
      rw [hch, hzch] at hvch
      refine ⟨htold _ (Grows.trans (.of_link ?_) (settle_grows _)), ?_, ?_, fun hstand => ?_, ?_, hunlisted, ?_, ?_, ?_, ?_, ?_, ?_, ?_⟩
      · rw [completeSchedule_link, hcycle, hnumber]
      · rw [hv.get c Channel.state, hvch]
        cases r
        · exact .inl rfl
        · exact .inr rfl
      · rw [hv.get c Channel.stopDest, hvch]
      · have hr : r = false := hstays (by rw [hzch]; exact hstand)
        rw [hv.get c Channel.state, hvch, hr]
        rfl
      · rw [hv.get c fun ch => ch.port.standing, hvch]
        exact hoff
      · rw [hv.get c Channel.heldBefore, hvch]; rfl
      · rw [hv.get c Channel.holds, hvch]; rfl
      · rw [hv.get c Channel.stepIndex, hvch]; rfl
      · rw [hv.get c Channel.stepTime, hvch]; rfl
      · rw [hv.get c Channel.cycle, hvch]; rfl
      · rw [hv.get c Channel.cycleNumber, hvch]; rfl
      · rw [hv.get c Channel.loops, hvch]; rfl
    · rw [hcycle, hnumber]
      exact Grows.trans (scheduleEnd_swap_grows (by rw [hzch]; exact hs) _) (settle_grows _)
    · rw [← hpool] at hy
      rw [scheduleEnd_swaps (by rw [hzch]; exact hs) (by rw [hzch]; exact hv) hlen hy hn] at hends
      obtain ⟨hland, hwalking⟩ := (hbetween hspared).lands_end (by rw [hzch]; exact hv) hy hends
      rw [decide_eq_true_iff] at hland
      rw [hzch] at hwalking
      exact ⟨hlanded hland, hwalking.active, hwalking.staged, hwalking.swapPending, hwalking.loops, hwalking.cycle,
        hwalking.cycleNumber⟩

end Sys2Proof.Safety
end

section
/-! PROOF. The checks of a pair's members: what latches, and what stands (R128 to R130, R135, R136). -/
namespace Sys2Proof.Machine
open Sys2Proof.Safety

section
variable {s t u v : State} {c d l : Ch} {k j : FaultKind} {A B : Ch → FaultKind → Prop}

/-! ### A kind offered -/

/-- A kind offered latches, but for a kind that warns. -/
theorem offer_kind (s : State) (c : Ch) (k : FaultKind) (value : Int) : hasKind ((offer s c k value).ch c).latched k = true ↔
    hasKind (s.ch c).latched k = true ∨ warns (s.ch c).settings k = false := by
  cases hw : warns (s.ch c).settings k
  · exact iff_of_true (offer_hasKind value hw) (.inr rfl)
  · have hnot : latchesNewly s c k = false := by
      unfold latchesNewly
      rw [hw]
      rfl
    have hpair : offerPair s c k value = offerOne s c k value := if_neg fun e => absurd (hnot.symm.trans e.1) Bool.false_ne_true
    rcases offerOne_cases s c k value with ⟨-, hkept⟩ | ⟨hyes, -⟩
    · rw [offer_eq, hpair, ((settle_faultsKept _).chans c).latched, (hkept.chans c).latched]
      simp
    · exact absurd (hnot.symm.trans hyes) Bool.false_ne_true

/-- A kind offered to a channel latches in no other, but for PAIR_PARTNER. -/
theorem offer_elsewhere (s : State) (hd : d ≠ c) (k : FaultKind) (value : Int) (hj : j ≠ .pairPartner) :
    hasKind ((offer s c k value).ch d).latched j = hasKind (s.ch d).latched j := by
  have hone : hasKind ((offerOne s c k value).ch d).latched j = hasKind (s.ch d).latched j := by
    rcases offerOne_cases s c k value with ⟨-, hkept⟩ | ⟨-, -, hothers⟩
    · rw [(hkept.chans d).latched]
    · rw [(hothers d hd).latched]
  have hpartner : ∀ u : State, hasKind ((offerOne u (partner c) .pairPartner k.code).ch d).latched j = hasKind (u.ch d).latched j := by
    intro u
    rcases offerOne_cases u (partner c) .pairPartner k.code with ⟨-, hkept⟩ | ⟨-, hl, hothers⟩
    · rw [(hkept.chans d).latched]
    · by_cases he : d = partner c
      · subst he
        rw [hl.latched]
        simp [hj]
      · rw [(hothers d he).latched]
  rw [offer_eq, ((settle_faultsKept _).chans d).latched]
  exact iteInduction (motive := fun t : State => hasKind (t.ch d).latched j = hasKind (s.ch d).latched j)
    (fun _ => (hpartner _).trans hone) fun _ => hone

/-- What the checks of a pair's members do: they leave the board, the settings and every other channel, and latch no kinds but
those named and PAIR_PARTNER. -/
structure PairActs (l : Ch) (A : Ch → FaultKind → Prop) (s t : State) : Prop where
  pool     : t.pool = s.pool
  prot     : t.prot = s.prot
  image    : t.image = s.image
  budget   : t.arb.budget = s.arb.budget
  settings : ∀ d, (t.ch d).settings = (s.ch d).settings
  follower : ∀ d, (t.ch d).state = .follower ↔ (s.ch d).state = .follower
  others   : ∀ d, d ≠ l → d ≠ partner l → ChFrame (s.ch d) (t.ch d) ∧ RunFrame (s.ch d) (t.ch d)
  kinds    : ∀ d j, j ≠ .pairPartner → (hasKind (t.ch d).latched j = true ↔ hasKind (s.ch d).latched j = true ∨ A d j)

/-- No kind latches. -/
def noKind : Ch → FaultKind → Prop := fun _ _ => False

theorem PairActs.trans (h : PairActs l A s t) (k : PairActs l B t u) : PairActs l (fun d j => A d j ∨ B d j) s u where
  pool := k.pool.trans h.pool
  prot := k.prot.trans h.prot
  image := k.image.trans h.image
  budget := k.budget.trans h.budget
  settings d := (k.settings d).trans (h.settings d)
  follower d := (k.follower d).trans (h.follower d)
  others d h1 h2 := by
    obtain ⟨hc, hr⟩ := h.others d h1 h2
    obtain ⟨kc, kr⟩ := k.others d h1 h2
    exact ⟨⟨kc.settings.trans hc.settings, kc.cal.trans hc.cal, kc.life.trans hc.life, kc.lifeSaturated.trans hc.lifeSaturated,
      kc.queue.trans hc.queue, kc.last.trans hc.last, kc.held.trans hc.held, kc.missed.trans hc.missed, kc.taken.trans hc.taken,
      kc.pack.trans hc.pack, kc.elapsed.trans hc.elapsed, kc.presence.trans hc.presence,
      kc.lastConfirmed.trans hc.lastConfirmed, kc.lineErr.trans hc.lineErr, kc.lineErrCount.trans hc.lineErrCount,
      kc.breaking.trans hc.breaking⟩, RunKeeps.trans hr kr⟩
  kinds d j hj := by rw [k.kinds d j hj, h.kinds d j hj, or_assoc]

theorem PairActs.congr (h : PairActs l A s t) (hAB : ∀ d j, A d j ↔ B d j) : PairActs l B s t :=
  { h with kinds := fun d j hj => by rw [h.kinds d j hj, hAB] }

theorem PairActs.then_still (h : PairActs l A s t) (k : PairActs l noKind t u) : PairActs l A s u :=
  (h.trans k).congr fun _ _ => or_iff_left id

theorem PairActs.after_still (h : PairActs l noKind s t) (k : PairActs l A t u) : PairActs l A s u :=
  (h.trans k).congr fun _ _ => or_iff_right id

theorem PairActs.of_keeps (h : Keeps s t) (hr : ∀ d, d ≠ l → d ≠ partner l → RunFrame (s.ch d) (t.ch d))
    (hk : ∀ d j, j ≠ .pairPartner → (hasKind (t.ch d).latched j = true ↔ hasKind (s.ch d).latched j = true ∨ A d j)) :
    PairActs l A s t :=
  ⟨h.pool, h.prot, h.image, h.budget, fun d => (h.chans d).settings, fun d => (h.chans d).follower, fun d h1 h2 => ⟨h.frame.chans d, hr d h1 h2⟩, hk⟩

theorem PairActs.refl (l : Ch) (s : State) : PairActs l noKind s s :=
  .of_keeps (.refl s) (fun _ _ _ => RunKeeps.refl _) fun _ _ _ => (or_iff_left id).symm

theorem PairActs.of_runs (h : Runs s t) : PairActs l noKind s t :=
  .of_keeps h.keeps (fun d _ _ => h.chans d) fun d j _ => by
    rw [(h.chans d).latched]
    exact (or_iff_left id).symm

/-- A change of a member. -/
theorem PairActs.modCh (s : State) (hc : c = l ∨ c = partner l) (f : Channel → Channel)
    (h1 : (f (s.ch c)).settings = (s.ch c).settings) (h2 : (f (s.ch c)).latched = (s.ch c).latched)
    (h3 : (f (s.ch c)).state = .follower ↔ (s.ch c).state = .follower) : PairActs l noKind s (s.modCh c f) where
  pool := rfl
  prot := rfl
  image := rfl
  budget := rfl
  settings := ch_modCh_eq s c f Channel.settings h1
  follower d := by
    rw [State.ch_modCh]
    split
    · rename_i e; subst e; exact h3
    · exact Iff.rfl
  others d h4 h5 := by
    have hd : d ≠ c := by rcases hc with rfl | rfl <;> assumption
    rw [State.ch_modCh_ne _ hd]
    exact ⟨(Keeps.refl s).frame.chans d, RunKeeps.refl _⟩
  kinds d j _ := by
    rw [ch_modCh_eq s c f Channel.latched h2 d]
    exact (or_iff_left id).symm

theorem ne_member (hc : c = l ∨ c = partner l) (h1 : d ≠ l) (h2 : d ≠ partner l) : d ≠ c ∧ d ≠ partner c := by
  rcases hc with rfl | rfl
  · exact ⟨h1, h2⟩
  · rw [partner_partner]; exact ⟨h2, h1⟩

theorem PairActs.offer (s : State) (hc : c = l ∨ c = partner l) (k : FaultKind) (value : Int) :
    PairActs l (fun d j => d = c ∧ j = k ∧ warns (s.ch c).settings k = false) s (offer s c k value) := by
  refine .of_keeps (offer_keeps s c k value) (fun d h1 h2 => ?_) fun d j hj => ?_
  · obtain ⟨hd, hp⟩ := ne_member hc h1 h2
    exact offer_run s hd (fun e => absurd e hp) k value
  · by_cases hk : j = k
    · subst hk
      by_cases hd : d = c
      · subst hd
        rw [offer_kind]
        simp
      · rw [offer_elsewhere s hd j value hj]
        simp [hd]
    · rw [offer_kinds s c d value hk hj]
      simp [hk]

/-! ### The checks -/

theorem PairActs.setWarned (s : State) (hc : c = l ∨ c = partner l) (k : FaultKind) (w : Bool) :
    PairActs l noKind s (s.modCh c fun ch => Machine.setWarned ch k w) := by
  have hsame : ∀ ch : Channel, (Machine.setWarned ch k w).settings = ch.settings ∧
      (Machine.setWarned ch k w).latched = ch.latched ∧ (Machine.setWarned ch k w).state = ch.state := fun ch => by
    cases k <;> exact ⟨rfl, rfl, rfl⟩
  obtain ⟨h1, h2, h3⟩ := hsame (s.ch c)
  exact .modCh s hc _ h1 h2 (by rw [h3])

theorem PairActs.limitCheck (s : State) (hc : c = l ∨ c = partner l) (v : Nat) (i x : Int) (k : FaultKind) (value : Int) :
    PairActs l (fun d j => d = c ∧ j = k ∧ failsCheck (s.ch c).settings v i x k = true ∧ warns (s.ch c).settings k = false) s
      (limitCheck s c v i x k value) := by
  unfold Machine.limitCheck
  split
  · rename_i hf
    exact (PairActs.offer s hc k value).congr fun d j => by rw [hf]; simp
  · rename_i hf
    exact (PairActs.setWarned s hc k false).congr fun d j => iff_of_false id fun e => hf e.2.2.1

/-- What the checks of a voltage and a temperature latch in a channel (R135). -/
def Fails (set : ChanSettings) (v : Nat) (x : Int) (j : FaultKind) : Prop :=
  j = .limitVHigh ∧ set.vMax < v ∨ j = .limitVLow ∧ v < set.vMin ∨ j = .limitTHigh ∧ set.tMax < x ∨
    j = .limitTLow ∧ x < set.tMin ∧ set.warnTLow = .latch

theorem PairActs.packChecks (s : State) (hc : c = l ∨ c = partner l) (v : Nat) (i x : Int) :
    PairActs l (fun d j => d = c ∧ Fails (s.ch c).settings v x j) s (temperatureChecks (voltageChecks s c v i x) c v i x) := by
  obtain ⟨u1, hu1⟩ : ∃ u, u = Machine.limitCheck s c v i x .limitVHigh v := ⟨_, rfl⟩
  obtain ⟨u2, hu2⟩ : ∃ u, u = Machine.limitCheck u1 c v i x .limitVLow v := ⟨_, rfl⟩
  obtain ⟨u3, hu3⟩ : ∃ u, u = Machine.limitCheck u2 c v i x .limitTHigh x := ⟨_, rfl⟩
  have h1 : PairActs l _ s u1 := hu1 ▸ PairActs.limitCheck s hc v i x .limitVHigh v
  have h2 : PairActs l _ u1 u2 := hu2 ▸ PairActs.limitCheck u1 hc v i x .limitVLow v
  have h3 : PairActs l _ u2 u3 := hu3 ▸ PairActs.limitCheck u2 hc v i x .limitTHigh x
  have h4 := PairActs.limitCheck u3 hc v i x .limitTLow x
  have hset1 := h1.settings c
  have hset2 := (h2.settings c).trans hset1
  have hset3 := (h3.settings c).trans hset2
  rw [hset1] at h2
  rw [hset2] at h3
  rw [hset3] at h4
  have hall := ((h1.trans h2).trans h3).trans h4
  rw [hu3, hu2, hu1] at hall
  refine hall.congr fun d j => ?_
  have hwarn : ∀ w : WarnChoice, decide (w = .warn) = false ↔ w = .latch := fun w => by cases w <;> decide
  unfold failsCheck warns Fails
  simp only [decide_eq_true_eq, hwarn]
  tauto

end
end Sys2Proof.Machine
end

section
/-! PROOF. The pack reading's completion, a missed period and a reading, on the members of a pair (R53, R55, R128 to R130). -/
namespace Sys2Proof.Machine
open Sys2Proof.Safety

section
variable {s t u v : State} {c d l : Ch} {k j : FaultKind} {A B : Ch → FaultKind → Prop}

/-! ### What stands of every channel -/

theorem limitCheck_keeps (s : State) (c : Ch) (v : Nat) (i x : Int) (k : FaultKind) (value : Int) :
    Keeps s (limitCheck s c v i x k value) :=
  iteInduction (motive := Keeps s) (fun _ => offer_keeps s c k value) fun _ => Keeps.modCh s c _ (setWarned_keeps _ k false)

theorem packChecks_keeps (s : State) (c : Ch) (v : Nat) (i x : Int) :
    Keeps s (temperatureChecks (voltageChecks s c v i x) c v i x) :=
  ((limitCheck_keeps s c v i x _ _).trans (limitCheck_keeps _ c v i x _ _)).trans
    ((limitCheck_keeps _ c v i x _ _).trans (limitCheck_keeps _ c v i x _ _))

theorem mismatchChecked_keeps (s : State) (c : Ch) (difference : Nat) : Keeps s (mismatchChecked s c difference) :=
  iteInduction (motive := Keeps s) (fun _ => offer_keeps s c _ _) fun _ => Keeps.modCh s c _ (setWarned_keeps _ _ false)

/-- A channel with its pack reading taken. -/
def Channel.packs (ch : Channel) (p : PackReading) : Channel := { ch with pack := p }

theorem completePack_keeps (s : State) (c : Ch) (a b : Bool) :
    Keeps (s.modCh c fun ch => ch.packs (packOf (s.ch c) (s.ch (partner c)))) (completePack s c a b) := by
  have hchecked : Keeps (s.modCh c fun ch => ch.packs (packOf (s.ch c) (s.ch (partner c)))) (packChecked s c (a || b)) :=
    iteInduction (motive := Keeps (s.modCh c fun ch => ch.packs (packOf (s.ch c) (s.ch (partner c)))))
      (fun _ => packChecks_keeps _ c _ _ _) fun _ => .refl _
  rw [completePack_eq]
  exact iteInduction (motive := Keeps (s.modCh c fun ch => ch.packs (packOf (s.ch c) (s.ch (partner c)))))
    (fun _ => hchecked.trans (mismatchChecked_keeps _ c _)) fun _ => hchecked

theorem missPeriod_keeps (s : State) (c : Ch) : Keeps (s.modCh c Channel.misses) (missPeriod s c) := by
  rw [missPeriod_eq]
  exact iteInduction (motive := Keeps (s.modCh c Channel.misses)) (fun _ => offer_keeps _ c _ _) fun _ => .refl _

/-! ### What latches -/

theorem PairActs.mismatchChecked (s : State) (hc : c = l ∨ c = partner l) (n : Nat) :
    PairActs l (fun d j => d = c ∧ j = .pairMismatch ∧ (s.ch c).settings.pairTolerance < n ∧
      (s.ch c).settings.warnMismatch = .latch) s (mismatchChecked s c n) := by
  have hwarn : ∀ w : WarnChoice, decide (w = .warn) = false ↔ w = .latch := fun w => by cases w <;> decide
  unfold Machine.mismatchChecked
  split
  · rename_i hn
    refine (PairActs.offer s hc .pairMismatch n).congr fun d j => ?_
    unfold warns
    simp only [hwarn]
    tauto
  · rename_i hn
    exact (PairActs.setWarned s hc .pairMismatch false).congr fun d j => iff_of_false id fun e => hn e.2.2.1

/-- The completion of a pack reading latches in the leader the limit kinds that fail and PAIR_MISMATCH. -/
theorem PairActs.completePack (s : State) (l : Ch) (a b : Bool) :
    let p := packOf (s.ch l) (s.ch (partner l))
    PairActs l (fun d j => d = l ∧ ((a || b) = true ∧ Fails (s.ch l).settings p.v p.t j ∨
      (a && b && !p.held && decide ((s.port l).presence = .present)) = true ∧ j = .pairMismatch ∧
        (s.ch l).settings.pairTolerance < ((p.v : Int) - (s.ch (partner l)).last.v).natAbs ∧
        (s.ch l).settings.warnMismatch = .latch)) s (completePack s l a b) := by
  intro p
  have hpack : PairActs l noKind s (s.modCh l fun ch => ch.packs p) := .modCh s (.inl rfl) _ rfl rfl Iff.rfl
  have hchecked : PairActs l (fun d j => d = l ∧ (a || b) = true ∧ Fails (s.ch l).settings p.v p.t j) s (packChecked s l (a || b)) := by
    unfold packChecked
    refine iteInduction (motive := PairActs l (fun d j => d = l ∧ (a || b) = true ∧ Fails (s.ch l).settings p.v p.t j) s)
      (fun hab => ?_) fun hab => ?_
    · have hchecks := PairActs.packChecks (s.modCh l fun ch => ch.packs p) (c := l) (.inl rfl) p.v p.i p.t
      rw [State.ch_modCh_self] at hchecks
      exact (hpack.after_still hchecks).congr fun d j => by rw [hab]; exact and_congr_right fun _ => (and_iff_right rfl).symm
    · exact hpack.congr fun d j => iff_of_false id fun e => hab e.2.1
  rw [completePack_eq]
  dsimp only
  by_cases hc : (a && b && !p.held && decide ((s.port l).presence = .present)) = true
  · rw [if_pos hc]
    have hmismatch := PairActs.mismatchChecked (packChecked s l (a || b)) (c := l) (.inl rfl)
      ((p.v : Int) - (s.ch (partner l)).last.v).natAbs
    rw [hchecked.settings l] at hmismatch
    refine (hchecked.trans hmismatch).congr fun d j => ?_
    rw [show (a && b && !p.held && decide ((s.port l).presence = .present)) = true from hc]
    tauto
  · rw [if_neg hc]
    exact hchecked.congr fun d j => by rw [show (_ = true) = False from eq_false hc]; tauto

/-- A missed period latches STAGE_SILENT at most. -/
theorem PairActs.missPeriod (s : State) (hc : c = l ∨ c = partner l) :
    PairActs l (fun d j => d = c ∧ j = .stageSilent ∧ (s.ch c).port.presence = .present ∧ 3 ≤ (s.ch c).misses.missed) s
      (missPeriod s c) := by
  have hmiss : PairActs l noKind s (s.modCh c Channel.misses) := .modCh s hc _ rfl rfl Iff.rfl
  rw [missPeriod_eq]
  split
  · rename_i h
    refine (hmiss.after_still (PairActs.offer _ hc .stageSilent (s.ch c).misses.missed)).congr fun d j => ?_
    exact and_congr_right fun _ => and_congr_right fun _ => iff_of_true rfl h
  · rename_i h
    exact hmiss.congr fun d j => iff_of_false id fun e => h e.2.2

/-! ### A reading (R53, R129, R136, R164) -/

theorem readingChecks_paired (hp : paired s c = true) (rd : Reading) :
    readingChecks s c rd = limitCheck s c rd.v rd.i rd.t .limitI rd.i := if_pos hp

theorem stageFlags_keeps (s : State) (c : Ch) (rd : Reading) : Keeps s (stageFlags s c rd) := by
  have hderate : ∀ u, Keeps u (u.modCh c fun ch => { ch with derateSeen := rd.derate }) := fun u =>
    Keeps.modCh u c _ (by constructor <;> first | rfl | exact Iff.rfl | exact id)
  have hoffers : Keeps s (if rd.fault || rd.interlock then
      Machine.offer s c .stageReported ((if rd.fault then 1 else 0) + (if rd.interlock then 2 else 0)) else s) :=
    iteInduction (motive := Keeps s) (fun _ => offer_keeps s c _ _) fun _ => .refl s
  unfold stageFlags
  exact (hoffers.trans (iteInduction (motive := Keeps _) (fun _ => reportCh_keeps _ c _) fun _ => .refl _)).trans (hderate _)

theorem PairActs.stageFlags (s : State) (hc : c = l ∨ c = partner l) (rd : Reading) :
    PairActs l (fun d j => d = c ∧ j = .stageReported ∧ (rd.fault || rd.interlock) = true) s (stageFlags s c rd) := by
  have hderate : ∀ u, PairActs l noKind u (u.modCh c fun ch => { ch with derateSeen := rd.derate }) := fun u =>
    .modCh u hc _ rfl rfl Iff.rfl
  have hreport : ∀ u body, PairActs l noKind u (reportCh u c body) := fun u body => .of_runs (reportCh_runs u c body)
  have hoffers : PairActs l (fun d j => d = c ∧ j = .stageReported ∧ (rd.fault || rd.interlock) = true) s
      (if rd.fault || rd.interlock then
        Machine.offer s c .stageReported ((if rd.fault then 1 else 0) + (if rd.interlock then 2 else 0)) else s) := by
    split
    · rename_i h
      exact (PairActs.offer s hc .stageReported _).congr fun d j =>
        and_congr_right fun _ => and_congr_right fun _ => iff_of_true rfl h
    · rename_i h
      exact (PairActs.refl l s).congr fun d j => iff_of_false id fun e => h e.2.2
  unfold Machine.stageFlags
  exact (hoffers.then_still (iteInduction (motive := PairActs l noKind _) (fun _ => hreport _ _) fun _ => .refl l _)).then_still
    (hderate _)

theorem settlingTest_pairActs (s : State) (l : Ch) : PairActs l noKind s (settlingTest s) :=
  .of_keeps (settlingTest_keeps s) (fun d _ _ => by rw [settlingTest_ch]; exact RunKeeps.refl _) fun d j _ => by
    rw [settlingTest_ch]; exact (or_iff_left id).symm

theorem portSettled_pairActs (s : State) (hc : leaderOf s c = l) : PairActs l noKind s (portSettled s c) := by
  unfold portSettled
  rw [hc]
  refine PairActs.then_still ?_ (settlingTest_pairActs _ l)
  refine iteInduction (motive := PairActs l noKind s) (fun h => ?_) fun _ => .refl l s
  have hdest : ∀ x : StopDest, x.state ≠ .follower := fun x => by cases x <;> decide
  exact .modCh s (.inl rfl) _ rfl rfl (iff_of_false (hdest _) (by rw [h.1]; decide))

/-- A reading that counts for presence. -/
theorem makePresent_pairActs (s : State) (hc : c = l ∨ c = partner l) (hl : leaderOf s c = l) :
    PairActs l noKind s (makePresent s c) := by
  unfold makePresent
  refine iteInduction (motive := PairActs l noKind s) (fun _ => .refl l s) fun _ => ?_
  have hport : PairActs l noKind s (s.modPort c Port.becomePresent) := .modCh s hc _ rfl rfl Iff.rfl
  refine iteInduction (motive := PairActs l noKind s) (fun _ => ?_) fun _ => hport
  refine hport.after_still (portSettled_pairActs _ ?_)
  rw [← hl]
  unfold leaderOf isFollower
  rw [show ((s.modPort c Port.becomePresent).ch c).state = (s.ch c).state by rw [State.modPort, State.ch_modCh_self]]

theorem becomePresent_presence (p : Port) : p.becomePresent.presence = .present := by
  unfold Port.becomePresent Port.send Port.enqueue
  dsimp only
  split
  · rfl
  · split
    · rfl
    · split <;> rfl

end
end Sys2Proof.Machine
end

section
/-! PROOF. A member's reading and a leader's period event, up to the completion of the pack reading (R53, R55, R128). -/
namespace Sys2Proof.Machine
open Sys2Proof.Safety

/-- The figures of a channel's readings that the pack reading goes by. -/
structure SameSample (a b : Channel) : Prop where
  last     : b.last = a.last
  held     : b.held = a.held
  missed   : b.missed = a.missed
  taken    : b.taken = a.taken
  pack     : b.pack = a.pack
  packDone : b.packDone = a.packDone

section
variable {s t u v : State} {c d l : Ch} {k j : FaultKind} {a b : Channel}

theorem SameSample.trans {e : Channel} (h : SameSample a b) (k : SameSample b e) : SameSample a e :=
  ⟨k.last.trans h.last, k.held.trans h.held, k.missed.trans h.missed, k.taken.trans h.taken, k.pack.trans h.pack,
    k.packDone.trans h.packDone⟩

theorem Keeps.sample (h : Keeps s t) (c : Ch) : SameSample (s.ch c) (t.ch c) :=
  ⟨(h.chans c).last, (h.chans c).held, (h.chans c).missed, (h.chans c).taken, (h.chans c).pack, (h.chans c).packDone⟩

/-- The port with a reading counted for presence. -/
theorem makePresent_sample (s : State) (c : Ch) : ((makePresent s c).ch c).port.presence = .present ∧
    (∀ d, SameSample (s.ch d) ((makePresent s c).ch d)) ∧
    ∀ d, d ≠ c → ((makePresent s c).ch d).port.presence = (s.ch d).port.presence := by
  have hport : ((s.modPort c Port.becomePresent).ch c).port.presence = .present ∧
      (∀ d, SameSample (s.ch d) ((s.modPort c Port.becomePresent).ch d)) ∧
      ∀ d, d ≠ c → ((s.modPort c Port.becomePresent).ch d).port.presence = (s.ch d).port.presence := by
    refine ⟨?_, fun d => ?_, fun d hd => by rw [State.modPort, State.ch_modCh_ne _ hd]⟩
    · rw [State.modPort, State.ch_modCh_self]
      exact becomePresent_presence _
    · rw [State.modPort, State.ch_modCh]
      split
      · rename_i e
        subst e
        exact ⟨rfl, rfl, rfl, rfl, rfl, rfl⟩
      · exact ⟨rfl, rfl, rfl, rfl, rfl, rfl⟩
  obtain ⟨h1, h2, h3⟩ := hport
  unfold makePresent
  split
  · rename_i hp
    exact ⟨hp, fun d => (Keeps.refl s).sample d, fun _ _ => rfl⟩
  · dsimp only
    split
    · have hk := portSettled_keeps (s.modPort c Port.becomePresent) c
      exact ⟨((hk.chans c).presence).trans h1, fun d => (h2 d).trans (hk.sample d), fun d hd => (hk.chans d).presence.trans (h3 d hd)⟩
    · exact ⟨h1, h2, h3⟩

/-- A leader, its follower its partner, and one of them. -/
structure Pair (s : State) (l c : Ch) : Prop where
  leads  : isLeader s l = true
  leader : (s.ch l).state ≠ .follower
  member : c = l ∨ c = partner l

theorem Pair.paired (h : Pair s l c) : paired s c = true := by
  rw [paired_iff]
  obtain ⟨h1, h2⟩ := (isLeader_iff s l).1 h.leads
  rcases h.member with rfl | rfl
  · exact .inl ⟨h1, h2⟩
  · exact .inr h2

theorem Pair.leaderOf (h : Pair s l c) : leaderOf s c = l := by
  rcases h.member with rfl | rfl
  · exact leaderOf_self h.leader
  · rw [leaderOf_follower ((isLeader_iff s l).1 h.leads).2, partner_partner]

theorem Pair.keeps (h : Pair s l c) (hk : Keeps s t) : Pair t l c :=
  ⟨(hk.isLeader l).trans h.leads, fun e => h.leader ((hk.chans l).follower.1 e), h.member⟩

theorem Pair.modCh (h : Pair s l c) (d : Ch) (f : Channel → Channel) (hf : ∀ ch, (f ch).state = ch.state) : Pair (s.modCh d f) l c := by
  have hstate := ch_modCh_eq s d f Channel.state (hf _)
  refine ⟨?_, by rw [hstate]; exact h.leader, h.member⟩
  have := h.leads
  rw [isLeader_iff] at this ⊢
  rw [hstate]
  exact this

theorem Pair.acts {A : Ch → FaultKind → Prop} (h : Pair s l c) (ha : PairActs l A s t) : Pair t l c := by
  refine ⟨?_, fun e => h.leader ((ha.follower l).1 e), h.member⟩
  have := h.leads
  rw [isLeader_iff] at this ⊢
  exact ⟨this.1, (ha.follower _).2 this.2⟩

/-- A member's reading, counted for presence, before it may complete the pack reading. -/
theorem readOf_member (h : Pair s l c) (raw : RawReading) :
    let rd := takeRaw (s.ch c).cal raw s.hall.partTime
    PairActs l (fun d j => d = c ∧ (j = .limitI ∧ (s.ch c).settings.iMax < rd.i.natAbs ∨
        j = .stageReported ∧ (rd.fault || rd.interlock) = true)) s (readOf s c raw) ∧
      SameSample ((s.ch c).reads rd) ((readOf s c raw).ch c) ∧ ((readOf s c raw).ch c).port.presence = .present ∧
      ∀ d, d ≠ c → SameSample (s.ch d) ((readOf s c raw).ch d) ∧
        ((readOf s c raw).ch d).port.presence = (s.ch d).port.presence := by
  intro rd
  obtain ⟨u, hu⟩ : ∃ u, u = s.modCh c fun ch => ch.reads rd := ⟨_, rfl⟩
  have hread : PairActs l noKind s u := hu ▸ PairActs.modCh s h.member _ rfl rfl Iff.rfl
  have hpair : Pair u l c := hu ▸ h.modCh c _ fun _ => rfl
  have hlimit := PairActs.limitCheck u h.member rd.v rd.i rd.t .limitI rd.i
  rw [hread.settings c] at hlimit
  have hlimitKeeps := limitCheck_keeps u c rd.v rd.i rd.t .limitI rd.i
  rw [← readingChecks_paired hpair.paired] at hlimit hlimitKeeps
  have hflagsKeeps := hlimitKeeps.trans (stageFlags_keeps (readingChecks u c rd) c rd)
  have hflags := hlimit.trans (PairActs.stageFlags (readingChecks u c rd) h.member rd)
  obtain ⟨v, hv⟩ : ∃ v, v = stageFlags (readingChecks u c rd) c rd := ⟨_, rfl⟩
  rw [← hv] at hflagsKeeps hflags
  have hreadOf : readOf s c raw = makePresent v c := by rw [hv, hu]; rfl
  obtain ⟨hpresent, hsample, hothers⟩ := makePresent_sample v c
  rw [hreadOf]
  refine ⟨?_, ?_, hpresent, fun d hd => ?_⟩
  · refine (hread.after_still (hflags.then_still (makePresent_pairActs v h.member (hpair.keeps hflagsKeeps).leaderOf))).congr
      fun d j => ?_
    simp only [failsCheck, warns, decide_eq_true_eq]
    tauto
  · have hself := hflagsKeeps.sample c
    rw [hu, State.ch_modCh_self] at hself
    exact hself.trans (hsample c)
  · have hother := hflagsKeeps.sample d
    have hpresence := (hflagsKeeps.chans d).presence
    rw [hu, State.ch_modCh_ne _ hd] at hother hpresence
    exact ⟨hother.trans (hsample d), (hothers d hd).trans hpresence⟩

/-- The kinds a leader latches with its pack reading `p`, its follower at voltage `v` (R129, R130). -/
def PackFails (set : ChanSettings) (p : PackReading) (v : Nat) (checked compared : Prop) (j : FaultKind) : Prop :=
  checked ∧ Fails set p.v p.t j ∨ compared ∧ j = .pairMismatch ∧ set.pairTolerance < ((p.v : Int) - v).natAbs ∧
    set.warnMismatch = .latch

/-- A pack reading that has been completed. -/
theorem completePack_member (s : State) (l : Ch) (x y : Bool) :
    let t := completePack s l x y
    PairActs l (fun d j => d = l ∧ PackFails (s.ch l).settings (t.ch l).pack (t.ch (partner l)).last.v (x = true ∨ y = true)
        (x = true ∧ y = true ∧ (t.ch l).pack.held = false ∧ (t.ch l).port.presence = .present) j) s t ∧
      (t.ch l).pack = packOf (t.ch l) (t.ch (partner l)) ∧ SameSample ((s.ch l).packs (t.ch l).pack) (t.ch l) ∧
      (t.ch l).port.presence = (s.ch l).port.presence ∧ SameSample (s.ch (partner l)) (t.ch (partner l)) ∧
      (t.ch (partner l)).port.presence = (s.ch (partner l)).port.presence := by
  intro t
  have hkeeps : Keeps (s.modCh l fun ch => ch.packs (packOf (s.ch l) (s.ch (partner l)))) t := completePack_keeps s l x y
  have hleader := hkeeps.sample l
  have hfollower := hkeeps.sample (partner l)
  have hpl := (hkeeps.chans l).presence
  have hpf := (hkeeps.chans (partner l)).presence
  rw [State.ch_modCh_self] at hleader hpl
  rw [State.ch_modCh_ne _ (partner_ne l)] at hfollower hpf
  have hpack : (t.ch l).pack = packOf (s.ch l) (s.ch (partner l)) := hleader.pack
  have hsame : packOf (t.ch l) (t.ch (partner l)) = packOf (s.ch l) (s.ch (partner l)) := by
    unfold packOf
    rw [hleader.last, hleader.held, hfollower.last, hfollower.held]
    rfl
  refine ⟨?_, hpack.trans hsame.symm, by rw [hpack]; exact hleader, hpl, hfollower, hpf⟩
  have hpres : (t.ch l).port.presence = (s.port l).presence := hpl
  refine (PairActs.completePack s l x y).congr fun d j => ?_
  rw [hpack, hfollower.last, hpres]
  unfold PackFails
  simp only [Bool.and_eq_true, Bool.or_eq_true, Bool.not_eq_true', decide_eq_true_eq, and_assoc]

/-- A member's reading (R53, R128). -/
theorem takeReading_member (h : Pair s l c) (raw : RawReading) :
    let rd := takeRaw (s.ch c).cal raw s.hall.partTime
    let t := takeReading s c raw
    let other := if c = l then partner l else l
    let done : Prop := (s.ch other).taken = true ∧ (s.ch l).packDone = false
    PairActs l (fun d j => d = c ∧ (j = .limitI ∧ (s.ch c).settings.iMax < rd.i.natAbs ∨
        j = .stageReported ∧ (rd.fault || rd.interlock) = true) ∨
        d = l ∧ PackFails (s.ch l).settings (t.ch l).pack (t.ch (partner l)).last.v done
          (done ∧ (t.ch l).pack.held = false ∧ (t.ch l).port.presence = .present) j) s t ∧
      (t.ch c).last = rd ∧ (t.ch c).held = false ∧ (t.ch c).missed = 0 ∧ (t.ch c).taken = true ∧
      (t.ch c).port.presence = .present ∧ (t.ch other).last = (s.ch other).last ∧
      (t.ch l).pack = (if done then packOf (t.ch l) (t.ch (partner l)) else (s.ch l).pack) ∧
      ((t.ch l).packDone = true ↔ done ∨ (s.ch l).packDone = true) := by
  intro rd t
  obtain ⟨hacts, hself, hpresent, hothers⟩ := readOf_member h raw
  obtain ⟨u, hu⟩ : ∃ u, u = readOf s c raw := ⟨_, rfl⟩
  have htake : t = _ := takeReading_eq s c raw
  have hrd : rd = takeRaw (s.ch c).cal raw s.hall.partTime := rfl
  rw [← hrd] at hacts hself
  clear_value rd t
  intro other done
  rw [← hu] at hacts hself hpresent hothers htake
  have hpair := h.acts hacts
  dsimp only at htake
  rw [hpair.leaderOf] at htake
  have hne : other ≠ c := by
    show (if c = l then partner l else l) ≠ c
    split
    · rename_i e; rw [e]; exact partner_ne l
    · rename_i e; exact fun e' => e e'.symm
  obtain ⟨hother, -⟩ := hothers other hne
  have hdone : (u.ch l).packDone = (s.ch l).packDone ∧ (u.ch l).pack = (s.ch l).pack := by
    by_cases e : l = c
    · subst e; exact ⟨hself.packDone, hself.pack⟩
    · exact ⟨(hothers l e).1.packDone, (hothers l e).1.pack⟩
  have htaken : (u.ch l).taken = true ∧ (u.ch (partner l)).taken = true ↔ (s.ch other).taken = true := by
    have hc : (u.ch c).taken = true := hself.taken
    rw [← hother.taken]
    show _ ↔ (u.ch (if c = l then partner l else l)).taken = true
    rcases h.member with e | e
    · rw [if_pos e]
      rw [e] at hc
      exact and_iff_right hc
    · rw [if_neg (by rw [e]; exact partner_ne l)]
      rw [e] at hc
      exact and_iff_left hc
  have hcond : (isLeader u l = true ∧ (u.ch l).taken = true ∧ (u.ch (partner l)).taken = true ∧ (!(u.ch l).packDone) = true) ↔ done := by
    rw [hdone.1, ← and_assoc (a := (u.ch l).taken = true), htaken, Bool.not_eq_true']
    exact and_iff_right hpair.leads
  by_cases hd : done
  · rw [if_pos (hcond.2 hd)] at htake
    obtain ⟨w, hw⟩ : ∃ w, w = u.modCh l fun ch => { ch with packDone := true } := ⟨_, rfl⟩
    rw [← hw] at htake
    have hstart : PairActs l noKind u w := hw ▸ PairActs.modCh u (.inl rfl) _ rfl rfl Iff.rfl
    obtain ⟨hcomplete, hpack, hl, hpl, hf, hpf⟩ := completePack_member w l true true
    rw [← htake] at hcomplete hpack hl hpl hf hpf
    have hwl : w.ch l = { u.ch l with packDone := true } := by rw [hw]; exact State.ch_modCh_self u l _
    have hwf : w.ch (partner l) = u.ch (partner l) := by rw [hw]; exact State.ch_modCh_ne _ (partner_ne l) _
    rw [hwl] at hl hpl
    rw [hwf] at hf hpf
    have hmember : ∀ d, d = l ∨ d = partner l → (t.ch d).last = (u.ch d).last ∧ (t.ch d).held = (u.ch d).held ∧
        (t.ch d).missed = (u.ch d).missed ∧ (t.ch d).taken = (u.ch d).taken ∧
        (t.ch d).port.presence = (u.ch d).port.presence := by
      rintro d (rfl | rfl)
      · exact ⟨hl.last, hl.held, hl.missed, hl.taken, hpl⟩
      · exact ⟨hf.last, hf.held, hf.missed, hf.taken, hpf⟩
    obtain ⟨hlast, hheld, hmissed, htakenc, hpresence⟩ := hmember c h.member
    have hotherMember : other = l ∨ other = partner l := by
      show (if c = l then partner l else l) = l ∨ (if c = l then partner l else l) = partner l
      split
      · exact .inr rfl
      · exact .inl rfl
    have hpackDone : (t.ch l).packDone = true := hl.packDone
    refine ⟨(hacts.then_still hstart).trans hcomplete |>.congr fun e j => ?_, hlast.trans hself.last, hheld.trans hself.held,
      hmissed.trans hself.missed, htakenc.trans hself.taken, hpresence.trans hpresent, ?_, ?_, ?_⟩
    · rw [hstart.settings, hacts.settings]
      unfold PackFails
      simp [hd]
    · exact (hmember other hotherMember).1.trans hother.last
    · rw [if_pos hd]; exact hpack
    · exact iff_of_true hpackDone (.inl hd)
  · rw [if_neg fun e => hd (hcond.1 e)] at htake
    rw [htake]
    refine ⟨hacts.congr fun e j => ?_, hself.last, hself.held, hself.missed, hself.taken, hpresent, hother.last, ?_, ?_⟩
    · unfold PackFails
      simp only [hd, false_and, or_false, and_false]
    · rw [if_neg hd]; exact hdone.2
    · rw [hdone.1]; exact (or_iff_right hd).symm

end
end Sys2Proof.Machine
end

section
/-! PROOF. A leader's period event (R51, R54, R55, R128). -/
namespace Sys2Proof.Machine
open Sys2Proof.Safety

section
variable {s t u v : State} {c d l : Ch} {k j : FaultKind} {a b : Channel} {n : Nat}

/-- A channel whose next period has opened, its closed period settled as taken or missed (R55). -/
def Channel.samples (ch : Channel) (n : Nat) : Channel := if ch.taken then ch.opens n else (ch.opens n).misses

/-- Whether a channel's missed period latches a kind (R55). -/
def Channel.Silent (ch : Channel) (j : FaultKind) : Prop :=
  ch.taken = false ∧ j = .stageSilent ∧ ch.port.presence = .present ∧ 3 ≤ ch.misses.missed

theorem opens_presence (ch : Channel) (n : Nat) : (ch.opens n).port.presence = ch.port.presence := openPeriod_get ch.port Port.presence

theorem misses_missed (h1 : b.missed = a.missed) (h2 : b.port.presence = a.port.presence) : b.misses.missed = a.misses.missed := by
  unfold Channel.misses
  rw [h1, h2]

/-- A member settles its own period. -/
theorem ownPeriod_settles (hc : c = l ∨ c = partner l) (hch : SameSample (a.opens n) (s.ch c))
    (hp : (s.ch c).port.presence = a.port.presence) :
    let t := if a.taken then s else missPeriod s c
    PairActs l (fun d j => d = c ∧ a.Silent j) s t ∧ SameSample (a.samples n) (t.ch c) ∧
      (t.ch c).port.presence = a.port.presence ∧
      ∀ d, d ≠ c → SameSample (s.ch d) (t.ch d) ∧ (t.ch d).port.presence = (s.ch d).port.presence := by
  intro t
  have hmisses := misses_missed (a := a) hch.missed hp
  cases ht : a.taken
  · have hmissed : t = missPeriod s c := if_neg (by rw [ht]; exact Bool.false_ne_true)
    have hkeeps := missPeriod_keeps s c
    rw [hmissed]
    clear_value t
    refine ⟨?_, ?_, ?_, fun d hd => ?_⟩
    · refine (PairActs.missPeriod s hc).congr fun d j => ?_
      rw [hp, hmisses]
      unfold Channel.Silent
      rw [ht]
      simp
    · have hself := hkeeps.sample c
      rw [State.ch_modCh_self] at hself
      unfold Channel.samples
      rw [ht, if_neg Bool.false_ne_true]
      exact ⟨hself.last.trans hch.last, hself.held, hself.missed.trans (hmisses.trans
        (misses_missed (b := a) (a := a.opens n) rfl (opens_presence a n).symm)), hself.taken.trans hch.taken, hself.pack.trans hch.pack,
        hself.packDone.trans hch.packDone⟩
    · have hself := (hkeeps.chans c).presence
      rw [State.ch_modCh_self] at hself
      exact hself.trans hp
    · have hother := hkeeps.sample d
      have hpresence := (hkeeps.chans d).presence
      rw [State.ch_modCh_ne _ hd] at hother hpresence
      exact ⟨hother, hpresence⟩
  · have hsame : t = s := if_pos (by rw [ht])
    rw [hsame]
    clear_value t
    refine ⟨(PairActs.refl l s).congr fun d j => iff_of_false id fun e => ?_, ?_, hp, fun d _ => ⟨(Keeps.refl s).sample d, rfl⟩⟩
    · unfold Channel.Silent at e
      exact absurd (ht.symm.trans e.2.1) (by decide)
    · unfold Channel.samples
      rw [ht, if_pos rfl]
      exact hch

/-- What a leader's event leaves of a member's samples, its pack reading apart. -/
structure SameOwn (a b : Channel) : Prop where
  last     : b.last = a.last
  held     : b.held = a.held
  missed   : b.missed = a.missed
  taken    : b.taken = a.taken
  packDone : b.packDone = a.packDone

theorem SameSample.own (h : SameSample a b) : SameOwn a b := ⟨h.last, h.held, h.missed, h.taken, h.packDone⟩

theorem SameOwn.trans {e : Channel} (h : SameOwn a b) (k : SameOwn b e) : SameOwn a e :=
  ⟨k.last.trans h.last, k.held.trans h.held, k.missed.trans h.missed, k.taken.trans h.taken, k.packDone.trans h.packDone⟩

theorem openedOf_members (h : isLeader s l = true) : (openedOf s l).ch l = (s.ch l).opens (periodInForce s l) ∧
    (openedOf s l).ch (partner l) = (s.ch (partner l)).opens (periodInForce s l) := by
  rw [openedOf_eq, h]
  exact ⟨onPorts_ch (.inl rfl) _, onPorts_ch (.inr ⟨rfl, rfl⟩) _⟩

theorem openedOf_pairActs (h : isLeader s l = true) : PairActs l noKind s (openedOf s l) := by
  unfold openedOf
  rw [if_pos h]
  exact PairActs.after_still (PairActs.modCh s (.inl rfl) (fun ch => ch.opens (periodInForce s l)) rfl rfl Iff.rfl)
    (.modCh _ (.inr rfl) _ rfl rfl Iff.rfl)

/-- Stage 1 of a leader's period event. -/
theorem settledOf_pair (h : Pair s l l) :
    let t := settledOf s l
    PairActs l (fun d j => d = l ∧ (s.ch l).Silent j ∨ d = partner l ∧ (s.ch (partner l)).Silent j ∨
        d = l ∧ (s.ch l).packDone = false ∧ PackFails (s.ch l).settings (t.ch l).pack (t.ch (partner l)).last.v
          ((s.ch l).taken = true ∨ (s.ch (partner l)).taken = true)
          ((s.ch l).taken = true ∧ (s.ch (partner l)).taken = true ∧ (t.ch l).pack.held = false ∧
            (t.ch l).port.presence = .present) j) s t ∧
      SameOwn ((s.ch l).samples (periodInForce s l)) (t.ch l) ∧
      SameOwn ((s.ch (partner l)).samples (periodInForce s l)) (t.ch (partner l)) ∧
      (t.ch l).port.presence = (s.ch l).port.presence ∧
      (t.ch (partner l)).port.presence = (s.ch (partner l)).port.presence ∧
      (t.ch l).pack = if (s.ch l).packDone then (s.ch l).pack else packOf (t.ch l) (t.ch (partner l)) := by
  intro t
  have ht : t = settledOf s l := rfl
  clear_value t
  obtain ⟨u, hu⟩ : ∃ u, u = openedOf s l := ⟨_, rfl⟩
  obtain ⟨hul, huf⟩ := openedOf_members h.leads
  have hopened := openedOf_pairActs h.leads
  rw [← hu] at hul huf hopened
  obtain ⟨u1, hu1⟩ : ∃ u1, u1 = if (s.ch l).taken then u else missPeriod u l := ⟨_, rfl⟩
  obtain ⟨u2, hu2⟩ : ∃ u2, u2 = if (s.ch (partner l)).taken then u1 else missPeriod u1 (partner l) := ⟨_, rfl⟩
  obtain ⟨hown1, hl1, hpl1, hothers1⟩ := ownPeriod_settles (c := l) (a := s.ch l) (n := periodInForce s l) (.inl rfl)
    (by rw [hul]; exact ⟨rfl, rfl, rfl, rfl, rfl, rfl⟩) (by rw [hul]; exact opens_presence _ _)
  rw [← hu1] at hown1 hl1 hpl1 hothers1
  obtain ⟨hf1, hpf1⟩ := hothers1 (partner l) (partner_ne l)
  rw [huf] at hf1 hpf1
  obtain ⟨hown2, hf2, hpf2, hothers2⟩ := ownPeriod_settles (c := partner l) (a := s.ch (partner l)) (n := periodInForce s l)
    (.inr rfl) hf1 (hpf1.trans (opens_presence _ _))
  rw [← hu2] at hown2 hf2 hpf2 hothers2
  obtain ⟨hl2, hpl2⟩ := hothers2 l (partner_ne l).symm
  have hlead1 : isLeader u1 l = true := (h.acts (hopened.after_still hown1)).leads
  have hsettled : settledOf s l = if (s.ch l).packDone then u2 else completePack u2 l (s.ch l).taken (s.ch (partner l)).taken := by
    unfold settledOf stageSettle
    dsimp only
    rw [← hu, ← hu1, if_pos hlead1, ← hu2]
  have hacts := (hopened.after_still hown1).trans hown2
  have hl : SameSample ((s.ch l).samples (periodInForce s l)) (u2.ch l) := hl1.trans hl2
  have hlpack : (u2.ch l).pack = (s.ch l).pack := by
    refine hl.pack.trans ?_
    unfold Channel.samples
    split <;> rfl
  rw [hsettled] at ht
  cases hdone : (s.ch l).packDone
  · rw [hdone, if_neg Bool.false_ne_true] at ht
    obtain ⟨hcomplete, hpack, hl3, hpl3, hf3, hpf3⟩ := completePack_member u2 l (s.ch l).taken (s.ch (partner l)).taken
    rw [← ht] at hcomplete hpack hl3 hpl3 hf3 hpf3
    rw [hacts.settings] at hcomplete
    have hl3' : SameOwn (u2.ch l) (t.ch l) := ⟨hl3.last, hl3.held, hl3.missed, hl3.taken, hl3.packDone⟩
    refine ⟨(hacts.trans hcomplete).congr fun d j => ?_, hl.own.trans hl3', hf2.own.trans hf3.own, hpl3.trans (hpl2.trans hpl1), hpf3.trans hpf2, ?_⟩
    · rw [or_assoc]
      simp
    · rw [if_neg Bool.false_ne_true]
      exact hpack
  · rw [hdone, if_pos rfl] at ht
    rw [ht]
    refine ⟨hacts.congr fun d j => ?_, hl.own, hf2.own, hpl2.trans hpl1, hpf2, ?_⟩
    · simp
    · rw [if_pos rfl]
      exact hlpack

/-! ### The end of the event -/

theorem Works.pairActs (h : Works l s t) :
    PairActs l (fun d j => j = .profileUnderrun ∧ hasKind (t.ch d).latched j = true) s t := by
  obtain ⟨q, hq⟩ := h.keeps
  have hqueued : PairActs l noKind s (s.modCh l fun ch => { ch with queue := q }) := .modCh s (.inl rfl) _ rfl rfl Iff.rfl
  have hwork : PairActs l (fun d j => j = .profileUnderrun ∧ hasKind (t.ch d).latched j = true)
      (s.modCh l fun ch => { ch with queue := q }) t := by
    refine .of_keeps hq (fun d h1 h2 => ?_) fun d j hj => ?_
    · rw [State.ch_modCh_ne _ h1]
      exact h.others d h1 fun e => absurd e h2
    · rw [ch_modCh_eq s l (fun ch => { ch with queue := q }) Channel.latched rfl d]
      by_cases hu : j = .profileUnderrun
      · exact ⟨fun e => .inr ⟨hu, e⟩, fun e => e.elim (h.grows d j) And.right⟩
      · rw [h.kinds d j hu hj]
        exact (or_iff_left fun e => hu e.1).symm
  exact hqueued.after_still hwork

theorem Ends.pairActs (h : Ends s t) (l : Ch) : PairActs l noKind s t where
  pool := h.pool
  prot := h.prot
  image := h.image
  budget := by rw [h.arb]
  settings d := h.get d Channel.settings
  follower d := by rw [h.get d Channel.state]
  others d _ _ := ⟨by rw [h.chans d]; exact ⟨rfl, rfl, rfl, rfl, rfl, rfl, rfl, rfl, rfl, rfl, rfl, rfl, rfl, rfl, rfl, rfl⟩,
    h.run (RunKeeps.refl _)⟩
  kinds d j _ := by rw [h.get d Channel.latched]; exact (or_iff_left id).symm

theorem Ends.sample (h : Ends s t) (c : Ch) : SameSample (s.ch c) (t.ch c) := by
  rw [h.chans c]
  exact ⟨rfl, rfl, rfl, rfl, rfl, rfl⟩

/-- The later stages of a leader's event, and its end. -/
theorem laterOf_pair (h : Pair s l l) (hp : s.part = .ready) :
    let t := whenReady s fun s => periodExpires s l
    (∃ A : Ch → FaultKind → Prop, (∀ d j, A d j → j = .profileUnderrun) ∧ PairActs l A (settledOf s l) t) ∧
      ∀ d, SameSample ((settledOf s l).ch d) (t.ch d) ∧
        (t.ch d).port.presence = ((settledOf s l).ch d).port.presence := by
  intro t
  have hends := periodEvent_ends hp h.leader
  have hworks := stagesLater_works (closedOf s l) l (periodTaken s l) (isRunning (settledOf s l) l)
  obtain ⟨v, hv⟩ : ∃ v, v = stagesLater (closedOf s l) l (periodTaken s l) (isRunning (settledOf s l) l) := ⟨_, rfl⟩
  have ht : t = whenReady s fun s => periodExpires s l := rfl
  rw [← hv] at hends hworks
  rw [← ht] at hends
  clear_value t
  have hclosed := closedOf_eq s l
  obtain ⟨f, hf⟩ : ∃ f : Channel → Channel, f = fun ch =>
      ch.feeds ((settledOf s l).hall.state ≠ .paused && isRunning (settledOf s l) l) (accountsFed (settledOf s l) l)
        (s.ch l).periodLength (figuresOf (settledOf s l) l) := ⟨_, rfl⟩
  rw [← hf] at hclosed
  have hsame : ∀ {α : Type} (g : Channel → α), (∀ (ch : Channel) a x y z k b,
      g { ch with stepTime := a, qStep := x, eStep := y, cycle := z, life := k, lifeSaturated := b } = g ch) →
      ∀ ch, g (f ch) = g ch := fun g hg ch => by
    rw [hf]
    exact Channel.feeds_get ch _ _ _ _ g hg
  have hfed : PairActs l noKind (settledOf s l) (closedOf s l) := by
    rw [hclosed]
    exact .modCh _ (.inl rfl) f (hsame Channel.settings (fun _ _ _ _ _ _ _ => rfl) _)
      (hsame Channel.latched (fun _ _ _ _ _ _ _ => rfl) _) (by rw [hsame Channel.state (fun _ _ _ _ _ _ _ => rfl)])
  refine ⟨⟨_, fun d j e => e.1, (hfed.after_still hworks.pairActs).then_still (hends.pairActs l)⟩, fun d => ?_⟩
  obtain ⟨q, hq⟩ := hworks.keeps
  have hget : ∀ {α : Type} (g : Channel → α), (∀ (ch : Channel) a x y z k b,
      g { ch with stepTime := a, qStep := x, eStep := y, cycle := z, life := k, lifeSaturated := b } = g ch) →
      (∀ ch, g { ch with queue := q } = g ch) →
      g (((closedOf s l).modCh l fun ch => { ch with queue := q }).ch d) = g ((settledOf s l).ch d) := fun g h1 h2 => by
    rw [ch_modCh_eq _ l _ g (h2 _) d, hclosed, ch_modCh_eq _ l f g (hsame g h1 _) d]
  have hfeeds : SameSample ((settledOf s l).ch d) (((closedOf s l).modCh l fun ch => { ch with queue := q }).ch d) :=
    ⟨hget Channel.last (fun _ _ _ _ _ _ _ => rfl) fun _ => rfl, hget Channel.held (fun _ _ _ _ _ _ _ => rfl) fun _ => rfl,
      hget Channel.missed (fun _ _ _ _ _ _ _ => rfl) fun _ => rfl, hget Channel.taken (fun _ _ _ _ _ _ _ => rfl) fun _ => rfl,
      hget Channel.pack (fun _ _ _ _ _ _ _ => rfl) fun _ => rfl, hget Channel.packDone (fun _ _ _ _ _ _ _ => rfl) fun _ => rfl⟩
  refine ⟨(hfeeds.trans (hq.sample d)).trans (hends.sample d), ?_⟩
  rw [hends.get d fun ch => ch.port.presence, (hq.chans d).presence]
  exact hget (fun ch => ch.port.presence) (fun _ _ _ _ _ _ _ => rfl) fun _ => rfl

end

end Sys2Proof.Machine
end

section
/-! PROOF. The completion of a pack reading, at the end of its event (R128 to R130). -/
namespace Sys2Proof.Machine
open Sys2Proof.Safety

section
variable {s t u v : State} {c d l : Ch} {k j : FaultKind}

/-- A reading taken of a pair's member, at the end of its event. -/
theorem reading_member (h : Pair s l c) (hp : s.part = .ready) (hq : (s.ch c).port.queryAwaiting = true) (raw : RawReading) :
    let rd := takeRaw (s.ch c).cal raw s.hall.partTime
    let t := whenReady s fun s => readingArrives s c true raw
    let other := if c = l then partner l else l
    let done : Prop := (s.ch other).taken = true ∧ (s.ch l).packDone = false
    PairActs l (fun d j => d = c ∧ (j = .limitI ∧ (s.ch c).settings.iMax < rd.i.natAbs ∨
        j = .stageReported ∧ (rd.fault || rd.interlock) = true) ∨
        d = l ∧ PackFails (s.ch l).settings (t.ch l).pack (t.ch (partner l)).last.v done
          (done ∧ (t.ch l).pack.held = false ∧ (t.ch l).port.presence = .present) j) s t ∧
      (t.ch c).last = rd ∧ (t.ch c).held = false ∧ (t.ch c).missed = 0 ∧ (t.ch c).taken = true ∧
      (t.ch c).port.presence = .present ∧ (t.ch other).last = (s.ch other).last ∧
      (t.ch l).pack = (if done then packOf (t.ch l) (t.ch (partner l)) else (s.ch l).pack) ∧
      ((t.ch l).packDone = true ↔ done ∨ (s.ch l).packDone = true) := by
  intro rd t other done
  obtain ⟨f, hf⟩ : ∃ f : Port → Port, f = fun p => { p with queryAwaiting := false } := ⟨_, rfl⟩
  obtain ⟨w, hw⟩ : ∃ w, w = s.modPort c f := ⟨_, rfl⟩
  have harrives : readingArrives s c true raw = takeReading w c raw := by
    rw [hw, hf]
    exact if_pos ⟨hq, rfl⟩
  have hends : Ends (takeReading w c raw) t := by
    rw [← harrives]
    exact event_ends (f := fun s => readingArrives s c true raw) hp
  have hstart : PairActs l noKind s w := by
    rw [hw]
    exact .modCh s h.member _ rfl rfl Iff.rfl
  have hpair : Pair w l c := by
    rw [hw]
    exact h.modCh c _ fun _ => rfl
  have hmember := takeReading_member hpair raw
  have hget : ∀ {α : Type} (g : Channel → α), (∀ ch p, g { ch with port := p } = g ch) → ∀ d, g (w.ch d) = g (s.ch d) := fun g hg d => by
    rw [hw]
    exact ch_modCh_eq s c _ g (hg _ _) d
  have hhall : w.hall = s.hall := by rw [hw]; rfl
  dsimp only at hmember
  rw [hget Channel.cal (fun _ _ => rfl), hhall, hget Channel.settings (fun _ _ => rfl), hget Channel.settings (fun _ _ => rfl),
    hget Channel.taken (fun _ _ => rfl), hget Channel.packDone (fun _ _ => rfl), hget Channel.pack (fun _ _ => rfl),
    hget Channel.last (fun _ _ => rfl)] at hmember
  obtain ⟨hacts, hlast, hheld, hmissed, htaken, hpresence, hother, hpack, hdone⟩ := hmember
  have hsame := fun d => hends.sample d
  have hpres := fun d => hends.get d fun ch => ch.port.presence
  generalize takeReading w c raw = z at hacts hlast hheld hmissed htaken hpresence hother hpack hdone hsame hpres hends
  clear_value t
  have hpackOf : packOf (t.ch l) (t.ch (partner l)) = packOf (z.ch l) (z.ch (partner l)) := by
    unfold packOf
    rw [(hsame l).last, (hsame l).held, (hsame (partner l)).last, (hsame (partner l)).held]
  refine ⟨?_, (hsame c).last.trans hlast, (hsame c).held.trans hheld, (hsame c).missed.trans hmissed, (hsame c).taken.trans htaken,
    (hpres c).trans hpresence, (hsame other).last.trans hother, ?_, ?_⟩
  · rw [(hsame l).pack, (hsame (partner l)).last, hpres l]
    exact (hstart.after_still hacts).then_still (hends.pairActs l)
  · rw [hpackOf, (hsame l).pack]
    exact hpack
  · rw [(hsame l).packDone]
    exact hdone

/-- A leader's period event, at its end. -/
theorem periodEvent_pair (h : Pair s l l) (hp : s.part = .ready) :
    let t := whenReady s fun s => periodExpires s l
    (∃ B : Ch → FaultKind → Prop, (∀ d j, B d j → j = .profileUnderrun) ∧
      PairActs l (fun d j => (d = l ∧ (s.ch l).Silent j ∨ d = partner l ∧ (s.ch (partner l)).Silent j ∨
        d = l ∧ (s.ch l).packDone = false ∧ PackFails (s.ch l).settings (t.ch l).pack (t.ch (partner l)).last.v
          ((s.ch l).taken = true ∨ (s.ch (partner l)).taken = true)
          ((s.ch l).taken = true ∧ (s.ch (partner l)).taken = true ∧ (t.ch l).pack.held = false ∧
            (s.ch l).port.presence = .present) j) ∨ B d j) s t) ∧
      SameOwn ((s.ch l).samples (periodInForce s l)) (t.ch l) ∧
      SameOwn ((s.ch (partner l)).samples (periodInForce s l)) (t.ch (partner l)) ∧
      (t.ch l).pack = if (s.ch l).packDone then (s.ch l).pack else packOf (t.ch l) (t.ch (partner l)) := by
  intro t
  obtain ⟨hacts, hl, hf, hpl, -, hpack⟩ := settledOf_pair h
  obtain ⟨⟨B, hB, hlater⟩, hsame⟩ := laterOf_pair h hp
  have ht : t = whenReady s fun s => periodExpires s l := rfl
  rw [← ht] at hlater hsame
  clear_value t
  generalize settledOf s l = z at hacts hl hf hpl hpack hlater hsame
  have hpackOf : packOf (t.ch l) (t.ch (partner l)) = packOf (z.ch l) (z.ch (partner l)) := by
    unfold packOf
    rw [(hsame l).1.last, (hsame l).1.held, (hsame (partner l)).1.last, (hsame (partner l)).1.held]
  refine ⟨⟨B, hB, ?_⟩, hl.trans (hsame l).1.own, hf.trans (hsame (partner l)).1.own, ?_⟩
  · rw [(hsame l).1.pack, (hsame (partner l)).1.last, ← hpl]
    exact hacts.trans hlater
  · rw [hpackOf, (hsame l).1.pack]
    exact hpack

theorem packFails_iff (set : ChanSettings) (p : PackReading) (v : Nat) (P Q : Prop) :
    (PackFails set p v P Q .limitVHigh ↔ P ∧ set.vMax < p.v) ∧ (PackFails set p v P Q .limitVLow ↔ P ∧ p.v < set.vMin) ∧
      (PackFails set p v P Q .limitTHigh ↔ P ∧ set.tMax < p.t) ∧
      (PackFails set p v P Q .limitTLow ↔ P ∧ p.t < set.tMin ∧ set.warnTLow = .latch) ∧
      (PackFails set p v P Q .pairMismatch ↔
        Q ∧ set.pairTolerance < ((p.v : Int) - v).natAbs ∧ set.warnMismatch = .latch) ∧
      ¬PackFails set p v P Q .limitI ∧ ¬PackFails set p v P Q .stageSilent := by
  simp [PackFails, Fails]

/-- What a member's settled period shows (R55). -/
theorem Channel.samples_own (ch : Channel) (n : Nat) : (ch.samples n).last = ch.last ∧ (ch.samples n).taken = false ∧
    (ch.samples n).packDone = false ∧
    (ch.taken = false → (ch.samples n).held = true ∧ (ch.samples n).missed = ch.misses.missed) := by
  unfold Channel.samples
  cases ht : ch.taken
  · rw [if_neg Bool.false_ne_true]
    exact ⟨rfl, rfl, rfl, fun _ => ⟨rfl, misses_missed rfl (opens_presence ch n)⟩⟩
  · rw [if_pos rfl]
    exact ⟨rfl, rfl, rfl, nofun⟩

end
end Sys2Proof.Machine

namespace Sys2Proof.Safety
open Sys2Proof.Machine

/-- Settles O34. -/
theorem packCompletes : Obligations.PackCompletes := by
  unfold Obligations.PackCompletes
  intro packs limits mismatch frame
  refine ⟨fun r => by cases r <;> rfl, ?_, ?_⟩
  · intro s c l f raw hp hl hf hs hc hq rd other done
    subst hf
    have hpair : Pair s l c := ⟨hl, hs, hc⟩
    obtain ⟨t, ht⟩ : ∃ t, t = whenReady s fun s => readingArrives s c true raw := ⟨_, rfl⟩
    have hmember := reading_member hpair hp hq raw
    rw [← ht] at hmember
    obtain ⟨hacts, hlast, hheld, hmissed, htaken, hpresence, hother, hpack, hdone⟩ := hmember
    obtain ⟨hvh, hvl, hth, htl, hpm, hni, -⟩ := packFails_iff (s.ch l).settings (t.ch l).pack (t.ch (partner l)).last.v done
      (done ∧ (t.ch l).pack.held = false ∧ (t.ch l).port.presence = .present)
    have hleader : ∀ j, j ≠ .pairPartner → j ≠ .limitI → j ≠ .stageReported → (hasKind (t.ch l).latched j = true ↔
        hasKind (s.ch l).latched j = true ∨ PackFails (s.ch l).settings (t.ch l).pack (t.ch (partner l)).last.v done
          (done ∧ (t.ch l).pack.held = false ∧ (t.ch l).port.presence = .present) j) := fun j h1 h2 h3 =>
      (hacts.kinds l j h1).trans (or_congr_right ⟨fun e => (e.resolve_left fun e => e.2.elim (fun e => h2 e.1) fun e => h3 e.1).2,
        fun e => .inr ⟨rfl, e⟩⟩)
    refine ⟨t, ht ▸ rfl, hlast, hheld, hmissed, htaken, hpresence, hother, hpack, hdone, ?_,
      ⟨(hleader _ (by decide) (by decide) (by decide)).trans (or_congr_right hvh),
        (hleader _ (by decide) (by decide) (by decide)).trans (or_congr_right hvl),
        (hleader _ (by decide) (by decide) (by decide)).trans (or_congr_right hth),
        (hleader _ (by decide) (by decide) (by decide)).trans (or_congr_right htl)⟩,
      (hleader _ (by decide) (by decide) (by decide)).trans (or_congr_right (hpm.trans (and_congr_right fun hc => ?_))), fun k hk => ?_,
      hacts.pool, hacts.prot, hacts.image, hacts.budget, fun d => ⟨hacts.settings d, hacts.others d⟩⟩
    · exact (hacts.kinds c .limitI (by decide)).trans (or_congr_right
        ⟨fun e => e.elim (fun e => e.2.elim And.right fun e => absurd e.1 (by decide)) fun e => absurd e.2 hni,
          fun e => .inl ⟨rfl, .inl ⟨rfl, e⟩⟩⟩)
    · rw [if_pos hc.1] at hpack
      rw [and_comm, show (t.ch l).pack.v = (t.ch l).last.v from congrArg PackReading.v hpack]
    · have hplain : k ≠ .pairPartner ∧ k ≠ .limitI ∧ k ≠ .stageReported := by
        simp only [List.mem_cons, List.not_mem_nil, or_false] at hk
        rcases hk with rfl | rfl | rfl | rfl | rfl <;> decide
      obtain ⟨h1, h2, h3⟩ := hplain
      refine Bool.eq_iff_iff.2 ((hacts.kinds (partner l) k h1).trans (or_iff_left fun e => ?_))
      exact e.elim (fun e => e.2.elim (fun e => h2 e.1) fun e => h3 e.1) fun e => partner_ne l e.1
  · intro s l f hp hl hf hs tL tF present missed
    subst hf
    have hpair : Pair s l l := ⟨hl, hs, .inl rfl⟩
    obtain ⟨t, ht⟩ : ∃ t, t = whenReady s fun s => periodExpires s l := ⟨_, rfl⟩
    have hevent := periodEvent_pair hpair hp
    rw [← ht] at hevent
    obtain ⟨⟨B, hB, hacts⟩, hown, hfollower, hpack⟩ := hevent
    obtain ⟨hlastL, htakenL, hdoneL, hmissL⟩ := Channel.samples_own (s.ch l) (Machine.periodInForce s l)
    obtain ⟨hlastF, htakenF, -, hmissF⟩ := Channel.samples_own (s.ch (partner l)) (Machine.periodInForce s l)
    obtain ⟨hvh, hvl, hth, htl, hpm, -, hns⟩ := packFails_iff (s.ch l).settings (t.ch l).pack (t.ch (partner l)).last.v
      ((s.ch l).taken = true ∨ (s.ch (partner l)).taken = true)
      ((s.ch l).taken = true ∧ (s.ch (partner l)).taken = true ∧ (t.ch l).pack.held = false ∧
        (s.ch l).port.presence = .present)
    have hleader : ∀ j, j ≠ .pairPartner → j ≠ .stageSilent → j ≠ .profileUnderrun → (hasKind (t.ch l).latched j = true ↔
        hasKind (s.ch l).latched j = true ∨ (s.ch l).packDone = false ∧
          PackFails (s.ch l).settings (t.ch l).pack (t.ch (partner l)).last.v
            ((s.ch l).taken = true ∨ (s.ch (partner l)).taken = true)
            ((s.ch l).taken = true ∧ (s.ch (partner l)).taken = true ∧ (t.ch l).pack.held = false ∧
              (s.ch l).port.presence = .present) j) := fun j h1 h2 h3 =>
      (hacts.kinds l j h1).trans (or_congr_right ⟨fun e => e.elim (fun e => e.elim (fun e => absurd e.2.2.1 h2) fun e =>
        e.elim (fun e => absurd e.1.symm (partner_ne l)) And.right) fun e => absurd (hB _ _ e) h3,
        fun e => .inl (.inr (.inr ⟨rfl, e⟩))⟩)
    refine ⟨t, ht ▸ rfl, hown.last.trans hlastL, hfollower.last.trans hlastF, ?_, ?_, hown.taken.trans htakenL,
      hfollower.taken.trans htakenF, hown.packDone.trans hdoneL, hpack,
      ⟨(hleader _ (by decide) (by decide) (by decide)).trans (or_congr_right ((and_congr_right fun _ => hvh).trans and_assoc.symm)),
        (hleader _ (by decide) (by decide) (by decide)).trans (or_congr_right ((and_congr_right fun _ => hvl).trans and_assoc.symm)),
        (hleader _ (by decide) (by decide) (by decide)).trans (or_congr_right ((and_congr_right fun _ => hth).trans and_assoc.symm)),
        (hleader _ (by decide) (by decide) (by decide)).trans (or_congr_right ((and_congr_right fun _ => htl).trans and_assoc.symm))⟩,
      ?_, hacts.pool, hacts.prot, hacts.image, hacts.budget, fun d => ⟨hacts.settings d, hacts.others d⟩⟩
    · intro htaken
      obtain ⟨hheld, hmissed⟩ := hmissL htaken
      refine ⟨hown.held.trans hheld, hown.missed.trans hmissed, fun hpresent hcount => ?_⟩
      exact (hacts.kinds l .stageSilent (by decide)).2
        (.inr (.inl (.inl ⟨rfl, htaken, rfl, hpresent, by rw [← hmissed, ← hown.missed]; exact hcount⟩)))
    · intro htaken
      obtain ⟨hheld, hmissed⟩ := hmissF htaken
      refine ⟨hfollower.held.trans hheld, hfollower.missed.trans hmissed, fun hpresent hcount => ?_⟩
      exact (hacts.kinds (partner l) .stageSilent (by decide)).2
        (.inr (.inl (.inr (.inl ⟨rfl, htaken, rfl, hpresent, by rw [← hmissed, ← hfollower.missed]; exact hcount⟩))))
    · refine (hleader _ (by decide) (by decide) (by decide)).trans (or_congr_right ?_)
      rw [hpm]
      refine (and_assoc.symm.trans (and_congr_right fun hc => ?_))
      rw [if_neg (by rw [hc.1]; exact Bool.false_ne_true)] at hpack
      rw [and_comm, show (t.ch l).pack.v = (t.ch l).last.v from congrArg PackReading.v hpack]

end Sys2Proof.Safety
end

section
/-! PROOF. A leader's PROFILE step whose point goes on playing after its segment has ended (R79, R114). -/
namespace Sys2Proof.Machine
open Sys2Proof.Safety

/-- CH0 leading CH1, both stages PRESENT and both readings taken, RUNNING the only step of its window, a PROFILE step of no
condition; the point in play has periods left, and the playback record shows the end of a segment. -/
def playedOut : State :=
  ({ State.reset with part := .ready, pool := [(0, .profile 4000 3000 none none [])] }.modCh 0 fun ch =>
    { ch with
      state := .running
      active := some ⟨0, 1⟩
      taken := true
      queue := [⟨1000, 10, false⟩]
      play := { ch.play with inPlay := true, profileEnd := true }
      port := { ch.port with presence := .present } }).modCh 1 fun ch =>
    { ch with state := .follower, taken := true, port := { ch.port with presence := .present } }

theorem playedOut_sound : ArbiterSound playedOut :=
  ⟨by decide +kernel, by decide +kernel, by decide +kernel, by decide +kernel, by decide +kernel,
    fun h => absurd (show playedOut.hall.state = .active by decide +kernel) h⟩

/-- The state of CH0 and the kinds latched in it that a command leaves. -/
def leftIn (x : Next) : Option (ChState × BitVec 16) :=
  match x with
  | .next t => some ((t.ch 0).state, (t.ch 0).latched)
  | _ => none

/-- The step of CH0, and with it the schedule, ends in its period event. -/
theorem playedOut_after : leftIn (exec (.periodEvent 0) playedOut) = some (.stopping, 0) := by decide +kernel

/-- Refutes O35: in `playedOut` no condition fires and the point in play goes on, but the playback record shows PROFILE_END,
which ends the step (R79), so that the leader is not RUNNING after the event. -/
theorem not_leaderRuns : ¬ Obligations.LeaderRuns := by
  unfold Obligations.LeaderRuns
  intro h
  obtain ⟨t, ht, -, hruns, -⟩ := h playedOut 0 1 (.profile 4000 3000 none none []) (by decide +kernel) (by decide +kernel)
    (by decide +kernel) (by decide +kernel) (by decide +kernel) (by decide +kernel) (by decide +kernel)
  have hafter : some ((t.ch 0).state, (t.ch 0).latched) = some (ChState.stopping, 0) :=
    (congrArg leftIn ht).symm.trans playedOut_after
  obtain ⟨hstate, hlatched⟩ := Prod.mk.inj (Option.some.inj hafter)
  have hrunning := (hruns (by decide +kernel) (hlatched.trans (by decide +kernel)) playedOut_sound rfl
    fun _ => ⟨⟨1000, 10, false⟩, by decide +kernel, by decide +kernel, by decide +kernel⟩).1
  exact absurd (hstate.symm.trans hrunning) (by decide)

end Sys2Proof.Machine
end

section
/-! PROOF. The requests that wait do not enter what a request does (R182): the acts of the channel unit and of the arbiter. -/
namespace Sys2Proof.Machine

/-- A board with other requests waiting. -/
def State.queued (s : State) (rs : List Frame) : State := s.modLink fun l => { l with requests := rs }

section
variable {p q : Prop} {s t u v : State} {rs : List Frame}

theorem queued_ite [Decidable p] [Decidable q] (h : p ↔ q) (h1 : s = u.queued rs) (h2 : t = v.queued rs) :
    (if p then s else t) = (if q then u else v).queued rs := by
  rw [h1, h2, ← apply_ite (fun x : State => x.queued rs)]
  exact congrArg (fun x : State => x.queued rs) (if_congr h rfl rfl)

end

section
variable (s : State) (rs : List Frame) (c : Ch)

theorem modCh_queued (f : Channel → Channel) : (s.queued rs).modCh c f = (s.modCh c f).queued rs := rfl

theorem modArb_queued (f : Arbiter → Arbiter) : (s.queued rs).modArb f = (s.modArb f).queued rs := rfl

/-! ### Reports -/

theorem Link.accept_requests (l : Link) (x : Report) : { l with requests := rs }.accept x = { l.accept x with requests := rs } := by
  unfold Link.accept
  split
  · rfl
  · split
    · cases evictOldest l.reports <;> rfl
    · rfl

theorem Link.make_requests (l : Link) (now : Nat) (channel : Byte) (body : ReportBody) :
    { l with requests := rs }.make now channel body = { l.make now channel body with requests := rs } :=
  Link.accept_requests rs { l with nextSeq := l.nextSeq + 1 } _

theorem reportCh_queued (body : ReportBody) : reportCh (s.queued rs) c body = (reportCh s c body).queued rs :=
  congrArg (fun l : Link => { s with link := l }) (Link.make_requests rs s.link _ _ body)

theorem reportPart_queued (body : ReportBody) : reportPart (s.queued rs) body = (reportPart s body).queued rs :=
  congrArg (fun l : Link => { s with link := l }) (Link.make_requests rs s.link _ _ body)

/-! ### Demands, grants and entries -/

theorem issue_queued : issue (s.queued rs) c = (issue s c).queued rs := by
  have hclamp : (if (calledFor (s.queued rs) c).2 then (s.queued rs).modCh c fun ch => { ch with clamped := true } else s.queued rs) =
      (if (calledFor s c).2 then s.modCh c fun ch => { ch with clamped := true } else s).queued rs := queued_ite Iff.rfl rfl rfl
  unfold issue
  dsimp only
  rw [hclamp]
  exact queued_ite Iff.rfl rfl rfl

theorem releaseGrant_queued : releaseGrant (s.queued rs) c = (releaseGrant s c).queued rs := queued_ite Iff.rfl rfl rfl

theorem grantNotLive_queued : grantNotLive (s.queued rs) c = (grantNotLive s c).queued rs := rfl

theorem withdrawWaiting_queued : withdrawWaiting (s.queued rs) c = (withdrawWaiting s c).queued rs := queued_ite Iff.rfl rfl rfl

theorem withdrawEntries_queued : withdrawEntries (s.queued rs) c = (withdrawEntries s c).queued rs := by
  unfold withdrawEntries
  rw [withdrawWaiting_queued]
  exact queued_ite Iff.rfl rfl rfl

theorem idleGrant_queued : idleGrant (s.queued rs) c = (idleGrant s c).queued rs := by
  unfold idleGrant
  rw [show grantOf (s.queued rs) c = grantOf s c from rfl]
  cases grantOf s c with
  | none => rfl
  | some g => exact queued_ite Iff.rfl rfl (queued_ite Iff.rfl (releaseGrant_queued s rs c) rfl)

theorem settleOffer_queued (r : StepRecord) (toHeld : Bool) :
    settleOffer (s.queued rs) c r toHeld = (settleOffer s c r toHeld).queued rs := by
  unfold settleOffer
  rw [show grantOf (s.queued rs) c = grantOf s c from rfl]
  cases grantOf s c with
  | none => rfl
  | some g =>
    dsimp only
    rw [modArb_queued]
    obtain ⟨u, hu⟩ : ∃ u, u = s.modArb fun a => { a with evalDue := true } := ⟨_, rfl⟩
    rw [← hu]
    exact queued_ite Iff.rfl (queued_ite Iff.rfl (idleGrant_queued (modGrant u c fun g => { g with amount := claimOf u c r }) rs c) rfl)
      (queued_ite Iff.rfl (idleGrant_queued u rs c) (releaseGrant_queued u rs c))

theorem exchangeGrant_queued (r : StepRecord) : exchangeGrant (s.queued rs) c r = (exchangeGrant s c r).queued rs := by
  unfold exchangeGrant
  rw [releaseGrant_queued]
  rfl

theorem settleAtGap_queued (r : StepRecord) : settleAtGap (s.queued rs) c r = (settleAtGap s c r).queued rs := by
  have hcover : (if holdsCover (s.queued rs) c r then unidleGrant (s.queued rs) c else releaseGrant (s.queued rs) c) =
      (if holdsCover s c r then unidleGrant s c else releaseGrant s c).queued rs :=
    queued_ite Iff.rfl rfl (releaseGrant_queued s rs c)
  unfold settleAtGap
  dsimp only
  rw [hcover]
  exact queued_ite Iff.rfl rfl rfl

/-! ### The channel unit's acts -/

theorem enterHall_queued (now : HallState) (cause : HallCause) (order : Option (List PauseEntry)) (entries : Option Nat) :
    enterHall (s.queued rs) now cause order entries = (enterHall s now cause order entries).queued rs :=
  reportPart_queued (s.modHall fun h => { h with state := now }) rs _

theorem settlingTest_queued : settlingTest (s.queued rs) = (settlingTest s).queued rs :=
  queued_ite Iff.rfl (enterHall_queued s rs _ _ _ _) rfl

theorem enterStopping_queued (dest : StopDest) (absentCounts : Bool) :
    enterStopping (s.queued rs) c dest absentCounts = (enterStopping s c dest absentCounts).queued rs := by
  have hissue := issue_queued (s.modCh c fun ch => { ch with state := .stopping, stopDest := dest }) rs c
  refine (congrArg (fun t => if restsAtOnce t c absentCounts then finishStop t c else t) hissue).trans ?_
  exact queued_ite Iff.rfl rfl rfl

theorem prepareStep_queued (k : Nat) (toHeld : Bool) : prepareStep (s.queued rs) c k toHeld = (prepareStep s c k toHeld).queued rs := by
  obtain ⟨f, hf⟩ : ∃ f : Channel → Channel, f = fun ch => { ch with
    stepIndex := k, stepTime := 0, qStep := 0, eStep := 0, vPeak := 0, confirms := [0, 0, 0, 0], clamped := false } := ⟨_, rfl⟩
  unfold prepareStep
  dsimp only
  rw [← hf, show currentStep ((s.queued rs).modCh c f) c = currentStep (s.modCh c f) c from rfl]
  cases currentStep (s.modCh c f) c with
  | none => rfl
  | some r => exact settleOffer_queued ((s.modCh c f).modCh c fun ch => setUpPlayback ch r) rs c r toHeld

theorem enterStarting_queued (r : StepRecord) : enterStarting (s.queued rs) c r = (enterStarting s c r).queued rs :=
  issue_queued (unidleGrant (s.modCh c fun ch =>
    { ch with state := .starting, lastDir := r.dir, startTimer := some ch.settings.startTimeout, gapTimer := none }) c) rs c

theorem enterDeferred_queued : enterDeferred (s.queued rs) c = (enterDeferred s c).queued rs :=
  issue_queued (s.modCh c fun ch => { ch with state := .deferred, gapTimer := none }) rs c

theorem enterRest_queued : enterRest (s.queued rs) c = (enterRest s c).queued rs :=
  (congrArg (idleGrant · c) (issue_queued (s.modCh c fun ch => { ch with state := .running, gapTimer := none }) rs c)).trans
    (idleGrant_queued _ rs c)

theorem gapExpires_queued : gapExpires (s.queued rs) c = (gapExpires s c).queued rs := by
  unfold gapExpires
  rw [show currentStep (s.queued rs) c = currentStep s c from rfl]
  cases currentStep s c with
  | none => exact (congrArg (enterDeferred · c) (releaseGrant_queued s rs c)).trans (enterDeferred_queued _ rs c)
  | some r =>
    refine queued_ite Iff.rfl (enterStarting_queued s rs c r) ?_
    exact (congrArg (enterDeferred · c) (queued_ite Iff.rfl (exchangeGrant_queued s rs c r) rfl)).trans (enterDeferred_queued _ rs c)

theorem enterGap_queued (r : StepRecord) (gap : Nat) : enterGap (s.queued rs) c r gap = (enterGap s c r gap).queued rs := by
  unfold enterGap
  dsimp only
  rw [modCh_queued, settleAtGap_queued, issue_queued]
  exact queued_ite Iff.rfl (gapExpires_queued _ rs c) rfl

theorem beginStep_queued : beginStep (s.queued rs) c = (beginStep s c).queued rs := by
  unfold beginStep
  rw [show currentStep (s.queued rs) c = currentStep s c from rfl]
  cases currentStep s c with
  | none => rfl
  | some r => exact queued_ite Iff.rfl (enterRest_queued s rs c) (enterGap_queued s rs c r _)

theorem beginResumed_queued : beginResumed (s.queued rs) c = (beginResumed s c).queued rs := by
  unfold beginResumed
  rw [show currentStep (s.queued rs) c = currentStep s c from rfl]
  cases currentStep s c with
  | none => rfl
  | some r => exact queued_ite Iff.rfl (enterRest_queued s rs c) (enterGap_queued s rs c r _)

theorem takeUp_queued (k : Nat) : takeUp (s.queued rs) c k = (takeUp s c k).queued rs :=
  (congrArg (beginStep · c) (prepareStep_queued s rs c k false)).trans (beginStep_queued _ rs c)

/-! ### Holds -/

theorem keepIdle_queued (t : State) :
    (if ((t.queued rs).ch c).holds.keepsIdle then idleGrant (t.queued rs) c else t.queued rs) =
      (if (t.ch c).holds.keepsIdle then idleGrant t c else t).queued rs := queued_ite Iff.rfl (idleGrant_queued t rs c) rfl

theorem addCause_queued (cause : HoldCause) : addCause (s.queued rs) c cause = (addCause s c cause).queued rs := by
  unfold addCause
  rw [show ((s.queued rs).ch c).state = (s.ch c).state from rfl]
  cases (s.ch c).state with
  | gap | deferred | starting | running =>
    dsimp only
    rw [modCh_queued, withdrawWaiting_queued, grantNotLive_queued, modCh_queued, issue_queued]
    exact keepIdle_queued rs c _
  | held => exact keepIdle_queued rs c (s.modCh c fun ch => { ch with holds := ch.holds.add cause })
  | idle | stopping | complete | faulted | follower => rfl

theorem leaveHeld_queued : leaveHeld (s.queued rs) c = (leaveHeld s c).queued rs := by
  unfold leaveHeld
  rw [modCh_queued]
  refine queued_ite Iff.rfl (beginStep_queued _ rs c) ?_
  rw [show currentStep (s.queued rs) c = currentStep s c from rfl]
  cases currentStep s c with
  | none => rfl
  | some r =>
    refine queued_ite Iff.rfl (enterRest_queued s rs c) (queued_ite Iff.rfl (enterStarting_queued s rs c r) ?_)
    have hdeferred := (congrArg (enterDeferred · c) (releaseGrant_queued s rs c)).trans (enterDeferred_queued _ rs c)
    exact (congrArg (fun u => if hasResume u c then u else lodge u c r.dir (claimOf u c r)) hdeferred).trans (queued_ite Iff.rfl rfl rfl)

theorem removeCauses_queued (f : HoldCauses → HoldCauses) : removeCauses (s.queued rs) c f = (removeCauses s c f).queued rs :=
  queued_ite Iff.rfl (leaveHeld_queued (s.modCh c fun ch => { ch with holds := f ch.holds }) rs c) rfl

theorem handOver_queued : handOver (s.queued rs) c = (handOver s c).queued rs := by
  unfold handOver
  rw [show currentStep (s.queued rs) c = currentStep s c from rfl, show ((s.queued rs).ch c).state = (s.ch c).state from rfl]
  cases currentStep s c with
  | none => rfl
  | some r =>
    cases (s.ch c).state with
    | gap => exact queued_ite Iff.rfl rfl (exchangeGrant_queued s rs c r)
    | deferred => exact queued_ite Iff.rfl (enterStarting_queued s rs c r) (exchangeGrant_queued s rs c r)
    | held =>
      dsimp only
      rw [modCh_queued]
      exact queued_ite Iff.rfl (leaveHeld_queued _ rs c) (keepIdle_queued rs c _)
    | running => exact queued_ite Iff.rfl (idleGrant_queued s rs c) rfl
    | starting | idle | stopping | complete | faulted | follower => rfl

/-! ### The arbiter -/

theorem shedOne_queued (g : Grant) (test : BudgetTest) : shedOne (s.queued rs) g test = (shedOne s g test).queued rs :=
  (congrArg (reportCh · g.ch _) (addCause_queued (appendResume s g.ch g.dir g.amount) rs g.ch .curtailed)).trans
    (reportCh_queued _ rs g.ch _)

theorem shedAll_queued (l : List (Grant × BudgetTest)) : shedAll (s.queued rs) l = (shedAll s l).queued rs := by
  induction l generalizing s with
  | nil => rfl
  | cons g l ih => exact (congrArg (shedAll · l) (shedOne_queued s rs g.1 g.2)).trans (ih _)

theorem shed_queued : shed (s.queued rs) = (shed s).queued rs := by
  unfold shed
  dsimp only
  rw [modArb_queued]
  exact queued_ite Iff.rfl rfl (shedAll_queued _ rs _)

theorem handOverAll_queued (l : List Ch) : handOverAll (s.queued rs) l = (handOverAll s l).queued rs := by
  induction l generalizing s with
  | nil => rfl
  | cons c l ih => exact (congrArg (handOverAll · l) (handOver_queued s rs c)).trans (ih _)

theorem evaluate_queued : evaluate (s.queued rs) = ((evaluate s).1.queued rs, (evaluate s).2) := by
  unfold evaluate
  dsimp only
  rw [apply_ite (fun x : State × List Ch => (x.1.queued rs, x.2))]
  rfl

theorem evaluateDue_queued (n : Nat) : evaluateDue n (s.queued rs) = (evaluateDue n s).queued rs := by
  induction n generalizing s with
  | zero => rfl
  | succ n ih =>
    refine queued_ite Iff.rfl ?_ rfl
    have hevaluate := evaluate_queued (s.modArb fun a => { a with evalDue := false }) rs
    exact (congrArg (fun e : State × List Ch => evaluateDue n (handOverAll e.1 e.2)) hevaluate).trans
      ((congrArg (evaluateDue n) (handOverAll_queued _ rs _)).trans (ih _))

theorem settle_queued : settle (s.queued rs) = (settle s).queued rs :=
  (congrArg (fun u => evaluateDue (settleFuel u) u) (shed_queued s rs)).trans (evaluateDue_queued _ rs _)

theorem settleEvaluating_queued : settleEvaluating (s.queued rs) = (settleEvaluating s).queued rs :=
  settle_queued (s.modArb fun a => { a with evalDue := true }) rs

theorem holdChannel_queued (cause : HoldCause) : holdChannel (s.queued rs) c cause = (holdChannel s c cause).queued rs :=
  (congrArg settle (addCause_queued s rs c cause)).trans (settle_queued _ rs)

theorem unholdChannel_queued (f : HoldCauses → HoldCauses) : unholdChannel (s.queued rs) c f = (unholdChannel s c f).queued rs :=
  (congrArg settle (removeCauses_queued s rs c f)).trans (settle_queued _ rs)

/-! ### Faults -/

theorem faultChannel_queued : faultChannel (s.queued rs) c = (faultChannel s c).queued rs := by
  unfold faultChannel
  dsimp only
  rw [modCh_queued, grantNotLive_queued, releaseGrant_queued, withdrawEntries_queued, modCh_queued, issue_queued]

theorem respond_queued : respond (s.queued rs) c = (respond s c).queued rs := by
  unfold respond
  rw [show ((s.queued rs).ch c).state = (s.ch c).state from rfl]
  cases (s.ch c).state with
  | faulted | follower => rfl
  | gap | deferred | starting | running | held | idle | stopping | complete => exact faultChannel_queued s rs c

theorem reportFault_queued (k : FaultKind) (value : Int) (warnOnly : Bool) (i n : Nat) :
    reportFault (s.queued rs) c k value warnOnly i n = (reportFault s c k value warnOnly i n).queued rs := reportCh_queued s rs c _

theorem latchKind_queued (k : FaultKind) (value : Int) : latchKind (s.queued rs) c k value = (latchKind s c k value).queued rs := by
  unfold latchKind
  dsimp only
  rw [modCh_queued, respond_queued, reportFault_queued]
  exact queued_ite Iff.rfl (settlingTest_queued _ rs) rfl

theorem warnKind_queued (k : FaultKind) (value : Int) : warnKind (s.queued rs) c k value = (warnKind s c k value).queued rs :=
  queued_ite Iff.rfl rfl (reportCh_queued (s.modCh c fun ch => setWarned ch k true) rs c _)

theorem offerOne_queued (k : FaultKind) (value : Int) : offerOne (s.queued rs) c k value = (offerOne s c k value).queued rs :=
  queued_ite Iff.rfl (warnKind_queued s rs c k value) (queued_ite Iff.rfl rfl (latchKind_queued s rs c k value))

theorem offer_queued (k : FaultKind) (value : Int) : offer (s.queued rs) c k value = (offer s c k value).queued rs := by
  refine (congrArg settle ?_).trans (settle_queued _ rs)
  have hone := offerOne_queued s rs c k value
  exact queued_ite Iff.rfl ((congrArg (offerOne · (partner c) .pairPartner k.code) hone).trans (offerOne_queued _ rs _ _ _)) hone

theorem clearKinds_queued (cleared : BitVec 16) : clearKinds (s.queued rs) c cleared = (clearKinds s c cleared).queued rs :=
  queued_ite Iff.rfl rfl rfl

/-! ### The lines and the hall -/

theorem followCover_queued (before : Ch → Bool) (l : List Ch) :
    followCover before (s.queued rs) l = (followCover before s l).queued rs := by
  induction l generalizing s with
  | nil => rfl
  | cons c l ih =>
    refine (congrArg (followCover before · l) ?_).trans (ih _)
    exact queued_ite Iff.rfl (holdChannel_queued s rs c _) (queued_ite Iff.rfl (unholdChannel_queued s rs c _) rfl)

theorem offerAlarm_queued (line : LineNo) (p : Ch → Bool) (l : List Ch) :
    offerAlarm line p (s.queued rs) l = (offerAlarm line p s l).queued rs := by
  induction l generalizing s with
  | nil => rfl
  | cons c l ih => exact (congrArg (offerAlarm line p · l) (queued_ite Iff.rfl (offer_queued s rs c _ _) rfl)).trans (ih _)

theorem pauseAll_queued (l : List Ch) : pauseAll (s.queued rs) l = (pauseAll s l).queued rs := by
  induction l generalizing s with
  | nil => rfl
  | cons c l ih => exact (congrArg (pauseAll · l) (addCause_queued s rs c .pause)).trans (ih _)

theorem pauseHall_queued : pauseHall (s.queued rs) = (pauseHall s).queued rs := by
  have hhall := enterHall_queued (emptyCollections (s.modHall fun h => { h with pauseOrder := pauseOrderOf s })) rs .pausing .pauseHall
    (some (pauseOrderOf s)) none
  have hpaused := (congrArg (pauseAll · allCh) hhall).trans (pauseAll_queued _ rs allCh)
  exact (congrArg (fun u => settlingTest (settle u)) hpaused).trans
    ((congrArg settlingTest (settle_queued _ rs)).trans (settlingTest_queued _ rs))

theorem appendAll_queued (l : List PauseEntry) : appendAll (s.queued rs) l = (appendAll s l).queued rs := by
  induction l generalizing s with
  | nil => rfl
  | cons e l ih => exact ih (appendResume s e.ch e.dir e.amount)

theorem unpauseAll_queued (l : List Ch) : unpauseAll (s.queued rs) l = (unpauseAll s l).queued rs := by
  induction l generalizing s with
  | nil => rfl
  | cons c l ih => exact (congrArg (unpauseAll · l) (removeCauses_queued s rs c _)).trans (ih _)

theorem wakeHall_queued (cause : HallCause) : wakeHall (s.queued rs) cause = (wakeHall s cause).queued rs := by
  have hpause := (congrArg (unpauseAll · allCh) (appendAll_queued (s.modHall fun h =>
    { h with state := .active, wakeTimer := none, pauseOrder := [] }) rs (stillNeeded s s.hall.pauseOrder))).trans
    (unpauseAll_queued _ rs allCh)
  have hgrants := (congrArg settleEvaluating hpause).trans (settleEvaluating_queued _ rs)
  exact (congrArg (fun u : State => reportPart u (.hallState .active s.hall.state cause none
    (some (stillNeeded s s.hall.pauseOrder).length) u.hall.wakeByTimer u.hall.wakeByCurtail u.hall.wakeTimer)) hgrants).trans
    (reportPart_queued _ rs _)

end

end Sys2Proof.Machine
end

section
/-! PROOF. The requests that wait do not enter what a request does (R182): each request. -/
namespace Sys2Proof.Machine

/-- What a request leaves and its reply, with other requests waiting. -/
def queuedReply (a : State × ReplyBody) (rs : List Frame) : State × ReplyBody := (a.1.queued rs, a.2)

section
variable {p q : Prop} {a b x y : State × ReplyBody} {rs : List Frame}

theorem queuedReply_ite [Decidable p] [Decidable q] (h : p ↔ q) (h1 : a = queuedReply x rs) (h2 : b = queuedReply y rs) :
    (if p then a else b) = queuedReply (if q then x else y) rs := by
  rw [h1, h2, ← apply_ite (queuedReply · rs)]
  exact congrArg (queuedReply · rs) (if_congr h rfl rfl)

end

section
variable (s : State) (rs : List Frame) (c : Ch) (r : Request) (k : ReqKind)

theorem takePart_queued {f : State → State × ReplyBody} (hf : ∀ s, f (s.queued rs) = queuedReply (f s) rs) :
    takePart k r (s.queued rs) f = queuedReply (takePart k r s f) rs :=
  queuedReply_ite Iff.rfl rfl (queuedReply_ite Iff.rfl rfl (hf s))

theorem takeCh_queued {f : Ch → State → State × ReplyBody} (hf : ∀ c s, f c (s.queued rs) = queuedReply (f c s) rs) :
    takeCh k r (s.queued rs) f = queuedReply (takeCh k r s f) rs := by
  unfold takeCh
  refine queuedReply_ite Iff.rfl rfl ?_
  cases channelOf r.channel with
  | none => rfl
  | some c => exact hf c s

/-! ### Requests to the board -/

theorem takeIdentify_queued : takeIdentify r (s.queued rs) = queuedReply (takeIdentify r s) rs :=
  takePart_queued s rs r _ fun _ => rfl

theorem takeGetStatus_queued : takeGetStatus r (s.queued rs) = queuedReply (takeGetStatus r s) rs :=
  takePart_queued s rs r _ fun _ => Prod.ext (queued_ite Iff.rfl rfl rfl) rfl

theorem takeGetBudget_queued : takeGetBudget r (s.queued rs) = queuedReply (takeGetBudget r s) rs :=
  takePart_queued s rs r _ fun _ => rfl

theorem takeSetBudget_queued : takeSetBudget r (s.queued rs) = queuedReply (takeSetBudget r s) rs := by
  refine takePart_queued s rs r _ fun s => ?_
  dsimp only
  rw [modArb_queued, settleEvaluating_queued]
  rfl

theorem modLine_queued (line : LineNo) (f : AlarmLine → AlarmLine) :
    (s.queued rs).modLine line f = (s.modLine line f).queued rs := rfl

/-- Cover followed where a condition holds (R151). -/
theorem followChanged_queued (p : Prop) [Decidable p] (before : Ch → Bool) :
    (if p then followCover before (s.queued rs) allCh else s.queued rs) = (if p then followCover before s allCh else s).queued rs :=
  queued_ite Iff.rfl (followCover_queued s rs before allCh) rfl

/-- CHAMBER_ALARM offered where a line's raw level is asserted (R151). -/
theorem offerChanged_queued (p : Prop) [Decidable p] (line : LineNo) (f : Ch → Bool) :
    (if p ∧ ((s.queued rs).line line).raw then offerAlarm line f (s.queued rs) allCh else s.queued rs) =
      (if p ∧ (s.line line).raw then offerAlarm line f s allCh else s).queued rs :=
  queued_ite Iff.rfl (offerAlarm_queued s rs line f allCh) rfl

theorem takeSetAlarmRoute_queued : takeSetAlarmRoute r (s.queued rs) = queuedReply (takeSetAlarmRoute r s) rs := by
  refine takePart_queued s rs r _ fun s => ?_
  dsimp only
  split
  · cases routeOf (field r.body 1 1) with
    | none => rfl
    | some route =>
      dsimp only
      rw [modLine_queued, followChanged_queued, offerChanged_queued]
      rfl
  · rfl

theorem takePauseHall_queued : takePauseHall r (s.queued rs) = queuedReply (takePauseHall r s) rs := by
  refine takePart_queued s rs r _ fun s => queuedReply_ite Iff.rfl ?_ rfl
  rw [pauseHall_queued]
  rfl

theorem takeResumeHall_queued : takeResumeHall r (s.queued rs) = queuedReply (takeResumeHall r s) rs := by
  refine takePart_queued s rs r _ fun s => queuedReply_ite Iff.rfl rfl ?_
  rw [wakeHall_queued]
  rfl

theorem takeSetWake_queued : takeSetWake r (s.queued rs) = queuedReply (takeSetWake r s) rs :=
  takePart_queued s rs r _ fun _ => rfl

theorem takeHoldReports_queued : takeHoldReports r (s.queued rs) = queuedReply (takeHoldReports r s) rs :=
  takePart_queued s rs r _ fun _ => rfl

theorem takeSaveSettings_queued : takeSaveSettings r (s.queued rs) = queuedReply (takeSaveSettings r s) rs :=
  takePart_queued s rs r _ fun _ => queuedReply_ite Iff.rfl rfl (queuedReply_ite Iff.rfl rfl rfl)

theorem takeResetPart_queued : takeResetPart r (s.queued rs) = queuedReply (takeResetPart r s) rs :=
  takePart_queued s rs r _ fun _ => rfl

/-! ### The schedule store -/

theorem firstProtected_queued (n i : Nat) : firstProtected (s.queued rs) n i = firstProtected s n i := by
  induction n generalizing i with
  | zero => rfl
  | succ n ih =>
    unfold firstProtected
    rw [ih]
    rfl

theorem takeWriteSteps_queued : takeWriteSteps r (s.queued rs) = queuedReply (takeWriteSteps r s) rs := by
  refine takePart_queued s rs r _ fun s => queuedReply_ite Iff.rfl rfl ?_
  rw [firstProtected_queued]
  cases firstProtected s (recordPieces r.body).length (field r.body 0 2) with
  | some x => rfl
  | none => cases recordsOf (field r.body 0 2) (recordPieces r.body) <;> rfl

theorem takeReadSteps_queued : takeReadSteps r (s.queued rs) = queuedReply (takeReadSteps r s) rs :=
  takePart_queued s rs r _ fun _ => queuedReply_ite Iff.rfl rfl rfl

theorem takeSetWindow_queued : takeSetWindow r (s.queued rs) = queuedReply (takeSetWindow r s) rs :=
  takeCh_queued s rs r _ fun _ _ => queuedReply_ite Iff.rfl rfl (queuedReply_ite Iff.rfl rfl (queuedReply_ite Iff.rfl rfl
    (queuedReply_ite Iff.rfl rfl (queuedReply_ite Iff.rfl rfl rfl))))

/-! ### Settings -/

theorem setSettings_queued (x : ChanSettings) : setSettings (s.queued rs) c x = (setSettings s c x).queued rs :=
  queued_ite Iff.rfl rfl rfl

theorem takeSetChannel_queued : takeSetChannel r (s.queued rs) = queuedReply (takeSetChannel r s) rs := by
  refine takeCh_queued s rs r _ fun c s => queuedReply_ite Iff.rfl rfl (queuedReply_ite Iff.rfl rfl (queuedReply_ite Iff.rfl rfl ?_))
  rw [setSettings_queued]
  rfl

theorem takeSetCalibration_queued : takeSetCalibration r (s.queued rs) = queuedReply (takeSetCalibration r s) rs :=
  takeCh_queued s rs r _ fun _ _ => rfl

/-! ### Runs -/

theorem startBegin_queued : startBegin (s.queued rs) c = (startBegin s c).queued rs := by
  unfold startBegin
  rw [modCh_queued, takeUp_queued, settle_queued]

theorem startResume_queued (p : ResumePoint) : startResume (s.queued rs) c p = (startResume s c p).queued rs := by
  unfold startResume
  dsimp only
  rw [modCh_queued]
  obtain ⟨u, hu⟩ : ∃ u, u = s.modCh c fun ch => ch.restore p := ⟨_, rfl⟩
  rw [← hu, show currentStep (u.queued rs) c = currentStep u c from rfl]
  cases currentStep u c with
  | none =>
    dsimp only
    rw [beginResumed_queued, settle_queued]
  | some r =>
    dsimp only
    rw [queued_ite Iff.rfl (modCh_queued u rs c fun ch => setUpPlayback ch r) rfl, beginResumed_queued, settle_queued]

theorem coverStarted_queued : coverStarted (s.queued rs) c = (coverStarted s c).queued rs :=
  queued_ite Iff.rfl (holdChannel_queued s rs c _) rfl

theorem takeStart_queued : takeStart r (s.queued rs) = queuedReply (takeStart r s) rs := by
  refine takeCh_queued s rs r _ fun c s => ?_
  dsimp only
  rw [show startRefusal (s.queued rs) c (field r.body 0 1) = startRefusal s c (field r.body 0 1) from rfl]
  cases startRefusal s c (field r.body 0 1) with
  | some refusal => rfl
  | none =>
    refine queuedReply_ite Iff.rfl rfl ?_
    rw [show validate (s.queued rs) c ((s.queued rs).ch c).active = validate s c (s.ch c).active from rfl]
    cases validate s c (s.ch c).active with
    | some x => rfl
    | none =>
      dsimp only
      rw [show ((s.queued rs).ch c).resume = (s.ch c).resume from rfl]
      cases (if field r.body 0 1 = 2 then (s.ch c).resume else none) with
      | some p =>
        dsimp only
        rw [startResume_queued, coverStarted_queued]
        rfl
      | none =>
        dsimp only
        rw [startBegin_queued, coverStarted_queued]
        rfl

theorem stopChannel_queued : stopChannel (s.queued rs) c = (stopChannel s c).queued rs := by
  unfold stopChannel
  dsimp only
  rw [releaseGrant_queued, withdrawEntries_queued, modCh_queued, enterStopping_queued, settle_queued]

theorem takeStop_queued : takeStop r (s.queued rs) = queuedReply (takeStop r s) rs := by
  refine takeCh_queued s rs r _ fun c s => ?_
  rw [show ((s.queued rs).ch c).state = (s.ch c).state from rfl, stopChannel_queued]
  cases (s.ch c).state <;> rfl

theorem takeHold_queued : takeHold r (s.queued rs) = queuedReply (takeHold r s) rs := by
  refine takeCh_queued s rs r _ fun c s => ?_
  rw [show holdRefusal (s.queued rs) c = holdRefusal s c from rfl]
  cases holdRefusal s c with
  | some refusal => rfl
  | none =>
    have hhold : (if ((s.queued rs).ch c).holds.host then s.queued rs else holdChannel (s.queued rs) c .host) =
        (if (s.ch c).holds.host then s else holdChannel s c .host).queued rs := queued_ite Iff.rfl rfl (holdChannel_queued s rs c _)
    exact congrArg (fun u : State => (u, ReplyBody.ok (.holds (u.ch c).holds))) hhold

theorem takeRelease_queued : takeRelease r (s.queued rs) = queuedReply (takeRelease r s) rs := by
  refine takeCh_queued s rs r _ fun c s => ?_
  rw [show holdRefusal (s.queued rs) c = holdRefusal s c from rfl, unholdChannel_queued]
  cases holdRefusal s c <;> rfl

theorem takeSwap_queued : takeSwap r (s.queued rs) = queuedReply (takeSwap r s) rs := by
  refine takeCh_queued s rs r _ fun c s => queuedReply_ite Iff.rfl rfl (queuedReply_ite Iff.rfl rfl ?_)
  cases swapKindOf (field r.body 0 1) with
  | none => rfl
  | some kind =>
    dsimp only
    rw [show validate (s.queued rs) c ((s.queued rs).ch c).staged = validate s c (s.ch c).staged from rfl]
    cases validate s c (s.ch c).staged with
    | some x => rfl
    | none => exact queuedReply_ite Iff.rfl rfl rfl

theorem takeCancelSwap_queued : takeCancelSwap r (s.queued rs) = queuedReply (takeCancelSwap r s) rs :=
  takeCh_queued s rs r _ fun _ _ => queuedReply_ite Iff.rfl rfl rfl

theorem takeProfileAppend_queued : takeProfileAppend r (s.queued rs) = queuedReply (takeProfileAppend r s) rs := by
  refine takeCh_queued s rs r _ fun c s => queuedReply_ite Iff.rfl rfl (queuedReply_ite Iff.rfl rfl ?_)
  cases (pointsOf r.body).findIdx? badPoint with
  | some i => rfl
  | none => exact queuedReply_ite Iff.rfl rfl rfl

theorem takeProfileFlush_queued : takeProfileFlush r (s.queued rs) = queuedReply (takeProfileFlush r s) rs :=
  takeCh_queued s rs r _ fun _ _ => queuedReply_ite Iff.rfl rfl (queuedReply_ite Iff.rfl rfl rfl)

theorem takeClearLifetime_queued : takeClearLifetime r (s.queued rs) = queuedReply (takeClearLifetime r s) rs :=
  takeCh_queued s rs r _ fun _ _ => queuedReply_ite Iff.rfl rfl (queuedReply_ite Iff.rfl rfl rfl)

theorem takeClearFaults_queued : takeClearFaults r (s.queued rs) = queuedReply (takeClearFaults r s) rs := by
  refine takeCh_queued s rs r _ fun c s => ?_
  dsimp only
  rw [clearKinds_queued]
  rfl

theorem takeGetChannel_queued : takeGetChannel r (s.queued rs) = queuedReply (takeGetChannel r s) rs := by
  refine takeCh_queued s rs r _ fun c s => ?_
  split <;> rfl

theorem takeReadAccounts_queued : takeReadAccounts r (s.queued rs) = queuedReply (takeReadAccounts r s) rs :=
  takeCh_queued s rs r _ fun _ _ => rfl

/-! ### Pairs and resets -/

theorem takeSetPair_queued : takeSetPair r (s.queued rs) = queuedReply (takeSetPair r s) rs :=
  takeCh_queued s rs r _ fun _ _ => queuedReply_ite Iff.rfl rfl (queuedReply_ite Iff.rfl rfl rfl)

theorem takeUnpair_queued : takeUnpair r (s.queued rs) = queuedReply (takeUnpair r s) rs :=
  takeCh_queued s rs r _ fun _ _ => queuedReply_ite Iff.rfl rfl (queuedReply_ite Iff.rfl rfl rfl)

theorem offerUnsafe_queued (tag : BitVec 4) : offerUnsafe (s.queued rs) c tag = (offerUnsafe s c tag).queued rs := by
  unfold offerUnsafe
  rw [modCh_queued, offer_queued]

/-- STAGE_UNSAFE offered again while the unsafe flag is set (R145). -/
def reofferUnsafe (s : State) (c : Ch) : State :=
  if (s.ch c).unsafeFlag then offerUnsafe { s with freeCount := s.freeCount + 1 } c (reofferTag s c) else s

/-- The kinds of the lines offered again (R150, R153). -/
def reofferLines (s : State) (c : Ch) : State :=
  let s :=
    match directLine s c with
    | some line => offer s c .chamberAlarm line.val
    | none => s
  if s.prot.hallStop then offer s c .hallStop 0 else s

theorem reoffer_eq : reoffer s c = reofferLines (reofferUnsafe s c) c := rfl

theorem reofferUnsafe_queued : reofferUnsafe (s.queued rs) c = (reofferUnsafe s c).queued rs :=
  queued_ite Iff.rfl (offerUnsafe_queued { s with freeCount := s.freeCount + 1 } rs c (reofferTag s c)) rfl

theorem reofferLines_queued : reofferLines (s.queued rs) c = (reofferLines s c).queued rs := by
  unfold reofferLines
  rw [show directLine (s.queued rs) c = directLine s c from rfl]
  cases directLine s c with
  | none => exact queued_ite Iff.rfl (offer_queued s rs c _ _) rfl
  | some line =>
    dsimp only
    rw [offer_queued]
    exact queued_ite Iff.rfl (offer_queued _ rs c _ _) rfl

theorem reoffer_queued : reoffer (s.queued rs) c = (reoffer s c).queued rs := by
  rw [reoffer_eq, reoffer_eq, reofferUnsafe_queued, reofferLines_queued]

theorem resetChannel_queued : resetChannel (s.queued rs) c = (resetChannel s c).queued rs := by
  have hall : ∀ (l : List Ch) (u : State), l.foldl reoffer (u.queued rs) = (l.foldl reoffer u).queued rs := fun l => by
    induction l with
    | nil => exact fun _ => rfl
    | cons d l ih => exact fun u => (congrArg (fun v => l.foldl reoffer v) (reoffer_queued u rs d)).trans (ih _)
  have hfollower : ∀ u : State, (if isLeader (u.queued rs) c then (u.queued rs).modCh (partner c) Channel.clearFollower else u.queued rs) =
      (if isLeader u c then u.modCh (partner c) Channel.clearFollower else u).queued rs := fun u => queued_ite Iff.rfl rfl rfl
  unfold resetChannel
  dsimp only
  rw [releaseGrant_queued, withdrawEntries_queued, hfollower, modCh_queued, enterStopping_queued, settle_queued]
  exact hall _ _

theorem takeResetChannel_queued : takeResetChannel r (s.queued rs) = queuedReply (takeResetChannel r s) rs := by
  refine takeCh_queued s rs r _ fun c s => ?_
  rw [resetChannel_queued]
  rfl

theorem takeResetStageLine_queued : takeResetStageLine r (s.queued rs) = queuedReply (takeResetStageLine r s) rs := by
  refine takeCh_queued s rs r _ fun c s => queuedReply_ite Iff.rfl rfl ?_
  dsimp only
  rw [modCh_queued, settlingTest_queued]
  rfl

end

end Sys2Proof.Machine
end

section
/-! PROOF. The end of a frame on the control link (R182, R183, R191). -/
namespace Sys2Proof.Machine

section
variable {s t : State} {f : LinkFrame} {g : Frame} {rest : List Frame} (rs : List Frame)

/-! ### The requests that wait are no part of the event of the one taken -/

theorem takeKind_queued (s : State) (k : ReqKind) (r : Request) : takeKind k r (s.queued rs) = queuedReply (takeKind k r s) rs := by
  cases k
  case identify => exact takeIdentify_queued s rs r
  case getStatus => exact takeGetStatus_queued s rs r
  case getBudget => exact takeGetBudget_queued s rs r
  case setBudget => exact takeSetBudget_queued s rs r
  case setAlarmRoute => exact takeSetAlarmRoute_queued s rs r
  case pauseHall => exact takePauseHall_queued s rs r
  case resumeHall => exact takeResumeHall_queued s rs r
  case setWake => exact takeSetWake_queued s rs r
  case holdReports => exact takeHoldReports_queued s rs r
  case saveSettings => exact takeSaveSettings_queued s rs r
  case resetPart => exact takeResetPart_queued s rs r
  case writeSteps => exact takeWriteSteps_queued s rs r
  case readSteps => exact takeReadSteps_queued s rs r
  case setWindow => exact takeSetWindow_queued s rs r
  case getChannel => exact takeGetChannel_queued s rs r
  case setChannel => exact takeSetChannel_queued s rs r
  case setCalibration => exact takeSetCalibration_queued s rs r
  case start => exact takeStart_queued s rs r
  case stop => exact takeStop_queued s rs r
  case hold => exact takeHold_queued s rs r
  case release => exact takeRelease_queued s rs r
  case swap => exact takeSwap_queued s rs r
  case cancelSwap => exact takeCancelSwap_queued s rs r
  case profileAppend => exact takeProfileAppend_queued s rs r
  case profileFlush => exact takeProfileFlush_queued s rs r
  case clearFaults => exact takeClearFaults_queued s rs r
  case readAccounts => exact takeReadAccounts_queued s rs r
  case clearLifetime => exact takeClearLifetime_queued s rs r
  case setPair => exact takeSetPair_queued s rs r
  case unpair => exact takeUnpair_queued s rs r
  case resetChannel => exact takeResetChannel_queued s rs r
  case resetStageLine => exact takeResetStageLine_queued s rs r

theorem takeFrame_queued (s : State) (g : Frame) : takeFrame g (s.queued rs) = queuedReply (takeFrame g s) rs := by
  unfold takeFrame
  cases ReqKind.ofCode g.kind with
  | none => exact queuedReply_ite Iff.rfl rfl rfl
  | some k => exact queuedReply_ite Iff.rfl rfl (takeKind_queued rs s k _)

theorem answer_queued (s : State) (g : Frame) : answer g (s.queued rs) = (answer g s).queued rs := by
  unfold answer
  rw [takeFrame_queued]
  rfl

theorem bringForwardAll_queued (before after : State) (l : List Ch) :
    bringForwardAll before (after.queued rs) l = (bringForwardAll before after l).queued rs := by
  induction l generalizing after with
  | nil => rfl
  | cons c l ih =>
    refine (congrArg (bringForwardAll before · l) ?_).trans (ih _)
    exact queued_ite Iff.rfl rfl (queued_ite Iff.rfl rfl rfl)

theorem Link.recover_requests (l : Link) (now : Nat) : { l with requests := rs }.recover now = { l.recover now with requests := rs } := by
  unfold Link.recover
  dsimp only
  split
  · rw [Link.make_requests]
  · rfl

theorem pump_queued (s : State) : pump (s.queued rs) = (pump s).queued rs := by
  unfold pump
  refine queued_ite Iff.rfl rfl ?_
  rw [show (s.queued rs).link.reply = s.link.reply from rfl, show (s.queued rs).link.reports = s.link.reports from rfl]
  cases s.link.reply with
  | some x => rfl
  | none =>
    refine queued_ite Iff.rfl ?_ rfl
    cases s.link.reports with
    | nil => rfl
    | cons r rest =>
      exact congrArg (fun l : Link => { s with link := l })
        (Link.recover_requests rs { s.link with reports := rest, sending := some (.report r) } s.hall.partTime)

theorem finish_queued (before after : State) : finish before (after.queued rs) = (finish before after).queued rs := by
  refine (congrArg pump ?_).trans (pump_queued rs _)
  exact queued_ite Iff.rfl (bringForwardAll_queued rs before after allCh) rfl

/-! ### The event -/

theorem queued_self {s : State} (h : s.link.requests = rs) : s.queued rs = s := by rw [← h]; rfl

theorem pump_freed_eq (s : State) : pump s.freed = { s with link := (pump s.freed).link } := by
  rw [pump_eq]
  rfl

/-- After the transmitter's choice with no reply waiting, none is outstanding. -/
theorem pump_freed_replyFree (hr : s.link.reply = none) : (pump s.freed).link.replyFree = true := by
  by_cases hp : s.part = .ready
  · obtain ⟨hreply, hreport, hidle⟩ := pump_freed_reports hr hp
    refine replyFree_reports hreply ?_
    by_cases h : s.link.holdTimer = none ∧ s.link.reports ≠ []
    · obtain ⟨r, -, hr⟩ := hreport h
      exact .inr ⟨r, hr⟩
    · exact .inl (hidle h)
  · rw [pump_none (s := s.freed) rfl hr (.inl hp)]
    exact replyFree_reports hr (.inl rfl)

/-- The request taken at the end of a frame does what it does when its frame arrives with no request waiting. -/
theorem frameSent_takes (hp : s.part = .ready ∨ s.part = .starting) (hs : s.link.sending = some f) (hreset : s.link.resetPending = false)
    (hr : s.link.reply = none) (hq : s.link.requests = g :: rest) (hb : g.body.length ≤ 1024) :
    frameSent s = (arrive g (frameSent (s.queued []))).queued rest := by
  have hfreed : frameSent (s.queued []) = (pump s.freed).queued [] :=
    (frameSent_noRequest (s := s.queued []) hs hreset rfl).trans (pump_queued [] s.freed)
  have hfree : (pump s.freed).link.replyFree = true := pump_freed_replyFree hr
  have hpart : (pump s.freed).part = s.part := by rw [pump_freed_eq]
  have harrives : arrive g ((pump s.freed).queued []) = (finish s (answer g (pump s.freed))).queued [] := by
    rw [arrive_taken (s := (pump s.freed).queued []) (by rw [← hpart] at hp; exact hp) hb rfl hfree, answer_queued, finish_queued,
      finish_before (s := (pump s.freed).queued []) s hpart.symm (fun c => by rw [pump_freed_eq]; rfl) (by rw [pump_freed_eq]; rfl)]
  have hqueue : (pump s.freed).link.requests = g :: rest := by rw [pump_requests]; exact hq
  rw [hfreed, harrives, frameSent_eq hs hreset, takeNext_cons hqueue hfree]
  exact (congrArg (finish s) (answer_queued rest (pump s.freed) g)).trans (finish_queued rest s _)

/-- A reply that waits is sent, and no request is taken. -/
theorem frameSent_reply {y : Reply} (hs : s.link.sending = some f) (hreset : s.link.resetPending = false) (hr : s.link.reply = some y) :
    frameSent s = s.modLink fun l => { l with reply := none, sending := some (.reply y) } := by
  have hpump : pump s.freed = s.modLink fun l => { l with reply := none, sending := some (.reply y) } := pump_reply (s := s.freed) rfl hr
  rw [frameSent_eq hs hreset, hpump, takeNext_replyBusy rfl, finish_modLink]
  exact pump_busy (f := .reply y) rfl

end

end Sys2Proof.Machine

namespace Sys2Proof.Safety
open Sys2Proof.Machine

/-- Settles O5. -/
theorem frameSent : Obligations.FrameSent := by
  unfold Obligations.FrameSent
  refine ⟨fun s f hs hreset hq => ?_, fun s f g rest hp hs hreset hq => ?_, fun s f g rest hp hs hreset hr hq hb => ?_⟩
  · have hsent : Machine.frameSent s = pump s.freed := frameSent_noRequest hs hreset hq
    refine ⟨fun y hr => ?_, fun hr hnone => ?_, fun r rest hr hp ht hreports hkept => ?_, fun r rest hr hp ht hreports hn hl => ?_⟩
    · exact next_congr (frameSent_reply hs hreset hr)
    · refine next_congr (hsent.trans (pump_none (s := s.freed) rfl hr ?_))
      exact hnone.imp_right (Or.imp_left Option.isSome_iff_ne_none.2)
    · refine next_congr (hsent.trans ((pump_report (s := s.freed) rfl hr hp ht hreports).trans ?_))
      exact congrArg (fun l : Link => { s with link := l }) (recover_none (l := { s.link with reports := rest, sending := some (.report r) })
        s.hall.partTime hkept)
    · refine next_congr (hsent.trans ((pump_report (s := s.freed) rfl hr hp ht hreports).trans ?_))
      exact congrArg (fun l : Link => { s with link := l }) (recover_lost (l := { s.link with reports := rest, sending := some (.report r) })
        s.hall.partTime hn hl)
  · refine ⟨fun hr => ?_, fun y hr => ⟨_, rfl, ?_⟩⟩
    · obtain ⟨t, body, ht, hrest⟩ := frameSent_answers hp hs hreset hq hr
      exact ⟨t, body, next_congr ht, hrest⟩
    · rw [frameSent_reply hs hreset hr]
      exact ⟨hq, rfl, rfl⟩
  · exact ⟨_, rfl, _, rfl, next_congr (frameSent_takes hp hs hreset hr hq hb)⟩

end Sys2Proof.Safety
end

section
/-! PROOF. O59: what the law of R46 asks of one channel, and what the channel unit's acts make of it. -/
namespace Sys2Proof.Machine
open Sys2Proof.Safety

/-! ### The law, channel by channel -/

/-- A port stands on a REGULATE demand. -/
def Regulates (s : State) (d : Ch) : Prop := ∃ x, (s.ch d).port.standing = some x ∧ x.mode = .regulate

/-- A channel that is STARTING or RUNNING a step that is not REST holds a grant, which is not idle. -/
def Fed (s : State) (c : Ch) : Prop := Working s c → ∃ g, grantOf s c = some g ∧ g.hold = none

/-- A port that serves a channel stands on a REGULATE only while the channel is STARTING or RUNNING a step that is not REST. -/
def Obeys (s : State) (c : Ch) : Prop := ∀ d, leaderOf s d = c → Regulates s d → Working s c

/-- The law of R46 for one channel. The channel `e`, whose period event is being worked, need not have handed its demand while
it is RUNNING: the refresh of stage 8 is still to come (R54). -/
structure Served (e : Option Ch) (s : State) (c : Ch) : Prop where
  fed   : Fed s c
  obeys : Obeys s c ∨ e = some c ∧ (s.ch c).state = .running

/-- Followers are odd channels (R123). -/
def OddFollowers (s : State) : Prop := ∀ c, (s.ch c).state = .follower → c.val % 2 = 1

/-- The law of R46 for every channel, only odd channels being followers (R123). -/
structure Serving (e : Option Ch) (s : State) : Prop where
  odd    : OddFollowers s
  served : ∀ c, Served e s c

theorem demandsSound_iff {s : State} (hodd : OddFollowers s) :
    DemandsSound s ↔ Serving none s := by
  constructor
  · intro h
    exact ⟨hodd, fun c => ⟨h.granted c, .inl fun d hd ⟨x, hx, hr⟩ => hd ▸ h.demands d x hx hr⟩⟩
  · intro h
    refine ⟨fun c => (h.served c).fed, fun d x hx hr => ?_⟩
    exact (h.served (leaderOf s d)).obeys.resolve_right (fun k => nomatch k.1) d rfl ⟨x, hx, hr⟩

section
variable {e : Option Ch} {s t : State} {c d : Ch}

theorem Serving.excuse (h : Serving none s) (e : Option Ch) : Serving e s :=
  ⟨h.odd, fun c => ⟨(h.served c).fed, .inl ((h.served c).obeys.resolve_right fun k => nomatch k.1)⟩⟩

theorem Serving.ite {t u : State} (p : Prop) [Decidable p] (h : p → Serving e t) (k : ¬p → Serving e u) :
    Serving e (if p then t else u) := by
  split
  · exact h ‹_›
  · exact k ‹_›

theorem working_holdable (h : Working s c) : (s.ch c).state.holdable = true := by
  rcases h with h | ⟨h, -⟩ <;> rw [h] <;> rfl

/-- What a channel works at depends on its state, its window, its step index and the pool alone. -/
theorem working_congr (hs : (t.ch c).state = (s.ch c).state) (ha : (t.ch c).active = (s.ch c).active)
    (hi : (t.ch c).stepIndex = (s.ch c).stepIndex) (hp : t.pool = s.pool) : Working t c ↔ Working s c := by
  have hstep : currentStep t c = currentStep s c := by unfold currentStep windowRead; rw [ha, hi, hp]
  unfold Working
  rw [hs, hstep]

theorem working_of_ch (h : t.ch c = s.ch c) (hp : t.pool = s.pool) : Working t c ↔ Working s c :=
  working_congr (by rw [h]) (by rw [h]) (by rw [h]) hp

theorem working_onlyPort (h : OnlyPort (s.ch c) (t.ch c)) (hp : t.pool = s.pool) : Working t c ↔ Working s c :=
  working_congr (OnlyPort.state h) (by rw [h]) (by rw [h]) hp

theorem grantOf_congr (h : grantsOf t c = grantsOf s c) : grantOf t c = grantOf s c := by
  rw [grantOf_eq_head, grantOf_eq_head, h]

theorem leaderOf_of_follower (h : (t.ch d).state = .follower ↔ (s.ch d).state = .follower) : leaderOf t d = leaderOf s d := by
  unfold leaderOf isFollower
  simp only [h]

theorem leaderOf_congr (h : (t.ch d).state = (s.ch d).state) : leaderOf t d = leaderOf s d := leaderOf_of_follower (by rw [h])

theorem regulates_congr (h : (t.ch d).port.standing = (s.ch d).port.standing) : Regulates t d ↔ Regulates s d := by
  unfold Regulates
  rw [h]

/-! ### Acts that change the arbiter alone -/

theorem Obeys.of_chans (h : Obeys s c) (hc : t.chans = s.chans) (hp : t.pool = s.pool) : Obeys t c := by
  have hch : ∀ d, t.ch d = s.ch d := fun d => by rw [State.ch, State.ch, hc]
  intro d hd hr
  rw [leaderOf_congr (s := s) (by rw [hch])] at hd
  rw [regulates_congr (s := s) (by rw [hch])] at hr
  exact (working_of_ch (hch c) hp).2 (h d hd hr)

theorem Served.of_chans (h : Served e s c) (hc : t.chans = s.chans) (hp : t.pool = s.pool) (hf : Fed t c) : Served e t c :=
  ⟨hf, h.obeys.imp (·.of_chans hc hp) fun k => ⟨k.1, by rw [State.ch, hc]; exact k.2⟩⟩

theorem Fed.of_not (h : ¬Working s c) : Fed s c := fun hw => absurd hw h

theorem Served.of_not (h : ¬Working s c) (ho : Obeys s c) : Served e s c := ⟨.of_not h, .inl ho⟩

theorem idleGrant_chans (s : State) (c : Ch) : (idleGrant s c).chans = s.chans := by
  unfold idleGrant releaseGrant
  repeat' first | rfl | split

theorem releaseGrant_chans (s : State) (c : Ch) : (releaseGrant s c).chans = s.chans := by
  unfold releaseGrant
  split <;> rfl

theorem not_working_of_chans (h : ¬Working s c) (hc : t.chans = s.chans) (hp : t.pool = s.pool) : ¬Working t c :=
  fun hw => h ((working_of_ch (by rw [State.ch, State.ch, hc]) hp).1 hw)

/-! ### The issue of a demand (R46, R127) -/

theorem regulateDemand_regulates {r : StepRecord} (h : (regulateDemand s c r).1.mode = .regulate) : r.kind ≠ .rest := by
  intro hk
  cases r with
  | rest => exact absurd (show DemandMode.idle = .regulate from h) (by decide)
  | _ => cases hk

/-- The demand a channel calls for is a REGULATE only while it works (R46). -/
theorem calledFor_regulates (h : (calledFor s c).1.mode = .regulate) : Working s c := by
  unfold calledFor at h
  split at h
  · exact .inl ‹_›
  · rename_i hs
    split at h
    · exact .inr ⟨hs, _, ‹_›, regulateDemand_regulates h⟩
    · cases h
  all_goals cases h

theorem issue_standing_self (s : State) (c : Ch) : ∃ d, ((issue s c).ch c).port.standing = some d ∧
    d.mode = (calledFor s c).1.mode := by
  cases h : isLeader s c with
  | false =>
    rw [issue_single h, State.ch_modCh_self]
    exact ⟨_, handNew_standing _ _, rfl⟩
  | true =>
    rw [issue_leader h, State.ch_modPort, if_neg (partner_ne c).symm, State.ch_modCh_self]
    exact ⟨_, handNew_standing _ _, rfl⟩

theorem issue_standing_partner (h : isLeader s c = true) : ∃ d, ((issue s c).ch (partner c)).port.standing = some d ∧
    (d.mode = .regulate → (calledFor s c).1.mode = .regulate) := by
  rw [issue_leader h, State.ch_modPort_self]
  refine ⟨_, handNew_standing _ _, ?_⟩
  unfold followerDemand
  split
  · exact id
  · exact nofun

theorem issue_pool (s : State) (c : Ch) : (issue s c).pool = s.pool := (issue_keeps s c).pool

theorem issue_state (s : State) (c d : Ch) : ((issue s c).ch d).state = (s.ch d).state := by
  obtain ⟨x, p, h⟩ := issue_ch s c d
  rw [h]

theorem issue_working (s : State) (c d : Ch) : Working (issue s c) d ↔ Working s d := by
  obtain ⟨x, p, h⟩ := issue_ch s c d
  exact working_congr (by rw [h]) (by rw [h]) (by rw [h]) (issue_pool s c)

/-- A channel that has issued its demand is obeyed. -/
theorem issue_obeys (hodd : OddFollowers s) : Obeys (issue s c) c := by
  intro d hd hr
  rw [leaderOf_congr (issue_state s c d)] at hd
  obtain ⟨x, hx, hmode⟩ := hr
  refine (issue_working s c c).2 (calledFor_regulates ?_)
  by_cases hf : (s.ch d).state = .follower
  · rw [leaderOf_follower hf] at hd
    subst hd
    have hlead : isLeader s (partner d) = true :=
      (isLeader_iff s _).2 ⟨(partner_parity _).1 (by rw [partner_partner]; exact hodd d hf), by rw [partner_partner]; exact hf⟩
    obtain ⟨y, hy, hcalled⟩ := issue_standing_partner hlead
    rw [partner_partner, hx] at hy
    cases hy
    exact hcalled hmode
  · rw [leaderOf_self hf] at hd
    subst hd
    obtain ⟨y, hy, hcalled⟩ := issue_standing_self s d
    rw [hx] at hy
    cases hy
    rw [← hcalled]
    exact hmode

theorem Fed.issue (h : Fed s c) (d : Ch) : Fed (issue s d) c := by
  intro hw
  rw [grantOf_congr (s := s) (grantsOf_congr c (issue_arb s d))]
  exact h ((issue_working s d c).1 hw)

theorem OddFollowers.keeps (h : OddFollowers s) (k : Keeps s t) : OddFollowers t := fun c hc =>
  h c ((k.chans c).follower.1 hc)

theorem OddFollowers.modCh (h : OddFollowers s) (f : Channel → Channel)
    (hf : (f (s.ch c)).state = .follower → (s.ch c).state = .follower) : OddFollowers (s.modCh c f) := by
  intro d hd
  rw [State.ch_modCh] at hd
  split at hd
  · rename_i he; subst he; exact h d (hf hd)
  · exact h d hd

theorem OddFollowers.of_chans (h : OddFollowers s) (hc : t.chans = s.chans) : OddFollowers t := by
  intro d
  rw [State.ch, hc]
  exact h d

theorem issue_served (hodd : OddFollowers s) (hf : Fed s c) : Served e (issue s c) c := ⟨hf.issue c, .inl (issue_obeys hodd)⟩

/-- A channel that has issued the demand of a state in which it does not work. -/
theorem issue_served_of_not (hodd : OddFollowers s) (h : ¬Working s c) : Served e (issue s c) c := issue_served hodd (.of_not h)

theorem idleGrant_served (h : Served e s c) (hw : ¬Working s c) : Served e (idleGrant s c) c :=
  h.of_chans (idleGrant_chans s c) (idleGrant_keeps s c).pool
    (.of_not (not_working_of_chans hw (idleGrant_chans s c) (idleGrant_keeps s c).pool))

/-! ### The acts of the channel unit -/

theorem not_working_of_state (h1 : (s.ch c).state ≠ .starting) (h2 : (s.ch c).state ≠ .running) : ¬Working s c := by
  rintro (h | ⟨h, -⟩)
  · exact h1 h
  · exact h2 h

theorem not_working_modCh (f : Channel → Channel) (h1 : (f (s.ch c)).state ≠ .starting) (h2 : (f (s.ch c)).state ≠ .running) :
    ¬Working (s.modCh c f) c := not_working_of_state (by rwa [State.ch_modCh_self]) (by rwa [State.ch_modCh_self])

theorem unidled_grant (h : grantsOf s c ≠ []) : ∃ g, grantOf (unidleGrant s c) c = some g ∧ g.hold = none := by
  obtain ⟨g, gs, hg⟩ := List.exists_cons_of_ne_nil h
  refine ⟨{ g with hold := none }, ?_, rfl⟩
  rw [grantOf_eq_head]
  have hmap := modGrant_grantsOf s c (fun g => { g with hold := none }) fun _ => rfl
  rw [hg] at hmap
  exact congrArg List.head? hmap

theorem enterStarting_served (hodd : OddFollowers s) (hg : grantsOf s c ≠ []) (r : StepRecord) :
    Served e (enterStarting s c r) c := by
  unfold enterStarting
  refine issue_served ?_ fun _ => unidled_grant hg
  exact (hodd.modCh (c := c) (fun ch =>
    { ch with state := .starting, lastDir := r.dir, startTimer := some ch.settings.startTimeout, gapTimer := none })
    nofun).of_chans rfl

theorem enterDeferred_served (hodd : OddFollowers s) : Served e (enterDeferred s c) c := by
  unfold enterDeferred
  exact issue_served_of_not (hodd.modCh _ nofun) (not_working_modCh _ nofun nofun)

theorem enterRest_served (hodd : OddFollowers s) {r : StepRecord} (hr : currentStep s c = some r) (hk : r.kind = .rest) :
    Served e (enterRest s c) c := by
  unfold enterRest
  have hrest : ¬Working (s.modCh c fun ch => { ch with state := .running, gapTimer := none }) c := by
    rintro (h | ⟨-, x, hx, hne⟩)
    · rw [State.ch_modCh_self] at h
      cases h
    · rw [currentStep_modCh _ rfl rfl, hr] at hx
      cases hx
      exact hne hk
  exact idleGrant_served (issue_served_of_not (hodd.modCh _ nofun) hrest) fun h => hrest ((issue_working _ c c).1 h)

theorem gapExpires_served (hodd : OddFollowers s) : Served e (gapExpires s c) c := by
  unfold gapExpires
  split
  · exact enterDeferred_served (hodd.keeps (releaseGrant_keeps s c))
  · split
    · exact enterStarting_served hodd (holdsCover_granted ‹_›) _
    · refine enterDeferred_served ?_
      split
      · exact hodd.keeps (exchangeGrant_keeps s c _)
      · exact hodd

theorem settleAtGap_state (s : State) (c d : Ch) (r : StepRecord) : ((settleAtGap s c r).ch d).state = (s.ch d).state :=
  OnlyPort.state (settleAtGap_leaves d c s r)

theorem enterGap_served (hodd : OddFollowers s) (r : StepRecord) (gap : Nat) : Served e (enterGap s c r gap) c := by
  unfold enterGap
  dsimp only
  have hgap : OddFollowers (settleAtGap (s.modCh c fun ch => { ch with state := .gap, gapTimer := some gap }) c r) :=
    (hodd.modCh (c := c) (fun ch => { ch with state := .gap, gapTimer := some gap }) nofun).keeps (settleAtGap_keeps _ c r)
  split
  · exact gapExpires_served (hgap.keeps (issue_keeps _ c))
  · refine issue_served_of_not hgap (not_working_of_state ?_ ?_)
    all_goals rw [settleAtGap_state, State.ch_modCh_self]; exact nofun

/-- A channel that begins its step; where the step is blank nothing happens. -/
theorem beginStep_served (hodd : OddFollowers s) (h : currentStep s c = none → Served e s c) : Served e (beginStep s c) c := by
  unfold beginStep
  split
  · exact h ‹_›
  · split
    · exact enterRest_served hodd ‹_› ‹_›
    · exact enterGap_served hodd _ _

theorem beginResumed_served (hodd : OddFollowers s) (h : Served e s c) : Served e (beginResumed s c) c := by
  unfold beginResumed
  split
  · exact h
  · split
    · exact enterRest_served hodd ‹_› ‹_›
    · exact enterGap_served hodd _ _

/-- A channel changes outside its state, its step and its standing demand. -/
theorem Served.modCh (h : Served e s c) (f : Channel → Channel) (hs : (f (s.ch c)).state = (s.ch c).state)
    (ha : (f (s.ch c)).active = (s.ch c).active) (hi : (f (s.ch c)).stepIndex = (s.ch c).stepIndex)
    (hp : (f (s.ch c)).port.standing = (s.ch c).port.standing) : Served e (s.modCh c f) c := by
  have hw : Working (s.modCh c f) c ↔ Working s c := working_congr (by rwa [State.ch_modCh_self]) (by rwa [State.ch_modCh_self])
    (by rwa [State.ch_modCh_self]) rfl
  have hch : ∀ d, ((s.modCh c f).ch d).state = (s.ch d).state ∧ ((s.modCh c f).ch d).port.standing = (s.ch d).port.standing := by
    intro d
    rw [State.ch_modCh]
    split
    · rename_i hd; subst hd; exact ⟨hs, hp⟩
    · exact ⟨rfl, rfl⟩
  refine ⟨fun k => h.fed (hw.1 k), h.obeys.imp (fun ho d hd hr => hw.2 (ho d ?_ ?_)) fun k => ⟨k.1, (hch c).1.trans k.2⟩⟩
  · rwa [leaderOf_congr (hch d).1] at hd
  · rwa [regulates_congr (hch d).2] at hr

theorem Served.obeyed (h : Served e s c) (hs : (s.ch c).state ≠ .running) : Obeys s c := h.obeys.resolve_right fun k => hs k.2

theorem leaveHeld_served (hodd : OddFollowers s) (h : Served e s c) : Served e (leaveHeld s c) c := by
  unfold leaveHeld
  split
  · exact beginStep_served (hodd.modCh _ id) fun _ => h.modCh _ rfl rfl rfl rfl
  · split
    · exact h
    · split
      · exact enterRest_served hodd ‹_› ‹_›
      · split
        · exact enterStarting_served hodd (holdsCover_granted ‹_›) _
        · have hdeferred : Served e (enterDeferred (releaseGrant s c) c) c :=
            enterDeferred_served (hodd.keeps (releaseGrant_keeps s c))
          dsimp only
          split
          · exact hdeferred
          · exact hdeferred.of_chans rfl rfl fun hw => hdeferred.fed ((working_of_ch rfl rfl).1 hw)

/-- A cause is added to a channel that works no more, or was obeyed before (R33). -/
theorem addCause_served (hodd : OddFollowers s) (ho : (s.ch c).state ≠ .running → Obeys s c)
    (cause : HoldCause) : Served e (addCause s c cause) c ∧ ¬Working (addCause s c cause) c := by
  have hidle : ∀ u : State, Served e u c → ¬Working u c →
      Served e (if (u.ch c).holds.keepsIdle then idleGrant u c else u) c ∧
        ¬Working (if (u.ch c).holds.keepsIdle then idleGrant u c else u) c := by
    intro u hu hw
    split
    · exact ⟨idleGrant_served hu hw, not_working_of_chans hw (idleGrant_chans u c) (idleGrant_keeps u c).pool⟩
    · exact ⟨hu, hw⟩
  by_cases hc : (s.ch c).state.holdable = true
  · by_cases hh : (s.ch c).state = .held
    · rw [addCause_held hh]
      have hcalm : ¬Working s c := not_working_of_state (by rw [hh]; exact nofun) (by rw [hh]; exact nofun)
      have h0 : Served e s c := .of_not hcalm (ho (by rw [hh]; exact nofun))
      exact hidle _ (h0.modCh _ rfl rfl rfl rfl) (not_working_modCh _ (by rw [hh]; exact nofun) (by rw [hh]; exact nofun))
    · rw [addCause_free hc hh]
      unfold holdOf
      have hheld : ¬Working ((grantNotLive (withdrawWaiting (s.modCh c Channel.stopTimers) c) c).modCh c fun ch =>
          { ch with holds := ch.holds.add cause, state := .held }) c := not_working_modCh _ nofun nofun
      refine hidle _ (issue_served_of_not ?_ hheld) fun h => hheld ((issue_working _ c c).1 h)
      refine OddFollowers.modCh (s := grantNotLive (withdrawWaiting (s.modCh c Channel.stopTimers) c) c) ?_ _ nofun
      exact ((hodd.modCh (c := c) Channel.stopTimers id).keeps (withdrawWaiting_keeps _ c)).keeps (grantNotLive_keeps _ c)
  · rw [addCause_other (by simpa using hc)]
    have hcalm : ¬Working s c := fun hw => hc (working_holdable hw)
    refine ⟨.of_not hcalm (ho fun hr => hc (by rw [hr]; rfl)), hcalm⟩

theorem removeCauses_served (hodd : OddFollowers s) (h : Served e s c) (f : HoldCauses → HoldCauses) :
    Served e (removeCauses s c f) c := by
  have h0 : Served e (s.modCh c fun ch => { ch with holds := f ch.holds }) c := h.modCh _ rfl rfl rfl rfl
  unfold removeCauses
  dsimp only
  split
  · exact leaveHeld_served (hodd.modCh _ id) h0
  · exact h0

theorem exchangeGrant_served (h : Served e s c) (hw : ¬Working s c) (r : StepRecord) : Served e (exchangeGrant s c r) c :=
  h.of_chans (releaseGrant_chans s c) (exchangeGrant_keeps s c r).pool
    (.of_not (not_working_of_chans hw (releaseGrant_chans s c) (exchangeGrant_keeps s c r).pool))

theorem handOver_served (hodd : OddFollowers s) (h : Served e s c) : Served e (handOver s c) c := by
  unfold handOver
  split
  · exact h
  · rename_i r hr
    split
    · rename_i hs
      have hcalm : ¬Working s c := not_working_of_state (by rw [hs]; exact nofun) (by rw [hs]; exact nofun)
      split
      · exact h
      · exact exchangeGrant_served h hcalm _
    · rename_i hs
      have hcalm : ¬Working s c := not_working_of_state (by rw [hs]; exact nofun) (by rw [hs]; exact nofun)
      split
      · exact enterStarting_served hodd (holdsCover_granted ‹_›) _
      · exact exchangeGrant_served h hcalm _
    · rename_i hs
      have h0 : Served e (s.modCh c fun ch => { ch with holds := ch.holds.drop .curtailed }) c := h.modCh _ rfl rfl rfl rfl
      have hcalm : ¬Working (s.modCh c fun ch => { ch with holds := ch.holds.drop .curtailed }) c :=
        not_working_modCh _ (by rw [hs]; exact nofun) (by rw [hs]; exact nofun)
      dsimp only
      split
      · exact leaveHeld_served (hodd.modCh _ id) h0
      · split
        · exact idleGrant_served h0 hcalm
        · exact h0
    · rename_i hs
      split
      · rename_i hk
        refine idleGrant_served h ?_
        rintro (k | ⟨-, x, hx, hne⟩)
        · rw [hs] at k; cases k
        · rw [hr] at hx; cases hx; exact hne hk
      · exact h
    · exact h

end

end Sys2Proof.Machine
end

section
/-! PROOF. O59, continued: the arbiter's handling of an event, the offers, and the ends of runs keep the law of R46. -/
namespace Sys2Proof.Machine
open Sys2Proof.Safety

section
variable {e : Option Ch} {s t u : State} {c d : Ch}

/-! ### What an act on one channel leaves of the others -/

/-- An act on one channel, in which it is neither made nor unmade a follower, leaves the demands that serve another. -/
theorem Obeys.acts (h : Obeys s d) (hd : d ≠ c) (ha : ActsOn c s t) (hk : Keeps s t)
    (hf : (s.ch c).state = .follower → Regulates t c → Regulates s c) : Obeys t d := by
  intro x hx hr
  rw [leaderOf_of_follower (hk.chans x).follower] at hx
  refine (working_onlyPort (ha.chans d hd) hk.pool).2 (h x hx ?_)
  by_cases hxc : x = c
  · subst hxc
    refine hf ?_ hr
    by_contra hs
    rw [leaderOf_self hs] at hx
    exact hd hx.symm
  · have hother : ¬(isLeader s c = true ∧ x = partner c) := by
      rintro ⟨hl, rfl⟩
      rw [leaderOf_follower ((isLeader_iff s c).1 hl).2, partner_partner] at hx
      exact hd hx.symm
    exact (regulates_congr (by rw [ha.others x hxc hother])).1 hr

theorem Served.acts (h : Served e s d) (hd : d ≠ c) (ha : ActsOn c s t) (hk : Keeps s t)
    (hf : (s.ch c).state = .follower → Regulates t c → Regulates s c) : Served e t d := by
  refine ⟨fun hw => ?_, h.obeys.imp (·.acts hd ha hk hf) fun k => ⟨k.1, (ha.state_other hd).trans k.2⟩⟩
  rw [grantOf_congr (ha.grantsOf_other hd)]
  exact h.fed ((working_onlyPort (ha.chans d hd) hk.pool).1 hw)

/-- An act on one channel that leaves it served. -/
theorem Serving.acts (h : Serving e s) (ha : ActsOn c s t) (hk : Keeps s t) (hc : Served e t c)
    (hf : (s.ch c).state = .follower → Regulates t c → Regulates s c) : Serving e t := by
  refine ⟨h.odd.keeps hk, fun d => ?_⟩
  by_cases hd : d = c
  · exact hd ▸ hc
  · exact (h.served d).acts hd ha hk hf

theorem Serving.acts_single (h : Serving e s) (ha : ActsOn c s t) (hk : Keeps s t) (hc : Served e t c)
    (hs : (s.ch c).state ≠ .follower) : Serving e t := h.acts ha hk hc fun hf => absurd hf hs

/-- Every channel is served but those of a list, whose grants are gone; what their ports stand on was called for all the same. -/
structure ServedBut (e : Option Ch) (l : List Ch) (s : State) : Prop where
  odd    : OddFollowers s
  served : ∀ c, c ∉ l → Served e s c
  obeyed : ∀ c, (s.ch c).state ≠ .running → Obeys s c

theorem ServedBut.serving (h : ServedBut e [] s) : Serving e s := ⟨h.odd, fun c => h.served c List.not_mem_nil⟩

/-- The first channel of the list is served by an act on it. -/
theorem ServedBut.acts {l : List Ch} (h : ServedBut e (c :: l) s) (ha : ActsOn c s t) (hk : Keeps s t) (hc : Served e t c)
    (hf : (s.ch c).state = .follower → Regulates t c → Regulates s c) : ServedBut e l t := by
  refine ⟨h.odd.keeps hk, fun d hd => ?_, fun d hr => ?_⟩ <;> by_cases hdc : d = c
  · exact hdc ▸ hc
  · exact (h.served d (by rw [List.mem_cons]; exact fun k => k.elim hdc hd)).acts hdc ha hk hf
  · subst hdc; exact hc.obeyed hr
  · exact (h.obeyed d (by rwa [ha.state_other hdc] at hr)).acts hdc ha hk hf

/-- Where only the arbiter has changed, the channels that have kept their grant are served. -/
theorem Serving.but (h : Serving e s) (l : List Ch) (hc : t.chans = s.chans) (hp : t.pool = s.pool)
    (hg : ∀ c, c ∉ l → grantsOf t c = grantsOf s c) : ServedBut e l t := by
  have hch : ∀ c, t.ch c = s.ch c := fun c => by rw [State.ch, State.ch, hc]
  refine ⟨h.odd.of_chans hc, fun c hl => ?_, fun c hr => ((h.served c).obeyed (by rwa [hch] at hr)).of_chans hc hp⟩
  refine (h.served c).of_chans hc hp fun hw => ?_
  rw [grantOf_congr (hg c hl)]
  exact (h.served c).fed ((working_of_ch (hch c) hp).1 hw)

/-! ### Changes that leave what the law is about -/

/-- Grants and what the channels work at stand, and no port comes to stand on a REGULATE. -/
structure Unmoved (s t : State) : Prop where
  grants   : t.arb.grants = s.arb.grants
  working  : ∀ c, Working t c ↔ Working s c
  running  : ∀ c, (s.ch c).state = .running → (t.ch c).state = .running
  follower : ∀ c, (t.ch c).state = .follower ↔ (s.ch c).state = .follower
  ports    : ∀ c, Regulates t c → Regulates s c

theorem Unmoved.refl (s : State) : Unmoved s s := ⟨rfl, fun _ => Iff.rfl, fun _ => id, fun _ => Iff.rfl, fun _ => id⟩

theorem Unmoved.trans (h : Unmoved s t) (k : Unmoved t u) : Unmoved s u :=
  ⟨k.grants.trans h.grants, fun c => (k.working c).trans (h.working c), fun c x => k.running c (h.running c x),
    fun c => (k.follower c).trans (h.follower c), fun c x => h.ports c (k.ports c x)⟩

theorem Unmoved.ite (p : Prop) [Decidable p] (h : Unmoved s t) (k : Unmoved s u) : Unmoved s (if p then t else u) :=
  iteInduction (motive := Unmoved s) (fun _ => h) fun _ => k

theorem Unmoved.of_ch (hg : t.arb.grants = s.arb.grants) (hp : t.pool = s.pool) (hc : ∀ c, (t.ch c).state = (s.ch c).state ∧
    (t.ch c).active = (s.ch c).active ∧ (t.ch c).stepIndex = (s.ch c).stepIndex ∧ (Regulates t c → Regulates s c)) :
    Unmoved s t := by
  refine ⟨hg, fun c => ?_, fun c h => (hc c).1.trans h, fun c => by rw [(hc c).1], fun c => (hc c).2.2.2⟩
  obtain ⟨hs, ha, hi, -⟩ := hc c
  exact working_congr hs ha hi hp

theorem Unmoved.of_chans (hc : t.chans = s.chans) (hp : t.pool = s.pool) (hg : t.arb.grants = s.arb.grants) : Unmoved s t := by
  have hch : ∀ c, t.ch c = s.ch c := fun c => by rw [State.ch, State.ch, hc]
  refine .of_ch hg hp fun c => ?_
  rw [hch]
  exact ⟨rfl, rfl, rfl, (regulates_congr (by rw [hch])).1⟩

/-- A channel changes outside its state, its step and its standing demand, which may become one that is no REGULATE. -/
theorem Unmoved.modCh (s : State) (c : Ch) (f : Channel → Channel) (hs : (f (s.ch c)).state = (s.ch c).state)
    (ha : (f (s.ch c)).active = (s.ch c).active) (hi : (f (s.ch c)).stepIndex = (s.ch c).stepIndex)
    (hp : (f (s.ch c)).port.standing = (s.ch c).port.standing ∨
      ∀ x, (f (s.ch c)).port.standing = some x → x.mode ≠ .regulate) : Unmoved s (s.modCh c f) := by
  refine .of_ch rfl rfl fun d => ?_
  by_cases hd : d = c
  · subst hd
    refine ⟨by rwa [State.ch_modCh_self], by rwa [State.ch_modCh_self], by rwa [State.ch_modCh_self], fun ⟨x, hx, hr⟩ => ?_⟩
    rw [State.ch_modCh_self] at hx
    rcases hp with hp | hp
    · exact ⟨x, hp ▸ hx, hr⟩
    · exact absurd hr (hp x hx)
  · have hch : (s.modCh c f).ch d = s.ch d := State.ch_modCh_ne _ hd f
    rw [hch]
    exact ⟨rfl, rfl, rfl, (regulates_congr (by rw [hch])).1⟩

theorem Unmoved.modPort (s : State) (c : Ch) (f : Port → Port) (hp : (f (s.ch c).port).standing = (s.ch c).port.standing) :
    Unmoved s (s.modPort c f) := .modCh s c _ rfl rfl rfl (.inl hp)

/-- A channel moves between states in which it does not work. -/
theorem Unmoved.modCh_still (s : State) (c : Ch) (f : Channel → Channel) (h1 : (s.ch c).state.holdable = false)
    (h2 : (f (s.ch c)).state.holdable = false) (hf : (f (s.ch c)).state = .follower ↔ (s.ch c).state = .follower)
    (hp : (f (s.ch c)).port.standing = (s.ch c).port.standing) : Unmoved s (s.modCh c f) := by
  have hother : ∀ d, d ≠ c → (s.modCh c f).ch d = s.ch d := fun d hd => State.ch_modCh_ne _ hd f
  refine ⟨rfl, fun d => ?_, fun d hd => ?_, fun d => ?_, fun d => ?_⟩ <;> by_cases he : d = c
  · subst he
    have hnow : ¬Working (s.modCh d f) d := fun h => by
      have := working_holdable h
      rw [State.ch_modCh_self, h2] at this
      cases this
    have hbefore : ¬Working s d := fun h => by rw [working_holdable h] at h1; cases h1
    exact ⟨fun h => absurd h hnow, fun h => absurd h hbefore⟩
  · exact working_of_ch (hother d he) rfl
  · subst he; rw [hd] at h1; cases h1
  · rw [hother d he]; exact hd
  · subst he; rw [State.ch_modCh_self]; exact hf
  · rw [hother d he]
  · subst he; exact (regulates_congr (by rwa [State.ch_modCh_self])).1
  · exact (regulates_congr (by rw [hother d he])).1

theorem reportCh_unmoved (s : State) (c : Ch) (body : ReportBody) : Unmoved s (reportCh s c body) := .of_chans rfl rfl rfl
theorem reportPart_unmoved (s : State) (body : ReportBody) : Unmoved s (reportPart s body) := .of_chans rfl rfl rfl
theorem modLine_unmoved (s : State) (l : LineNo) (f : AlarmLine → AlarmLine) : Unmoved s (s.modLine l f) := .of_chans rfl rfl rfl
theorem modHall_unmoved (s : State) (f : Hall → Hall) : Unmoved s (s.modHall f) := .of_chans rfl rfl rfl

theorem settlingTest_unmoved (s : State) : Unmoved s (settlingTest s) := by
  unfold settlingTest
  exact .ite _ (.of_chans rfl rfl rfl) (.refl s)

theorem Obeys.unmoved (h : Obeys s c) (hu : Unmoved s t) : Obeys t c := fun d hd hr =>
  (hu.working c).2 (h d ((leaderOf_of_follower (hu.follower d)).symm.trans hd) (hu.ports d hr))

theorem Served.unmoved (h : Served e s c) (hu : Unmoved s t) : Served e t c := by
  refine ⟨fun hw => ?_, h.obeys.imp (·.unmoved hu) fun k => ⟨k.1, hu.running c k.2⟩⟩
  rw [grantOf, hu.grants]
  exact h.fed ((hu.working c).1 hw)

theorem OddFollowers.unmoved (h : OddFollowers s) (hu : Unmoved s t) : OddFollowers t := fun c hc => h c ((hu.follower c).1 hc)

theorem ServedBut.unmoved {l : List Ch} (h : ServedBut e l s) (hu : Unmoved s t) : ServedBut e l t :=
  ⟨h.odd.unmoved hu, fun c hc => (h.served c hc).unmoved hu,
    fun c hr => (h.obeyed c fun hs => hr (hu.running c hs)).unmoved hu⟩

theorem Serving.unmoved (h : Serving e s) (hu : Unmoved s t) : Serving e t :=
  ⟨h.odd.unmoved hu, fun c => (h.served c).unmoved hu⟩

/-! ### Shedding (R100 to R102) -/

theorem addCause_follower (h : (s.ch c).state = .follower) (cause : HoldCause) : addCause s c cause = s :=
  addCause_other (by rw [h]; rfl)

theorem Serving.addCause (h : Serving e s) (c : Ch) (cause : HoldCause) : Serving e (addCause s c cause) :=
  h.acts (addCause_acts s c cause) (addCause_keeps s c cause) (addCause_served h.odd (h.served c).obeyed cause).1
    fun hf => by rw [addCause_follower hf]; exact id

theorem shedOne_follower (h : (s.ch c).state = .follower) {g : Grant} (hg : g.ch = c) (x : BudgetTest) :
    Regulates (shedOne s g x) c → Regulates s c := by
  have hsame : Machine.addCause (appendResume s g.ch g.dir g.amount) g.ch .curtailed = appendResume s g.ch g.dir g.amount :=
    addCause_follower (s := appendResume s g.ch g.dir g.amount) (by rw [hg]; exact h) _
  unfold shedOne
  dsimp only
  rw [hsame]
  exact id

/-- Each channel shed works no more, its demand handed (R102). -/
theorem shedOne_served (hodd : OddFollowers s) (g : Grant) (x : BudgetTest) (ho : (s.ch g.ch).state ≠ .running → Obeys s g.ch) :
    Served e (shedOne s g x) g.ch := by
  unfold shedOne
  dsimp only
  have hadded := (addCause_served (e := e) (s := appendResume s g.ch g.dir g.amount) (c := g.ch) hodd
    (fun hs => (ho hs).of_chans rfl rfl) .curtailed).1
  exact hadded.unmoved (reportCh_unmoved _ g.ch _)

theorem shedAll_serving (l : List (Grant × BudgetTest)) {s : State} (h : ServedBut e (l.map fun x => x.1.ch) s) :
    Serving e (shedAll s l) := by
  induction l generalizing s with
  | nil => exact h.serving
  | cons x l ih =>
    exact ih (h.acts (shedOne_acts s x.1 x.2) (shedOne_keeps s x.1 x.2) (shedOne_served h.odd x.1 x.2 (h.obeyed _))
      fun hf => shedOne_follower hf rfl x.2)

theorem Removals.grants_of_not_mem {b : BudgetSettings} {cEff : Nat} {last : Option BudgetTest} {gs out : List Grant}
    {l : List (Grant × BudgetTest)} (h : Removals b cEff last gs l out) (hc : c ∉ l.map fun x => x.1.ch) :
    (out.filter fun g => g.ch = c) = gs.filter fun g => g.ch = c := by
  refine (h.sublist.filter _).eq_of_length ?_
  have hlength := (h.nodup.filter fun g => g.ch = c).length_eq
  have hnone : (l.map Prod.fst).filter (fun g => g.ch = c) = [] := by
    rw [List.filter_eq_nil_iff]
    intro g hg hgc
    obtain ⟨x, hx, rfl⟩ := List.mem_map.1 hg
    exact hc (List.mem_map.2 ⟨x, hx, by simpa using hgc⟩)
  rwa [List.filter_append, hnone, List.append_nil] at hlength

theorem Serving.shed (h : Serving e s) : Serving e (shed s) := by
  obtain ⟨htrace, -⟩ := shedLoop_removals (b := s.arb.budget) (cEff := cEffOf s) (last := none)
    (s.arb.grants.length + 1) (Nat.lt_succ_self _) (by simp)
  rcases shed_eq s with ⟨hs, -⟩ | hs
  · rw [hs]; exact h
  · rw [hs]
    generalize shedLoop s.arb.budget (cEffOf s) (s.arb.grants.length + 1) s.arb.grants = r at htrace ⊢
    exact shedAll_serving _ (h.but _ rfl rfl fun c hc => htrace.grants_of_not_mem hc)

/-! ### Evaluations (R90, R91) -/

theorem evaluate_chans (s : State) : (evaluate s).1.chans = s.chans := by
  obtain ⟨-, -, -, -, -, -, -, -, -, -, hrest, -, -⟩ := evaluate_spec s
  rw [hrest]

theorem Serving.of_chans (h : Serving e s) (hc : t.chans = s.chans) (hp : t.pool = s.pool)
    (hg : ∀ c g, grantOf s c = some g → grantOf t c = some g) : Serving e t :=
  ⟨h.odd.of_chans hc, fun c => (h.served c).of_chans hc hp fun hw => by
    obtain ⟨g, hgrant, hhold⟩ := (h.served c).fed ((working_of_ch (by rw [State.ch, State.ch, hc]) hp).1 hw)
    exact ⟨g, hg c g hgrant, hhold⟩⟩

/-- An evaluation adds its grants after those there are. -/
theorem Serving.evaluate (h : Serving e s) : Serving e (evaluate s).1 := by
  refine h.of_chans (evaluate_chans s) (evaluate_keeps s).pool fun c g hg => ?_
  obtain ⟨taken, -, hgrants, -⟩ := evaluate_lists s c
  rw [grantOf_eq_head] at hg ⊢
  rw [hgrants, List.head?_append, hg]
  rfl

theorem handOver_follower (h : (s.ch c).state = .follower) : handOver s c = s := by
  unfold handOver
  split
  · rfl
  · rw [h]

theorem Serving.handOver (h : Serving e s) (c : Ch) : Serving e (handOver s c) :=
  h.acts (handOver_acts s c) (handOver_keeps s c) (handOver_served h.odd (h.served c)) fun hf => by
    rw [handOver_follower hf]; exact id

theorem Serving.handOverAll (l : List Ch) {s : State} (h : Serving e s) : Serving e (handOverAll s l) := by
  induction l generalizing s with
  | nil => exact h
  | cons c l ih => exact ih (h.handOver c)

theorem Serving.evalDue (h : Serving e s) (x : Bool) : Serving e (s.modArb fun a => { a with evalDue := x }) :=
  h.unmoved (.of_chans rfl rfl rfl)

theorem Serving.evaluateDue (fuel : Nat) {s : State} (h : Serving e s) : Serving e (evaluateDue fuel s) := by
  induction fuel generalizing s with
  | zero => exact h.evalDue false
  | succ n ih =>
    unfold Machine.evaluateDue
    exact .ite _ (fun _ => ih ((h.evalDue false).evaluate.handOverAll _)) fun _ => h

/-- The arbiter's handling of an event. -/
theorem Serving.settle (h : Serving e s) : Serving e (settle s) := h.shed.evaluateDue _

theorem Serving.settleEvaluating (h : Serving e s) : Serving e (settleEvaluating s) := (h.evalDue true).settle

/-! ### Faults (R42, R138) -/

theorem faultChannel_served (hodd : OddFollowers s) : Served e (faultChannel s c) c := by
  have hbefore : OddFollowers (withdrawEntries (releaseGrant (grantNotLive (s.modCh c fun ch =>
      if ch.state.engaged then { ch with resume := some (resumePointOf ch) } else ch) c) c) c) := by
    refine OddFollowers.keeps (OddFollowers.modCh hodd _ fun h => ?_) (((grantNotLive_keeps _ c).trans (releaseGrant_keeps _ c)).trans
      (withdrawEntries_keeps _ c))
    split at h <;> exact h
  unfold faultChannel
  exact issue_served_of_not (hbefore.modCh _ nofun) (not_working_modCh _ nofun nofun)

theorem Serving.faultChannel (h : Serving e s) (hc : (s.ch c).state ≠ .follower) : Serving e (faultChannel s c) :=
  h.acts_single (faultChannel_acts s c) (faultChannel_keeps s c hc) (faultChannel_served h.odd) hc

theorem handOff_unmoved (s : State) (c : Ch) : Unmoved s (s.modPort c fun p => p.handNew offDemand) := by
  refine .modCh s c _ rfl rfl rfl (.inr fun x hx => ?_)
  cases (handNew_standing _ _).symm.trans hx
  exact nofun

theorem Serving.respond (h : Serving e s) (c : Ch) : Serving e (respond s c) := by
  unfold Machine.respond
  split
  · exact h
  · exact h.unmoved (handOff_unmoved s c)
  · exact h.faultChannel ‹_›

theorem setWarned_unmoved (s : State) (c : Ch) (k : FaultKind) (w : Bool) : Unmoved s (s.modCh c fun ch => setWarned ch k w) := by
  refine .modCh s c _ ?_ ?_ ?_ (.inl ?_) <;> cases k <;> rfl

theorem Serving.offerOne (h : Serving e s) (c : Ch) (k : FaultKind) (value : Int) : Serving e (offerOne s c k value) := by
  unfold Machine.offerOne
  split
  · unfold warnKind
    exact .ite _ (fun _ => h) fun _ => h.unmoved ((setWarned_unmoved s c k true).trans (reportCh_unmoved _ c _))
  · split
    · exact h
    · unfold latchKind
      dsimp only
      have hresponded := (h.unmoved (Unmoved.modCh s c (fun ch => { ch with
        latched := addKind ch.latched k
        firstFault := if ch.latched = 0 then some ⟨k, (s.ch c).stepIndex, (s.ch c).stepTime, value, s.hall.partTime⟩
          else ch.firstFault }) rfl rfl rfl (.inl rfl))).respond c
      exact .ite _ (fun _ => (hresponded.unmoved (reportCh_unmoved _ c _)).unmoved (settlingTest_unmoved _)) fun _ =>
        hresponded.unmoved (reportCh_unmoved _ c _)

theorem Serving.offer (h : Serving e s) (c : Ch) (k : FaultKind) (value : Int) : Serving e (offer s c k value) := by
  unfold Machine.offer
  exact Serving.settle (.ite _ (fun _ => (h.offerOne c k value).offerOne _ _ _) fun _ => h.offerOne c k value)

theorem Serving.offerUnsafe (h : Serving e s) (c : Ch) (tag : BitVec 4) : Serving e (offerUnsafe s c tag) :=
  (h.unmoved (Unmoved.modCh s c _ rfl rfl rfl (.inl rfl))).offer c _ _

/-! ### Causes (R33, R34) -/

theorem Serving.holdChannel (h : Serving e s) (c : Ch) (cause : HoldCause) : Serving e (holdChannel s c cause) :=
  (h.addCause c cause).settle

theorem removeCauses_follower (h : (s.ch c).state = .follower) (f : HoldCauses → HoldCauses) :
    removeCauses s c f = s.modCh c fun ch => { ch with holds := f ch.holds } := by
  unfold removeCauses
  refine if_neg ?_
  rintro ⟨hs, -⟩
  rw [State.ch_modCh_self] at hs
  exact nomatch h.symm.trans hs

theorem Serving.removeCauses (h : Serving e s) (c : Ch) (f : HoldCauses → HoldCauses) : Serving e (removeCauses s c f) := by
  refine h.acts (removeCauses_acts s c f) (removeCauses_keeps s c f) (removeCauses_served h.odd (h.served c) f) fun hf => ?_
  rw [removeCauses_follower hf]
  exact (regulates_congr (by rw [State.ch_modCh_self])).1

theorem Serving.unholdChannel (h : Serving e s) (c : Ch) (f : HoldCauses → HoldCauses) : Serving e (unholdChannel s c f) :=
  (h.removeCauses c f).settle

theorem Serving.followCover (before : Ch → Bool) (l : List Ch) {s : State} (h : Serving e s) :
    Serving e (followCover before s l) := by
  induction l generalizing s with
  | nil => exact h
  | cons c l ih =>
    refine ih ?_
    exact .ite _ (fun _ => h.holdChannel c .chamber) fun _ => .ite _ (fun _ => h.unholdChannel c _) fun _ => h

theorem Serving.offerAlarm (line : LineNo) (p : Ch → Bool) (l : List Ch) {s : State} (h : Serving e s) :
    Serving e (offerAlarm line p s l) := by
  induction l generalizing s with
  | nil => exact h
  | cons c l ih => exact ih (.ite _ (fun _ => h.offer c _ _) fun _ => h)

/-! ### The end of a run (R32, R37, R38) -/

theorem finishStop_unmoved (h : (s.ch c).state = .stopping) : Unmoved s (finishStop s c) := by
  refine .modCh_still s c _ (by rw [h]; rfl) ?_ ?_ rfl <;> cases (s.ch c).stopDest <;> simp [StopDest.state, ChState.holdable, h]

theorem portSettled_unmoved (s : State) (c : Ch) : Unmoved s (portSettled s c) := by
  unfold portSettled
  dsimp only
  refine Unmoved.trans ?_ (settlingTest_unmoved _)
  split
  · exact finishStop_unmoved (And.left ‹_›)
  · exact .refl s

theorem enterStopping_served (hodd : OddFollowers s) (dest : StopDest) (absentCounts : Bool) :
    Served e (enterStopping s c dest absentCounts) c := by
  unfold enterStopping
  dsimp only
  have hissued : Served e (issue (s.modCh c fun ch => { ch with state := .stopping, stopDest := dest }) c) c :=
    issue_served_of_not (hodd.modCh _ nofun) (not_working_modCh _ nofun nofun)
  split
  · refine hissued.unmoved (finishStop_unmoved ?_)
    rw [issue_state, State.ch_modCh_self]
  · exact hissued

/-- A channel that leaves the arbiter's collections for STOPPING, its own figures changed on the way (R32, R37, R44). -/
theorem Serving.stops (h : Serving e s) (hc : (s.ch c).state ≠ .follower) (ha : ActsOn c s t) (hk : Keeps s t) (dest : StopDest)
    (absentCounts : Bool) : Serving e (enterStopping t c dest absentCounts) := by
  have ht : (t.ch c).state ≠ .follower := fun hs => hc ((hk.chans c).follower.1 hs)
  exact h.acts_single (ha.trans (enterStopping_acts t c dest absentCounts))
    (hk.trans (enterStopping_keeps t c dest absentCounts ht)) (enterStopping_served (h.odd.keeps hk) dest absentCounts) hc

theorem Serving.stopChannel (h : Serving e s) (hc : (s.ch c).state ≠ .follower) : Serving e (stopChannel s c) := by
  unfold Machine.stopChannel
  have hk : Keeps s ((withdrawEntries (releaseGrant s c) c).modCh c fun ch =>
      { ch.stopTimers with holds := HoldCauses.empty, heldBefore := false }) := by
    refine ((releaseGrant_keeps s c).trans (withdrawEntries_keeps _ c)).trans (Keeps.modCh _ c _ ?_)
    constructor <;> first | rfl | exact Iff.rfl | exact id
  exact (h.stops hc (((releaseGrant_acts s c).trans (withdrawEntries_acts _ c)).trans (ActsOn.modCh c _ _)) hk _ _).settle

end

end Sys2Proof.Machine
end

section
/-! PROOF. O59, continued: the period event, the readings, the timers and the hall lines keep the law of R46. -/
namespace Sys2Proof.Machine
open Sys2Proof.Safety

section
variable {e : Option Ch} {s t u : State} {c d : Ch}

/-! ### The end of a step (R29 to R32) -/

theorem toldOf_keeps (s : State) (c : Ch) (r : StepRecord) (reason : EndReason) (action : Action) :
    Keeps s (toldOf s c r reason action) :=
  ((grantNotLive_keeps s c).trans (reportCh_keeps _ c _)).trans (Keeps.modCh _ c Channel.stopTimers (stopTimers_keeps _))

theorem walkOn_keeps (s : State) (c : Ch) (j : Nat) (hold : Bool) (hc : (s.ch c).state ≠ .follower) :
    Keeps s (walkOn s c j hold) := by
  have hwalk := walkFrom_keeps 1024 s c j
  unfold walkOn
  split
  · exact hwalk.trans (landOn_keeps _ c _ _ (state_ne_follower hwalk hc))
  · exact hwalk.trans (scheduleEnd_keeps _ c _ _ (state_ne_follower hwalk hc))

theorem stepEnded_keeps (s : State) (c : Ch) (r : StepRecord) (reason : EndReason) (action : Action)
    (hc : (s.ch c).state ≠ .follower) : Keeps s (stepEnded s c r reason action) := by
  have htold := toldOf_keeps s c r reason action
  unfold stepEnded
  split
  · exact htold.trans (scheduleEnd_keeps _ c _ _ (state_ne_follower htold hc))
  · exact htold.trans (walkOn_keeps _ c _ _ (state_ne_follower htold hc))

theorem walkFrom_running (fuel : Nat) (j : Nat) (hr : (s.ch c).state = .running) :
    ((walkFrom fuel s c j).1.ch c).state = .running :=
  (((walkFrom_neutral fuel s c j).alike.chans c).2 (by rw [hr]; rfl)).1.trans hr

/-- A RUNNING channel that lands on a step is served, but for a blank step, on which it stays RUNNING until stage 8 refreshes
its demand (R31, R54). -/
theorem landOn_served (hodd : OddFollowers s) (hr : (s.ch c).state = .running) (k : Nat) (hold : Bool) :
    Served (some c) (landOn s c k hold) c := by
  have hprepared := hodd.keeps (prepareStep_keeps s c k hold)
  have hrunning : ((prepareStep s c k hold).ch c).state = .running := (prepareStep_state k hold).trans hr
  unfold landOn
  dsimp only
  split
  · refine (addCause_served (hprepared.modCh _ id) (fun hn => absurd ?_ hn) .endHold).1
    rwa [State.ch_modCh_self]
  · refine beginStep_served hprepared fun hblank => ⟨.of_not ?_, .inr ⟨rfl, hrunning⟩⟩
    rintro (hs | ⟨-, x, hx, -⟩)
    · rw [hrunning] at hs; cases hs
    · rw [hblank] at hx; cases hx

theorem completeSchedule_served (hodd : OddFollowers s) (reason : ScheduleEnd) :
    Served e (completeSchedule s c reason) c := by
  unfold completeSchedule
  refine enterStopping_served (OddFollowers.modCh ?_ _ id) _ _
  exact hodd.keeps (((reportCh_keeps s c _).trans (releaseGrant_keeps _ c)).trans (withdrawEntries_keeps _ c))

theorem scheduleEnd_served (hodd : OddFollowers s) (hr : (s.ch c).state = .running) (reason : ScheduleEnd) (hold : Bool) :
    Served (some c) (scheduleEnd s c reason hold) c := by
  have hswapped : ∀ body, OddFollowers (walkFrom 1024 ((reportCh s c body).modCh c Channel.carryOutSwap) c 0).1 := fun body =>
    (OddFollowers.modCh (hodd.keeps (reportCh_keeps s c body)) Channel.carryOutSwap id).keeps (walkFrom_keeps 1024 _ c 0)
  unfold scheduleEnd
  dsimp only
  split
  · split
    · exact landOn_served (hswapped _) (walkFrom_running _ _ (by rw [State.ch_modCh_self]; exact hr)) _ _
    · exact completeSchedule_served (hswapped _) _
  · exact completeSchedule_served hodd _

theorem walkOn_served (hodd : OddFollowers s) (hr : (s.ch c).state = .running) (j : Nat) (hold : Bool) :
    Served (some c) (walkOn s c j hold) c := by
  have hwalked := hodd.keeps (walkFrom_keeps 1024 s c j)
  unfold walkOn
  split
  · exact landOn_served hwalked (walkFrom_running _ _ hr) _ _
  · exact scheduleEnd_served hwalked (walkFrom_running _ _ hr) _ _

theorem stepEnded_served (hodd : OddFollowers s) (hr : (s.ch c).state = .running) (r : StepRecord) (reason : EndReason)
    (action : Action) : Served (some c) (stepEnded s c r reason action) c := by
  have htold := hodd.keeps (toldOf_keeps s c r reason action)
  have hrunning : ((toldOf s c r reason action).ch c).state = .running := by
    unfold toldOf
    rw [State.ch_modCh_self]
    exact hr
  unfold stepEnded
  split
  · exact scheduleEnd_served htold hrunning _ _
  · exact walkOn_served htold hrunning _ _

theorem Serving.endStep (h : Serving (some c) s) (hr : (s.ch c).state = .running) (r : StepRecord) (reason : EndReason)
    (action : Action) : Serving (some c) (endStep s c r reason action) := by
  have hc : (s.ch c).state ≠ .follower := by rw [hr]; exact nofun
  rw [endStep_eq]
  exact (h.acts_single (stepEnded_acts s c r reason action) (stepEnded_keeps s c r reason action hc)
    (stepEnded_served h.odd hr r reason action) hc).settle

/-! ### Playback (R113 to R119) -/

theorem Serving.goIntoUnderrun (h : Serving e s) (c : Ch) : Serving e (goIntoUnderrun s c) := by
  unfold Machine.goIntoUnderrun
  dsimp only
  exact .ite _ (fun _ => (h.unmoved (.modCh s c _ rfl rfl rfl (.inl rfl))).offer c _ _) fun _ =>
    h.unmoved (.modCh s c _ rfl rfl rfl (.inl rfl))

theorem Serving.restartUnderrun (h : Serving e s) (c : Ch) : Serving e (restartUnderrun s c) := by
  unfold Machine.restartUnderrun
  split
  · exact .ite _ (fun _ => h.goIntoUnderrun c) fun _ => h
  · exact h

theorem lowWaterTest_unmoved (s : State) (c : Ch) : Unmoved s (lowWaterTest s c) := by
  unfold lowWaterTest
  exact .ite _ ((Unmoved.modCh s c _ rfl rfl rfl (.inl rfl)).trans (reportCh_unmoved _ c _)) (.refl s)

theorem Serving.advancePlayback (h : Serving e s) (c : Ch) (counted : Bool) : Serving e (advancePlayback s c counted) := by
  obtain ⟨p, q, hadvance⟩ := advancePoint_eq (s.ch c) counted
  have hpoint : Unmoved s (s.modCh c fun _ => (advancePoint (s.ch c) counted).1) := by
    rw [hadvance]; exact .modCh s c _ rfl rfl rfl (.inl rfl)
  have hplayed := h.unmoved (hpoint.trans (.ite ((advancePoint (s.ch c) counted).2 = true) (lowWaterTest_unmoved _ c) (.refl _)))
  exact .ite _ (fun _ => hplayed.goIntoUnderrun c) fun _ => hplayed

/-! ### The stages of a period event (R54) -/

theorem Serving.missPeriod (h : Serving e s) (c : Ch) : Serving e (missPeriod s c) := by
  unfold Machine.missPeriod
  dsimp only
  have hmissed := fun n : Channel → Nat =>
    h.unmoved (Unmoved.modCh s c (fun ch => { ch with held := true, missed := n ch }) rfl rfl rfl (.inl rfl))
  exact .ite _ (fun _ => (hmissed _).offer c _ _) fun _ => hmissed _

theorem Serving.limitCheck (h : Serving e s) (c : Ch) (v : Nat) (i x : Int) (k : FaultKind) (value : Int) :
    Serving e (limitCheck s c v i x k value) := by
  unfold Machine.limitCheck
  exact .ite _ (fun _ => h.offer c _ _) fun _ => h.unmoved (setWarned_unmoved s c k false)

theorem Serving.voltageChecks (h : Serving e s) (c : Ch) (v : Nat) (i x : Int) : Serving e (voltageChecks s c v i x) :=
  (h.limitCheck c v i x .limitVHigh v).limitCheck c v i x .limitVLow v

theorem Serving.temperatureChecks (h : Serving e s) (c : Ch) (v : Nat) (i x : Int) : Serving e (temperatureChecks s c v i x) :=
  (h.limitCheck c v i x .limitTHigh x).limitCheck c v i x .limitTLow x

theorem Serving.completePack (h : Serving e s) (c : Ch) (takenL takenF : Bool) : Serving e (completePack s c takenL takenF) := by
  unfold Machine.completePack
  have hpack := fun p => h.unmoved (Unmoved.modCh s c (fun ch => { ch with pack := p }) rfl rfl rfl (.inl rfl))
  have hchecks := fun p : PackReading => Serving.ite (e := e) ((takenL || takenF) = true)
    (fun _ => ((hpack p).voltageChecks c p.v p.i p.t).temperatureChecks c p.v p.i p.t) fun _ => hpack p
  exact .ite _ (fun _ => .ite _ (fun _ => (hchecks _).offer c _ _) fun _ => (hchecks _).unmoved (setWarned_unmoved _ c _ _))
    fun _ => hchecks _

theorem Serving.stageSettle (h : Serving e s) (c : Ch) (taken partnerTaken packDone : Bool) :
    Serving e (stageSettle s c taken partnerTaken packDone) := by
  unfold Machine.stageSettle
  have hown := Serving.ite (e := e) (taken = true) (fun _ => h) fun _ => h.missPeriod c
  have hboth := Serving.ite (e := e) (partnerTaken = true) (fun _ => hown) fun _ => hown.missPeriod (partner c)
  exact .ite _ (fun _ => .ite _ (fun _ => hboth) fun _ => hboth.completePack c _ _) fun _ => hown

theorem stageTime_unmoved (s : State) (c : Ch) (n : Nat) : Unmoved s (stageTime s c n) := by
  unfold stageTime
  exact .ite _ (.modCh s c _ rfl rfl rfl (.inl rfl)) (.refl s)

theorem integratePeriod_unmoved (s : State) (c : Ch) (n : Nat) : Unmoved s (integratePeriod s c n) := by
  unfold integratePeriod
  refine .ite _ (.modCh s c _ ?_ ?_ ?_ (.inl ?_)) (.refl s) <;> unfold Channel.integrate <;> dsimp only <;>
    repeat' first | rfl | split

theorem stagePeak_unmoved (s : State) (c : Ch) (taken : Bool) : Unmoved s (stagePeak s c taken) := by
  unfold stagePeak
  exact .ite _ (.modCh s c _ rfl rfl rfl (.inl rfl)) (.refl s)

theorem grantLive_granted {g : Grant} (hg : grantOf s c = some g) : grantOf (grantLive s c) c = some { g with live := true } := by
  rw [grantOf_eq_head] at hg ⊢
  have hmap := modGrant_grantsOf s c (fun g => { g with live := true }) fun _ => rfl
  exact (congrArg List.head? hmap).trans (by rw [List.head?_map, hg]; rfl)

/-- A channel whose stage start completes keeps the grant it held; its demand is refreshed at stage 8 (R27, R54). -/
theorem Serving.stageStart (h : Serving (some c) s) (taken : Bool) : Serving (some c) (stageStart s c taken) := by
  unfold Machine.stageStart
  refine .ite _ (fun hs => Serving.restartUnderrun (Serving.settle ?_) c) fun _ => h
  have hc : (s.ch c).state ≠ .follower := by rw [hs.1]; exact nofun
  obtain ⟨g, hg, hhold⟩ := (h.served c).fed (.inl hs.1)
  have hkeeps : Keeps s (s.modCh c fun ch => { ch with state := .running, startTimer := none }) := by
    refine Keeps.modCh s c _ ?_
    constructor <;> first | rfl | exact id | exact ⟨nofun, fun x => absurd x hc⟩
  refine h.acts_single ((ActsOn.modCh c s _).trans (grantLive_acts _ c)) (hkeeps.trans (grantLive_keeps _ c)) ?_ hc
  refine ⟨fun _ => ⟨_, grantLive_granted hg, hhold⟩, .inr ⟨rfl, ?_⟩⟩
  show ((s.modCh c fun ch => { ch with state := .running, startTimer := none }).ch c).state = .running
  rw [State.ch_modCh_self]

theorem Serving.stagePlay (h : Serving e s) (c : Ch) (counted : Bool) : Serving e (stagePlay s c counted) := by
  unfold Machine.stagePlay
  split
  · exact .ite _ (fun _ => h.advancePlayback c counted) fun _ => h
  · exact h

theorem Serving.stageTests (h : Serving (some c) s) (taken : Bool) : Serving (some c) (stageTests s c taken) := by
  unfold Machine.stageTests
  refine .ite _ (fun hr => ?_) fun _ => h
  have hrunning : (s.ch c).state = .running := by simpa [isRunning] using hr
  have hcounted : ∀ x, Serving (some c) (s.modCh c fun ch => { ch with confirms := x }) := fun x =>
    h.unmoved (.modCh s c _ rfl rfl rfl (.inl rfl))
  have hstill : ∀ x, ((s.modCh c fun ch => { ch with confirms := x }).ch c).state = .running := fun x => by
    rw [State.ch_modCh_self]; exact hrunning
  unfold endTests
  split
  · exact h
  · dsimp only
    split
    · exact (hcounted _).endStep (hstill _) _ _ _
    · exact .ite _ (fun _ => (hcounted _).endStep (hstill _) _ _ _) fun _ => hcounted _

/-- The refresh of the demand at stage 8 makes good what the earlier stages left (R46, R54). -/
theorem Serving.stageRefresh (h : Serving (some c) s) : Serving none (stageRefresh s c) := by
  have hother : ∀ d, d ≠ c → Served none s d := fun d hd =>
    ⟨(h.served d).fed, .inl ((h.served d).obeys.resolve_right fun k => hd (Option.some.inj k.1).symm)⟩
  unfold Machine.stageRefresh
  refine .ite _ (fun hs => ?_) fun hn => ⟨h.odd, fun d => ?_⟩
  · have hc : (s.ch c).state ≠ .follower := by rcases hs with hs | hs <;> rw [hs] <;> exact nofun
    refine ⟨h.odd.keeps (issue_keeps s c), fun d => ?_⟩
    by_cases hd : d = c
    · rw [hd]; exact issue_served h.odd (h.served c).fed
    · exact (hother d hd).acts hd (issue_acts s c) (issue_keeps s c) fun hf => absurd hf hc
  · by_cases hd : d = c
    · subst hd
      exact ⟨(h.served d).fed, .inl ((h.served d).obeyed fun hr => hn (.inr hr))⟩
    · exact hother d hd

theorem Serving.stagesLater (h : Serving none s) (c : Ch) (taken counted : Bool) : Serving none (stagesLater s c taken counted) := by
  unfold Machine.stagesLater
  exact .ite _ (fun _ => h) fun _ => ((((h.excuse (some c)).unmoved (stagePeak_unmoved s c taken)).stageStart taken).stagePlay c
    counted).stageTests taken |>.stageRefresh

theorem restartPeriod_unmoved (s : State) (c : Ch) : Unmoved s (restartPeriod s c) := by
  have hfold : ∀ (l : List Ch) (t : State), Unmoved s t →
      Unmoved s (l.foldl (fun t d => t.modCh d fun ch => { ch with periodLength := periodInForce s c }) t) := by
    intro l
    induction l with
    | nil => exact fun t h => h
    | cons d l ih => exact fun t h => ih _ (h.trans (.modCh t d _ rfl rfl rfl (.inl rfl)))
  exact hfold _ _ (.refl s)

theorem openPeriod_unmoved (s : State) (c : Ch) (n : Nat) : Unmoved s (openPeriod s c n) :=
  .modCh s c _ rfl rfl rfl (.inl (openPeriod_get _ Port.standing))

theorem Serving.periodEventOf (h : Serving none s) (c : Ch) : Serving none (periodEventOf s c) := by
  have hopen : ∀ n, Unmoved s (if isLeader s c then openPeriod (openPeriod s c n) (partner c) n else openPeriod s c n) :=
    fun n => .ite _ ((openPeriod_unmoved s c n).trans (openPeriod_unmoved _ _ n)) (openPeriod_unmoved s c n)
  have hsettle := (h.unmoved (hopen (periodInForce s c))).stageSettle c (s.ch c).taken (s.ch (partner c)).taken (s.ch c).packDone
  unfold Machine.periodEventOf
  dsimp only
  refine Serving.unmoved (Serving.stagesLater (Serving.unmoved (Serving.ite _ (fun _ => hsettle) fun _ => ?_)
    (integratePeriod_unmoved _ c _)) c _ _) (restartPeriod_unmoved _ c)
  exact hsettle.unmoved (stageTime_unmoved _ c _)

/-! ### Readings and confirmations (R53, R160, R161) -/

theorem makePresent_unmoved (s : State) (c : Ch) : Unmoved s (makePresent s c) := by
  unfold makePresent
  have hport := Unmoved.modPort s c Port.becomePresent (becomePresent_standing _)
  exact .ite _ (.refl s) (.ite _ (hport.trans (portSettled_unmoved _ c)) hport)

theorem Serving.stageFlags (h : Serving e s) (c : Ch) (rd : Reading) : Serving e (stageFlags s c rd) := by
  unfold Machine.stageFlags
  dsimp only
  have hflags := fun v => Serving.ite (e := e) ((rd.fault || rd.interlock) = true) (fun _ => h.offer c .stageReported v) fun _ => h
  exact ((hflags _).unmoved (.ite _ (reportCh_unmoved _ c _) (.refl _))).unmoved (.modCh _ c _ rfl rfl rfl (.inl rfl))

theorem Serving.readingChecks (h : Serving e s) (c : Ch) (rd : Reading) : Serving e (readingChecks s c rd) := by
  unfold Machine.readingChecks
  exact .ite _ (fun _ => h.limitCheck c _ _ _ _ _) fun _ =>
    ((h.voltageChecks c _ _ _).limitCheck c _ _ _ _ _).temperatureChecks c _ _ _

theorem Serving.takeReading (h : Serving e s) (c : Ch) (raw : RawReading) : Serving e (takeReading s c raw) := by
  have hkept : ∀ rd : Reading, Serving e (makePresent (Machine.stageFlags (Machine.readingChecks (s.modCh c fun ch =>
      { ch with last := rd, held := false, missed := 0, taken := true,
                unsafeFlag := if rd.reg = .off then false else ch.unsafeFlag }) c rd) c rd) c) := fun rd =>
    (((h.unmoved (.modCh s c _ rfl rfl rfl (.inl rfl))).readingChecks c rd).stageFlags c rd).unmoved (makePresent_unmoved _ c)
  unfold Machine.takeReading
  exact .ite _ (fun _ => ((hkept _).unmoved (.modCh _ _ _ rfl rfl rfl (.inl rfl))).completePack _ _ _) fun _ => hkept _

theorem Serving.readingArrives (h : Serving e s) (c : Ch) (after : Bool) (raw : RawReading) :
    Serving e (readingArrives s c after raw) := by
  unfold Machine.readingArrives
  exact .ite _ (fun _ => (h.unmoved (.modPort s c _ rfl)).takeReading c raw) fun _ => h.unmoved (.modPort s c _ rfl)

theorem retire_standing (p : Port) (t : Tagged) : (p.retire t).standing = p.standing := by
  unfold Port.retire
  dsimp only
  split
  · exact send_standing _ _
  · rfl

theorem confirmArrives_unmoved (s : State) (c : Ch) (tag : Byte) : Unmoved s (confirmArrives s c tag) := by
  unfold confirmArrives
  split
  · exact .modPort s c _ rfl
  · have hport := Unmoved.modPort s c (fun p => p.retire ‹Tagged›) (retire_standing _ _)
    exact .ite _ (.ite _ (hport.trans (portSettled_unmoved _ c)) hport) (.modPort s c _ rfl)

theorem Serving.confirmationExpires (h : Serving e s) (c : Ch) : Serving e (confirmationExpires s c) := by
  unfold Machine.confirmationExpires
  split
  · rename_i t _ _
    have hoffered := (h.unmoved (Unmoved.modPort s c (fun p => { p with confTimer := none }) rfl)).offer c .stageNoAck t.tag.toNat
    exact (Serving.ite _ (fun _ => hoffered.offerUnsafe c t.tag) fun _ => hoffered).unmoved
      (.modPort _ c _ (pressOn_get _ Port.standing))
  · exact h

theorem transmitNext_standing (p : Port) : p.transmitNext.standing = p.standing := by
  unfold Port.transmitNext
  repeat' first | rfl | split

theorem whollySent_standing (p : Port) (n : Nat) : (p.whollySent n).standing = p.standing := by
  unfold Port.whollySent
  split
  · rfl
  · dsimp only
    rw [transmitNext_standing]
    repeat' first | rfl | split

/-! ### The timers (R26, R27, R95, R98, R119) -/

theorem Serving.gapTimerExpires (h : Serving e s) (c : Ch) : Serving e (gapTimerExpires s c) := by
  unfold Machine.gapTimerExpires
  refine .ite _ (fun hs => ?_) fun _ => h
  have hc : (s.ch c).state ≠ .follower := by rw [hs.1]; exact nofun
  have hgap : Serving e (gapExpires s c) := h.acts_single (gapExpires_acts s c) (gapExpires_keeps s c hc) (gapExpires_served h.odd) hc
  exact .ite _ (fun _ => hgap.settle) fun _ => hgap

theorem Serving.startTimerExpires (h : Serving e s) (c : Ch) : Serving e (startTimerExpires s c) :=
  .ite _ (fun _ => (h.unmoved (.modCh s c _ rfl rfl rfl (.inl rfl))).offer c _ _) fun _ => h

/-- A channel whose grant is idle does not work, and may lose the grant. -/
theorem Serving.grantHoldExpires (h : Serving e s) (c : Ch) : Serving e (grantHoldExpires s c) := by
  unfold Machine.grantHoldExpires
  split
  · exact h
  · rename_i g hg
    refine .ite _ (fun hs => Serving.settle ?_) fun _ => h
    have hidle : ¬Working s c := fun hw => by
      obtain ⟨x, hx, hhold⟩ := (h.served c).fed hw
      rw [hg] at hx
      cases hx
      rw [hhold] at hs
      cases hs
    have hchans := releaseGrant_chans s c
    have hkeeps := releaseGrant_keeps s c
    refine h.acts (releaseGrant_acts s c) hkeeps ((h.served c).of_chans hchans hkeeps.pool
      (.of_not (not_working_of_chans hidle hchans hkeeps.pool))) fun _ => (regulates_congr ?_).1
    rw [State.ch, State.ch, hchans]

theorem Serving.waitTimerExpires (h : Serving e s) (c : Ch) : Serving e (waitTimerExpires s c) := by
  unfold Machine.waitTimerExpires
  refine .ite _ (fun _ => ?_) fun _ => h
  split
  · exact h.unmoved (.of_chans rfl rfl rfl)
  · exact h.offer c _ _

theorem Serving.underrunExpires (h : Serving e s) (c : Ch) : Serving e (underrunExpires s c) :=
  .ite _ (fun _ => (h.unmoved (.modCh s c _ rfl rfl rfl (.inl rfl))).offer c _ _) fun _ => h

/-! ### The hall lines (R147 to R153, R176, R177) -/

theorem Serving.alarmRawChange (h : Serving e s) (line : LineNo) (level : Bool) : Serving e (alarmRawChange s line level) := by
  have hraw := h.unmoved (modLine_unmoved s line fun l => l.setRaw level)
  exact .ite _ (fun _ => h) fun _ => .ite _ (fun _ => hraw.offerAlarm _ _ _) fun _ => hraw

theorem Serving.alarmDebounceExpires (h : Serving e s) (line : LineNo) : Serving e (alarmDebounceExpires s line) :=
  .ite _ (fun _ => h) fun _ =>
    (h.unmoved ((modLine_unmoved s line _).trans (reportPart_unmoved _ _))).followCover _ _

theorem respond_state (s : State) (c : Ch) :
    ((respond s c).ch c).state = .follower ∨ ((respond s c).ch c).state = .faulted := by
  unfold respond
  split
  · exact .inr ‹_›
  · left; rw [State.ch_modPort_self]; assumption
  · exact .inr (faultChannel_places s c).2

theorem not_working_of_stopped (h : (s.ch c).state = .follower ∨ (s.ch c).state = .faulted) : ¬Working s c := by
  rcases h with h | h <;> exact not_working_of_state (by rw [h]; exact nofun) (by rw [h]; exact nofun)

/-- A channel that answers a kind just latched is served, whatever grant it has lost (R138). -/
theorem respond_served (hodd : OddFollowers s) (ho : (s.ch c).state ≠ .running → Obeys s c) : Served e (respond s c) c := by
  unfold respond
  split
  · rename_i hs
    exact .of_not (not_working_of_stopped (.inr hs)) (ho (by rw [hs]; exact nofun))
  · rename_i hs
    exact (Served.of_not (not_working_of_stopped (.inl hs)) (ho (by rw [hs]; exact nofun))).unmoved (handOff_unmoved s c)
  · exact faultChannel_served hodd

theorem respond_ports (hf : (s.ch c).state = .follower) (h : Regulates (respond s c) c) : Regulates s c := by
  unfold respond at h
  rw [hf] at h
  exact (handOff_unmoved s c).ports c h

end

end Sys2Proof.Machine
end

section
/-! PROOF. O59, continued: the hall stop line, the pausing and the waking of the hall, and every event keep the law of R46. -/
namespace Sys2Proof.Machine
open Sys2Proof.Safety

section
variable {e : Option Ch} {s t u : State} {c d : Ch}

/-! ### The hall stop line (R152, R153) -/

theorem latchKind_unmoved (s : State) (c : Ch) (k : FaultKind) (value : Int) :
    Unmoved (responded s c k value) (latchKind s c k value) := by
  rw [latchKind_eq]
  exact .ite _ ((reportCh_unmoved _ c _).trans (settlingTest_unmoved _)) (reportCh_unmoved _ c _)

/-- A channel that holds HALL_STOP is FAULTED or a follower. -/
def Stopped (s : State) : Prop :=
  ∀ c, hasKind (s.ch c).latched .hallStop = true → (s.ch c).state = .follower ∨ (s.ch c).state = .faulted

theorem Stopped.of_faults (h : FaultsSound s) : Stopped s := by
  intro c hc
  by_cases hf : (s.ch c).state = .follower
  · exact .inl hf
  · refine .inr ((h.faulted c hf).2 fun hz => ?_)
    rw [hz, hasKind_zero] at hc
    cases hc

/-- HALL_STOP offered to the first of the channels whose grants are gone. -/
theorem offerHallStop_first {l : List Ch} (h : ServedBut e (c :: l) s) (hstop : Stopped s) :
    ServedBut e l (offerOne s c .hallStop 0) ∧ Stopped (offerOne s c .hallStop 0) := by
  have hoffer : offerOne s c .hallStop 0 = if hasKind (s.ch c).latched .hallStop then s else latchKind s c .hallStop 0 := rfl
  rw [hoffer]
  split
  · rename_i hk
    have hstate := hstop c hk
    exact ⟨h.acts (.refl c s) (.refl s) (.of_not (not_working_of_stopped hstate)
      (h.obeyed c (by rcases hstate with hs | hs <;> rw [hs] <;> exact nofun))) fun _ => id, hstop⟩
  · obtain ⟨v, hv⟩ : ∃ v, v = s.modCh c fun ch =>
      { ch with
        latched := addKind ch.latched .hallStop
        firstFault := if ch.latched = 0 then some ⟨.hallStop, (s.ch c).stepIndex, (s.ch c).stepTime, 0, s.hall.partTime⟩
          else ch.firstFault } := ⟨_, rfl⟩
    have hresponded : responded s c .hallStop 0 = respond v c := by rw [hv]; rfl
    have hlatched : ServedBut e (c :: l) v := by rw [hv]; exact h.unmoved (.modCh s c _ rfl rfl rfl (.inl rfl))
    have hacts := respond_acts v c
    constructor
    · refine ServedBut.unmoved ?_ (latchKind_unmoved s c _ _)
      rw [hresponded]
      exact hlatched.acts hacts (respond_keeps v c) (respond_served hlatched.odd (hlatched.obeyed c)) respond_ports
    · intro d hd
      rw [latchKind_ch, hresponded] at hd ⊢
      by_cases hdc : d = c
      · subst hdc; exact respond_state v d
      · have hport : OnlyPort (v.ch d) ((respond v c).ch d) := hacts.chans d hdc
        have hsame : v.ch d = s.ch d := by rw [hv, State.ch_modCh_ne _ hdc]
        rw [hsame] at hport
        rw [OnlyPort.state hport]
        rw [hport] at hd
        exact hstop d hd

theorem ServedBut.offerHallStop (l : List Ch) {s : State} (h : ServedBut e l s) (hstop : Stopped s) :
    Serving e (offerHallStop s l).1 := by
  induction l generalizing s with
  | nil => exact h.serving
  | cons c l ih =>
    obtain ⟨h1, h2⟩ := offerHallStop_first h hstop
    exact ih h1 h2

theorem Serving.passHallStop (newly l : List Ch) {s : State} (h : Serving e s) : Serving e (passHallStop newly s l) := by
  induction l generalizing s with
  | nil => exact h
  | cons c l ih => exact ih (.ite _ (fun _ => h.offerOne _ _ _) fun _ => h)

/-- Every collection of the arbiter emptied. -/
theorem Serving.emptied (h : Serving e s) (hc : t.chans = s.chans) (hp : t.pool = s.pool) : ServedBut e allCh t :=
  h.but allCh hc hp fun c hl => absurd (mem_allCh c) hl

theorem Serving.hallStopActs (h : Serving e s) (hstop : Stopped s) : Serving e (hallStopActs s) := by
  have hempty : ServedBut e allCh (reportPart (emptyCollections s) (.hallStopAlarm true)) := h.emptied rfl rfl
  exact ((hempty.offerHallStop allCh hstop).passHallStop _ _).settle

/-! ### Pausing and waking the hall (R170, R173) -/

theorem ServedBut.pauseAll (l : List Ch) {s : State} (h : ServedBut e l s) : Serving e (pauseAll s l) := by
  induction l generalizing s with
  | nil => exact h.serving
  | cons c l ih =>
    exact ih (h.acts (addCause_acts s c .pause) (addCause_keeps s c .pause) (addCause_served h.odd (h.obeyed c) .pause).1
      fun hf => by rw [addCause_follower hf]; exact id)

theorem Serving.pauseHall (h : Serving e s) : Serving e (pauseHall s) := by
  unfold Machine.pauseHall
  have hempty : ServedBut e allCh (enterHall (emptyCollections (s.modHall fun x => { x with pauseOrder := pauseOrderOf s }))
      .pausing .pauseHall (some (pauseOrderOf s)) none) := h.emptied rfl rfl
  exact (hempty.pauseAll allCh).settle.unmoved (settlingTest_unmoved _)

theorem appendAll_unmoved (l : List PauseEntry) (s : State) : Unmoved s (appendAll s l) := by
  induction l generalizing s with
  | nil => exact .refl s
  | cons x l ih => exact (Unmoved.of_chans (s := s) (t := appendResume s x.ch x.dir x.amount) rfl rfl rfl).trans (ih _)

theorem Serving.unpauseAll (l : List Ch) {s : State} (h : Serving e s) : Serving e (unpauseAll s l) := by
  induction l generalizing s with
  | nil => exact h
  | cons c l ih => exact ih (h.removeCauses c _)

theorem Serving.wakeHall (h : Serving e s) (cause : HallCause) : Serving e (wakeHall s cause) := by
  unfold Machine.wakeHall
  exact ((((h.unmoved (modHall_unmoved s _)).unmoved (appendAll_unmoved _ _)).unpauseAll allCh).settleEvaluating).unmoved
    (reportPart_unmoved _ _)

theorem Serving.wakeTimerExpires (h : Serving e s) : Serving e (wakeTimerExpires s) := by
  have hstopped := h.unmoved (modHall_unmoved s fun x => { x with wakeTimer := none })
  exact .ite _ (fun _ => h) fun _ => .ite _ (fun _ => hstopped.wakeHall _) fun _ => hstopped

theorem Serving.curtailChanges (h : Serving e s) : Serving e (curtailChanges s) := by
  unfold Machine.curtailChanges
  have hreport := fun body => h.unmoved ((modHall_unmoved s fun x =>
    { x with curtFiltered := s.hall.curtRaw, curtTimer := none }).trans (reportPart_unmoved _ body))
  have hsettled := fun body => Serving.ite (e := e) (cEffOf s < cEffOf (s.modHall fun x =>
      { x with curtFiltered := s.hall.curtRaw, curtTimer := none })) (fun _ => (hreport body).settleEvaluating) fun _ =>
    Serving.ite (e := e) (cEffOf (s.modHall fun x => { x with curtFiltered := s.hall.curtRaw, curtTimer := none }) < cEffOf s)
      (fun _ => (hreport body).settle) fun _ => hreport body
  exact .ite _ (fun _ => (hsettled _).wakeHall _) fun _ => hsettled _

theorem Serving.curtailFollows (h : Serving e s) : Serving e (curtailFollows s) :=
  .ite _ (fun _ => h.unmoved (modHall_unmoved s _)) fun _ =>
    .ite _ (fun _ => h.curtailChanges) fun _ => h.unmoved (modHall_unmoved s _)

/-! ### Every event -/

/-- Every event that acts only in READY keeps the law of R46. -/
theorem eventAct_serving {i : Instr} {f : State → State} (hf : eventAct i = some f) (hfaults : FaultsSound s)
    (h : Serving none s) : Serving none (f s) := by
  cases i with
  | lineBreakEnd c => cases hf; exact .ite _ (fun _ => h.unmoved (.modPort s c _ (transmitNext_standing _))) fun _ => h
  | stageFrameWhollySent c => cases hf; exact h.unmoved (.modCh s c _ rfl rfl rfl (.inl (whollySent_standing _ _)))
  | confirm c tag => cases hf; exact h.unmoved (confirmArrives_unmoved s c tag)
  | reading c after raw => cases hf; exact h.readingArrives c after raw
  | stageBadFrame c _ => cases hf; exact h.unmoved (.modPort s c _ rfl)
  | stageByteGapTimeout c => cases hf; exact h.unmoved (.modPort s c _ rfl)
  | confirmationTimerExpiry c => cases hf; exact h.confirmationExpires c
  | periodEvent c => cases hf; exact .ite _ (fun _ => h) fun _ => h.periodEventOf c
  | gapTimerExpiry c => cases hf; exact h.gapTimerExpires c
  | startTimerExpiry c => cases hf; exact h.startTimerExpires c
  | grantHoldExpiry c => cases hf; exact h.grantHoldExpires c
  | waitTimerExpiry c => cases hf; exact h.waitTimerExpires c
  | underrunTimerExpiry c => cases hf; exact h.underrunExpires c
  | hallStopAssert =>
    cases hf
    exact .ite _ (fun _ => h) fun _ =>
      (h.unmoved (.of_chans (t := s.modProt fun p => { p with hallStop := true }) rfl rfl rfl)).hallStopActs
        (show Stopped s from .of_faults hfaults)
  | hallStopDeassert => cases hf; exact .ite _ (fun _ => h.unmoved (.of_chans rfl rfl rfl)) fun _ => h
  | chamberAlarmLineChange line level => cases hf; exact h.alarmRawChange line level
  | alarmDebounceExpiry line => cases hf; exact h.alarmDebounceExpires line
  | curtailmentLineChange level => cases hf; exact .ite _ (fun _ => h) fun _ => (h.unmoved (modHall_unmoved s _)).curtailFollows
  | curtailDebounceExpiry => cases hf; exact .ite _ (fun _ => h) fun _ => h.curtailChanges
  | wakeTimerExpiry => cases hf; exact h.wakeTimerExpires
  | _ => cases hf

end

end Sys2Proof.Machine
end

section
/-! PROOF. O59, concluded: the requests, the end of start-up, the passing of time, and every step. -/
namespace Sys2Proof.Machine
open Sys2Proof.Safety

section
variable {e : Option Ch} {s t u : State} {c d l : Ch}

/-! ### Channels at rest -/

/-- Channels that do not work, before or after, change while the rest stand: a pair is formed or parted, or start-up ends. -/
theorem Serving.at_rest (h : Serving none s) (p : Ch → Prop) (hodd : OddFollowers t) (hpool : t.pool = s.pool)
    (hgrants : t.arb.grants = s.arb.grants) (hother : ∀ d, ¬p d → t.ch d = s.ch d)
    (hrest : ∀ d, p d → ¬Working s (leaderOf s d) ∧ ¬Working s d ∧ ¬Working t d ∧
      (t.ch d).port.standing = (s.ch d).port.standing) : Serving none t := by
  have hobeys : ∀ d, Obeys s d := fun d => (h.served d).obeys.resolve_right fun k => nomatch k.1
  refine ⟨hodd, fun d => ⟨fun hw => ?_, .inl fun x hx hr => ?_⟩⟩
  · have hd : ¬p d := fun hp => (hrest d hp).2.2.1 hw
    rw [grantOf, hgrants]
    exact (h.served d).fed ((working_of_ch (hother d hd) hpool).1 hw)
  · have hxp : ¬p x := fun hp => by
      obtain ⟨hleader, -, -, hport⟩ := hrest x hp
      exact hleader (hobeys _ x rfl ((regulates_congr hport).1 hr))
    have hworks : Working s d := by
      refine hobeys d x ?_ ((regulates_congr (by rw [hother x hxp])).1 hr)
      rw [← hx, leaderOf_congr (by rw [hother x hxp])]
    have hd : ¬p d := fun hp => (hrest d hp).2.1 hworks
    exact (working_of_ch (hother d hd) hpool).2 hworks

theorem not_working_of_idle (h : (s.ch c).state = .idle) : ¬Working s c :=
  not_working_of_state (by rw [h]; exact nofun) (by rw [h]; exact nofun)

/-- A channel changes its role, its state and nothing else the law is about (R123, R124). -/
theorem Serving.modCh_role (h : Serving none s) (f : Channel → Channel) (hl : ¬Working s (leaderOf s c)) (hs : ¬Working s c)
    (ht : ¬Working (s.modCh c f) c) (hodd : (f (s.ch c)).state = .follower → c.val % 2 = 1)
    (hp : (f (s.ch c)).port.standing = (s.ch c).port.standing) : Serving none (s.modCh c f) := by
  refine h.at_rest (fun d => d = c) (fun d hd => ?_) rfl rfl (fun d hd => State.ch_modCh_ne _ hd f) fun d hd => ?_
  · by_cases hdc : d = c
    · subst hdc
      rw [State.ch_modCh_self] at hd
      exact hodd hd
    · rw [State.ch_modCh_ne _ hdc] at hd
      exact h.odd d hd
  · subst hd
    exact ⟨hl, hs, ht, by rwa [State.ch_modCh_self]⟩

theorem formPair_serving (h : Serving none s) (hl : l.val % 2 = 0) (hf : (s.ch (partner l)).state = .idle) :
    Serving none (formPair s l) := by
  have hlead := h.unmoved (.modCh s l (fun ch => { ch with resume := none, packDone := false }) rfl rfl rfl (.inl rfl))
  have hidle : ((s.modCh l fun ch => { ch with resume := none, packDone := false }).ch (partner l)).state = .idle := by
    rw [State.ch_modCh_ne _ (partner_ne l)]; exact hf
  refine hlead.modCh_role _ ?_ (not_working_of_idle hidle) (not_working_modCh _ nofun nofun)
    (fun _ => (partner_parity l).2 hl) rfl
  rw [leaderOf_self (by rw [hidle]; exact nofun)]
  exact not_working_of_idle hidle

theorem partPair_serving (h : Serving none s) (h1 : (s.ch l).state = .idle) (h2 : (s.ch (partner l)).state = .follower) :
    Serving none (partPair s l) := by
  have hlead := h.unmoved (.modCh s l (fun ch => { ch with resume := none }) rfl rfl rfl (.inl rfl))
  have hfollower : ((s.modCh l fun ch => { ch with resume := none }).ch (partner l)).state = .follower := by
    rw [State.ch_modCh_ne _ (partner_ne l)]; exact h2
  refine (hlead.modCh_role (fun ch => { ch with state := .idle }) ?_ (not_working_of_stopped (.inl hfollower))
    (not_working_modCh _ nofun nofun) nofun rfl).unmoved (openPeriod_unmoved _ _ _)
  rw [leaderOf_follower hfollower, partner_partner]
  exact not_working_of_idle (by rw [State.ch_modCh_self]; exact h1)

theorem clearKinds_unmoved (s : State) (c : Ch) (x : BitVec 16) : Unmoved s (clearKinds s c x) := by
  have hown : Unmoved s (s.modCh c fun ch =>
      { ch with
        latched := ch.latched &&& ~~~x
        firstFault := if ch.latched &&& ~~~x = 0 then none else ch.firstFault
        state := if ch.latched &&& ~~~x = 0 ∧ ch.state = .faulted then .idle else ch.state }) := by
    by_cases hf : (s.ch c).latched &&& ~~~x = 0 ∧ (s.ch c).state = .faulted
    · refine .modCh_still s c _ (by rw [hf.2]; rfl) ?_ ?_ rfl <;> simp [hf, ChState.holdable]
    · exact .modCh s c _ (if_neg hf) rfl rfl (.inl rfl)
  unfold clearKinds
  exact .ite _ (hown.trans (.modCh _ _ dropPartner rfl rfl rfl (.inl rfl))) hown

/-! ### START (R24, R25) -/

/-- A channel at rest that only its figures and its grant distinguish stands on no REGULATE still. -/
theorem Obeys.calm (h : Obeys s c) (hs : ¬Working s c)
    (hsame : ∀ d, (t.ch d).state = (s.ch d).state ∧ (t.ch d).port = (s.ch d).port) : Obeys t c := fun d hd hr =>
  absurd (h d (by rwa [leaderOf_congr (hsame d).1] at hd) ((regulates_congr (by rw [(hsame d).2])).1 hr)) hs

theorem settleOffer_chans (s : State) (c : Ch) (r : StepRecord) (toHeld : Bool) : (settleOffer s c r toHeld).chans = s.chans := by
  unfold settleOffer
  split
  · rfl
  · dsimp only
    repeat' split
    all_goals first | rfl | exact idleGrant_chans _ c | exact releaseGrant_chans _ c

theorem prepareStep_ported (s : State) (c d : Ch) (k : Nat) (toHeld : Bool) :
    ((prepareStep s c k toHeld).ch d).state = (s.ch d).state ∧ ((prepareStep s c k toHeld).ch d).port = (s.ch d).port := by
  unfold prepareStep
  dsimp only
  by_cases hd : d = c
  · subst hd
    split
    · rw [State.ch_modCh_self]; exact ⟨rfl, rfl⟩
    · rw [settleOffer_state, State.ch_modCh_self, State.ch_modCh_self]; exact ⟨rfl, rfl⟩
  · split
    · rw [State.ch_modCh_ne _ hd]; exact ⟨rfl, rfl⟩
    · rw [State.ch, settleOffer_chans, ← State.ch, State.ch_modCh_ne _ hd, State.ch_modCh_ne _ hd]; exact ⟨rfl, rfl⟩

/-- A channel at rest takes up its run. -/
theorem Serving.startBegin (h : Serving e s) (hc : (s.ch c).state = .idle ∨ (s.ch c).state = .complete) :
    Serving e (startBegin s c) := by
  have hne : (s.ch c).state ≠ .follower := by rcases hc with hc | hc <;> rw [hc] <;> exact nofun
  have hcalm : ∀ t : State, (t.ch c).state = (s.ch c).state → ¬Working t c := fun t ht => by
    rcases hc with hc | hc <;> exact not_working_of_state (by rw [ht, hc]; exact nofun) (by rw [ht, hc]; exact nofun)
  have hkeeps : Keeps s (s.modCh c Channel.beginRun) :=
    Keeps.modCh s c _ (by constructor <;> first | rfl | exact Iff.rfl | exact id)
  have hbegun : Serving e (s.modCh c Channel.beginRun) := h.unmoved (.modCh s c _ rfl rfl rfl (.inl rfl))
  have hprepared := prepareStep_keeps (s.modCh c Channel.beginRun) c 0 false
  have hstate : ((s.modCh c Channel.beginRun).ch c).state = (s.ch c).state := by rw [State.ch_modCh_self]; rfl
  refine Serving.settle (hbegun.acts_single ((prepareStep_acts _ c 0 false).trans (beginStep_acts _ c)) (takeUp_keeps _ c 0 ?_)
    (beginStep_served (hbegun.odd.keeps hprepared) fun _ => .of_not ?_ ?_) ?_)
  · rw [hstate]; exact hne
  · exact hcalm _ ((prepareStep_ported _ c c 0 false).1.trans hstate)
  · refine ((hbegun.served c).obeyed fun hr => ?_).calm (hcalm _ hstate) fun d => prepareStep_ported _ c d 0 false
    rw [hstate] at hr
    rcases hc with hc | hc <;> exact nomatch hc.symm.trans hr
  · rw [hstate]; exact hne

theorem Serving.startResume (h : Serving e s) (hc : (s.ch c).state = .idle ∨ (s.ch c).state = .complete) (p : ResumePoint) :
    Serving e (startResume s c p) := by
  have hstill : (s.ch c).state.holdable = false := by rcases hc with hc | hc <;> rw [hc] <;> rfl
  have hne : (s.ch c).state ≠ .follower := by rcases hc with hc | hc <;> rw [hc] <;> exact nofun
  have hrestored : Serving e (s.modCh c fun ch => ch.restore p) := h.unmoved (.modCh_still s c _ hstill hstill Iff.rfl rfl)
  have hnot : ((s.modCh c fun ch => ch.restore p).ch c).state ≠ .follower := by rw [State.ch_modCh_self]; exact hne
  have hbegins : ∀ u : State, Serving e u → (u.ch c).state ≠ .follower → Serving e (Machine.settle (beginResumed u c)) := fun u hu hs =>
    (hu.acts_single (beginResumed_acts u c) (beginResumed_keeps u c hs) (beginResumed_served hu.odd (hu.served c)) hs).settle
  unfold Machine.startResume
  dsimp only
  split
  · split
    · refine hbegins _ (hrestored.unmoved (.modCh _ c (fun ch => setUpPlayback ch ‹_›) rfl rfl rfl (.inl rfl))) ?_
      rw [State.ch_modCh_self]
      exact hnot
    · exact hbegins _ hrestored hnot
  · exact hbegins _ hrestored hnot

theorem takeStart_serving (r : Request) (h : Serving none s) : Serving none (takeStart r s).1 := by
  refine takeCh_ind (P := Serving none) _ _ _ _ h fun c => ?_
  dsimp only
  have hcovered : ∀ u : State, Serving none u → Serving none (coverStarted u c) := fun u hu =>
    .ite _ (fun _ => hu.holdChannel c .chamber) fun _ => hu
  split
  · exact h
  · rename_i hr
    obtain ⟨-, -, -, -, hstate, -⟩ := startRefusal_none hr
    have hfree := hstate.imp_right And.right
    split
    · exact h
    · split
      · exact h
      · split
        · exact hcovered _ (h.startResume hfree _)
        · exact hcovered _ (h.startBegin hfree)

/-! ### WRITE_STEPS (R8, R10) -/

theorem poolRead_write_ne (pool : List (Nat × StepRecord)) {i j : Nat} (r : StepRecord) (h : j ≠ i) :
    poolRead (poolWrite pool i r) j = poolRead pool j := by
  induction pool with
  | nil => simp [poolWrite, poolRead, h]
  | cons x rest ih =>
    obtain ⟨k, q⟩ := x
    unfold poolWrite
    split
    · rw [poolRead, if_neg h]
    · split
      · rename_i hk
        subst hk
        rw [poolRead, poolRead, if_neg h, if_neg h]
      · rw [poolRead, poolRead, ih]

/-- Records written to a run of the pool leave every index outside it. -/
theorem poolRead_writeAll_outside (rs : List StepRecord) (pool : List (Nat × StepRecord)) {i j : Nat}
    (h : ¬(i ≤ j ∧ j < i + rs.length)) : poolRead (poolWriteAll pool i rs) j = poolRead pool j := by
  induction rs generalizing pool i with
  | nil => rfl
  | cons r rs ih =>
    rw [List.length_cons] at h
    rw [poolWriteAll, ih _ (by omega), poolRead_write_ne _ _ (by omega)]

/-- A channel in use is at a record its active window protects (R10, R31). -/
theorem protects_step (hr : RunsSound s) (hc : (s.ch c).state.holdable = true) : ∃ w, (s.ch c).active = some w ∧
    protects s c (w.base + (s.ch c).stepIndex) = true := by
  obtain ⟨w, -, hactive, hindex, -, -⟩ := hr.index c ((holdable_iff _).1 hc)
  have hengaged : (s.ch c).state.engaged = true := by
    cases hs : (s.ch c).state <;> rw [hs] at hc <;> first | rfl | cases hc
  exact ⟨w, hactive, by simp [protects, hengaged, hactive, coversIndex, Window.covers, hindex]⟩

/-- Records written outside the protected indices leave what every channel works at. -/
theorem writeAll_unmoved (hr : RunsSound s) {records : List StepRecord} {start : Nat}
    (hfree : ∀ c k, protects s c k = true → ¬(start ≤ k ∧ k < start + records.length)) :
    Unmoved s { s with pool := poolWriteAll s.pool start records } := by
  refine ⟨rfl, fun c => ?_, fun _ => id, fun _ => Iff.rfl, fun _ => id⟩
  by_cases hc : (s.ch c).state.holdable = true
  · obtain ⟨w, hactive, hprotects⟩ := protects_step hr hc
    have hstep : currentStep { s with pool := poolWriteAll s.pool start records } c = currentStep s c := by
      have hread := poolRead_writeAll_outside records s.pool (hfree c _ hprotects)
      unfold currentStep
      rw [show State.ch { s with pool := poolWriteAll s.pool start records } c = s.ch c from rfl, hactive]
      exact hread
    unfold Working
    rw [hstep]
    rfl
  · exact ⟨fun hw => absurd (working_holdable (s := { s with pool := poolWriteAll s.pool start records }) hw) hc,
      fun hw => absurd (working_holdable hw) hc⟩

theorem takeWriteSteps_serving (r : Request) (hr : RunsSound s) (h : Serving none s) :
    Serving none (takeKind .writeSteps r s).1 := by
  have htake : takeKind .writeSteps r s = _ := takeWriteSteps.eq_def r s
  rw [htake]
  refine takePart_ind (P := Serving none) _ _ _ _ h ?_
  dsimp only
  split
  · exact h
  split
  · exact h
  rename_i hnone
  split
  · exact h
  rename_i records hrecords
  have hlen := recordsOf_length _ _ _ hrecords
  refine h.unmoved (writeAll_unmoved hr fun c k hk hrange => ?_)
  exact firstProtected_ne_none hrange.1 (by omega) hk hnone

end

end Sys2Proof.Machine
end

section
/-! PROOF. O59, concluded: every request, the end of start-up, the passing of time, and every step keep the law of R46. -/
namespace Sys2Proof.Machine
open Sys2Proof.Safety

section
variable {e : Option Ch} {s t u : State} {c d l : Ch}

/-! ### RESET_CHANNEL (R44, R132) -/

theorem Serving.reoffer (h : Serving e s) (c : Ch) : Serving e (reoffer s c) := by
  have hunsafe : Serving e (if (s.ch c).unsafeFlag then
      Machine.offerUnsafe { s with freeCount := s.freeCount + 1 } c (reofferTag s c) else s) :=
    .ite _ (fun _ => (h.unmoved (t := { s with freeCount := s.freeCount + 1 }) (.of_chans rfl rfl rfl)).offerUnsafe c _) fun _ => h
  unfold Machine.reoffer
  dsimp only
  split
  · have halarm := hunsafe.offer c .chamberAlarm (‹LineNo›.val : Int)
    exact .ite _ (fun _ => halarm.offer c _ _) fun _ => halarm
  · exact .ite _ (fun _ => hunsafe.offer c _ _) fun _ => hunsafe

theorem Serving.reofferAll (l : List Ch) {s : State} (h : Serving e s) : Serving e (l.foldl Machine.reoffer s) := by
  induction l generalizing s with
  | nil => exact h
  | cons c l ih => exact ih (h.reoffer c)

/-- A channel whose grant is gone may change its figures. -/
theorem ServedBut.modCh_own (h : ServedBut e [c] s) (f : Channel → Channel) (hs : (f (s.ch c)).state = (s.ch c).state)
    (hp : (f (s.ch c)).port.standing = (s.ch c).port.standing) : ServedBut e [c] (s.modCh c f) := by
  have hsame : ∀ d, ((s.modCh c f).ch d).state = (s.ch d).state ∧
      ((s.modCh c f).ch d).port.standing = (s.ch d).port.standing := fun d => by
    by_cases hd : d = c
    · subst hd; rw [State.ch_modCh_self]; exact ⟨hs, hp⟩
    · rw [State.ch_modCh_ne _ hd]; exact ⟨rfl, rfl⟩
  have hworks : ∀ d, (s.ch d).state ≠ .running ∨ d ≠ c → Working s d → Working (s.modCh c f) d := fun d hd hw => by
    by_cases hdc : d = c
    · subst hdc
      exact .inl ((hsame d).1.trans (hw.resolve_right fun k => hd.elim (fun hn => hn k.1) fun hn => hn rfl))
    · exact (working_of_ch (State.ch_modCh_ne _ hdc f) rfl).2 hw
  have hobeys : ∀ d, (s.ch d).state ≠ .running ∨ d ≠ c → Obeys s d → Obeys (s.modCh c f) d := fun d hd ho x hx hr =>
    hworks d hd (ho x (by rwa [leaderOf_congr (hsame x).1] at hx) ((regulates_congr (hsame x).2).1 hr))
  refine ⟨fun d hd => h.odd d ((hsame d).1 ▸ hd), fun d hd => ?_, fun d hr => ?_⟩
  · have hdc : d ≠ c := by simpa using hd
    have hserved := h.served d hd
    refine ⟨fun hw => hserved.fed ((working_of_ch (State.ch_modCh_ne _ hdc f) rfl).1 hw),
      hserved.obeys.imp (hobeys d (.inr hdc)) fun k => ⟨k.1, (hsame d).1.trans k.2⟩⟩
  · rw [(hsame d).1] at hr
    exact hobeys d (.inl hr) (h.obeyed d hr)

theorem withdrawn_chans (s : State) (c : Ch) : (withdrawEntries (releaseGrant s c) c).chans = s.chans := by
  unfold withdrawEntries withdrawWaiting
  dsimp only
  repeat' split
  all_goals exact releaseGrant_chans s c

theorem Serving.resetChannel (h : Serving e s) (hc : (s.ch c).state ≠ .follower) : Serving e (resetChannel s c) := by
  have hacts := (releaseGrant_acts s c).trans (withdrawEntries_acts _ c)
  have hkeeps := (releaseGrant_keeps s c).trans (withdrawEntries_keeps _ c)
  have hwithdrawn : ServedBut e [c] (withdrawEntries (releaseGrant s c) c) :=
    h.but [c] (withdrawn_chans s c) hkeeps.pool fun d hd => hacts.grantsOf_other (by simpa using hd)
  have hfollower : ServedBut e [c] (if isLeader (withdrawEntries (releaseGrant s c) c) c then
      (withdrawEntries (releaseGrant s c) c).modCh (partner c) Channel.clearFollower
      else withdrawEntries (releaseGrant s c) c) :=
    hwithdrawn.unmoved (.ite _ (.modCh _ _ _ rfl rfl rfl (.inl rfl)) (.refl _))
  have hstate : ((if isLeader (withdrawEntries (releaseGrant s c) c) c then
      (withdrawEntries (releaseGrant s c) c).modCh (partner c) Channel.clearFollower
      else withdrawEntries (releaseGrant s c) c).ch c).state ≠ .follower := by
    refine iteInduction (motive := fun t : State => (t.ch c).state ≠ .follower) (fun _ => ?_) fun _ => ?_
    · rw [State.ch_modCh_ne _ (partner_ne c).symm, State.ch, withdrawn_chans]; exact hc
    · rw [State.ch, withdrawn_chans]; exact hc
  unfold Machine.resetChannel
  dsimp only
  generalize (if isLeader (withdrawEntries (releaseGrant s c) c) c then
      (withdrawEntries (releaseGrant s c) c).modCh (partner c) Channel.clearFollower
      else withdrawEntries (releaseGrant s c) c) = t at hfollower hstate ⊢
  have hcleared := hfollower.modCh_own Channel.clearRun rfl rfl
  have hnot : ((t.modCh c Channel.clearRun).ch c).state ≠ .follower := by rw [State.ch_modCh_self]; exact hstate
  exact Serving.reofferAll _ (hcleared.acts (enterStopping_acts _ c _ _) (enterStopping_keeps _ c _ _ hnot)
    (enterStopping_served hcleared.odd _ _) fun hf => absurd hf hnot).serving.settle

/-! ### Every request -/

/-- The taking of a request of any kind keeps the law of R46. -/
theorem takeKind_serving (k : ReqKind) (r : Request) (hr : RunsSound s) (h : Serving none s) :
    Serving none (takeKind k r s).1 := by
  have hstill : ∀ t : State, t.chans = s.chans → t.pool = s.pool → t.arb.grants = s.arb.grants → Serving none t :=
    fun t hc hp hg => h.unmoved (.of_chans hc hp hg)
  have hsame : ∀ (c : Ch) (f : Channel → Channel), (f (s.ch c)).state = (s.ch c).state → (f (s.ch c)).active = (s.ch c).active →
      (f (s.ch c)).stepIndex = (s.ch c).stepIndex → (f (s.ch c)).port = (s.ch c).port → Serving none (s.modCh c f) :=
    fun c f h1 h2 h3 h4 => h.unmoved (.modCh s c f h1 h2 h3 (.inl (by rw [h4])))
  have hpart : ∀ (k : ReqKind) (f : State → State × ReplyBody), Serving none (f s).1 → Serving none (takePart k r s f).1 :=
    fun k f hf => takePart_ind (P := Serving none) k r s f h hf
  have hch : ∀ (k : ReqKind) (f : Ch → State → State × ReplyBody), (∀ c, Serving none (f c s).1) →
      Serving none (takeCh k r s f).1 := fun k f hf => takeCh_ind (P := Serving none) k r s f h hf
  cases k <;> unfold takeKind <;> dsimp only
  case identify => exact hpart _ _ h
  case getStatus =>
    refine hpart _ _ ?_
    dsimp only
    split
    · exact hstill _ rfl rfl rfl
    · exact h
  case getBudget => exact hpart _ _ h
  case setBudget =>
    exact hpart _ _ (Serving.settleEvaluating (h.unmoved (.of_chans rfl rfl rfl)))
  case setAlarmRoute =>
    refine hpart _ _ ?_
    dsimp only
    split
    · split
      · exact h
      · dsimp only
        have hset : ∀ line x, Serving none (s.modLine line fun l => { l with settings := x }) := fun line x =>
          h.unmoved (modLine_unmoved s line _)
        exact .ite _ (fun _ => Serving.offerAlarm _ _ allCh (.ite _ (fun _ => (hset _ _).followCover _ allCh) fun _ => hset _ _))
          fun _ => .ite _ (fun _ => (hset _ _).followCover _ allCh) fun _ => hset _ _
    · exact h
  case pauseHall =>
    refine hpart _ _ ?_
    dsimp only
    split
    · exact h.pauseHall
    · exact h
  case resumeHall =>
    refine hpart _ _ ?_
    dsimp only
    split
    · exact h
    · exact h.wakeHall .host
  case setWake => exact hpart _ _ (hstill _ rfl rfl rfl)
  case holdReports => exact hpart _ _ (hstill _ rfl rfl rfl)
  case saveSettings =>
    refine hpart _ _ ?_
    dsimp only
    repeat' split
    · exact h
    · exact h
    all_goals exact hstill _ rfl rfl rfl
  case resetPart => exact hpart _ _ (hstill _ rfl rfl rfl)
  case writeSteps => exact takeWriteSteps_serving r hr h
  case readSteps =>
    refine hpart _ _ ?_
    dsimp only
    split <;> exact h
  case setWindow =>
    refine hch _ _ fun c => ?_
    dsimp only
    split
    · exact h
    split
    · exact h
    split
    · exact h
    rename_i hengaged
    split
    · exact h
    split
    · exact h
    dsimp only
    by_cases hchoice : field r.body 0 1 = 1
    · simp only [hchoice, if_true]
      have hrest : (s.ch c).state.holdable = false := by
        cases hs : (s.ch c).state <;> simp [hchoice, hs, ChState.engaged] at hengaged <;> rfl
      exact h.unmoved (.modCh_still s c _ hrest hrest Iff.rfl rfl)
    · simp only [hchoice, if_false]
      exact hsame c _ rfl rfl rfl rfl
  case getChannel =>
    refine hch _ _ fun c => ?_
    split <;> exact h
  case setChannel =>
    refine hch _ _ fun c => ?_
    dsimp only
    split
    · exact h
    split
    · exact h
    split
    · exact h
    rw [setSettings_eq]
    exact (hsame c (fun ch => { ch with settings := _, play := takenPlay (s.ch c) _ }) rfl rfl rfl rfl).unmoved
      (.of_chans rfl rfl rfl)
  case setCalibration =>
    refine hch _ _ fun c => ?_
    dsimp only
    exact hsame c _ rfl rfl rfl rfl
  case start => exact takeStart_serving r h
  case stop =>
    refine hch _ _ fun c => ?_
    dsimp only
    split
    · exact h
    · exact h
    · exact h
    · exact h
    · exact h
    · exact h.stopChannel ‹_›
  case hold =>
    refine hch _ _ fun c => ?_
    split
    · exact h
    · exact .ite _ (fun _ => h) fun _ => h.holdChannel c .host
  case release =>
    refine hch _ _ fun c => ?_
    split
    · exact h
    · exact h.unholdChannel c _
  case swap =>
    refine hch _ _ fun c => ?_
    dsimp only
    split
    · exact h
    split
    · exact h
    split
    · exact h
    split
    · exact h
    split
    · rename_i hidle
      have hrest : (s.ch c).state.holdable = false := by rw [hidle]; rfl
      dsimp only
      exact h.unmoved (.modCh_still s c _ hrest hrest Iff.rfl rfl)
    · dsimp only
      exact hsame c _ rfl rfl rfl rfl
  case cancelSwap =>
    refine hch _ _ fun c => ?_
    split
    · exact h
    · dsimp only
      exact hsame c _ rfl rfl rfl rfl
  case profileAppend =>
    have happend : ∀ (c : Ch) points, Serving none (s.modCh c fun ch => ch.append points) := fun c points => by
      refine hsame c _ ?_ ?_ ?_ ?_ <;> unfold Channel.append <;> split <;> rfl
    refine hch _ _ fun c => ?_
    dsimp only
    repeat' split
    · exact h
    · exact h
    · exact h
    · exact happend c _
    · exact happend c _
  case profileFlush =>
    refine hch _ _ fun c => ?_
    dsimp only
    repeat' split
    · exact h
    · exact h
    · dsimp only
      exact hsame c _ rfl rfl rfl rfl
  case clearFaults => exact hch _ _ fun c => h.unmoved (clearKinds_unmoved s c _)
  case readAccounts => exact hch _ _ fun c => h
  case clearLifetime =>
    refine hch _ _ fun c => ?_
    repeat' split
    · exact h
    · exact h
    · dsimp only
      exact hsame c _ rfl rfl rfl rfl
  case setPair =>
    refine hch _ _ fun c => ?_
    dsimp only
    split
    · exact h
    · split
      · exact h
      · rename_i hs
        rw [not_or, not_not, not_not] at hs
        exact formPair_serving h (evenMember_even c) hs.2
  case unpair =>
    refine hch _ _ fun c => ?_
    dsimp only
    split
    · exact h
    · rename_i hlead
      split
      · exact h
      · exact partPair_serving h (not_not.1 ‹_›) ((isLeader_iff s _).1 (by simpa using hlead)).2
  case resetChannel =>
    refine hch _ _ fun c => h.resetChannel ?_
    by_cases hf : (s.ch c).state = .follower
    · rw [leaderOf_follower hf]
      intro hp
      have h1 := h.odd c hf
      have h2 := (partner_parity c).1 (h.odd _ hp)
      omega
    · rwa [leaderOf_self hf]
  case resetStageLine =>
    refine hch _ _ fun c => ?_
    dsimp only
    split
    · exact h
    · exact h.unmoved ((Unmoved.modCh s c _ rfl rfl rfl (.inl rfl)).trans (settlingTest_unmoved _))

/-! ### The end of start-up (R195) -/

theorem Serving.watchLines (h : Serving none s) (hstop : Stopped s) : Serving none (watchLines s) := by
  have hlines : ∀ (l : List LineNo) (u : State), Serving none u → Serving none (l.foldl watchLine u) := by
    intro l
    induction l with
    | nil => exact fun u hu => hu
    | cons line l ih =>
      exact fun u hu => ih _ (.ite _ (fun _ => (hu.unmoved (modLine_unmoved u line _)).alarmRawChange line true) fun _ => hu)
  exact (hlines allLines _ (.ite _ (fun _ => h.hallStopActs hstop) fun _ => h)).curtailFollows

/-- Before the lines are watched every channel is IDLE or a follower, and no port has come to stand on another demand. -/
theorem beforeWatch_serving (hf : FaultsSound s) (h : Serving none s) (hidle : ∀ c, (s.ch c).state = .idle) :
    Serving none (beforeWatch s) ∧ Stopped (beforeWatch s) := by
  obtain ⟨hcore, hlatched⟩ := beforeWatch_core (faultCore_of_sound hf) hidle
  have hgrants : (beforeWatch s).arb = s.arb := by rw [beforeWatch_rest]
  have hcalm : ∀ c, ¬Working s c := fun c => not_working_of_idle (hidle c)
  refine ⟨h.at_rest (fun _ => True) hcore.odd (beforeWatch_pool s) (by rw [hgrants]) (fun d hd => absurd trivial hd)
    fun d _ => ⟨hcalm _, hcalm d, ?_, ?_⟩, fun c hc => ?_⟩
  · have hstate := beforeWatch_state s d
    rw [hidle] at hstate
    refine not_working_of_state ?_ ?_ <;> rw [hstate] <;> split <;> exact nofun
  · exact beforeWatch_leaves (fun ch => ch.port.standing) s d (fun _ => rfl) fun _ _ => openPeriod_get _ Port.standing
  · rw [hlatched c, hasKind_zero] at hc
    cases hc

theorem endStartUp_serving (hf : FaultsSound s) (h : Serving none s) (hidle : ∀ c, (s.ch c).state = .idle) :
    Serving none (endStartUp s) := by
  obtain ⟨hserving, hstop⟩ := beforeWatch_serving hf h hidle
  have hreport : ∀ u : State, Unmoved u (reportStarted u) := fun u => by
    unfold reportStarted
    split
    · exact (reportPart_unmoved u _).trans (reportPart_unmoved _ _)
    · exact reportPart_unmoved u _
  have hready : ∀ u : State, Unmoved u { u with part := .ready } := fun u => .of_chans rfl rfl rfl
  rw [endStartUp_eq]
  exact ((hserving.watchLines hstop).unmoved (hreport _)).unmoved (hready _)

/-! ### Every step -/

theorem pump_unmoved (s : State) : Unmoved s (pump s) := by
  rw [pump_eq]
  exact .of_chans rfl rfl rfl

theorem finish_unmoved (before s : State) : Unmoved s (finish before s) := by
  obtain ⟨u, hu, heq⟩ := finish_link (s := before) (t := s)
  rw [heq]
  refine Unmoved.trans (.of_ch (by rw [hu.arb]) hu.pool fun c => ?_) (pump_unmoved u)
  rw [hu.chans c]
  exact ⟨rfl, rfl, rfl, (regulates_congr (by rw [hu.chans c])).1⟩

theorem exec_serving {i : Instr} (hf : FaultsSound s) (hr : RunsSound s) (h : Serving none s) (hi : exec i s = .next t) :
    Serving none t := by
  have hon : ∀ part cause loaded speed image lines hallStop curtailment freeCount pending,
      Serving none (State.powerOn part cause loaded speed image lines hallStop curtailment freeCount pending) :=
    fun part cause loaded speed image lines hallStop curtailment freeCount pending =>
      (demandsSound_iff fun c hc => by rw [powerOn_ch] at hc; cases hc).1
        (powerOn_demandsSound part cause loaded speed image lines hallStop curtailment freeCount pending)
  cases happens_of_exec hi with
  | link l => exact h.unmoved (.of_chans rfl rfl rfl)
  | event f hact hp => exact (eventAct_serving hact hf h).unmoved (finish_unmoved s _)
  | request g k l reply hp hk hg =>
    have hlink : Serving none { s with link := l } := h.unmoved (.of_chans rfl rfl rfl)
    have hruns : RunsSound { s with link := l } := ⟨hr.windows, hr.active, hr.swap, hr.staged, hr.index, hr.loops⟩
    exact ((takeKind_serving k _ hruns hlink).unmoved (t := State.modLink _ _) (.of_chans rfl rfl rfl)).unmoved
      (finish_unmoved s _)
  | hallStopLevel hp x => exact h.unmoved (.of_chans rfl rfl rfl)
  | alarmLevel hp line x => exact h.unmoved (modLine_unmoved s line _)
  | curtailLevel hp x => exact h.unmoved (modHall_unmoved s _)
  | saved image l => exact h.unmoved (.of_chans rfl rfl rfl)
  | startUp u cause => exact hon _ _ _ _ _ _ _ _ _ _
  | startUpEnd hp => exact (endStartUp_serving hf h (hf.starting hp)).unmoved (pump_unmoved _)
  | halt l => exact h.unmoved (.of_chans rfl rfl rfl)
  | off => exact hon _ _ _ _ _ _ _ _ _ _

/-- The passing of a millisecond runs down the grant-hold timers, and a grant that is not idle has none. -/
theorem tick_serving (h : Serving none s) : Serving none (tick s) := by
  by_cases hp : s.part = .ready
  · have hsame : ∀ c, ((tick s).ch c).state = (s.ch c).state ∧ ((tick s).ch c).active = (s.ch c).active ∧
        ((tick s).ch c).stepIndex = (s.ch c).stepIndex ∧ ((tick s).ch c).port.standing = (s.ch c).port.standing := fun c => by
      rw [tick_ch, if_pos hp]
      exact ⟨rfl, rfl, rfl, rfl⟩
    have hpool : (tick s).pool = s.pool := by rw [tick, if_pos hp]
    have hworks : ∀ c, Working (tick s) c ↔ Working s c := fun c => by
      obtain ⟨hs, ha, hi, -⟩ := hsame c
      exact working_congr hs ha hi hpool
    have hgrants : ∀ c, grantsOf (tick s) c = (grantsOf s c).map fun g => { g with hold := runDown g.hold } := fun c => by
      unfold grantsOf
      rw [tick, if_pos hp]
      exact List.filter_map ..
    refine ⟨fun c hc => h.odd c ((hsame c).1 ▸ hc), fun c => ⟨fun hw => ?_, .inl fun d hd hr => (hworks c).2 ?_⟩⟩
    · obtain ⟨g, hg, hhold⟩ := (h.served c).fed ((hworks c).1 hw)
      rw [grantOf_eq_head] at hg
      exact ⟨{ g with hold := runDown g.hold }, by rw [grantOf_eq_head, hgrants, List.head?_map, hg]; rfl, by rw [hhold]; rfl⟩
    · exact (h.served c).obeys.resolve_right (fun k => nomatch k.1) d (by rwa [leaderOf_congr (hsame d).1] at hd)
        ((regulates_congr (hsame d).2.2.2).1 hr)
  · have hsame : tick s = s := if_neg hp
    rw [hsame]
    exact h

end

/-- Settles O59. -/
theorem demandsStaySound : Obligations.DemandsStaySound := by
  unfold Obligations.DemandsStaySound
  intro s t hf _ hr hd h
  have hserving := (demandsSound_iff fun c hc => (hf.follower c hc).1).1 hd
  have hnext : Serving none t := by
    unfold step at h
    split at h
    · rename_i i rest _
      exact exec_serving (s := { s with pending := rest })
        ⟨hf.faulted, hf.first, hf.noFirst, hf.follower, hf.hallStop, hf.starting⟩
        ⟨hr.windows, hr.active, hr.swap, hr.staged, hr.index, hr.loops⟩ (hserving.unmoved (.of_chans rfl rfl rfl)) h
    · cases h
      exact tick_serving hserving
  exact (demandsSound_iff hnext.odd).2 hnext

end Sys2Proof.Machine
end
